-- ==== Sys2Proof/Word.lean ====
section
/-! DEFINITION. The word types of the LY9740 model: signal words, register words, bytes. -/

namespace Sys2Proof

/-- A 32-bit word: a signal word (0 dBFS = 2^23), a parameter's raw word or a register (Conventions, R65). -/
abbrev Word := BitVec 32

/-- One byte. -/
abbrev Byte := BitVec 8

/-- Eight samples of one output for one block (R4). -/
abbrev Frame := List Word

/-- A parameter address: node id in bits [31:12], index in bits [11:0] (R65). -/
abbrev PAddr := Word

end Sys2Proof
end

