-- ==== Sys2Proof/Syntax.lean ====
section
/-! DEFINITION. The commands of the block: one constructor of `Instr` per row of spec/opcode_table.json,
and the plain data that their operands carry. The table gives no operand bits; the operands are what the
rule of the row needs from outside (a unit number, a written value, a received message, a measurement). -/

namespace Sys2Proof

/-! ## Operands of the signal-engine instructions (R179 to R192) -/

/-- Address modes of R184. -/
inductive AddrMode where
  | ptr | ofs | postImm | postMod
  deriving DecidableEq, Repr

/-- An address field: pointer, mode and the signed immediate in units of R185. -/
structure Addr where
  p    : Fin 8
  mode : AddrMode
  imm  : Int
  deriving DecidableEq, Repr

/-- Scalar register codes of R182. -/
inductive SReg where
  | p (i : Fin 8) | m (i : Fin 8) | l (i : Fin 8) | b (i : Fin 8) | lc (i : Fin 2) | sr
  deriving DecidableEq, Repr

/-- The second operand of a format-M compute opcode (R187). -/
inductive MSrc where
  | reg (v : Fin 16)
  | mem (a : Addr)
  deriving DecidableEq, Repr

/-- Branch conditions of R187. -/
inductive Cond where
  | any | all | notAny | notAll
  deriving DecidableEq, Repr

/-- The shift of a scaled move: an immediate, or a modifier register (R169, R192). -/
inductive Shift where
  | imm (s : Int)
  | mod (k : Fin 8)
  deriving DecidableEq, Repr

/-- The amount of an `adv`: a signed immediate in bytes, or the modifier of the same index (R192). -/
inductive AdvBy where
  | imm (d : Int)
  | mod
  deriving DecidableEq, Repr

/-- Compute-slot operations of R188. -/
inductive ComputeOp where
  | nop | done | ret
  | br (t : Nat) | bc (c : Cond) (t : Nat) | call (t : Nat) | loop (ctr : Fin 2) (t : Nat)
  | mul (a : Fin 8) (va : Fin 16) (src : MSrc)
  | mac (a : Fin 8) (va : Fin 16) (src : MSrc)
  | msu (a : Fin 8) (va : Fin 16) (src : MSrc)
  | clr (ad : Fin 8) | aadd (ad as : Fin 8) | asub (ad as : Fin 8)
  | vadd (vd va vb : Fin 16) | vsub (vd va vb : Fin 16) | vabs (vd va : Fin 16) | vneg (vd va : Fin 16)
  | vmin (vd va vb : Fin 16) | vmax (vd va vb : Fin 16)
  | vand (vd va vb : Fin 16) | vor (vd va vb : Fin 16) | vxor (vd va vb : Fin 16)
  | vshl (vd va : Fin 16) (n : Fin 32) | vsra (vd va : Fin 16) (n : Fin 32) | vsel (vd va vb : Fin 16)
  | vcmpeq (va vb : Fin 16) | vcmplt (va vb : Fin 16) | vcmple (va vb : Fin 16)
  deriving DecidableEq, Repr

/-- Move-slot operations of R192. -/
inductive MoveOp where
  | nop
  | vld (v : Fin 16) (a : Addr) | vst (v : Fin 16) (a : Addr) | vbc (v : Fin 16) (a : Addr)
  | vldl (v lane : Fin 16) (a : Addr) | vstl (v lane : Fin 16) (a : Addr)
  | ld (r : SReg) (a : Addr) | st (r : SReg) (a : Addr)
  | mova (v : Fin 16) (a : Fin 8) (s : Shift)
  | ldi (r : SReg) (k : Fin 8) (imm : Int)
  | lda (r : SReg) (win : Fin 64) (ofs : Fin 32)
  | mov (dst src : SReg) | vmov (vd vs : Fin 16)
  | mvta (a : Fin 8) (v : Fin 16) (s : Fin 64)
  | ldc (ctr : Fin 2) (imm : BitVec 15)
  | adv (p : Fin 8) (by_ : AdvBy)
  deriving DecidableEq, Repr

/-- One 64-bit instruction word, decoded into its three slots (R179). -/
structure Insn where
  c  : ComputeOp
  m0 : MoveOp
  m1 : MoveOp
  deriving DecidableEq, Repr

/-- The two slots that accompany a move-slot row in its word: the compute slot, the other move slot,
and whether the row's own operation stands in move slot 1. -/
structure MovePeers where
  c     : ComputeOp
  other : MoveOp
  slot1 : Bool
  deriving DecidableEq, Repr

/-! ## Operands of the other commands -/

/-- Plan triggers of R98. -/
inductive Trigger where
  | load | engineOut | patina | memory | delay | host
  deriving DecidableEq, Repr

/-- Memory kinds of a region-table entry (R105). -/
inductive MemKind where
  | engineLocal | shared | dram
  deriving DecidableEq, Repr

/-- Where a plan puts one region: the kind of memory, the unit field, the base in 64-byte units (R105). -/
structure RegionHome where
  region : Nat
  kind   : MemKind
  unit   : Nat
  base   : Nat
  /-- Samples that a trimmable DELAY's region is to hold where the plan shortens it (R131); 0 where it does not. -/
  samples : Nat := 0
  deriving DecidableEq, Repr

/-- A staging pool in shared banks: first bank, base in 64-byte units, pages (R109). -/
structure PoolHome where
  engine : Fin 24
  unit   : Nat
  base   : Nat
  pages  : Nat
  deriving DecidableEq, Repr

/-- Where a plan runs one process: the primary engine, and the second engine of a CRITICAL process (R87). -/
structure Site where
  node : Nat
  prim : Fin 24
  sec  : Option (Fin 24)
  deriving DecidableEq, Repr

/-- A complete assignment of processes and regions (the placement search is not specified; R87 to R93 bind it). -/
structure Plan where
  sites : List Site
  homes : List RegionHome
  shed  : List Nat
  pools : List PoolHome := []
  deriving DecidableEq, Repr

/-- A transfer on a handshake channel (R13, R15). -/
inductive HsOp where
  | send (data : List Byte)
  | read
  | deliver
  deriving DecidableEq, Repr

/-- Clock inputs of R291. -/
inductive ClkInput where
  | wck (i : Fin 2) | ref (i : Fin 2) | pps (i : Fin 2)
  deriving DecidableEq, Repr

/-- A timebase time: seconds, nanoseconds, fraction of a nanosecond in 2^-16 (R294). -/
structure TbTime where
  sec  : BitVec 48
  ns   : Word
  frac : BitVec 16
  deriving DecidableEq, Repr

/-- One band-search measurement: whether the oscillator in the tried band is below its target, and whether
it lies within 0.3% of it (R310). -/
structure BandMeas where
  below  : Bool
  inBand : Bool
  deriving DecidableEq, Repr

/-- The cast messages of R284 and R445. -/
inductive CastKind where
  | announce | ready | notReady | go | defer | abort | lost
  deriving DecidableEq, Repr

/-- The content of a CAST frame (R445). -/
structure CastMsg where
  kind      : CastKind
  position  : BitVec 4
  castId    : BitVec 16
  slot      : Fin 4
  timebase  : Fin 4
  reason    : Byte
  deferrals : Byte
  block     : BitVec 48
  mqId      : Word
  deriving DecidableEq, Repr

/-- A frame start at a port: the instant in ps since the PTP epoch on the domain's timebase, the bit clocks and the period
of the frame that this start ends, and the levels captured on D0 to D3 at the bit clocks from this start on, the first bit clock of
the frame after it included (R325, R326, R331, R332). -/
structure SapFrame where
  startPs  : Nat
  bits     : Nat
  periodPs : Nat
  lines    : List (List Bool)
  deriving DecidableEq, Repr

/-- A received or sent PTP message, with the fields the hardware acts on (R368 to R375). -/
structure PtpMsg where
  version   : BitVec 4
  majorSdo  : BitVec 4
  msgType   : BitVec 4
  domain    : Byte
  lengthOk  : Bool
  twoStep   : Bool
  seqId     : BitVec 16
  source    : BitVec 64
  origin    : Int
  rxOrTx    : Int
  corrNs    : Int
  gmId      : BitVec 64
  logPeriod : Int
  sent      : Bool
  /-- Carried in Ethernet frames of EtherType 0x88F7 rather than in UDP/IPv4, R368. -/
  ethernet  : Bool := false
  deriving DecidableEq, Repr

/-- A received RTP datagram (R353, R354, R362, R376): what of its Ethernet, IPv4 and UDP headers a port judges, the fields of
its RTP header, and in `payload` all bytes after the fixed 12 of that header (CSRC list, extension, data, padding). `sinceNs`
is the time in ns from the last boundary of its stream's domain to the end of its reception. -/
structure RtpPkt where
  destIp  : Word
  destUdp : BitVec 16
  srcIp   : Word
  version : BitVec 2
  pt      : BitVec 7
  seq     : BitVec 16
  ts      : Word
  payload : List Byte
  sinceNs : Nat
  /-- The frame has an IEEE 802.1Q tag. -/
  tagged  : Bool := false
  /-- 32-bit words of IPv4 options. -/
  options : Nat := 0
  /-- The datagram is an IPv4 fragment. -/
  fragment : Bool := false
  /-- The IPv4 header checksum is right. -/
  ipSumOk : Bool := true
  /-- The UDP checksum is zero or right. -/
  udpSumOk : Bool := true
  /-- The RTP padding and extension bits, and the CSRC count. -/
  padded  : Bool := false
  extended : Bool := false
  csrcs   : BitVec 4 := 0
  deriving DecidableEq, Repr

/-- A crossbar request (R393): master, transaction id, byte address and length; `cycle` is the crossbar cycle in which a
request to a shared bank reaches its bank, where others may reach it too (R400), or none where it meets no other. A write
gives the bytes delivered now with their strobes (`none` = strobe off); a burst whose beats do not all come at once goes on
with further writes of the same id and address. -/
structure XRead where
  master : Fin 37
  id     : Fin 16
  addr   : BitVec 40
  len    : Nat
  cycle  : Option Nat := none
  deriving DecidableEq, Repr

structure XWrite where
  master : Fin 37
  id     : Fin 16
  addr   : BitVec 40
  len    : Nat
  bytes  : List (Option Byte)
  cycle  : Option Nat := none
  deriving DecidableEq, Repr

/-- A crossbar atomic on one 32-bit word (R402). -/
structure XAtomic where
  master  : Fin 37
  id      : Fin 16
  addr    : BitVec 40
  operand : Word
  cycle   : Option Nat := none
  deriving DecidableEq, Repr

/-- A received HELLO (R438, R439). -/
structure HelloMsg where
  role     : Fin 7
  position : Nat
  size     : Nat
  rank     : Bool
  buildId  : BitVec 64
  serial   : Word
  deriving DecidableEq, Repr

/-- A received breath (R451). -/
structure BreathMsg where
  block        : BitVec 48
  rank         : Bool
  pairState    : Fin 8
  lost         : Bool
  transmitting : Bool
  buildId      : BitVec 64
  digest       : Word
  health       : Word
  paramEpoch   : Word
  lastBlock    : BitVec 48
  deriving DecidableEq, Repr

/-- Where a parameter stands in a transition (R229 to R237): steady, in a RAMP, or with an armed STEP_ZC. -/
inductive Trans where
  | steady
  | ramp (v0 : Word) (k n : Nat) (dbLaw : Bool)
  | zc (pending : Word) (left : Nat) (due : Bool)
  deriving DecidableEq, Repr

/-- One parameter of a seeded parameter record: address, target, transition state, value (R257, R458). -/
structure SeedParam where
  paddr  : PAddr
  target : Word
  value  : Word
  trans  : Trans
  deriving DecidableEq, Repr

/-- A received SEED frame (R458): a piece of the parameter record, its end with the source's param epoch, state
bytes of a region, a forwarded write, an instance-state piece, an output buffer, the end of one process's items, or a request. -/
inductive SeedMsg where
  | request
  | params (ps : List SeedParam)
  | paramsEnd (epoch : Word) (block : BitVec 48)
  | region (index offset : Nat) (bytes : List Byte)
  | forward (index offset : Nat) (bytes : List Byte)
  | instState (node offset : Nat) (bytes : List Byte)
  | outputs (node : Nat) (frames : List Frame)
  | fabricState (gains : List (Nat × Word)) (sends : List (Nat × Word)) (limits : List (Nat × Word))
  | itemsEnd (node : Nat)
  deriving DecidableEq, Repr

/-- A remote-window access (R444). A write carries its strobes; a response carries 0 or the cause of an ERROR (R394). -/
inductive WinMsg where
  | readReq (offset : BitVec 27) (len : Nat)
  | writeReq (offset : BitVec 27) (bytes : List (Option Byte))
  | response (cause : Fin 8) (bytes : List Byte)
  deriving DecidableEq, Repr

/-- One measured point of a diagnostic: |Z| in mΩ, phase in tenths of a degree, |Im Z| in mΩ (R483, R484). -/
structure DiagPoint where
  zMohm  : Nat
  phase  : Int
  imMohm : Nat
  deriving DecidableEq, Repr

/-- How a boot step ended (R508, R516): whether it met its check, its elapsed ms, and what it found. `units` names what failed:
at S2 0 the crystal, 1 the system reference; at S3 the islands of R530 and 64 + n for APLL n; at S4 0 to 23 an engine's local
memory, 24 the secure partition, 25 another memory, 64 + b shared bank b. `repairs` gives the rows that S4 used in each bank.
`scan` gives, at the end of S7, what the scan of R532 measures of each island: its slack at each frequency from 1,250 MHz
downward for an engine, one value for another island. -/
structure StepEnd where
  ok      : Bool
  elapsed : Nat
  units   : List Nat
  repairs : List (Nat × Nat)
  scan    : List (Nat × List Nat)
  deriving DecidableEq, Repr

/-- An SPI frame as received at the rising edge of SPI_CS_N (R565). -/
structure SpiFrame where
  op      : Byte
  len     : Byte
  addr    : Word
  payload : List Byte
  crc     : BitVec 16
  deriving DecidableEq, Repr

/-- A BAR of R548, for register and mailbox writes. -/
inductive Bar where
  | bar0 | bar2
  deriving DecidableEq, Repr

/-- A host access through BAR4 (R550). -/
inductive BarOp where
  | read (len : Nat)
  | write (bytes : List Byte)
  deriving DecidableEq, Repr

/-- A PCIe AtomicOp (R404, R551): 32-bit FetchAdd, 32-bit Swap, or another form. -/
inductive PcieAtomic where
  | fetchAdd (v : Word)
  | swap (v : Word)
  | other
  deriving DecidableEq, Repr

/-- The commands of the block: one constructor per row of the opcode table (its mnemonic and rule in each docstring).
Engine rows name the engine and the whole instruction word of which the row is one slot; the rows of the mailbox
catalogue carry no operand, because the supervisors read the slot at the front of their queue (R557, R568). -/
inductive Instr where
  /-- BLOCK_BOUNDARY, R26. -/
  | blockBoundary (tb : Fin 4)
  /-- RAMP_COMPLETE, R229. -/
  | rampComplete (paddr : PAddr)
  /-- GPIO_PULSE_END, R315. -/
  | gpioPulseEnd (unit : Fin 16)
  /-- STAGING_CLOSE, R27. -/
  | stagingClose (tb : Fin 4)
  /-- SOURCE_BLOCK_CLOSE, R379. -/
  | sourceBlockClose (tb : Fin 4)
  /-- SEND_DEADLINE, R127. -/
  | sendDeadline (tb : Fin 4)
  /-- FABRIC_COMPLETION, R219. -/
  | fabricCompletion (tb : Fin 4)
  /-- PACING_TICK, R425. -/
  | pacingTick
  /-- HANDSHAKE_TRANSFER, R13. -/
  | handshakeTransfer (src dst : Fin 59) (op : HsOp)
  /-- SYS_IMG_CTL_LOAD, R77. -/
  | sysImgCtlLoad (source : Fin 4)
  /-- SYS_IMG_CTL_VERIFY, R78. -/
  | sysImgCtlVerify (source : Fin 4)
  /-- VALIDATION_STEP, R79. -/
  | validationStep
  /-- LOAD_COMPLETE, R81. -/
  | loadComplete
  /-- PLAN_TRIGGER, R98. -/
  | planTrigger (t : Trigger)
  /-- PLAN_BUILT, R102. -/
  | planBuilt (cand : Option Plan)
  /-- COPY_UNIT_WRITTEN, R111. -/
  | copyUnitWritten (slot : Fin 64)
  /-- FAULT_SERVICE_DONE, R126. -/
  | faultServiceDone (e : Fin 24)
  /-- PLACER_REPLAN, R135. -/
  | placerReplan
  /-- PLACER_CLEAR_COUNTS, R128. -/
  | placerClearCounts
  /-- PLACER_FREEZE_WRITE, R101. -/
  | placerFreezeWrite (freeze : Bool)
  /-- PLACER_COMMIT_WRITE, R89. -/
  | placerCommitWrite (limit : BitVec 10)
  /-- PLACER_ENG_ADMIT, R125. -/
  | placerEngAdmit (mask : BitVec 24)
  /-- BLOCK_WORK_START, R139. -/
  | blockWorkStart (e : Fin 24)
  /-- NOP, R188. -/
  | seNop (e : Fin 24) (m0 m1 : MoveOp)
  /-- DONE, R141. -/
  | seDone (e : Fin 24) (m0 m1 : MoveOp)
  /-- BR, R158. -/
  | seBr (e : Fin 24) (target : BitVec 13) (m0 m1 : MoveOp)
  /-- BC, R158. -/
  | seBc (e : Fin 24) (c : Cond) (target : BitVec 13) (m0 m1 : MoveOp)
  /-- CALL, R160. -/
  | seCall (e : Fin 24) (target : BitVec 13) (m0 m1 : MoveOp)
  /-- RET, R160. -/
  | seRet (e : Fin 24) (m0 m1 : MoveOp)
  /-- LOOP, R161. -/
  | seLoop (e : Fin 24) (ctr : Fin 2) (target : BitVec 13) (m0 m1 : MoveOp)
  /-- LOOP_RETURN, R161. -/
  | loopReturn (e : Fin 24)
  /-- MUL, R166. -/
  | seMul (e : Fin 24) (a : Fin 8) (va : Fin 16) (src : MSrc) (m0 m1 : MoveOp)
  /-- MAC, R167. -/
  | seMac (e : Fin 24) (a : Fin 8) (va : Fin 16) (src : MSrc) (m0 m1 : MoveOp)
  /-- MSU, R167. -/
  | seMsu (e : Fin 24) (a : Fin 8) (va : Fin 16) (src : MSrc) (m0 m1 : MoveOp)
  /-- CLR, R188. -/
  | seClr (e : Fin 24) (ad : Fin 8) (m0 m1 : MoveOp)
  /-- AADD, R188. -/
  | seAadd (e : Fin 24) (ad as : Fin 8) (m0 m1 : MoveOp)
  /-- ASUB, R188. -/
  | seAsub (e : Fin 24) (ad as : Fin 8) (m0 m1 : MoveOp)
  /-- VADD, R170. -/
  | seVadd (e : Fin 24) (vd va vb : Fin 16) (m0 m1 : MoveOp)
  /-- VSUB, R170. -/
  | seVsub (e : Fin 24) (vd va vb : Fin 16) (m0 m1 : MoveOp)
  /-- VABS, R188. -/
  | seVabs (e : Fin 24) (vd va : Fin 16) (m0 m1 : MoveOp)
  /-- VNEG, R188. -/
  | seVneg (e : Fin 24) (vd va : Fin 16) (m0 m1 : MoveOp)
  /-- VMIN, R188. -/
  | seVmin (e : Fin 24) (vd va vb : Fin 16) (m0 m1 : MoveOp)
  /-- VMAX, R188. -/
  | seVmax (e : Fin 24) (vd va vb : Fin 16) (m0 m1 : MoveOp)
  /-- VAND, R188. -/
  | seVand (e : Fin 24) (vd va vb : Fin 16) (m0 m1 : MoveOp)
  /-- VOR, R188. -/
  | seVor (e : Fin 24) (vd va vb : Fin 16) (m0 m1 : MoveOp)
  /-- VXOR, R188. -/
  | seVxor (e : Fin 24) (vd va vb : Fin 16) (m0 m1 : MoveOp)
  /-- VSHL, R188. -/
  | seVshl (e : Fin 24) (vd va : Fin 16) (n : Fin 32) (m0 m1 : MoveOp)
  /-- VSRA, R188. -/
  | seVsra (e : Fin 24) (vd va : Fin 16) (n : Fin 32) (m0 m1 : MoveOp)
  /-- VSEL, R188. -/
  | seVsel (e : Fin 24) (vd va vb : Fin 16) (m0 m1 : MoveOp)
  /-- VCMPEQ, R188. -/
  | seVcmpeq (e : Fin 24) (va vb : Fin 16) (m0 m1 : MoveOp)
  /-- VCMPLT, R188. -/
  | seVcmplt (e : Fin 24) (va vb : Fin 16) (m0 m1 : MoveOp)
  /-- VCMPLE, R188. -/
  | seVcmple (e : Fin 24) (va vb : Fin 16) (m0 m1 : MoveOp)
  /-- MOVE_NOP, R180. -/
  | seMoveNop (e : Fin 24) (w : MovePeers)
  /-- VLD, R192. -/
  | seVld (e : Fin 24) (v : Fin 16) (a : Addr) (w : MovePeers)
  /-- VST, R192. -/
  | seVst (e : Fin 24) (v : Fin 16) (a : Addr) (w : MovePeers)
  /-- VBC, R192. -/
  | seVbc (e : Fin 24) (v : Fin 16) (a : Addr) (w : MovePeers)
  /-- VLDL, R195. -/
  | seVldl (e : Fin 24) (v lane : Fin 16) (a : Addr) (w : MovePeers)
  /-- VSTL, R192. -/
  | seVstl (e : Fin 24) (v lane : Fin 16) (a : Addr) (w : MovePeers)
  /-- LD, R404. -/
  | seLd (e : Fin 24) (r : SReg) (a : Addr) (w : MovePeers)
  /-- ST, R192. -/
  | seSt (e : Fin 24) (r : SReg) (a : Addr) (w : MovePeers)
  /-- MOVA, R169. -/
  | seMova (e : Fin 24) (v : Fin 16) (a : Fin 8) (sh : Shift) (w : MovePeers)
  /-- LDI, R192. -/
  | seLdi (e : Fin 24) (r : SReg) (k : Fin 8) (imm : BitVec 8) (w : MovePeers)
  /-- LDA, R192. -/
  | seLda (e : Fin 24) (r : SReg) (win : Fin 64) (ofs : Fin 32) (w : MovePeers)
  /-- MOV, R192. -/
  | seMov (e : Fin 24) (dst src : SReg) (w : MovePeers)
  /-- VMOV, R192. -/
  | seVmov (e : Fin 24) (vd vs : Fin 16) (w : MovePeers)
  /-- MVTA, R192. -/
  | seMvta (e : Fin 24) (a : Fin 8) (v : Fin 16) (sh : Fin 64) (w : MovePeers)
  /-- LDC, R192. -/
  | seLdc (e : Fin 24) (ctr : Fin 2) (imm : BitVec 15) (w : MovePeers)
  /-- ADV, R194. -/
  | seAdv (e : Fin 24) (p : Fin 8) (amount : AdvBy) (w : MovePeers)
  /-- SHARED_READ_RETURN, R604. -/
  | sharedReadReturn (e : Fin 24) (cycles : Nat)
  /-- WRITE_BUFFER_DRAIN, R604. -/
  | writeBufferDrain (e : Fin 24) (cycles : Nat)
  /-- SE_STEP, R176. -/
  | seStep (e : Fin 24)
  /-- SE_RESUME, R176. -/
  | seResume (e : Fin 24)
  /-- SE_HALT_REQ, R176. -/
  | seHaltReq (e : Fin 24) (req : Bool)
  /-- SE_CLEAR_STATS, R142. -/
  | seClearStats (e : Fin 24)
  /-- FABRIC_SOURCE_FRAME, R209. -/
  | fabricSourceFrame (node out : Nat)
  /-- FABRIC_CLEAR_GR_HOLD, R224. -/
  | fabricClearGrHold
  /-- FABRIC_CLEAR_COUNTS, R219. -/
  | fabricClearCounts
  /-- STEP_ZC_TIMEOUT, R235. -/
  | stepZcTimeout (paddr : PAddr)
  /-- XFADE_COMPLETE, R242. -/
  | xfadeComplete (node : Nat)
  /-- METER_PERIOD_END, R249. -/
  | meterPeriodEnd (dom : Fin 4)
  /-- METER_RECORD_WRITE, R251. -/
  | meterRecordWrite (dom : Fin 4)
  /-- DETECT_ENTER_SILENT, R253. -/
  | detectEnterSilent (node : Nat)
  /-- METER_RING_RESET, R600. -/
  | meterRingReset
  /-- METER_RING_ENABLE, R600. -/
  | meterRingEnable (enable : Bool)
  /-- SCENE_MQ_LOAD, R263. -/
  | sceneMqLoad (slot : Fin 4)
  /-- SCENE_MQ_CAPTURE, R266. -/
  | sceneMqCapture (slot : Fin 4)
  /-- SCENE_MQ_CLEAR, R265. -/
  | sceneMqClear (slot : Fin 4)
  /-- SLOT_OPERATION_DONE, R263. -/
  | slotOperationDone
  /-- SCENE_CAST_REQUEST, R268. -/
  | sceneCastRequest
  /-- SCENE_CANCEL_WRITE, R275. -/
  | sceneCancelWrite (castId : BitVec 16)
  /-- CAST_TRANSFER_DONE, R273. -/
  | castTransferDone (castId : BitVec 16)
  /-- CAST_ANNOUNCE, R284. -/
  | castAnnounce (m : CastMsg)
  /-- CAST_READY, R286. -/
  | castReady (m : CastMsg)
  /-- CAST_NOT_READY, R286. -/
  | castNotReady (m : CastMsg)
  /-- CAST_GO, R288. -/
  | castGo (m : CastMsg)
  /-- CAST_DEFER, R286. -/
  | castDefer (m : CastMsg)
  /-- CAST_ABORT, R286. -/
  | castAbort (m : CastMsg)
  /-- INPUT_VALID, R291. -/
  | inputValid (i : ClkInput)
  /-- INPUT_LOST, R291. -/
  | inputLost (i : ClkInput)
  /-- XTAL_STOP, R292. -/
  | xtalStop
  /-- SYSREF_STOP, R292. -/
  | sysrefStop
  /-- TIMEBASE_MEASUREMENT, R299. -/
  | timebaseMeasurement (tb : Fin 4) (offsetNs : Int)
  /-- TB_SOURCE_WRITE, R298. -/
  | tbSourceWrite (tb : Fin 4) (source : BitVec 3) (index : BitVec 5)
  /-- TB_ACCEPT, R302. -/
  | tbAccept (tb : Fin 4)
  /-- TB_REJECT, R303. -/
  | tbReject (tb : Fin 4)
  /-- TB_SET, R305. -/
  | tbSet (tb : Fin 4)
  /-- TB_SNAP, R306. -/
  | tbSnap (tb : Fin 4) (cycles : Nat)
  /-- TBN_ADJ, R305. -/
  | tbnAdj (tb : Fin 4) (ns : Word)
  /-- SLEW_END, R305. -/
  | slewEnd (tb : Fin 4)
  /-- TB_BLK_LO_READ, R21. -/
  | tbBlkLoRead (tb : Fin 4)
  /-- APLL_ENABLE_WRITE, R602. -/
  | apllEnableWrite (a : Fin 4) (enable : Bool)
  /-- APLL_REACQUIRE, R310. -/
  | apllReacquire (a : Fin 4)
  /-- BAND_SEARCH_STEP, R310. -/
  | bandSearchStep (a : Fin 4) (meas : BandMeas)
  /-- BAND_LOCK_TIMEOUT, R310. -/
  | bandLockTimeout (a : Fin 4)
  /-- APLL_PHASE_COMPARISON, R311. -/
  | apllPhaseComparison (a : Fin 4) (errPs : Int)
  /-- CMP_ARM_WRITE, R313. -/
  | cmpArmWrite (u : Fin 16) (arm : Bool)
  /-- GPIO_EDGE, R317. -/
  | gpioEdge (pin : Fin 32) (rising : Bool) (time : TbTime)
  /-- GPIO_CAP_POP, R317. -/
  | gpioCapPop
  /-- ENGINE_CAP_WRITE, R319. -/
  | engineCapWrite (e : Fin 24) (cap : Byte)
  /-- ISLAND_CLOCK_LOSS, R320. -/
  | islandClockLoss (i : Fin 59)
  /-- SAP_CTL_START, R335. -/
  | sapCtlStart (p : Fin 32)
  /-- SAP_CTL_STOP, R335. -/
  | sapCtlStop (p : Fin 32)
  /-- SAP_CTL_RESTART, R348. -/
  | sapCtlRestart (p : Fin 32)
  /-- SAP_CTL_CLEAR_COUNTS, R346. -/
  | sapCtlClearCounts (p : Fin 32)
  /-- SAP_GO, R335. -/
  | sapGo (mask : Word)
  /-- SAP_HALT, R335. -/
  | sapHalt (mask : Word)
  /-- SAP_MASK_WRITE, R341. -/
  | sapMaskWrite (p : Fin 32) (line : Fin 4) (mask : Word)
  /-- MASK_RAMP_END, R341. -/
  | maskRampEnd (p : Fin 32)
  /-- SAP_FRAME_START, R332. -/
  | sapFrameStart (p : Fin 32) (f : SapFrame)
  /-- FRAME_SYNC_MISSING, R343. -/
  | frameSyncMissing (p : Fin 32)
  /-- SAP_ZC_TIMEOUT, R338. -/
  | sapZcTimeout (p : Fin 32)
  /-- ETH_LINK_DOWN, R356. -/
  | ethLinkDown (n : Fin 4)
  /-- ETH_LINK_UP, R356. -/
  | ethLinkUp (n : Fin 4)
  /-- ARP_REQUEST, R354. -/
  | arpRequest (n : Fin 4) (target : Word)
  /-- IGMP_QUERY, R382. -/
  | igmpQuery (n : Fin 4) (v2 : Bool) (group : Word)
  /-- ETH_FRAME_DISCARD, R354. -/
  | ethFrameDiscard (n : Fin 4) (badFcs : Bool)
  /-- SYNC, R371. -/
  | sync (n : Fin 4) (m : PtpMsg)
  /-- FOLLOW_UP, R371. -/
  | followUp (n : Fin 4) (m : PtpMsg)
  /-- DELAY_REQ, R368. -/
  | delayReq (n : Fin 4) (m : PtpMsg)
  /-- DELAY_RESP, R371. -/
  | delayResp (n : Fin 4) (m : PtpMsg)
  /-- PDELAY_REQ, R368. -/
  | pdelayReq (n : Fin 4) (m : PtpMsg)
  /-- PDELAY_RESP, R371. -/
  | pdelayResp (n : Fin 4) (m : PtpMsg)
  /-- PDELAY_RESP_FOLLOW_UP, R371. -/
  | pdelayRespFollowUp (n : Fin 4) (m : PtpMsg)
  /-- ANNOUNCE, R372. -/
  | announce (n : Fin 4) (m : PtpMsg) (ptpState : Fin 7) (parent : Bool)
  /-- SYNC_TIMEOUT, R372. -/
  | syncTimeout (n : Fin 4)
  /-- ANNOUNCE_RECEIPT_TIMEOUT, R372. -/
  | announceReceiptTimeout (n : Fin 4)
  /-- RTP_PACKET, R377. -/
  | rtpPacket (n : Fin 4) (pkt : RtpPkt)
  /-- LEG_TIMEOUT, R380. -/
  | legTimeout (u : Fin 256) (legB : Bool)
  /-- IGMP_REPORT_REPEAT, R382. -/
  | igmpReportRepeat (u : Fin 256) (legB : Bool)
  /-- OLDER_VERSION_QUERIER_TIMEOUT, R383. -/
  | olderVersionQuerierTimeout (n : Fin 4)
  /-- NET_SRX_ENABLE, R382. -/
  | netSrxEnable (u : Fin 256) (enable : Bool)
  /-- NET_SRX_CLEAR_COUNTS, R378. -/
  | netSrxClearCounts (u : Fin 256)
  /-- NET_STX_ENABLE, R386. -/
  | netStxEnable (u : Fin 256) (enable : Bool)
  /-- NET_STX_CLEAR_COUNTS, R366. -/
  | netStxClearCounts (u : Fin 256)
  /-- XBAR_READ, R393. -/
  | xbarRead (r : XRead)
  /-- XBAR_WRITE, R393. -/
  | xbarWrite (r : XWrite)
  /-- ADD_WRAP, R402. -/
  | addWrap (r : XAtomic)
  /-- ADD_SAT, R402. -/
  | addSat (r : XAtomic)
  /-- SWAP, R402. -/
  | swap (r : XAtomic)
  /-- XBAR_RESPONSE, R394. -/
  | xbarResponse (m : Fin 37) (id : Fin 16)
  /-- TARGET_TIMEOUT, R401. -/
  | targetTimeout (t : Fin 21) (m : Fin 37)
  /-- BURST_TIMEOUT, R413. -/
  | burstTimeout (m : Fin 37)
  /-- MASTER_RESET, R412. -/
  | masterReset (m : Fin 37)
  /-- FENCE_LIFT, R412. -/
  | fenceLift (m : Fin 37)
  /-- XBAR_CLEAR_COUNTS, R394. -/
  | xbarClearCounts
  /-- MEM_BANK_REQ_WRITE, R406. -/
  | memBankReqWrite (n : Fin 16) (value : Word)
  /-- BANK_ON, R407. -/
  | bankOn (b : Fin 256)
  /-- SCRUB_PASS, R411. -/
  | scrubPass (b : Fin 256)
  /-- DRAM_RETRAIN, R419. -/
  | dramRetrain (c : Fin 2)
  /-- DRAM_CLEAR_COUNTS, R415. -/
  | dramClearCounts (c : Fin 2)
  /-- DRAM_TRAINING_DONE, R416. -/
  | dramTrainingDone (c : Fin 2) (failStep : Fin 6)
  /-- MR4_READ, R417. -/
  | mr4Read (c : Fin 2) (mr4 : BitVec 16) (tempC : Int) (overLimit : Bool)
  /-- WCK_RETRACK, R417. -/
  | wckRetrack (c : Fin 2)
  /-- DRAM_DOWN, R418. -/
  | dramDown (c : Fin 2) (cause : Fin 3)
  /-- MEM_SEC_WIPE, R421. -/
  | memSecWipe
  /-- SECURE_WIPE_DONE, R422. -/
  | secureWipeDone (badBanks : Byte)
  /-- SELFTEST_SEQUENCE_DONE, R427. -/
  | selftestSequenceDone (e : Fin 24) (failed : Bool)
  /-- HELLO, R438. -/
  | hello (l : Fin 4) (h : HelloMsg)
  /-- HELLO_REPEAT, R438. -/
  | helloRepeat (l : Fin 4)
  /-- LANE_UP_TIMER, R438. -/
  | laneUpTimer (l : Fin 4)
  /-- ACK, R440. -/
  | ack (l : Fin 4) (ack : BitVec 16) (nak : Bool)
  /-- ACK_TIMEOUT, R440. -/
  | ackTimeout (l : Fin 4)
  /-- LINK_FRAME_ERROR, R440. -/
  | linkFrameError (l : Fin 4) (crcError : Bool)
  /-- AUDIO, R441. -/
  | audio (l : Fin 4) (block : BitVec 48) (samples : List Word)
  /-- LINK_SOURCE_PUBLISH, R441. -/
  | linkSourcePublish (l : Fin 4)
  /-- TIME, R443. -/
  | time (l : Fin 4) (t1 t2 t3 t4 : Int) (partnerLocked : Bool)
  /-- TIME_TRANSFER_TICK, R443. -/
  | timeTransferTick (l : Fin 4)
  /-- BREATH_SEND, R451. -/
  | breathSend
  /-- BREATH, R454. -/
  | breath (b : BreathMsg)
  /-- BREATH_MISSING, R455. -/
  | breathMissing
  /-- PARAM, R447. -/
  | param (paddr : PAddr) (value : Word) (block : BitVec 48)
  /-- SEED, R458. -/
  | seed (m : SeedMsg)
  /-- HEALTH_FRAME, R450. -/
  | healthFrame (position : Fin 8) (word : Word) (block : BitVec 48)
  /-- CAST, R445. -/
  | cast (l : Fin 4) (m : CastMsg)
  /-- WINDOW, R444. -/
  | window (l : Fin 4) (m : WinMsg)
  /-- RED_RESEED, R457. -/
  | redReseed
  /-- RED_CLEAR_COUNTS, R433. -/
  | redClearCounts
  /-- RED_ENG_FORCE_OUT, R428. -/
  | redEngForceOut (mask : BitVec 24)
  /-- RED_ENG_CLEAR, R430. -/
  | redEngClear (mask : BitVec 24)
  /-- LANE_RESTART, R438. -/
  | laneRestart (l : Fin 4)
  /-- AMP_CTL_START, R474. -/
  | ampCtlStart (c : Fin 16)
  /-- AMP_CTL_STOP, R474. -/
  | ampCtlStop (c : Fin 16)
  /-- AMP_CTL_DIAG, R485. -/
  | ampCtlDiag (c : Fin 16)
  /-- AMP_CTL_CLEAR_COUNTS, R468. -/
  | ampCtlClearCounts (c : Fin 16)
  /-- ABORT_RETRY, R480. -/
  | abortRetry (c : Fin 16)
  /-- CLEAR_LATCH, R479. -/
  | clearLatch (c : Fin 16)
  /-- AMP_GO, R474. -/
  | ampGo (mask : BitVec 16)
  /-- AMP_HALT, R474. -/
  | ampHalt (mask : BitVec 16)
  /-- CARRIER_PERIOD, R467. -/
  | carrierPeriod (c : Fin 16)
  /-- OVER_CURRENT, R476. -/
  | overCurrent (c : Fin 16) (positive : Bool) (count : Nat)
  /-- DRIVER_FAULT, R477. -/
  | driverFault (c : Fin 16)
  /-- RETRY_TIMER, R478. -/
  | retryTimer (c : Fin 16)
  /-- DIAG_RUN_DONE, R483. -/
  | diagRunDone (c : Fin 16) (points : List DiagPoint)
  /-- RETRY_COUNT_RESET, R479. -/
  | retryCountReset (c : Fin 16)
  /-- AMP_CLOCK_LOSS, R472. -/
  | ampClockLoss (a : Fin 4)
  /-- RAIL_BELOW_WARNING, R492. -/
  | railBelowWarning (rail : Fin 9) (mv : Nat)
  /-- BRACE_END, R493. -/
  | braceEnd
  /-- SUPPLY, R491. -/
  | supply (rail : Fin 9)
  /-- POWER_ON, R507. -/
  | powerOn (rank wakeLow : Bool)
  /-- PIN, R495. -/
  | pin
  /-- SYS_RST_CTL_RESET, R495. -/
  | sysRstCtlReset (key : BitVec 16)
  /-- LOCKSTEP, R495. -/
  | lockstep
  /-- WATCHDOG, R508. -/
  | watchdog
  /-- WAKE, R504. -/
  | wake
  /-- RAIL_GROUP_READY, R489. -/
  | railGroupReady (g : Fin 4)
  /-- RAIL_GROUP_TIMEOUT, R489. -/
  | railGroupTimeout (g : Fin 4)
  /-- START_STEP_COMPLETE, R508. -/
  | startStepComplete (r : StepEnd)
  /-- S9_APLL_TIMEOUT, R513. -/
  | s9ApllTimeout
  /-- PWR_GO, R499. -/
  | pwrGo (target : BitVec 3)
  /-- SYS_PWR_CLEAR_MIN, R491. -/
  | sysPwrClearMin
  /-- PWR_TRANSITION_COMPLETE, R500. -/
  | pwrTransitionComplete
  /-- OFF_TIMEOUT, R505. -/
  | offTimeout
  /-- BOOT_CFG_WRITE, R492. -/
  | bootCfgWrite (value : BitVec 2)
  /-- NV_WRITE_DONE, R520. -/
  | nvWriteDone
  /-- BB_APPEND, R525. -/
  | bbAppend
  /-- BB_SUPPRESS_WINDOW_END, R528. -/
  | bbSuppressWindowEnd (code : BitVec 16)
  /-- BB_CLEAR, R529. -/
  | bbClear (key : BitVec 16)
  /-- PATINA_MEASUREMENT, R533. -/
  | patinaMeasurement (i : Fin 59) (slackPs : BitVec 16)
  /-- PATINA_REQUEST_TIMEOUT, R534. -/
  | patinaRequestTimeout (e : Fin 24)
  /-- PATINA_HISTORY_PERIOD, R536. -/
  | patinaHistoryPeriod
  /-- PATINA_CTL_WRITE, R533. -/
  | patinaCtlWrite (value : Word)
  /-- PATINA_CLEAR, R531. -/
  | patinaClear
  /-- LC_CTL_GO, R540. -/
  | lcCtlGo (key : BitVec 16) (target : BitVec 3)
  /-- LC_PROV_CTL_GO, R538. -/
  | lcProvCtlGo
  /-- TAMPER, R542. -/
  | tamper (i : Fin 5)
  /-- TAMPER_REARM, R542. -/
  | tamperRearm (i : Fin 5)
  /-- TAMPER_CFG_WRITE, R542. -/
  | tamperCfgWrite (value : BitVec 10)
  /-- MB_TAIL_WRITE, R557. -/
  | mbTailWrite (value : Word)
  /-- MAILBOX_TIMEOUT, R559. -/
  | mailboxTimeout
  /-- PING, R564. -/
  | mbPing
  /-- PWR_SET, R500. -/
  | mbPwrSet
  /-- RESET, R564. -/
  | mbReset
  /-- IMG_LOAD, R77. -/
  | mbImgLoad
  /-- IMG_VERIFY, R78. -/
  | mbImgVerify
  /-- IMG_STATUS, R82. -/
  | mbImgStatus
  /-- IMG_MIN_SERIAL, R74. -/
  | mbImgMinSerial
  /-- FLASH_UPDATE, R572. -/
  | mbFlashUpdate
  /-- FLASH_UPDATE_DONE, R572. -/
  | flashUpdateDone (ok : Bool)
  /-- PARAM_SET, R562. -/
  | mbParamSet
  /-- PARAM_GET, R563. -/
  | mbParamGet
  /-- PARAM_SET_RAW, R68. -/
  | mbParamSetRaw
  /-- SCENE_LOAD, R289. -/
  | mbSceneLoad
  /-- SCENE_CAPTURE, R266. -/
  | mbSceneCapture
  /-- SCENE_CLEAR, R265. -/
  | mbSceneClear
  /-- SCENE_CAST, R268. -/
  | mbSceneCast
  /-- SCENE_CANCEL, R275. -/
  | mbSceneCancel
  /-- SCENE_STATUS, R564. -/
  | mbSceneStatus
  /-- PLACE_REPLAN, R135. -/
  | mbPlaceReplan
  /-- PLACE_FREEZE, R101. -/
  | mbPlaceFreeze
  /-- PLACE_ADMIT, R135. -/
  | mbPlaceAdmit
  /-- PLACE_STATUS, R564. -/
  | mbPlaceStatus
  /-- SAP_START, R335. -/
  | mbSapStart
  /-- SAP_STOP, R335. -/
  | mbSapStop
  /-- SAP_MASK, R341. -/
  | mbSapMask
  /-- SAP_RESTART, R348. -/
  | mbSapRestart
  /-- STREAM_ENABLE, R386. -/
  | mbStreamEnable
  /-- AMP_START, R474. -/
  | mbAmpStart
  /-- AMP_STOP, R474. -/
  | mbAmpStop
  /-- AMP_CLEAR, R564. -/
  | mbAmpClear
  /-- AMP_DIAG, R485. -/
  | mbAmpDiag
  /-- AMP_DIAG_READ, R484. -/
  | mbAmpDiagRead
  /-- TB_STATUS, R564. -/
  | mbTbStatus
  /-- TB_JUMP, R304. -/
  | mbTbJump
  /-- TB_SOURCE, R296. -/
  | mbTbSource
  /-- CMP_ARM, R313. -/
  | mbCmpArm
  /-- METER_RING, R251. -/
  | mbMeterRing
  /-- LIMIT_GR, R224. -/
  | mbLimitGr
  /-- DETECT_STATE, R253. -/
  | mbDetectState
  /-- BB_READ, R529. -/
  | mbBbRead
  /-- HEALTH, R564. -/
  | mbHealth
  /-- LC_STATUS, R564. -/
  | mbLcStatus
  /-- BAR4_ACCESS, R550. -/
  | bar4Access (w : Fin 64) (offset : BitVec 24) (op : BarOp)
  /-- PCIE_ATOMICOP, R404. -/
  | pcieAtomicop (w : Fin 64) (offset : BitVec 24) (op : PcieAtomic)
  /-- FUNCTION_LEVEL_RESET, R552. -/
  | functionLevelReset
  /-- PCIE_LINK_LOSS, R552. -/
  | pcieLinkLoss
  /-- PCIE_LINK_UP, R552. -/
  | pcieLinkUp (speed width : BitVec 4)
  /-- MSIX_PENDING_SEND, R554. -/
  | msixPendingSend (v : Fin 64)
  /-- REG_READ, R565. -/
  | regRead (f : SpiFrame)
  /-- REG_WRITE, R565. -/
  | regWrite (f : SpiFrame)
  /-- MB_SUBMIT, R568. -/
  | mbSubmit (f : SpiFrame)
  /-- MB_READ, R568. -/
  | mbRead (f : SpiFrame)
  /-- STATUS, R565. -/
  | status (f : SpiFrame)
  /-- EVENT_DELIVERY, R573. -/
  | eventDelivery
  /-- EVT_Q_RESET, R600. -/
  | evtQReset
  /-- EVT_Q_ENABLE, R600. -/
  | evtQEnable (enable : Bool)
  /-- TEMP_MEASUREMENT, R585. -/
  | tempMeasurement (celsius : BitVec 8)
  /-- SYS_TEMP_CLEAR_MAX, R584. -/
  | sysTempClearMax
  /-- REGISTER_WRITE, R8. -/
  | registerWrite (bar : Bar) (offset : Nat) (data : List Byte)
  /-- LANE_TRAINING_COMPLETE, R438. -/
  | laneTrainingComplete (l : Fin 4)
  /-- SYNC_INTERVAL, R368. -/
  | syncInterval (n : Fin 4) (txTime : TbTime)
  /-- ANNOUNCE_INTERVAL, R369. -/
  | announceInterval (n : Fin 4)
  /-- RESET_N_RETURNS_HIGH, R495. -/
  | resetNReturnsHigh
  /-- BAD_OPCODE, R560. -/
  | badOpcode
  /-- BAD_OP, R567. -/
  | badOp (f : SpiFrame)
  /-- POWERED_HOURS, R536. -/
  | poweredHours
  deriving DecidableEq, Repr

end Sys2Proof
end

