-- ==== Sys2Proof/WellFormed.lean ====
section
/-! DEFINITION. When an engine instruction word is well-formed: its fields lie in their encodings (R184, R185,
R187, R192, R202) and its slots obey the pairing rules (R200). -/

namespace Sys2Proof

/-- A signed immediate lies in an n-bit field. -/
def immFits (n : Nat) (d : Int) : Bool := -(2 ^ (n - 1) : Nat) ≤ d && d < (2 ^ (n - 1) : Nat)

/-- An address with an n-bit immediate: modes 0 and 3 carry a zero immediate (R184, R202). -/
def Addr.wf (n : Nat) (a : Addr) : Bool :=
  match a.mode with
  | .ptr => a.imm == 0
  | .postMod => a.imm == 0
  | .ofs => immFits n a.imm
  | .postImm => immFits n a.imm

/-- A register code that fits the 5-bit field of ldi and lda (R192). -/
def SReg.narrow : SReg → Bool
  | .p _ => true
  | .m _ => true
  | .l _ => true
  | .b _ => true
  | .lc _ => false
  | .sr => false

def MSrc.wf : MSrc → Bool
  | .reg _ => true
  | .mem a => a.wf 5

/-- A compute slot at instruction `pc` of a program of `len` instructions (R187, R202). -/
def ComputeOp.wf (len pc : Nat) : ComputeOp → Bool
  | .br t => t < len && t < 8192
  | .bc _ t => t < len && t < 8192
  | .call t => t < len && t < 8192
  | .loop _ t => t < len && t < 8192 && pc < t
  | .mul _ _ s => s.wf
  | .mac _ _ s => s.wf
  | .msu _ _ s => s.wf
  | .nop => true
  | .done => true
  | .ret => true
  | .clr _ => true
  | .aadd _ _ => true
  | .asub _ _ => true
  | .vadd _ _ _ => true
  | .vsub _ _ _ => true
  | .vabs _ _ => true
  | .vneg _ _ => true
  | .vmin _ _ _ => true
  | .vmax _ _ _ => true
  | .vand _ _ _ => true
  | .vor _ _ _ => true
  | .vxor _ _ _ => true
  | .vshl _ _ _ => true
  | .vsra _ _ _ => true
  | .vsel _ _ _ => true
  | .vcmpeq _ _ => true
  | .vcmplt _ _ => true
  | .vcmple _ _ => true

def Shift.wf : Shift → Bool
  | .imm s => -16 ≤ s && s ≤ 63
  | .mod _ => true

/-- A move slot (R192, R202). -/
def MoveOp.wf : MoveOp → Bool
  | .nop => true
  | .vld _ a => a.wf 7
  | .vst _ a => a.wf 7
  | .vbc _ a => a.wf 7
  | .vldl _ _ a => a.wf 3
  | .vstl _ _ a => a.wf 3
  | .ld _ a => a.wf 5
  | .st _ a => a.wf 5
  | .mova _ _ s => s.wf
  | .ldi r _ imm => r.narrow && immFits 8 imm
  | .lda r _ _ => r.narrow
  | .mov _ _ => true
  | .vmov _ _ => true
  | .mvta _ _ _ => true
  | .ldc _ _ => true
  | .adv _ (.imm d) => immFits 12 d
  | .adv _ .mod => true

/-! ## Pairing (R200) -/

/-- A destination register of a slot. -/
inductive DestReg where
  | v (i : Fin 16) | a (i : Fin 8) | s (r : SReg)
  deriving DecidableEq, Repr

def ComputeOp.dest : ComputeOp → List DestReg
  | .mul a _ _ => [.a a]
  | .mac a _ _ => [.a a]
  | .msu a _ _ => [.a a]
  | .clr a => [.a a]
  | .aadd a _ => [.a a]
  | .asub a _ => [.a a]
  | .vadd v _ _ => [.v v]
  | .vsub v _ _ => [.v v]
  | .vabs v _ => [.v v]
  | .vneg v _ => [.v v]
  | .vmin v _ _ => [.v v]
  | .vmax v _ _ => [.v v]
  | .vand v _ _ => [.v v]
  | .vor v _ _ => [.v v]
  | .vxor v _ _ => [.v v]
  | .vshl v _ _ => [.v v]
  | .vsra v _ _ => [.v v]
  | .vsel v _ _ => [.v v]
  | .nop => []
  | .done => []
  | .ret => []
  | .br _ => []
  | .bc _ _ => []
  | .call _ => []
  | .loop _ _ => []
  | .vcmpeq _ _ => []
  | .vcmplt _ _ => []
  | .vcmple _ _ => []

def MoveOp.dest : MoveOp → List DestReg
  | .vld v _ => [.v v]
  | .vbc v _ => [.v v]
  | .vldl v _ _ => [.v v]
  | .ld r _ => [.s r]
  | .mova v _ _ => [.v v]
  | .ldi r _ _ => [.s r]
  | .lda r _ _ => [.s r]
  | .mov r _ => [.s r]
  | .vmov v _ => [.v v]
  | .mvta a _ _ => [.a a]
  | .ldc c _ => [.s (.lc c)]
  | .nop => []
  | .vst _ _ => []
  | .vstl _ _ _ => []
  | .st _ _ => []
  | .adv _ _ => []

/-- The pointer that an address post-modifies. -/
def Addr.post (a : Addr) : List (Fin 8) :=
  match a.mode with
  | .postImm => [a.p]
  | .postMod => [a.p]
  | .ptr => []
  | .ofs => []

def MSrc.addrs : MSrc → List Addr
  | .reg _ => []
  | .mem a => [a]

def ComputeOp.addrs : ComputeOp → List Addr
  | .mul _ _ s => s.addrs
  | .mac _ _ s => s.addrs
  | .msu _ _ s => s.addrs
  | _ => []

def MoveOp.addrs : MoveOp → List Addr
  | .vld _ a => [a]
  | .vst _ a => [a]
  | .vbc _ a => [a]
  | .vldl _ _ a => [a]
  | .vstl _ _ a => [a]
  | .ld _ a => [a]
  | .st _ a => [a]
  | _ => []

/-- Pointers that a move slot post-modifies, adv included. -/
def MoveOp.posts (m : MoveOp) : List (Fin 8) :=
  match m with
  | .adv p _ => [p]
  | _ => m.addrs.flatMap Addr.post

/-- Pointers through which a move slot addresses, adv included (R200 rule 3). -/
def MoveOp.uses (m : MoveOp) : List (Fin 8) :=
  match m with
  | .adv p _ => [p]
  | _ => m.addrs.map (·.p)

def ComputeOp.isCompare : ComputeOp → Bool
  | .vcmpeq _ _ => true
  | .vcmplt _ _ => true
  | .vcmple _ _ => true
  | _ => false

/-- A control opcode other than done (R159). -/
def ComputeOp.isControl : ComputeOp → Bool
  | .br _ => true
  | .bc _ _ => true
  | .call _ => true
  | .ret => true
  | .loop _ _ => true
  | _ => false

def noCommon (a b : List DestReg) : Bool := a.all (fun x => !b.contains x)

/-- The modifier, length or base register of a pointer in a destination list (R200 rule 3). -/
def writesMLB (d : List DestReg) (p : Fin 8) : Bool :=
  d.contains (.s (.m p)) || d.contains (.s (.l p)) || d.contains (.s (.b p))

/-- The pairing rules of R200, in their order. -/
def Insn.pairs (i : Insn) : Bool :=
  let dc := i.c.dest
  let d0 := i.m0.dest
  let d1 := i.m1.dest
  let posts := i.c.addrs.flatMap Addr.post ++ i.m0.posts ++ i.m1.posts
  let uc := i.c.addrs.map (·.p)
  noCommon dc d0 && noCommon dc d1 && noCommon d0 d1
    && posts.all (fun p => !(d0 ++ d1).contains (.s (.p p)))
    && (uc ++ i.m1.uses).all (fun p => !writesMLB d0 p)
    && (uc ++ i.m0.uses).all (fun p => !writesMLB d1 p)
    && !(i.c.isCompare && (d0 ++ d1).contains (.s .sr))
    && !(i.c.isControl && ((d0 ++ d1).contains (.s (.lc 0)) || (d0 ++ d1).contains (.s (.lc 1))))

/-- A well-formed instruction word at index `pc` of a program of `len` instructions (R63, R200, R202). -/
def Insn.wf (len pc : Nat) (i : Insn) : Bool := i.c.wf len pc && i.m0.wf && i.m1.wf && i.pairs

end Sys2Proof
end

