-- ==== Sys2Proof/Decode.lean ====
section
/-! DEFINITION. The engine's instruction words (R179 to R202): reading one, and writing one; and the host's
table reader, which reads nothing because no row of the opcode table gives bits. -/

namespace Sys2Proof

/-! ## Reading fields -/

/-- Bits [hi:lo] of a number. -/
def bitsOf (w hi lo : Nat) : Nat := w / 2 ^ lo % 2 ^ (hi + 1 - lo)

/-- Two's complement value of an n-bit field. -/
def signOf (n v : Nat) : Int := if v < 2 ^ (n - 1) then v else (v : Int) - (2 ^ n : Nat)

/-- The n-bit field of a signed number. -/
def unsign (n : Nat) (d : Int) : Nat := (d % (2 ^ n : Nat)).toNat

/-- An address mode by its code (R184). -/
def modeOf (m : Nat) : AddrMode :=
  if m = 0 then .ptr else if m = 1 then .ofs else if m = 2 then .postImm else .postMod

def modeCode : AddrMode → Nat
  | .ptr => 0
  | .ofs => 1
  | .postImm => 2
  | .postMod => 3

/-- An address field; none where mode 0 or 3 has an immediate (R202). -/
def readAddr (n p mode imm : Nat) : Option Addr :=
  if (mode = 0 ∨ mode = 3) ∧ imm ≠ 0 then none
  else some { p := Fin.ofNat 8 p, mode := modeOf mode, imm := signOf n imm }

/-- A scalar register code (R182). -/
def readSReg (c : Nat) : Option SReg :=
  if c < 8 then some (.p (Fin.ofNat 8 c))
  else if c < 16 then some (.m (Fin.ofNat 8 (c - 8)))
  else if c < 24 then some (.l (Fin.ofNat 8 (c - 16)))
  else if c < 32 then some (.b (Fin.ofNat 8 (c - 24)))
  else if c = 32 then some (.lc 0)
  else if c = 33 then some (.lc 1)
  else if c = 34 then some .sr
  else none

def sregCode : SReg → Nat
  | .p i => i.val
  | .m i => 8 + i.val
  | .l i => 16 + i.val
  | .b i => 24 + i.val
  | .lc i => 32 + i.val
  | .sr => 34

def condOf (c : Nat) : Cond := if c = 0 then .any else if c = 1 then .all else if c = 2 then .notAny else .notAll

def condCode : Cond → Nat
  | .any => 0
  | .all => 1
  | .notAny => 2
  | .notAll => 3

/-! ## The compute slot (R187, R188) -/

/-- The second operand of format M. -/
def readMSrc (w : Nat) : Option MSrc :=
  if bitsOf w 10 10 = 0 then
    if bitsOf w 5 0 = 0 then some (.reg (Fin.ofNat 16 (bitsOf w 9 6))) else none
  else (readAddr 5 (bitsOf w 9 7) (bitsOf w 6 5) (bitsOf w 4 0)).map .mem

/-- Read the 24 bits of a compute slot; none is an undefined encoding. -/
def readCompute (w : Nat) : Option ComputeOp :=
  let op := bitsOf w 23 18
  let low := bitsOf w 17 0
  let t := bitsOf w 12 0
  let acc : Fin 8 := Fin.ofNat 8 (bitsOf w 17 15)
  let mva : Fin 16 := Fin.ofNat 16 (bitsOf w 14 11)
  let as : Fin 8 := Fin.ofNat 8 (bitsOf w 14 12)
  let vd : Fin 16 := Fin.ofNat 16 (bitsOf w 17 14)
  let va : Fin 16 := Fin.ofNat 16 (bitsOf w 13 10)
  let vb : Fin 16 := Fin.ofNat 16 (bitsOf w 9 6)
  let n : Fin 32 := Fin.ofNat 32 (bitsOf w 4 0)
  let plainT : Bool := bitsOf w 17 13 = 0
  let two : Bool := bitsOf w 5 0 = 0
  let one : Bool := bitsOf w 9 0 = 0
  let shf : Bool := bitsOf w 9 5 = 0
  let cmp : Bool := bitsOf w 17 14 = 0 && two
  let guard (b : Bool) (o : ComputeOp) : Option ComputeOp := if b then some o else none
  match op with
  | 0x00 => guard (low = 0) .nop
  | 0x01 => guard (low = 0) .done
  | 0x02 => guard plainT (.br t)
  | 0x03 => guard (bitsOf w 17 15 = 0) (.bc (condOf (bitsOf w 14 13)) t)
  | 0x04 => guard plainT (.call t)
  | 0x05 => guard (low = 0) .ret
  | 0x06 => guard (bitsOf w 17 14 = 0) (.loop (Fin.ofNat 2 (bitsOf w 13 13)) t)
  | 0x08 => (readMSrc w).map (.mul acc mva)
  | 0x09 => (readMSrc w).map (.mac acc mva)
  | 0x0A => (readMSrc w).map (.msu acc mva)
  | 0x0C => guard (bitsOf w 14 0 = 0) (.clr acc)
  | 0x0D => guard (bitsOf w 11 0 = 0) (.aadd acc as)
  | 0x0E => guard (bitsOf w 11 0 = 0) (.asub acc as)
  | 0x10 => guard two (.vadd vd va vb)
  | 0x11 => guard two (.vsub vd va vb)
  | 0x12 => guard one (.vabs vd va)
  | 0x13 => guard one (.vneg vd va)
  | 0x14 => guard two (.vmin vd va vb)
  | 0x15 => guard two (.vmax vd va vb)
  | 0x16 => guard two (.vand vd va vb)
  | 0x17 => guard two (.vor vd va vb)
  | 0x18 => guard two (.vxor vd va vb)
  | 0x19 => guard shf (.vshl vd va n)
  | 0x1A => guard shf (.vsra vd va n)
  | 0x1B => guard two (.vsel vd va vb)
  | 0x1C => guard cmp (.vcmpeq va vb)
  | 0x1D => guard cmp (.vcmplt va vb)
  | 0x1E => guard cmp (.vcmple va vb)
  | _ => none

def writeAddr (n : Nat) (a : Addr) : Nat := a.p.val * 2 ^ (n + 2) + modeCode a.mode * 2 ^ n + unsign n a.imm

def writeMSrc : MSrc → Nat
  | .reg v => v.val * 64
  | .mem a => 1024 + writeAddr 5 a

def fmtM (op : Nat) (a : Fin 8) (v : Fin 16) (s : MSrc) : Nat :=
  op * 2 ^ 18 + a.val * 2 ^ 15 + v.val * 2 ^ 11 + writeMSrc s

def fmtA (op : Nat) (ad as : Nat) : Nat := op * 2 ^ 18 + ad * 2 ^ 15 + as * 2 ^ 12

def fmtV (op vd va vb n : Nat) : Nat := op * 2 ^ 18 + vd * 2 ^ 14 + va * 2 ^ 10 + vb * 2 ^ 6 + n

/-- The 24 bits of a compute slot (R187, R188). -/
def writeCompute : ComputeOp → Nat
  | .nop => 0
  | .done => 0x01 * 2 ^ 18
  | .br t => 0x02 * 2 ^ 18 + t
  | .bc c t => 0x03 * 2 ^ 18 + condCode c * 2 ^ 13 + t
  | .call t => 0x04 * 2 ^ 18 + t
  | .ret => 0x05 * 2 ^ 18
  | .loop c t => 0x06 * 2 ^ 18 + c.val * 2 ^ 13 + t
  | .mul a v s => fmtM 0x08 a v s
  | .mac a v s => fmtM 0x09 a v s
  | .msu a v s => fmtM 0x0A a v s
  | .clr a => fmtA 0x0C a.val 0
  | .aadd a b => fmtA 0x0D a.val b.val
  | .asub a b => fmtA 0x0E a.val b.val
  | .vadd d a b => fmtV 0x10 d.val a.val b.val 0
  | .vsub d a b => fmtV 0x11 d.val a.val b.val 0
  | .vabs d a => fmtV 0x12 d.val a.val 0 0
  | .vneg d a => fmtV 0x13 d.val a.val 0 0
  | .vmin d a b => fmtV 0x14 d.val a.val b.val 0
  | .vmax d a b => fmtV 0x15 d.val a.val b.val 0
  | .vand d a b => fmtV 0x16 d.val a.val b.val 0
  | .vor d a b => fmtV 0x17 d.val a.val b.val 0
  | .vxor d a b => fmtV 0x18 d.val a.val b.val 0
  | .vshl d a n => fmtV 0x19 d.val a.val 0 n.val
  | .vsra d a n => fmtV 0x1A d.val a.val 0 n.val
  | .vsel d a b => fmtV 0x1B d.val a.val b.val 0
  | .vcmpeq a b => fmtV 0x1C 0 a.val b.val 0
  | .vcmplt a b => fmtV 0x1D 0 a.val b.val 0
  | .vcmple a b => fmtV 0x1E 0 a.val b.val 0

/-! ## Move slots (R192) -/

/-- Read the 20 bits of a move slot; none is an undefined encoding. -/
def readMove (w : Nat) : Option MoveOp :=
  let v : Fin 16 := Fin.ofNat 16 (bitsOf w 15 12)
  let lane : Fin 16 := Fin.ofNat 16 (bitsOf w 11 8)
  let avec := readAddr 7 (bitsOf w 11 9) (bitsOf w 8 7) (bitsOf w 6 0)
  let alane := readAddr 3 (bitsOf w 7 5) (bitsOf w 4 3) (bitsOf w 2 0)
  let asc := readAddr 5 (bitsOf w 9 7) (bitsOf w 6 5) (bitsOf w 4 0)
  let r6 := readSReg (bitsOf w 15 10)
  let r5 := readSReg (bitsOf w 15 11)
  match bitsOf w 19 16 with
  | 0x0 => if bitsOf w 15 0 = 0 then some .nop else none
  | 0x1 => avec.map (.vld v)
  | 0x2 => avec.map (.vst v)
  | 0x3 => avec.map (.vbc v)
  | 0x4 => alane.map (.vldl v lane)
  | 0x5 => alane.map (.vstl v lane)
  | 0x6 => match r6, asc with | some r, some a => some (.ld r a) | _, _ => none
  | 0x7 => match r6, asc with | some r, some a => some (.st r a) | _, _ => none
  | 0x8 =>
    let a : Fin 8 := Fin.ofNat 8 (bitsOf w 11 9)
    if bitsOf w 7 7 ≠ 0 then none
    else if bitsOf w 8 8 = 0 then
      let s := signOf 7 (bitsOf w 6 0)
      if s < -16 then none else some (.mova v a (.imm s))
    else if bitsOf w 6 3 = 0 then some (.mova v a (.mod (Fin.ofNat 8 (bitsOf w 2 0)))) else none
  | 0x9 => r5.map (fun r => .ldi r (Fin.ofNat 8 (bitsOf w 10 8)) (signOf 8 (bitsOf w 7 0)))
  | 0xA => r5.map (fun r => .lda r (Fin.ofNat 64 (bitsOf w 10 5)) (Fin.ofNat 32 (bitsOf w 4 0)))
  | 0xB =>
    if bitsOf w 3 0 ≠ 0 then none
    else match r6, readSReg (bitsOf w 9 4) with | some d, some x => some (.mov d x) | _, _ => none
  | 0xC => if bitsOf w 7 0 = 0 then some (.vmov v lane) else none
  | 0xD =>
    if bitsOf w 8 6 = 0 then
      some (.mvta (Fin.ofNat 8 (bitsOf w 15 13)) (Fin.ofNat 16 (bitsOf w 12 9)) (Fin.ofNat 64 (bitsOf w 5 0)))
    else none
  | 0xE => some (.ldc (Fin.ofNat 2 (bitsOf w 15 15)) (BitVec.ofNat 15 (bitsOf w 14 0)))
  | 0xF =>
    let p : Fin 8 := Fin.ofNat 8 (bitsOf w 15 13)
    if bitsOf w 12 12 = 0 then some (.adv p (.imm (signOf 12 (bitsOf w 11 0))))
    else if bitsOf w 11 0 = 0 then some (.adv p .mod) else none
  | _ => none

/-- The 20 bits of a move slot (R192). -/
def writeMove : MoveOp → Nat
  | .nop => 0
  | .vld v a => 0x1 * 2 ^ 16 + v.val * 2 ^ 12 + writeAddr 7 a
  | .vst v a => 0x2 * 2 ^ 16 + v.val * 2 ^ 12 + writeAddr 7 a
  | .vbc v a => 0x3 * 2 ^ 16 + v.val * 2 ^ 12 + writeAddr 7 a
  | .vldl v l a => 0x4 * 2 ^ 16 + v.val * 2 ^ 12 + l.val * 2 ^ 8 + writeAddr 3 a
  | .vstl v l a => 0x5 * 2 ^ 16 + v.val * 2 ^ 12 + l.val * 2 ^ 8 + writeAddr 3 a
  | .ld r a => 0x6 * 2 ^ 16 + sregCode r * 2 ^ 10 + writeAddr 5 a
  | .st r a => 0x7 * 2 ^ 16 + sregCode r * 2 ^ 10 + writeAddr 5 a
  | .mova v a (.imm s) => 0x8 * 2 ^ 16 + v.val * 2 ^ 12 + a.val * 2 ^ 9 + unsign 7 s
  | .mova v a (.mod k) => 0x8 * 2 ^ 16 + v.val * 2 ^ 12 + a.val * 2 ^ 9 + 2 ^ 8 + k.val
  | .ldi r k imm => 0x9 * 2 ^ 16 + sregCode r * 2 ^ 11 + k.val * 2 ^ 8 + unsign 8 imm
  | .lda r win ofs => 0xA * 2 ^ 16 + sregCode r * 2 ^ 11 + win.val * 2 ^ 5 + ofs.val
  | .mov d x => 0xB * 2 ^ 16 + sregCode d * 2 ^ 10 + sregCode x * 2 ^ 4
  | .vmov d x => 0xC * 2 ^ 16 + d.val * 2 ^ 12 + x.val * 2 ^ 8
  | .mvta a v s => 0xD * 2 ^ 16 + a.val * 2 ^ 13 + v.val * 2 ^ 9 + s.val
  | .ldc c imm => 0xE * 2 ^ 16 + c.val * 2 ^ 15 + imm.toNat
  | .adv p (.imm d) => 0xF * 2 ^ 16 + p.val * 2 ^ 13 + unsign 12 d
  | .adv p .mod => 0xF * 2 ^ 16 + p.val * 2 ^ 13 + 2 ^ 12

/-! ## The word (R179) -/

/-- Read an instruction word; none is an undefined encoding in some slot. -/
def readWord (w : BitVec 64) : Option Insn :=
  let n := w.toNat
  match readCompute (n / 2 ^ 40), readMove (bitsOf n 39 20), readMove (bitsOf n 19 0) with
  | some c, some m0, some m1 => some { c := c, m0 := m0, m1 := m1 }
  | _, _, _ => none

/-- Write an instruction word. -/
def writeWord (i : Insn) : BitVec 64 :=
  BitVec.ofNat 64 (writeCompute i.c * 2 ^ 40 + writeMove i.m0 * 2 ^ 20 + writeMove i.m1)

/-- Word `pc` of a program is one the LY9740 accepts (R63, R200, R202). -/
def wordOk (len pc : Nat) (w : BitVec 64) : Bool :=
  match readWord w with
  | some i => i.wf len pc
  | none => false

/-- The words of a program are all acceptable. -/
def codeOk (len : Nat) : Nat → List (BitVec 64) → Bool
  | _, [] => true
  | pc, w :: ws => wordOk len pc w && codeOk len (pc + 1) ws

/-- The command that a word of the opcode table spells: no row of the table gives bits, so none. -/
def decodeTableWord (_nbits _w : Nat) : Option Instr := none

end Sys2Proof
end

