-- ==== Sys2Proof/Config.lean ====
section
/-! DEFINITION. What an implementation fixes and the spec leaves open: opaque constants with no body, so that
nothing in Lean can evaluate them, and the fixed figures of the part. -/

namespace Sys2Proof.Config

/-- The clock in which the model counts absolute time: 705,600,000 a second divides every sample period. -/
def tick : Nat := 705600000

/-- Ticks of a millisecond. -/
def ms : Nat := 705600

/-- The 16-byte header of a dense run from its first source slot, its length and its SUM's index: R216 says what the header
holds and not where. Free. -/
opaque runHeader : Nat → Nat → Nat → BitVec 128

/-- What the fabric takes for the k-th word of a spilled table that its bank could not correct: no rule states it. Free. -/
opaque spilledWord : Nat → BitVec 32

/-- FABRIC_FINISH.finish of the k-th completion: the spec does not say when the last SUM completes. Free. -/
opaque fabricFinish : Nat → BitVec 10

/-- The reason that CAST_DEFERRED records for the k-th chip found that sent no answer: R285 gives none. Free. -/
opaque castNoAnswer : Nat → BitVec 8

/-- The servo rate after the k-th accepted measurement, in 2^-40: R299 gives the loop's form and bandwidth, not its gains.
Free. -/
opaque servoRate : Nat → BitVec 32

/-- The code that TB_HOLDOVER records as its cause for a source of R295: R321 does not state the codes. Free. -/
opaque holdoverCause : Nat → BitVec 8

/-- The code that INPUT_FAULT records for an input: R321 does not state the codes. Free. -/
opaque inputCode : Nat → BitVec 8

/-- Identification field of the IPv4 header of a stream's packet on one of its legs, by stream, packet and leg: R355 does not
state it. Free. -/
opaque ipId : Nat → Nat → Bool → BitVec 16

/-- Marker bit of a stream's packet: R362 does not state it. Free. -/
opaque rtpMarker : Nat → Nat → Bool

/-- The code that PTP_LOST records for a cause of R372: no rule states the codes. Free. -/
opaque ptpCause : Nat → BitVec 8

/-- The fraction that an APLL's loop gives its divider, from the rate in use, the phase error in ps and the last fraction: R309 and
its chapter name what sets it and no law. Free. -/
opaque apllFraction : Int → Int → BitVec 32 → BitVec 32

/-- The next value of an APLL's dither register: R309 gives its length and not its taps. Free. -/
opaque ditherNext : BitVec 31 → BitVec 31

/-- Modulation index that the interpolator of a modulator gives the middle of its k-th period, in 2^-38, from the indices of the
samples around it: R464 gives its delay, not its taps. Free. -/
opaque ampIndex : Nat → List Int → Int

/-- Width that the noise shaper of a modulator gives its k-th period before the limit of R468, from the target width in 2^-39
counts: R467 gives the shaper's order and gain, not its coefficients. Free. -/
opaque ampShaper : Nat → Int → BitVec 12

/-- The code that AMP_OC_LIMITING records for a direction: R487 does not state the codes. Free. -/
opaque ampDirection : Bool → BitVec 8

/-- c_nf where the quotient of R484 does not exist or does not fit its 24 bits: no rule states it. Free. -/
opaque ampCap : Nat → BitVec 24

/-- KiB of retention logs that a load with CRITICAL processes puts into the placement arena: R432 gives what they hold, not
their size. Free. -/
opaque retentionKib : BitVec 16

/-- LC_NONCE after the k-th attempt or reset: a new random value (R541). Free. -/
opaque nonce : Nat → BitVec 32

/-- The k-th write of the non-volatile record that a loss of VDD_AO interrupts has taken effect: R521 and R516 leave either
outcome. Free. -/
opaque nvTorn : Nat → Bool

/-- Whether PLACER_SEnn_LOAD rounds a load up that is not a whole per-mille: the spec does not state the rounding. Free. -/
opaque loadRoundsUp : Nat → Bool

/-- Whether an idle active engine is in a self-test sequence at the k-th read: R427 does not fix the instant. Free. -/
opaque selfTesting : Nat → Bool

/-- The k-th word read from a view of a register bank or of P memory: the spec gives neither layout. Free. -/
opaque bankView : Nat → BitVec 32

/-- The memory code that an ECC event records for a shared bank or another target: R178 gives no codes. Free. -/
opaque eccMemory : Nat → BitVec 8

/-- Byte offset at which a memory of an engine holds the items of a node that one of its windows 60 to 63 shows: R151 puts the
items in X, Y and C, and no rule places them there. Free. -/
opaque itemBase : Nat → Nat → Nat

/-- Time-clock cycles between a timebase's last boundary and the k-th instant within its interval at which its time is taken: a
snap by register write, or another timebase that comes to follow it. Free. -/
opaque snapCycles : Nat → BitVec 16

/-- ID and address that XBAR_FENCE_LOG holds where a fenced master had nothing outstanding: R412 states neither. Free. -/
opaque fenceIdle : Nat → BitVec 44

/-- The target number that a log or event gives for an address that no target holds: R390 gives none. Free. -/
opaque noTarget : BitVec 5

/-- Entries of a handshake channel's FIFO beyond 4: R13's chapter gives 4 to 16, and which channel has how many is open. Free. -/
opaque fifoExtra : Fin 59 → Fin 59 → Fin 13

/-- The Plinth version that PING returns: the spec gives none. Free. -/
opaque plinthVersion : BitVec 32

/-- Firmware that passes the authentication of S6: the spec gives neither its form nor the check. Free. -/
opaque plinthPasses : List (BitVec 8) → Bool

/-- How far an update of the boot flash has come at the k-th look: 0 erasing, 1 programming, 2 reading back (R572). Free. -/
opaque flashPhase : Nat → Fin 3

/-- The k-th reading of a rail once the brace has ended, in mV: R493 gives the level that it has reached, not its value. Free. -/
opaque railMv : Nat → BitVec 16

/-- The append that the k-th loss of VDD_AO interrupts: 0 it had not begun, 1 it left its slot invalid, 2 it was complete (R526).
Free. -/
opaque bbCut : Nat → Fin 3

/-- FLASH_STATUS.result after the k-th update that fails once it has begun: no rule states it. Free. -/
opaque flashResult : Nat → BitVec 8

/-- The device id of LC_ID: the spec gives each device its own. Free. -/
opaque deviceId : BitVec 64

end Sys2Proof.Config
end

