-- ==== Sys2Proof/Machine/State.lean ====
section
/-! DEFINITION. The state of the LY9740 as plain data, one structure per subsystem, and its value after reset.
Every field's docstring gives its width or form, the rule that names it and its reset value. `DC` marks a reset
value that the spec does not give (DESIGN CHOICE, notes/assumptions/2.md); `own` marks a field that is the
model's own bookkeeping for a state the spec implies. -/

namespace Sys2Proof.Machine

/-- A byte store in canonical form: strictly rising addresses, no entry equal to the unlisted value. -/
abbrev Mem := List Host.Cell

/-! ## Events and the non-volatile record -/

/-- One event as recorded in the black box and the event queue (R522, R523). -/
structure EventRec where
  /-- 16 bits, R10. -/
  code : BitVec 16
  /-- Timebase of the time fields, 0xFF if none, R523. -/
  tb : Byte
  /-- rec_flags bit 0, R523. -/
  locked : Bool
  /-- R523. -/
  startCount : Word
  /-- R523. -/
  uptimeMs : Word
  /-- R523. -/
  ns : Word
  /-- R523. -/
  sec : BitVec 48
  /-- The recorded values, R524. -/
  data : List Byte
  deriving DecidableEq, Repr

/-- One black-box record: the event with its sequence number and its brace and loss flags (R523). -/
structure BbRec where
  seq      : Word
  ev       : EventRec
  queued   : Bool
  postLoss : Bool
  /-- commit is 0 or does not match: the slot is invalid (R525). -/
  valid    : Bool
  deriving DecidableEq, Repr

/-- One rate window of a code (R528). -/
structure SuppressWin where
  code       : BitVec 16
  start      : Nat
  appended   : Nat
  suppressed : Nat
  deriving DecidableEq, Repr

/-- Life-cycle states of R537. -/
inductive LcState where
  | blank | develop | production | ret | ended
  deriving DecidableEq, Repr

/-- One configuration copy of the non-volatile record (R519). -/
structure CfgCopy where
  lcState    : LcState
  keySlots   : Vector (Option (List Byte)) 4
  imageKey   : Option (List Byte)
  minSerial  : Word
  bootTarget : Bool
  powerOnStart : Bool
  /-- Last-good bands: APLL n, rate family 0 (48 kHz) or 1 (44.1 kHz), R310. -/
  lastBands  : Vector (Option (BitVec 6)) 8
  tamperAct  : BitVec 10
  stepDown   : BitVec 4
  startMargin : Byte
  warnPs     : Byte
  floorPs    : Byte
  lastAllow  : Vector Byte 24
  hours      : Word
  writeCount : Nat
  valid      : Bool
  deriving DecidableEq, Repr

/-- One change of the configuration that waits to be written (R492, R520). -/
inductive CfgItem where
  | lcState (v : LcState)
  | keySlot (i : Fin 4) (v : Option (List Byte))
  | imageKey (v : Option (List Byte))
  | minSerial (v : Word)
  | bootCfg (target powerOn : Bool)
  | lastBand (i : Fin 8) (b : BitVec 6)
  | tamperAct (v : BitVec 10)
  | patina (sd : BitVec 4) (m w f : Byte)
  | lastAllow (e : Fin 24) (v : Byte)
  | hours (v : Word)
  deriving DecidableEq, Repr

/-- One start record of the ledger (R515), its step words as numbers (R516). -/
structure StartRec where
  startCount : Word
  resetKind  : BitVec 4
  safe       : Bool
  bootTarget : Bool
  halted     : Bool
  incomplete : Nat
  rail       : Byte
  steps      : Vector Word 10
  deriving DecidableEq, Repr

/-- One Patina history record (R536). -/
structure HistRec where
  startCount : Word
  hours      : Word
  island     : Fin 59
  reason     : Fin 3
  freq       : Byte
  temp       : Byte
  slack      : BitVec 16
  allow      : Byte
  deriving DecidableEq, Repr

/-- A non-volatile write in the order requested (R520). -/
inductive NvWrite where
  | cfg (i : CfgItem)
  | ledger (slot : Fin 16) (r : StartRec)
  | history (r : HistRec)
  | black (r : BbRec)
  | tamperErase
  deriving DecidableEq, Repr

/-- The always-on domain: non-volatile record, black box, ledger, its clock (R495, R519). -/
structure Ao where
  /-- Time since S0 in 1/705,600,000 s; own (R425, R523); reset 0. -/
  now : Nat
  /-- start_count of this start, R515; reset 0 (SYS_START_COUNT). -/
  startCount : Word
  /-- Configuration, primary copy, R519; DC: state BLANK, no keys, boot fields 1 and 1, Patina 4/60/40/25. -/
  cfgA : CfgCopy
  /-- Configuration, redundant copy, R519; DC as primary. -/
  cfgB : CfgCopy
  /-- Non-volatile writes waiting, in order, R520; reset empty. -/
  nvQueue : List NvWrite
  /-- A non-volatile write in progress, R492, R520; reset none. -/
  nvBusy : Option NvWrite
  /-- Start ledger: 16 records, R515; DC: start_count 0 and every step not reached. -/
  ledger : Vector StartRec 16
  /-- Index of this start's record (newest), R515; reset 0. -/
  newest : Fin 16
  /-- SRAM repair map of S4: rows used per bank, R409, R519; DC: empty. -/
  repairMap : List (Nat × Nat)
  /-- Patina history ring: (index, record), R536; DC: empty. -/
  history : List (Nat × HistRec)
  /-- PATINA_HIST_NEXT, R536; reset 0. -/
  histNext : Nat
  /-- Black-box slots in use: (slot, record), R525; DC: empty. -/
  bbSlots : List (Nat × BbRec)
  /-- BB_HEAD, next sequence, R525; reset 0. -/
  bbHead : Nat
  /-- BB_OLDEST, R526; reset 0. -/
  bbOldest : Nat
  /-- Records waiting, at most 256, each with whether it was queued during a brace, R527; reset empty. -/
  bbQueue : List (EventRec × Bool)
  /-- BB_COUNTS.lost, R527; reset 0. -/
  bbLost : BitVec 16
  /-- BB_COUNTS.suppressed, R528; reset 0. -/
  bbSuppressed : BitVec 16
  /-- Events lost in the present run, R527; own; reset 0. -/
  bbLostRun : Nat
  /-- The next record carries rec_flags bit 2, R527; reset false. -/
  bbPostLoss : Bool
  /-- Open rate windows, R528; reset empty. -/
  bbWins : List SuppressWin
  /-- BB_CTL.tb, R529 text; reset 0. -/
  bbTb : Fin 4
  /-- Events held from S0 to S3 for delivery after S4, at most 32, R512; reset empty. -/
  held : List EventRec
  /-- SYS_START_STATUS.events_lost, R512; reset 0. -/
  heldLost : Byte
  /-- TAMPER_STATUS.active, R542; reset 0. -/
  tamperActive : BitVec 5
  /-- TAMPER_STATUS.tripped, R542, RWS; reset 0. -/
  tamperTripped : BitVec 5
  /-- Sensors that may act again, R542; own; reset all. -/
  tamperArmed : BitVec 5
  /-- Instants of the SECURE_TARGET_DENIED events of the last second, R542; own; reset empty. -/
  denials : List Nat
  /-- Consecutive return-authorisation failures, R541; reset 0. -/
  authFails : Nat
  /-- LC_NONCE, R541; reset: a free value (register table reset 0 before the first attempt is a DC). -/
  nonce : Word
  /-- Attempts counted, so that each takes a fresh nonce; the model's own counter for a free value; DC 0. -/
  nonceCount : Nat
  deriving DecidableEq, Repr

/-! ## Power and start -/

/-- Progress of a start (R508 to R514). -/
structure Start where
  /-- Step in progress 0 to 9, 15 when ended, SYS_START_STATUS.step; reset 0. -/
  step : Nat
  /-- 0 running, 1 complete, 2 halted; reset 0. -/
  result : Fin 3
  /-- R511; reset false. -/
  safe : Bool
  /-- Steps that run their alternative form at this start, R509; reset none. -/
  alternate : List Nat
  /-- Consecutive incomplete starts before this one, R511; reset 0. -/
  incomplete : Nat
  /-- Image source in use at S7 and S8: 0 A, 1 B, 2 golden, R508; reset 0. -/
  source : Fin 3
  /-- First source of S7 for this start, R510; own; reset 0. -/
  firstSource : Fin 3
  /-- Load step at which the first failed source stopped, R516; reset 0. -/
  failStep : Nat
  /-- S9 waits for boundary b of each domain: (timebase, block), R513; reset empty. -/
  s9At : List (Fin 4 × BitVec 48)
  /-- The boundaries b of S9 have been chosen, R513; reset false. -/
  s9Set : Bool
  /-- A step has ended while braced and the next waits, R492; reset false. -/
  waiting : Bool
  /-- Reset held by RESET_N low: the start begins when it returns high, R495; reset false. -/
  pinHeld : Bool
  /-- WAKE_N was low at the POWER_ON reset, R507; DC false. -/
  wakeLow : Bool
  /-- A source has passed load steps 1 to 11 at S7, R510; reset false. -/
  passed : Bool
  /-- An APLL did not lock within the 100 ms of S9, R508; reset none. -/
  s9Fail : Option Nat
  deriving DecidableEq, Repr

/-- Power states, supplies, brace and resets (chapter 15). -/
structure Power where
  /-- R498: 0 OFF 1 STANDBY 2 SLEEP 3 READY 4 RUN; reset 3 (SYS_PWR_STATUS.state). -/
  state : Fin 5
  /-- SYS_PWR_CTL.target; reset 3. -/
  target : BitVec 3
  /-- Target of a transition in progress, R500; reset none. -/
  moving : Option (Fin 5)
  /-- Target of a deferred command, R500; reset none. -/
  deferred : Option (Fin 5)
  /-- last_status, R500; reset 0. -/
  lastStatus : Byte
  /-- R492; reset false. -/
  braced : Bool
  /-- below_warn per rail, R488; reset 0. -/
  belowWarn : BitVec 9
  /-- Rails below warning since the brace began, R493; reset 0. -/
  dipMask : BitVec 9
  /-- Lowest mV of the lowest rail of the brace, R493; own; reset 65535. -/
  dipLow : Nat
  /-- Instant at which the brace began, R493; own; reset 0. -/
  braceAt : Nat
  /-- SYS_SUP_MINk.present, R491; reset 0. -/
  present : Vector (BitVec 16) 9
  /-- SYS_SUP_MINk.lowest, R491; reset 0xFFFF. -/
  lowest : Vector (BitVec 16) 9
  /-- PSEQ_EN1 to PSEQ_EN4, R489; reset: deasserted, R495. -/
  enables : BitVec 4
  /-- PWR_HOLD high, R505; DC true. -/
  pwrHold : Bool
  /-- FAULT_N driven low, R509; reset false. -/
  faultN : Bool
  /-- SYS_RST_CAUSE.kind, R495; reset 0. -/
  rstKind : BitVec 4
  /-- SYS_RST_CAUSE.rail; reset 0. -/
  rstRail : BitVec 4
  /-- SYS_RST_CAUSE.step; reset 0. -/
  rstStep : Byte
  /-- OFF was commanded and VDD_AO stayed, R505; reset false. -/
  offNotTaken : Bool
  /-- PWR_HOLD has been driven low and 100 ms run, R505; reset false. -/
  offWait : Bool
  /-- The non-volatile hold of the brace is lifted, R506; reset false. -/
  nvLifted : Bool
  /-- The non-volatile writes that R506 lets through; own; reset 0. -/
  nvAllowed : Nat
  /-- SYS_TEMP.present, signed °C, R584; reset 0x80. -/
  temp : BitVec 8
  /-- SYS_TEMP.max, R584; reset 0x80. -/
  tempMax : BitVec 8
  /-- SYS_TEMP_CTL.hot_thr, R585; reset 100. -/
  hotThr : BitVec 8
  /-- The temperature has fallen 5 °C below hot_thr since the last event, R585; own; reset true. -/
  hotArmed : Bool
  /-- Instant of the last JUNCTION_HOT, R585; own; reset none. -/
  hotLast : Option Nat
  /-- Progress of the start. -/
  start : Start
  deriving DecidableEq, Repr

/-! ## The Armature image -/

inductive NodeType where
  | source | sink | gain | mux | send | sum | delay | proc | limit | meter | detect | split
  deriving DecidableEq, Repr

/-- A DOMAINS record (R49). -/
structure DomainRec where
  dom  : Fin 4
  rate : Fin 6
  tb   : Fin 4
  apll : Fin 4
  deriving DecidableEq, Repr

/-- A node record (R52 to R54); `bodyA` and `bodyB` are the two words of its body, in order. -/
structure NodeRec where
  id        : Nat
  type      : NodeType
  domain    : Fin 4
  tier      : Nat
  critical  : Bool
  before    : Bool
  bridge    : Bool
  inputs    : List (Nat × Nat)
  outputs   : Nat
  bodyRef   : Nat
  bodyA     : Nat
  bodyB     : Nat
  deriving DecidableEq, Repr

/-- A SAP record (R349). -/
structure SapRec where
  format : Nat
  master : Bool
  slots : Nat
  slotWidth : Nat
  dataWidth : Nat
  fsDelay : Bool
  fsInvert : Bool
  bclkInvert : Bool
  native32 : Bool
  hizMasked : Bool
  fsWidth : Nat
  lineDir : BitVec 4
  domain : Fin 4
  rampBlocks : Nat
  leadBlocks : Nat
  zcTimeout : Nat
  enable : Vector Word 4
  mask : Vector Word 4
  deriving DecidableEq, Repr

/-- An ETH record (R357). -/
structure EthRec where
  mode : Nat
  fec : Nat
  vlan : Bool
  jumbo : Bool
  ptpEn : Bool
  profile : Fin 4
  mac : List Byte
  vlanTag : BitVec 16
  ip : Word
  netmask : Word
  ptpDomain : Byte
  ptpTb : Fin 4
  master : Bool
  dscpPtp : Nat
  asym : Int
  logSync : Int
  logAnnounce : Int
  logMinDelay : Int
  priority1 : Byte
  priority2 : Byte
  deriving DecidableEq, Repr

/-- One leg of a receive stream (R384). -/
structure RxLeg where
  group : Word
  udp   : BitVec 16
  port  : Fin 4
  src0  : Word
  src1  : Word
  deriving DecidableEq, Repr

/-- A STREAM_RX record (R384). -/
structure RxRec where
  format : Nat
  domain : Fin 4
  channels : Nat
  samples : Nat
  pt : BitVec 7
  enabled : Bool
  rxDelay : Nat
  tsOffset : Word
  legA : RxLeg
  legB : Option RxLeg
  deriving DecidableEq, Repr

/-- One leg of a transmit stream (R385). -/
structure TxLeg where
  dest : Word
  udpDst : BitVec 16
  udpSrc : BitVec 16
  port : Fin 4
  mac : List Byte
  deriving DecidableEq, Repr

/-- A STREAM_TX record (R385). -/
structure TxRec where
  format : Nat
  domain : Fin 4
  channels : Nat
  samples : Nat
  pt : BitVec 7
  enabled : Bool
  ttl : Byte
  dscp : Byte
  tsOffset : Word
  ssrc : Word
  seqOffset : BitVec 16
  legA : TxLeg
  legB : Option TxLeg
  deriving DecidableEq, Repr

/-- A LINK record (R442). -/
structure LinkRec where
  role : Fin 7
  timeXfer : Bool
  domain : Fin 4
  rxCh : Nat
  txCh : Nat
  asym : Int
  deriving DecidableEq, Repr

/-- An AMP record (R486). -/
structure AmpRec where
  domain : Fin 4
  fltHigh : Bool
  autoStart : Bool
  period : Nat
  dead : Nat
  blank : Nat
  minPulse : Nat
  fsIndex : BitVec 16
  ocThr : Nat
  startBlocks : Nat
  retryMs : Nat
  testLevel : Int
  limThr : Nat
  iFs : Word
  vFs : Word
  shortM : Nat
  openM : Nat
  deriving DecidableEq, Repr

/-- A CLOCK record (R307). -/
structure ClockRec where
  source : Nat
  index : Nat
  inputMode : Nat
  servoBw : Nat
  jumpThr : Nat
  slewPpm : Nat
  holdWindow : Nat
  apllSeed : Word
  deriving DecidableEq, Repr

/-- The body of a PORTS record (R60). -/
inductive PortBody where
  | sap (r : SapRec) | eth (r : EthRec) | rx (r : RxRec) | tx (r : TxRec)
  | link (r : LinkRec) | amp (r : AmpRec) | clock (r : ClockRec)
  deriving DecidableEq, Repr

/-- A PORTS record: its unit and body (R60). -/
structure PortRec where
  unit : Nat
  body : PortBody
  deriving DecidableEq, Repr

/-- A PROGRAMS record (R62); `dataOfs` is where its data lie in the payload. -/
structure ProgRec where
  id : Nat
  code : List (BitVec 64)
  data : List Byte
  cycles : Nat
  mac : Nat
  entry : Nat
  bridgeLat : Nat
  deriving DecidableEq, Repr

/-- A REGIONS record (R64), with its initial data. -/
structure RegionRec where
  id : Nat
  size : Nat
  align : Nat
  cls : Fin 4
  zeroFill : Bool
  persist : Bool
  atomic : Bool
  owner : Nat
  init : List Byte
  deriving DecidableEq, Repr

/-- Transition classes of R67. -/
inductive TClass where
  | ramp | stepZc | step | xfade
  deriving DecidableEq, Repr

/-- A PARAMS record (R67). -/
structure ParamRec where
  paddr : PAddr
  init : Word
  min : Word
  max : Word
  cls : TClass
  dbLaw : Bool
  time : Nat
  deriving DecidableEq, Repr

/-- A SYMBOLS record (R71). -/
structure SymRec where
  name : List Byte
  paddr : PAddr
  unit : Nat
  deriving DecidableEq, Repr

/-- An EVENTS_MAP record (R575). -/
structure EvMapRec where
  code : BitVec 16
  vector : Byte
  notQueued : Bool
  deriving DecidableEq, Repr

/-- A HINTS record (R97). -/
structure HintRec where
  node : Nat
  shedRank : Nat
  trimmable : Bool
  margin : Nat
  deriving DecidableEq, Repr

/-- The override of a maquette entry (R260). -/
structure Override where
  cls : TClass
  dbLaw : Bool
  time : Nat
  deriving DecidableEq, Repr

/-- A maquette entry (R260). -/
structure MqEntry where
  paddr : PAddr
  value : Word
  ov : Option Override
  deriving DecidableEq, Repr

/-- A maquette (R259). -/
structure Maquette where
  slot : Fin 4
  id : Word
  buildId : BitVec 64
  label : List Byte
  entries : List MqEntry
  deriving DecidableEq, Repr

/-- The CAPACITY payload (R47). -/
structure Capacity where
  minEngines : Nat
  spares : Nat
  engineLoad : Nat
  fabricLoad : Nat
  sramBytes : Nat
  dramBytes : Nat
  deriving DecidableEq, Repr

/-- An Armature image as its sections give it (chapter 02). -/
structure Image where
  cluster : Bool
  clusterSize : Nat
  clusterPos : Nat
  mirrored : Bool
  debug : Bool
  buildId : BitVec 64
  serial : Word
  keySlot : Fin 4
  encrypted : Bool
  cap : Capacity
  domains : List DomainRec
  nodes : List NodeRec
  muxLists : List (List (Nat × Nat))
  ports : List PortRec
  programs : List ProgRec
  regions : List RegionRec
  params : List ParamRec
  symbols : List SymRec
  evMap : List EvMapRec
  maquettes : List Maquette
  hints : List HintRec
  deriving DecidableEq, Repr

/-- A load or verify in progress (R77 to R80). -/
structure ImgReq where
  verify : Bool
  source : Fin 4
  /-- Host buffer address, for source 3. -/
  addr : BitVec 64
  step : Nat
  /-- The sections parsed so far; completed by step 11. -/
  image : Option Image
  /-- A load made by boot steps S7 and S8. -/
  boot : Bool
  /-- Step 12: none while the plan is being built, else whether a plan was placed. -/
  placed : Option Bool
  /-- The image as the last read of the source gave it (R78). -/
  copy : List Byte := []
  deriving DecidableEq, Repr

/-- The image registers and the loaded image (R77 to R82). -/
structure ImgUnit where
  /-- SYS_IMG_CTL.source; reset 0. -/
  ctlSource : BitVec 2
  /-- SYS_IMG_CTL.verify_only; reset 0. -/
  ctlVerify : Bool
  /-- SYS_IMG_HOST_HI and _LO, 64 bits, R77; reset 0. -/
  hostAddr : BitVec 64
  /-- SYS_IMG_STATUS.result; reset 0. -/
  result : BitVec 16
  /-- SYS_IMG_STATUS.step; reset 0. -/
  step : BitVec 4
  /-- SYS_IMG_STATUS.state; reset 0. -/
  state : Fin 7
  /-- SYS_IMG_DETAIL; reset 0. -/
  detail : Word
  /-- The loaded image (SYS_IMG_STATUS.loaded, SYS_IMG_BUILD, SYS_IMG_SERIAL), R82; reset none. -/
  loaded : Option Image
  /-- The request in progress; reset none. -/
  req : Option ImgReq
  deriving DecidableEq, Repr

/-! ## Parameters and the graph -/

/-- The scene controller's record of one declared parameter (R257). `start` is the value as it stands for the
current block, `value` the value at its end (R150). -/
structure ParamSt where
  decl   : ParamRec
  target : Word
  start  : Word
  value  : Word
  trans  : Trans
  /-- The factor that a GAIN mute whose RAMP an armed STEP_ZC has ended keeps until the STEP_ZC applies, R235. -/
  held   : Option Int := none
  deriving DecidableEq, Repr

/-- A SEND's effective coefficient (R212, R214). -/
structure SendSt where
  cStart : Word
  cEnd   : Word
  target : Word
  trans  : Trans
  deriving DecidableEq, Repr

/-- A crossfade between two taps: counter c of N, its law, what each tap reads (R242, R247). -/
structure Fade where
  c     : Nat
  n     : Nat
  power : Bool
  out   : Nat
  inn   : Nat
  deriving DecidableEq, Repr

/-- The values that a METER node yields for a period (R249, R250). -/
structure MeterVal where
  peak  : Int
  rms   : Int
  flags : Nat
  block : BitVec 48
  /-- Blocks of the period. -/
  blocks : Nat
  deriving DecidableEq, Repr

/-- The factors on a block that a copy completes, R122, R127: it is the first one after a miss, and where the 20 ms restart ramp
stands. -/
structure Restore where
  missed  : Bool
  rampIn  : Nat
  rampLen : Nat
  deriving DecidableEq, Repr

/-- The running state of one copy of a process: its built-in primitive or program instance state. -/
structure ProcSt where
  /-- The node. -/
  node : Nat
  /-- The engine that runs this copy, R87. -/
  engine : Fin 24
  /-- g_start of a GAIN, R239. -/
  gStart : Word
  /-- The input that a MUX reads, or the delay value that a DELAY's tap reads, while no fade runs. -/
  sel : Nat
  /-- A MUX or tap crossfade in progress, R242, R247. -/
  fade : Option Fade
  /-- A DELAY's history, newest sample first, R246. -/
  hist : List Word
  /-- Samples the DELAY's region holds, R246, R129. -/
  histCap : Nat
  /-- METER: greatest magnitude, sum of squares, samples counted, over and full-scale flags, R249, R250. -/
  mPeak : Nat
  mSum  : Nat
  mCount : Nat
  /-- METER: blocks of the period so far, R250. -/
  mBlocks : Nat
  mOver : Bool
  mFull : Bool
  /-- METER: the values of the periods whose last block it has processed, oldest first, until their record is made, R249, R251. -/
  mDone : List MeterVal
  /-- DETECT: consecutive silent blocks and state, R253. -/
  silentRun : Nat
  silent : Bool
  /-- Instance state (window 63), R147. -/
  inst : Mem
  /-- The input-ring counts of a bridge node, one word per group, R149. -/
  ringCount : Word
  /-- Bridge input rings: (group, slot, lane) flattened as a byte store, R149. -/
  ring : Mem
  /-- The outputs of this interval once block work is done, R141. -/
  out : Option (List Frame)
  /-- The outputs of the last block completed, as computed, and the factors on them, R597. -/
  raw : List Frame
  restore : Restore
  /-- CRC-32 digest of the outputs, R424. -/
  digest : Word
  /-- Compare-before: the outputs held until the next boundary, R435. -/
  heldOut : Option (List Frame)
  /-- Last sample released of each output, R127. -/
  last : List Word
  /-- Blocks missed in a row, R127. -/
  misses : Nat
  /-- The copy missed the present block, R127, R434. -/
  missedNow : Bool
  /-- The run of misses has an unresolved fault, R128. -/
  unresolved : Bool
  /-- A cycle overrun run is open, R143. -/
  overrun : Bool
  /-- Samples of the 20 ms restart ramp still to come and its length, R122. -/
  rampIn : Nat
  rampLen : Nat
  /-- Overlap: this copy is the new site B of a move, R116. -/
  isNew : Bool
  /-- The copy is out of service (SEk out, shed or not yet seeded), R121, R124. -/
  stopped : Bool
  deriving DecidableEq, Repr

/-- The published frames of one node: by work index (interval ordinal less tier), R227. -/
structure NodeOut where
  node   : Nat
  frames : List (Nat × List Frame)
  /-- Media index of the last FABRIC or SOURCE frame published; own. -/
  last   : List Word
  /-- Fabric substitution state for a SUM: blocks missed in a row, R219. -/
  misses : Nat
  deriving DecidableEq, Repr

/-- A LIMIT node's state (R220, R224, R225). -/
structure LimitSt where
  node  : Nat
  gLast : Nat
  gr    : Nat
  hold  : Nat
  alarm : Bool
  deriving DecidableEq, Repr

/-- A SUM's accumulation in the interval (R209, R210). -/
structure SumSt where
  node : Nat
  acc  : List Int
  got  : List (Nat × Nat)
  done : Bool
  deriving DecidableEq, Repr

/-- What R432 retains of one block of a pair: interval ordinal, the primary's copy, its inputs, its parameters and
the cells of its regions as they stood at the start of the block. -/
structure Retain where
  ivl    : Nat
  proc   : ProcSt
  ins    : List Frame
  params : List ParamSt
  cells  : Mem
  deriving DecidableEq, Repr

/-- A CRITICAL pair (R431 to R435). -/
structure PairSt where
  node      : Nat
  prim      : Fin 24
  sec       : Option (Fin 24)
  /-- Interval ordinal at which a resolution started, R433. -/
  mismatch  : Option Nat
  /-- Spare replaying and its digest once known, R433. -/
  spare     : Option (Fin 24)
  replay    : Option Word
  /-- Digests of the mismatched block. -/
  digPrim   : Word
  digSec    : Word
  /-- Health words of both engines failing in intervals n, n+1, R433. -/
  failPrim  : Bool
  failSec   : Bool
  /-- R435: replaced blocks in a row. -/
  replaced  : Nat
  /-- Retained blocks, newest first, R432. -/
  retained  : List Retain
  /-- Comparison is suspended: the surviving copy runs alone until a new copy's overlap is complete, R123, R435. -/
  alone     : Bool
  /-- The plan in force runs the process as one copy, reported by PROCESS_SHED, R124. -/
  single : Bool
  deriving DecidableEq, Repr

/-! ## Placement -/

inductive PlacerState where
  | idle | building | copying | overlap | evacuating
  deriving DecidableEq, Repr

/-- A region-table entry (R105). -/
structure RegEntry where
  /-- 0 UNMAPPED, 1 RESIDENT, 2 COPYING, 3 TWIN, 4 STAGED. -/
  state : Fin 5
  kind  : MemKind
  unit  : Nat
  base  : Nat
  /-- Size in bytes; for COPYING and TWIN the region's own size. -/
  size  : Nat
  /-- Copy slot, for COPYING and TWIN. -/
  slot  : Nat
  deriving DecidableEq, Repr

/-- A copy slot (R111, R114 and its register layout). -/
structure CopySlot where
  /-- 0 idle, 1 move, 2 migrate, 3 resize. -/
  kind   : Fin 4
  region : Nat
  old    : RegEntry
  new    : RegEntry
  /-- In 64-byte units. -/
  mark   : Nat
  siteA  : Fin 24
  siteB  : Fin 24
  deriving DecidableEq, Repr

/-- One move of a process from site A to site B (R116), or the seeding of a pair's new copy from A to B (R123). -/
structure Move where
  node : Nat
  a    : Fin 24
  b    : Fin 24
  seed : Bool
  /-- 0 copying; 1 and 2: the first and the second overlap interval. -/
  phase : Nat
  deriving DecidableEq, Repr

/-- Bank states of R405. -/
inductive BankState where
  | off | retain | on | failed
  deriving DecidableEq, Repr

/-- The pending plan (R99, R103, R121). -/
structure Pending where
  plan    : Plan
  trigger : Trigger
  /-- Domains that the plan touches and that have not switched yet, R103. -/
  domains : List (Fin 4)
  /-- The lowest-numbered domain that the plan touches, and the block at which it switched, R103. -/
  lead    : Fin 4
  leadBlk : BitVec 48
  /-- An evacuation plan, R121. -/
  evac    : Bool
  /-- The plan moves processes, R116. -/
  moving  : Bool
  /-- The slowest domain of the plan has met its first boundary with every copy made, R103. -/
  begun   : Bool
  /-- Boundaries that the domains have counted since then, R103. -/
  counts  : List (Nat × Nat)
  /-- The slowest domain of the plan, R103. -/
  slow    : Option (Fin 4)
  /-- Banks that the plan empties: those asked to leave ON when it was built, R406. -/
  banks   : List (Fin 256)
  deriving DecidableEq, Repr

/-- What the first plan depends on (R94). -/
structure PlanKey where
  image   : Image
  allowed : List Bool
  freq    : List Nat
  banksOn : List Nat
  dram    : Nat
  commit  : Nat
  deriving DecidableEq, Repr

/-- A page held in a staging pool: engine, region, page number, dirty (R109). -/
structure Page where
  engine : Fin 24
  region : Nat
  page   : Nat
  dirty  : Bool
  /-- The 4 KiB slot of the engine's pool that holds it. -/
  slot   : Nat
  deriving DecidableEq, Repr

/-- A DELAY resize in progress (R129). -/
structure Resize where
  node : Nat
  cap  : Nat
  dly  : Word
  ov   : Option Override
  /-- The tap moves at the switch: no later write has moved it, R129. -/
  moves : Bool
  done : Bool
  deriving DecidableEq, Repr

/-- The placement engine (chapter 03). -/
structure Placer where
  /-- PLACER_STATUS.state, R99; reset IDLE. -/
  state : PlacerState
  /-- PLACER_STATUS.trigger, R98; reset none. -/
  trigger : Option Trigger
  /-- PLACER_STATUS.queued, R100; reset 0. -/
  queued : List Trigger
  /-- Triggers merged into the plan that is BUILDING, R100; reset empty. -/
  merged : List Trigger
  /-- PLACER_STATUS.reduced; reset false. -/
  reduced : Bool
  /-- PLACER_EPOCH, R28; reset 0. -/
  epoch : Word
  /-- PLACER_EPOCH_BLK, R103; reset 0. -/
  epochBlk : BitVec 48
  /-- PLACER_COMMIT.commit_limit as written, R89; reset 900. -/
  commitReg : BitVec 10
  /-- commit_limit in effect (ST), R89; reset 900. -/
  commit : Nat
  /-- PLACER_CTL.rt_view; reset 0. -/
  rtView : Bool
  /-- PLACER_CTL.overlap_compare, R120; reset 1. -/
  overlapCompare : Bool
  /-- PLACER_CTL.freeze, R101; reset 0. -/
  freeze : Bool
  /-- PLACER_FAULTS; reset 0. -/
  faults : Word
  /-- PLACER_MISSES, R128; reset 0. -/
  misses : Word
  /-- PLACER_LAST_MISS: cause; reset 0. -/
  lastCause : Fin 3
  /-- PLACER_LAST_MISS: node; reset 0. -/
  lastNode : BitVec 20
  /-- PLACER_ARENA.kib; reset 0. -/
  arenaKib : BitVec 24
  /-- The current plan; reset none. -/
  current : Option Plan
  /-- The pending plan, R99; reset none. -/
  pending : Option Pending
  /-- Region table, current copy: entries by region index, R105; reset empty (UNMAPPED). -/
  table : List (Nat × RegEntry)
  /-- Region table, next copy, R106; reset empty. -/
  next : List (Nat × RegEntry)
  /-- Copy slots 0 to 63; reset idle. -/
  slots : Vector CopySlot 64
  /-- Process moves and seedings in progress, R116, R123; reset empty. -/
  moves : List Move
  /-- Region copies that wait for a free copy slot, *Regions in motion*; reset empty. -/
  waiting : List CopySlot
  /-- Old locations to be freed at the next boundary of a domain, R114, R116; reset empty. -/
  freeing : List (Fin 4 × RegEntry)
  /-- Banks that a plan has emptied, with the state that each enters once its locations are released, R406; reset empty. -/
  bankDue : List (Fin 256 × BankState)
  /-- Staging-pool pages, most recently used first, R109; reset empty. -/
  pages : List Page
  /-- First plans made, for R94; own; reset empty. -/
  firstPlans : List (PlanKey × Plan)
  /-- DELAY resizes in progress, R129; reset empty. -/
  resizes : List Resize
  deriving DecidableEq, Repr

/-! ## Signal engines -/

/-- An accumulator lane: 80 bits and its hold state (R137, R167). -/
structure AccLane where
  v    : BitVec 80
  held : Bool
  deriving DecidableEq, Repr

/-- The destination of a write in flight (R156, R172). -/
inductive Dest where
  | vec (v : Fin 16) (lanes : List Word)
  | lane (v l : Fin 16) (w : Word)
  | accC (a : Fin 8) (lanes : List AccLane)
  | accM (a : Fin 8) (lanes : List AccLane)
  | accBoth (a : Fin 8) (lanes : List AccLane)
  | sreg (r : SReg) (w : Word)
  | cmaskSel (m : BitVec 16)
  | cmaskBr (m : BitVec 16)
  | store (addr : BitVec 32) (bytes : List Byte)
  deriving DecidableEq, Repr

/-- A write in flight: the instructions that remain before it becomes visible (R172). -/
structure InFlight where
  left : Nat
  dest : Dest
  deriving DecidableEq, Repr

/-- One level of loop state (R161). -/
structure LoopSt where
  ctr   : Fin 2
  first : Nat
  last  : Nat
  deriving DecidableEq, Repr

/-- One register bank: every register of R137 and the context of *Banks, snapshots and faults*. -/
structure Ctx where
  /-- The node whose block work this bank holds; none when empty. -/
  node : Option Nat
  /-- v0 to v15, R137; DC 0. -/
  v : Vector (List Word) 16
  /-- a0 to a7 as compute slots see them, R137, R156; DC 0. -/
  accC : Vector (List AccLane) 8
  /-- a0 to a7 as scaled moves see them, R156; DC 0. -/
  accM : Vector (List AccLane) 8
  /-- p0 to p7, R137, R139; DC 0. -/
  p : Vector Word 8
  /-- m0 to m7; DC 0. -/
  m : Vector Word 8
  /-- l0 to l7; DC 0. -/
  l : Vector Word 8
  /-- b0 to b7; DC 0. -/
  b : Vector Word 8
  /-- lc0, lc1; DC 0. -/
  lc : Vector (BitVec 16) 2
  /-- sr.bexp, R138; 31 at block entry. -/
  bexp : BitVec 5
  /-- sr.bexp_en, R138; 0. -/
  bexpEn : Bool
  /-- sr.cmask as vsel and reads of sr see it; 0. -/
  cmask : BitVec 16
  /-- cmask (any, all) as conditional branches see it, R156; 0. -/
  cmaskBr : BitVec 16
  /-- sr.ctl_hazard, R159; 0. -/
  ctlHazard : Bool
  /-- sr.gov, R167; 0. -/
  gov : Bool
  /-- sr.sat, R169; 0. -/
  sat : Bool
  /-- Program counter: instruction index, R172. -/
  pc : Nat
  /-- Pending control transfer: target and remaining delay slots, R158. -/
  transfer : Option (Nat × Nat)
  /-- Return stack, top first, at most 8, R160. -/
  stack : List Nat
  /-- Active loops, innermost first, R161. -/
  loops : List LoopSt
  /-- The last instruction of the innermost body has issued, R161. -/
  atEnd : Bool
  /-- Loop-cache tags: the bodies held, at most two, R162. -/
  cache : List (Nat × Nat)
  /-- The pipeline snapshot: writes in flight, oldest first, R172. -/
  flight : List InFlight
  /-- Cycles used so far in this block of work, R142. -/
  cycles : Nat
  /-- A shared-bank or staged-page read of the context is outstanding, R604. -/
  readWait : Bool
  /-- Stores of the context wait for room in the write buffer, R153. -/
  storeWait : Bool
  /-- done has issued: block work ends once its reads have returned and its stores are in the write buffer, R141, R142. -/
  ended : Bool
  /-- The block of work has been given up; a halted engine keeps it to be looked at, R127, R176. -/
  stale : Bool
  /-- Input frame (window 60), R149. -/
  inFrame : List Word
  /-- Output frame (window 61), R149. -/
  outFrame : List Word
  deriving DecidableEq, Repr

/-- A fault that parks a context (R126). -/
structure FaultSt where
  region : Nat
  offset : Nat
  node   : Nat
  deriving DecidableEq, Repr

/-- A signal engine (chapter 04). -/
structure Engine where
  /-- Foreground bank. -/
  fg : Ctx
  /-- Background bank, R172. -/
  bg : Ctx
  /-- The fault on which the background context is parked, R126; reset none. -/
  parked : Option FaultSt
  /-- A second fault that stalls the foreground in place, R126; reset none. -/
  stalled : Option FaultSt
  /-- A fault whose process has given up its block work while its service is still in progress, R126; reset none. -/
  orphan : Option FaultSt
  /-- The write buffer, oldest first, at most 8, R153; reset empty. -/
  wbuf : List (Nat × List Byte)
  /-- Writes that wait for room in the buffer, R153; reset empty. -/
  wbufWait : List (Nat × List Byte)
  /-- SEnn_CTL.halt_req, R176; reset 0. -/
  haltReq : Bool
  /-- The engine is halted, R176; reset false. -/
  halted : Bool
  /-- SEnn_FLAGS, R143 to R174 (RWS); reset 0. -/
  flags : BitVec 7
  /-- SEnn_CYCLES; reset 0. -/
  cycles : Word
  /-- Cycles of the interval in progress; own; reset 0. -/
  cyclesNow : Nat
  /-- SEnn_CYCLES_MAX; reset 0. -/
  cyclesMax : Word
  /-- SEnn_FAULTS; reset 0. -/
  faults : Word
  /-- SEnn_LAST_FAULT.kind; reset 0. -/
  lastKind : Fin 6
  /-- SEnn_LAST_FAULT.window; reset 0. -/
  lastWindow : BitVec 6
  /-- SEnn_LAST_FAULT.node; reset 0. -/
  lastNode : BitVec 20
  /-- SEnn_LAST_FAULT_OFS; reset 0. -/
  lastOfs : BitVec 25
  /-- GUARD_OVERFLOW raised in this block, R168; reset false. -/
  govRaised : Bool
  /-- ECC_CORRECTED raised in this block, R174; reset false. -/
  eccRaised : Bool
  /-- Processes of this interval already begun or finished, in list order; own; reset empty. -/
  begun : List Nat
  /-- CLK_SEnn_FREQ.cap, R318; reset 40. -/
  cap : Byte
  /-- CLK_SEnn_FREQ.allow, R318; reset 50. -/
  allow : Byte
  /-- CLK_SEnn_FREQ.actual, R318; reset 40. -/
  actual : Byte
  /-- A change of actual waits for its boundary, R319; reset none. -/
  freqDue : Option Byte
  /-- Role: spare, R132; reset false. -/
  spare : Bool
  /-- Out (PLACER_ENG_OUT), R428; reset false. -/
  out : Bool
  /-- Cause of the last declaration, R428; reset 0. -/
  outCause : Fin 7
  /-- A declaration waits for the next boundary, R428; reset none. -/
  outDue : Option (Fin 7)
  /-- The cause 2, 3 or 4 has been cleared by RED_ENG_CLEAR, R430; reset false. -/
  causeCleared : Bool
  /-- RED_ENG_SUSPECT, R429; reset false. -/
  suspect : Bool
  /-- Self-test sequences passed of a pass begun since the suspicion, R429; reset 0. -/
  cleanRun : Nat
  /-- The self-test sequence that runs next, R427; DC 0. -/
  seqNext : BitVec 6
  /-- Health word: passes, R426; reset 0. -/
  passes : BitVec 16
  /-- Health word: sequence, R426; reset 0. -/
  sequence : BitVec 8
  /-- Health word: selftest_fail; reset false. -/
  stFail : Bool
  /-- The result of the last full self-test pass failed, R430; reset false. -/
  passFail : Bool
  /-- A failure in the full pass in progress; own; reset false. -/
  passBad : Bool
  /-- Health word: residue_error in this and the previous pacing interval, R426; reset false. -/
  residueNow : Bool
  residuePrev : Bool
  /-- A multiplier lane gives products that fail their residue check, R426; own: no row breaks or mends one; reset false. -/
  badLane : Bool
  /-- Health word: ecc_ue in this and the previous pacing interval, R426; reset false. -/
  eccNow : Bool
  eccPrev : Bool
  /-- Health word: clock_fault, R320; reset false. -/
  clockFault : Bool
  /-- RED_ENG_HEALTH as updated at the last pacing tick, R425; reset 0. -/
  health : Word
  /-- Instant of the last uncorrectable error, R428 cause 3; reset none. -/
  lastUe : Option Nat
  deriving DecidableEq, Repr

/-! ## Fabric, scenes, meters -/

/-- The summing fabric (chapter 06). -/
structure Fabric where
  /-- SUMs, in ascending node id, R209; reset empty. -/
  sums : List SumSt
  /-- LIMITs, in ascending node id, R220; reset empty. -/
  limits : List LimitSt
  /-- Effective coefficients by SEND node, R212; reset empty. -/
  sends : List (Nat × SendSt)
  /-- Entries of the send tables that do not lie whole in fabric memory: SEND node and the table offset of its c_start, R217;
  reset empty. -/
  spilled : List (Nat × Nat)
  /-- FABRIC_SOURCES.units, R205; reset 0. -/
  units : Nat
  /-- FABRIC_LOAD.load, R215; reset 0. -/
  load : Nat
  /-- FABRIC_FINISH.finish and finish_max, in per-mille of P; reset 0. -/
  finish : Nat
  finishMax : Nat
  /-- FABRIC_TABLE.spill_kib and onchip_kib, R217; reset 0. -/
  spillKib : Nat
  onchipKib : Nat
  /-- FABRIC_OVERRUNS, R219; reset 0. -/
  overruns : Word
  /-- FABRIC_GR_ALARM.depth, R225; reset 0. -/
  grAlarm : BitVec 16
  /-- FABRIC_SUM_SAT_0 to _31, R211 (RWS); reset 0. -/
  sumSat : Vector Word 32
  /-- The lowest-numbered SUM that has saturated in the pacing interval, by node id, R211; reset none. -/
  satNow : Option Nat
  /-- A fabric overrun in this and the previous interval, R450; reset false. -/
  overNow : Bool
  overPrev : Bool
  deriving DecidableEq, Repr

/-- Slot states of R263. -/
inductive SlotState where
  | empty | loading | valid
  deriving DecidableEq, Repr

/-- A maquette slot (R263). -/
structure MqSlot where
  state : SlotState
  mq    : Option Maquette
  deriving DecidableEq, Repr

/-- A slot operation in progress (R265). -/
structure SlotOp where
  slot    : Fin 4
  capture : Bool
  addr    : BitVec 64
  mqId    : Word
  first   : PAddr
  last    : PAddr
  /-- Length of the host buffer where the command gives one (SCENE_LOAD). -/
  len     : Option Nat
  /-- A capture waits for the boundary of R266; the captured entries once taken. -/
  taken   : Option (List MqEntry)
  deriving DecidableEq, Repr

/-- A pending cast (R269 to R288). -/
structure CastSt where
  castId    : BitVec 16
  slot      : Fin 4
  mqId      : Word
  tb        : Fin 4
  /-- Block of effect; meaningless for a single-chip NEXT cast. -/
  block     : BitVec 48
  isNext    : Bool
  /-- This chip is the caster. -/
  caster    : Bool
  deferrals : Nat
  /-- Transfer into the cast shadow: not started, running, complete (R273). -/
  transfer  : Fin 3
  /-- Positions that answered READY, R285. -/
  ready     : List (BitVec 4)
  /-- The first NOT_READY answer: position and reason, R290. -/
  notReady  : Option (BitVec 4 × Byte)
  /-- GO received or sent, R288. -/
  go        : Bool
  /-- Held by a brace, R282. -/
  held      : Bool
  /-- Domains (timebases) at which the cast still has entries to apply, R272. -/
  applyOn   : List (Fin 4)
  /-- The cast shadow: the maquette's entries once the transfer has taken them, R273. -/
  entries   : List MqEntry
  /-- Readiness for the block has been judged, or its boundary b − 2 had passed when the announcement came, R285. -/
  asked     : Bool
  /-- The announcement has come; a cast known from a DEFER alone has none, R285 reason 1. -/
  known     : Bool
  deriving DecidableEq, Repr

/-- The scene controller (chapter 08). -/
structure Scene where
  /-- Slots 0 to 3, R263; reset EMPTY. -/
  slots : Vector MqSlot 4
  /-- The slot operation in progress, R265; reset none. -/
  op : Option SlotOp
  /-- SCENE_MQ_CTL.op; reset 0. -/
  ctlOp : BitVec 2
  /-- SCENE_MQ_CTL.slot; reset 0. -/
  ctlSlot : Fin 4
  /-- SCENE_MQ_ADDR; reset 0. -/
  addr : BitVec 64
  /-- SCENE_MQ_ARG; reset 0. -/
  arg : Word
  /-- SCENE_CAP_FIRST; reset 0. -/
  capFirst : Word
  /-- SCENE_CAP_LAST; reset 0. -/
  capLast : Word
  /-- SCENE_MQ_STATUS.result; reset 0. -/
  stResult : Fin 10
  /-- SCENE_MQ_STATUS.state; reset 0. -/
  stState : Fin 4
  /-- SCENE_MQ_STATUS.slot; reset 0. -/
  stSlot : Fin 4
  /-- SCENE_MQ_STATUS.entry; reset 0. -/
  stEntry : BitVec 18
  /-- SCENE_CAST_CTL.mode (true NEXT); reset 0. -/
  castNext : Bool
  /-- SCENE_CAST_CTL.timebase; reset 0. -/
  castTb : Fin 4
  /-- SCENE_CAST_CTL.slot; reset 0. -/
  castSlot : Fin 4
  /-- SCENE_CAST_MQ; reset 0. -/
  castMq : Word
  /-- SCENE_CAST_BLK; reset 0. -/
  castBlk : BitVec 48
  /-- SCENE_CAST_RESULT.cast_id; reset 0. -/
  resId : BitVec 16
  /-- SCENE_CAST_RESULT.status; reset 0. -/
  resStatus : Byte
  /-- Pending casts in the order requested, R269; reset empty. -/
  casts : List CastSt
  /-- The caster's sequence, R270; DC 0. -/
  seq : BitVec 12
  /-- SCENE_LAST.cast_id; reset 0. -/
  lastId : BitVec 16
  /-- SCENE_LAST.outcome; reset 0. -/
  lastOutcome : Fin 6
  /-- SCENE_LAST.deferrals; reset 0. -/
  lastDefer : Fin 4
  /-- SCENE_LAST_BLK; reset 0. -/
  lastBlk : BitVec 48
  /-- SCENE_RANGE; reset 0. -/
  range : Word
  /-- The parameter record, in ascending PADDR, R257; reset empty. -/
  params : List ParamSt
  /-- CAST frames already passed on: sender, id, message, R445; reset empty. -/
  seen : List (BitVec 4 × BitVec 16 × CastKind × BitVec 48)
  deriving DecidableEq, Repr

/-- A meter period's record waiting to be written (R250). -/
structure MeterRec where
  dom     : Fin 4
  block   : BitVec 48
  seq     : Word
  samples : Nat
  /-- slot, peak, rms, flags. -/
  entries : List (Nat × Int × Int × Nat)
  deriving DecidableEq, Repr

/-- The event controller: queue, routing, GPIO, meter ring, detectors (chapters 07 and 17). -/
structure Evt where
  /-- Events offered to the host queue and not yet delivered, R573; reset empty. -/
  offered : List EventRec
  /-- Entries held in order while the queue is disabled, at most 256: queue sequence, rec_flags bit 2, event, R573;
  reset empty. -/
  held : List (Word × Bool × EventRec)
  /-- EVT_Q_CTL.enable; reset 0. -/
  qEnable : Bool
  /-- EVT_Q_CTL.log2_bytes; reset 16. -/
  qLog2 : Nat
  /-- EVT_Q_BASE; reset 0. -/
  qBase : BitVec 64
  /-- EVT_Q_WR; reset 0. -/
  qWr : Word
  /-- EVT_Q_RD; reset 0. -/
  qRd : Word
  /-- EVT_Q_DROPS; reset 0. -/
  qDrops : Word
  /-- Queue sequence of R573; reset 0. -/
  qSeq : Word
  /-- Entries dropped in the present run, R573; reset 0. -/
  qRun : Nat
  /-- The next entry carries rec_flags bit 2, R573; reset false. -/
  qPost : Bool
  /-- EVT_CLASS_VEC_0 to _15; reset n + 1 for n from 1 to 14, others 0. -/
  classVec : Vector Byte 16
  /-- EVT_OVR_0 to _63: [31] valid, [24] not_queued, [23:16] vector, [15:0] code; reset 0. -/
  ovr : Vector Word 64
  /-- EVT_GPIO_DIR; reset 0 (inputs after every reset, R576). -/
  gpioDir : Word
  /-- EVT_GPIO_OUT; reset 0. -/
  gpioOut : Word
  /-- Levels that the board drives on the pins, R576; DC 0. -/
  gpioExt : Word
  /-- Pins held high by a GPIO_PULSE, per compare unit, R315; reset 0. -/
  gpioPulse : Vector Word 16
  /-- Pins that a GPIO_PULSE is to raise 6 sample periods after its boundary, with the timebase, per compare unit, R315; own;
  reset none. -/
  gpioDue : Vector (Option (Fin 4 × Word)) 16
  /-- EVT_METER_CTL.period_blocks; reset 240. -/
  mPeriod : BitVec 12
  /-- EVT_METER_CTL.enable; reset 0. -/
  mEnable : Bool
  /-- EVT_METER_BASE; reset 0. -/
  mBase : BitVec 64
  /-- EVT_METER_SIZE.log2_bytes; reset 16. -/
  mLog2 : Nat
  /-- EVT_METER_WR; reset 0. -/
  mWr : Word
  /-- EVT_METER_RD; reset 0. -/
  mRd : Word
  /-- EVT_METER_DROPS; reset 0. -/
  mDrops : Word
  /-- Record sequence, R250; reset 0. -/
  mSeq : Word
  /-- A run of drops is open, R251; reset false. -/
  mDropRun : Bool
  /-- Records produced and not yet written, R251; reset empty. -/
  mRecs : List MeterRec
  /-- The block that the last record of each domain covers up to, R250; reset empty. -/
  mLast : List (Nat × Nat)
  /-- EVT_DET_LOST; reset 0. -/
  detLost : Word
  /-- Detector events raised in this pacing interval, R255; reset 0. -/
  detCount : Nat
  /-- Detector changes of this pacing interval: (node, silent), R255; reset empty. -/
  detChanges : List (Nat × Bool)
  /-- MSI-X: instant of the last message of each vector, R554; reset none. -/
  msixLast : Vector (Option Nat) 64
  /-- MSI-X pending bits, R554; reset 0. -/
  msixPend : BitVec 64
  /-- MSI-X mask bits (base specification), R554; reset: all masked; DC. -/
  msixMask : BitVec 64
  /-- Messages sent, newest first: (vector, instant); own; reset empty. -/
  msixSent : List (Nat × Nat)
  deriving DecidableEq, Repr

/-! ## Clocks and timebases -/

inductive TbState where
  | free | acquiring | locked | holdover | refused | syntonised
  deriving DecidableEq, Repr

/-- What waits for a block boundary of a domain (R27, R335, R386, R447, R474, R485). -/
inductive StageItem where
  | param (paddr : PAddr) (value : Word)
  | peerParam (paddr : PAddr) (value : Word)
  | sapMask (p : Fin 32) (line : Fin 4) (mask : Word)
  | sapTrig (p : Fin 32) (start : Bool)
  | ampTrig (c : Fin 16) (start : Bool)
  | ampDiag (c : Fin 16) (quick : Bool)
  | ampIndex (c : Fin 16) (v : BitVec 16)
  | ampLim (c : Fin 16) (v : Word)
  | srxEnable (u : Fin 256) (en : Bool)
  | stxEnable (u : Fin 256) (en : Bool)
  | tbSource (source : Nat) (index : Nat)
  | tbAccept
  | tbFirst (ns : Int)
  | tbSet (value : Nat)
  | tbStep (delta : Int)
  | stopAll
  | enterRun
  | commit (limit : BitVec 10)
  | clkOut (n : Fin 2) (div : BitVec 3) (idx : BitVec 2) (src : BitVec 3)
  deriving DecidableEq, Repr

/-- A staged item with the number of boundaries that must pass before it applies (R27, R447). -/
structure Staged where
  wait : Nat
  item : StageItem
  deriving DecidableEq, Repr

/-- A timebase (chapter 09). -/
structure Timebase where
  /-- Time since the PTP epoch in 2^-48 ns (48-bit s, 32-bit ns, 16-bit fraction, remainders), R294; DC 0. -/
  time : Nat
  /-- Block counter, R21; reset 0. -/
  blk : BitVec 48
  /-- Intervals processed since the load (R22); own; reset 0. -/
  ivl : Nat
  /-- Staging for the next boundary is open, R27; reset true. -/
  open_ : Bool
  /-- The SOURCE blocks of the interval have closed, R367, R379; reset false. -/
  srcClosed : Bool
  /-- What waits for boundaries of this timebase's domain, R27; reset empty. -/
  staged : List Staged
  /-- Parameter writes that a pair has fixed for a block number, R23, R447; reset empty. -/
  numbered : List (BitVec 48 × StageItem)
  /-- R297; reset FREE. -/
  state : TbState
  /-- TBn_CTL.source, R295; reset 0. -/
  source : Nat
  /-- TBn_CTL.source_index; reset 0. -/
  index : Nat
  /-- TBn_CTL.slew_ppm; reset 10. -/
  slewPpm : Nat
  /-- TBn_CTL.hold_window; reset 3. -/
  holdWindow : Nat
  /-- TBn_CTL.servo_bw; reset 1. -/
  servoBw : Nat
  /-- TBn_JUMP_THR.thr; reset 1000. -/
  jumpThr : Nat
  /-- TBn_RATE as written in FREE, R294; reset 0. -/
  rate : Word
  /-- Servo or holdover rate in use outside FREE, R299, R300; reset 0. -/
  servoRate : Int
  /-- Servo rates of the hold window, newest first: (instant, rate), R300; reset empty. -/
  rates : List (Nat × Int)
  /-- TBn_STATUS.outliers, R299; reset 0. -/
  outliers : BitVec 16
  /-- Outliers in a row, R299; reset 0. -/
  outRun : Nat
  /-- Measurements within 250 ns in a row, R298; reset 0. -/
  goodRun : Nat
  /-- Valid measurements in a row in HOLDOVER, R301; reset 0. -/
  validRun : Nat
  /-- The first offset of ACQUIRING has been applied, R298; reset false. -/
  stepped : Bool
  /-- TBn_STATUS.time_jump_refused, RWS; reset false. -/
  refused : Bool
  /-- A slew still to be made, signed, in 2^-48 ns, R302, R305; reset 0. -/
  slew : Int
  /-- TBn_STATUS.source_valid; reset false. -/
  sourceValid : Bool
  /-- A source loss waits for the next boundary, R300: its cause; reset none. -/
  lostDue : Option Nat
  /-- Latest measured offset in ns, R295; reset 0. -/
  offset : Int
  /-- Kept offset of SYNTONISED, R303; reset none. -/
  kept : Option Int
  /-- TBn_SET_S; reset 0. -/
  setS : BitVec 48
  /-- TBn_SET_NS; reset 0. -/
  setNs : Word
  /-- TBn_SNAP time, R306; reset 0. -/
  snap : TbTime
  /-- TBn_SNAP_BLK, R306; reset 0. -/
  snapBlk : BitVec 48
  /-- TBn_BLK_HI as latched by a read of _LO, R21; reset 0. -/
  blkHi : BitVec 16
  /-- The timebase whose time this one takes (source TB in effect), R298; reset none. -/
  follows : Option (Fin 4)
  /-- A jump over block numbers by the last boundary: the counter before it, R23; reset none. -/
  jumped : Option (BitVec 48)
  deriving DecidableEq, Repr

inductive ApllState where
  | off | searching | acquiring | locked | freeze | failed
  deriving DecidableEq, Repr

/-- An audio PLL (R308 to R312). -/
structure Apll where
  /-- APLLn_CTL.enable; reset 0. -/
  enable : Bool
  /-- APLLn_CTL.band_mode; reset 0. -/
  bandMode : BitVec 2
  /-- APLLn_CTL.band; reset 0. -/
  bandField : BitVec 6
  /-- APLLn_SEED.seed; reset 1. -/
  seed : BitVec 31
  /-- APLLn_STATUS.state; reset off. -/
  state : ApllState
  /-- APLLn_STATUS.band; reset 0. -/
  band : BitVec 6
  /-- APLLn_STATUS.mclk_valid; reset 0. -/
  mclk : Bool
  /-- APLLn_ERR, ps; reset 0. -/
  err : Word
  /-- The dither LFSR, R309; DC 1. -/
  lfsr : BitVec 31
  /-- The 32-bit fraction of the divider ratio, R309, R312; DC 0. -/
  frac : Word
  /-- The three accumulators of the sigma-delta modulator, R309; DC 0. -/
  mash : Vector Word 3
  /-- Carries that the modulator's differences still use: the second stage's last, the third's last two, R309; DC 0. -/
  carries : Vector Bool 3
  /-- The whole number that the modulator last added to the divider ratio, R309; DC 0. -/
  divStep : Int
  /-- Band-search step 0 to 6 (6 = verifying), R310; reset 0. -/
  step : Nat
  /-- Comparisons within 2 ns in a row, R311; reset 0. -/
  good : Nat
  /-- Comparisons beyond 50 ns in a row, R312; reset 0. -/
  bad : Nat
  /-- Timebase and rate family in use: (tb, family), R602; reset none. -/
  inUse : Option (Fin 4 × Bool)
  /-- The band of this lock came from the last-good record, R310; reset false. -/
  lastGood : Bool
  /-- Has locked since enabled (dividers aligned), R311; reset false. -/
  aligned : Bool
  deriving DecidableEq, Repr

/-- A compare unit (R313 to R316). -/
structure Cmp where
  /-- CMPkk_CTL.fires; reset 0. -/
  fires : BitVec 16
  /-- CMPkk_CTL.action; reset 0. -/
  action : BitVec 3
  /-- CMPkk_CTL.tb; reset 0. -/
  tb : Fin 4
  /-- CMPkk_CTL.late (RWS); reset 0. -/
  late : Bool
  /-- CMPkk_CTL.arm; reset 0. -/
  arm : Bool
  /-- CMPkk_BLK; reset 0. -/
  blk : BitVec 48
  /-- CMPkk_MASK; reset 0. -/
  mask : Word
  /-- CMPkk_PERIOD; reset 0. -/
  period : BitVec 16
  /-- The block number at which it next fires, R313; own; reset 0. -/
  due : BitVec 48
  /-- An occurrence that a forward reload has passed over fires at the next boundary, R314; own; reset false. -/
  owed : Bool
  deriving DecidableEq, Repr

/-- A GPIO capture (R317). -/
structure Capture where
  pin    : Fin 32
  rising : Bool
  tb     : Fin 4
  time   : TbTime
  deriving DecidableEq, Repr

/-- A clock output (R293): source in use, and blocks for which it is held low. -/
structure ClkOut where
  div : BitVec 3
  idx : BitVec 2
  src : BitVec 3
  /-- As written (ST). -/
  regDiv : BitVec 3
  regIdx : BitVec 2
  regSrc : BitVec 3
  low : Nat
  deriving DecidableEq, Repr

/-- The clock and time island (chapter 09). -/
structure Clk where
  /-- TB0 to TB3. -/
  tbs : Vector Timebase 4
  /-- APLL0 to APLL3. -/
  aplls : Vector Apll 4
  /-- CMP00 to CMP15. -/
  cmps : Vector Cmp 16
  /-- CLK_IN_STATUS.xtal_ok, R292; reset 0. -/
  xtalOk : Bool
  /-- CLK_IN_STATUS.sysref_ok, R292; reset 0. -/
  sysrefOk : Bool
  /-- The time clock runs from the system reference, R292; reset false. -/
  onSysref : Bool
  /-- Island generators hold open-loop, R292; reset false. -/
  openLoop : Bool
  /-- wck0_valid, wck1_valid, R291; reset 0. -/
  wckValid : Vector Bool 2
  /-- ref0_valid, ref1_valid, R291; reset 0. -/
  refValid : Vector Bool 2
  /-- wck0_rate, wck1_rate; reset 0xF. -/
  wckRate : Vector (BitVec 4) 2
  /-- CLK_IN_CFG.wck0_ratio, wck1_ratio; reset 0. -/
  wckRatio : Vector (BitVec 2) 2
  /-- CLK_IN_CFG.ref0_mode, ref1_mode; reset 0. -/
  refMode : Vector (BitVec 2) 2
  /-- CLK_OUT0_CFG, CLK_OUT1_CFG, R293; reset 0. -/
  outs : Vector ClkOut 2
  /-- GPIO_CAP_CTL.timebase; reset 0. -/
  capTb : Fin 4
  /-- GPIO_CAP_RISE; reset 0. -/
  capRise : Word
  /-- GPIO_CAP_FALL; reset 0. -/
  capFall : Word
  /-- The capture FIFO, oldest first, at most 64, R317; reset empty. -/
  caps : List Capture
  /-- GPIO_CAP_DROPS; reset 0. -/
  capDrops : Word
  /-- A run of drops is open, R317; reset false. -/
  capRun : Bool
  /-- Writes staged for the next pacing boundary (no domain of their own), R8; reset empty. -/
  gstage : List StageItem
  /-- Non-engine islands that have lost clock lock, R320; reset none. -/
  clockFaults : BitVec 59
  deriving DecidableEq, Repr

/-! ## Serial audio ports -/

inductive SapState where
  | stopped | acquiring | leadIn | running | leadOut | noClock | rateMismatch
  deriving DecidableEq, Repr

/-- A channel of a cluster-profile port that starts or stops at its zero crossing (R338). -/
structure ZcChan where
  chan : Nat
  /-- The sample from which it passes data, or gives zero, once found. -/
  from_ : Option Nat
  /-- No zero crossing came within N samples: its next 8 samples fade. -/
  fade : Bool
  deriving DecidableEq, Repr

/-- A mask change in progress (R341). -/
structure MaskRamp where
  line  : Fin 4
  old   : Word
  new   : Word
  /-- Sample 8m at which it starts, and R. -/
  first : Nat
  r     : Nat
  deriving DecidableEq, Repr

/-- An output frame of a serial audio port: the sample it carries (none: zero data), by channel its port word or high impedance
(R340), and the bits sent where a frame start has cut it short or come late (R346). -/
structure TxFrame where
  sample : Option Nat
  words  : List (Nat × Option Word)
  bits   : Option Nat
  deriving DecidableEq, Repr

/-- A serial audio port (chapter 10). -/
structure Sap where
  /-- SAPnn_CFG as the record gives it (LK), R349; reset all 0. -/
  cfg : SapRec
  /-- A PORTS record exists for the port; reset false. -/
  present : Bool
  /-- SAPnn_CTL.zc_timeout; reset 10. -/
  zcTimeout : Byte
  /-- SAPnn_CTL.lead_blocks; reset 8. -/
  leadBlocks : Byte
  /-- SAPnn_CTL.ramp_blocks; reset 12. -/
  rampBlocks : Byte
  /-- SAPnn_CTL.arm; reset 0. -/
  arm : Bool
  /-- SAPnn_STATUS.state, R334; reset STOPPED. -/
  state : SapState
  /-- SAPnn_STATUS.mask_busy, R341; reset 0. -/
  maskBusy : Bool
  /-- SAPnn_STATUS.mismatch_cause; reset 0. -/
  mismatch : Bool
  /-- SAPnn_STATUS.missing, R343; reset 0. -/
  missing : Nat
  /-- SAPnn_FLAGS (RWS): stop glitch underrun overrun rate_mismatch clip start_ignored; reset 0. -/
  flags : BitVec 7
  /-- SAPnn_ENABLE_L0 to L3 (LK); reset 0. -/
  enable : Vector Word 4
  /-- SAPnn_MASK_L0 to L3 as written; reset 0. -/
  maskReg : Vector Word 4
  /-- Masks in effect, R341; reset 0. -/
  mask : Vector Word 4
  /-- Held mask writes, R342; reset none. -/
  maskHeld : Vector (Option Word) 4
  /-- Mask changes in progress, R341; reset empty. -/
  ramps : List MaskRamp
  /-- SAPnn_PHASE, ns; reset 0. -/
  phase : Word
  /-- SAPnn_PERIOD, ps; reset 0. -/
  period : Word
  /-- SAPnn_UNDERRUNS, _OVERRUNS, _GLITCHES, _CLIPS; reset 0. -/
  underruns : Word
  overruns : Word
  glitches : Word
  clips : Word
  /-- SAPnn_START_BLK; reset 0. -/
  startBlk : BitVec 48
  /-- Media sample assigned to the last frame, R332; reset none. -/
  lastSample : Option Nat
  /-- Media sample that the frame in progress carries, R332; reset none. -/
  cur : Option Nat
  /-- Words by channel of the frame in progress, R326; reset empty. -/
  words : List Word
  /-- Start of the frame in progress in ps, R331; reset none. -/
  lastStart : Option Nat
  /-- Consecutive valid frames, R339, R345; reset 0. -/
  validRun : Nat
  /-- Consecutive long or short periods, R347; reset 0. -/
  badPeriods : Nat
  /-- Consecutive frames discarded for their bit count, R347; reset 0. -/
  badBits : Nat
  /-- Each channel's value in the last frame delivered, R344, R346; reset empty. -/
  lastFrame : List Word
  /-- The ramp-out of R344: the sample s from which it runs; reset none. -/
  outFrom : Option Nat
  /-- The block of samples released with factor (i+1)/8, R337, R345; reset none. -/
  fadeIn : Option Nat
  /-- The block of samples released with factor (7-i)/8, R337; reset none. -/
  fadeOut : Option Nat
  /-- Samples before this one are zero, R337, R345; reset 0. -/
  zeroTo : Nat
  /-- Samples from this one on are zero, R337, R339; reset none. -/
  zeroFrom : Option Nat
  /-- First sample of the present start or stop, 8(b+1), R337, R338; reset 0. -/
  first : Nat
  /-- First sample that a master's clocks carry, R329, R337, R338; reset 0. -/
  clkFirst : Nat
  /-- Block at which the lead-in ends, R337; reset none. -/
  leadEnd : Option Nat
  /-- Block at which the port becomes STOPPED, R337; reset none. -/
  stopEnd : Option Nat
  /-- A slave's start joins by recovery, R339; reset false. -/
  joining : Bool
  /-- N of zc_timeout for the start or stop in progress, and whether a stop is in progress, R338; reset 0, false. -/
  zcN : Nat
  zcStop : Bool
  /-- Channels that start or stop at a zero crossing, R338; reset empty. -/
  zc : List ZcChan
  /-- Input frames received: (media sample, port words by channel), newest first, R332; reset empty. -/
  rx : List (Nat × List Word)
  /-- SINK data waiting to leave: (media sample, channel, signal word), R32; reset empty. -/
  outBuf : List (Nat × Nat × Word)
  /-- Frames of a slave that started before the boundary of their block, R341: the sample, and how many bits where that is known;
  reset empty. -/
  late : List (Nat × Option Nat)
  /-- Output frames, newest first; own; reset empty. -/
  tx : List TxFrame
  /-- Events at most once per block: glitch, underrun, overrun raised, R332, R346; reset false. -/
  evGlitch : Bool
  evUnder : Bool
  evOver : Bool
  /-- A run of clipping blocks is open, R328, and a clip occurred in this block; reset false. -/
  clipRun : Bool
  clipNow : Bool
  /-- Clocks driven by a master, R334; reset false. -/
  clocks : Bool
  deriving DecidableEq, Repr

/-! ## Network -/

/-- One entry of the transmit timestamp queue (R374). -/
structure TxTs where
  msgType : BitVec 4
  domain  : Byte
  seqId   : BitVec 16
  time    : TbTime
  deriving DecidableEq, Repr

/-- A frame the port has sent, in the order sent: own record of what leaves (R354, R368, R382). -/
inductive NetOut where
  | arpReply (target : Word)
  | igmpJoin (group : Word) (sources : List Word) (v2 : Bool)
  | igmpLeave (group : Word) (v2 : Bool)
  | igmpReport (group : Word) (sources : List Word) (v2 : Bool)
  | ptp (ethernet : Bool) (msgType : BitVec 4) (seqId : BitVec 16) (clockClass p1 p2 : Byte)
  | rtp (stream : Nat) (legB : Bool) (packet : Nat) (headers payload : List Byte)
  deriving DecidableEq, Repr

/-- An Ethernet port (chapter 11). -/
structure Eth where
  /-- NETn_CFG and its record (LK), R357; reset all 0. -/
  cfg : EthRec
  /-- A record exists; reset false. -/
  present : Bool
  /-- NETn_STATUS.link_up, R356; reset 0. -/
  linkUp : Bool
  /-- NETn_STATUS.igmp_v2, R383; reset 0. -/
  igmpV2 : Bool
  /-- NETn_STATUS.ptp_state; reset 0 DISABLED. -/
  ptpState : Fin 7
  /-- NETn_FLAGS (RWS): link_down txts_overflow ptp_malformed tx_late; reset 0. -/
  flags : BitVec 4
  /-- NETn_ASYM; reset 0. -/
  asym : Word
  /-- NETn_PTP_CTL: holdover_class 187, clock_class 248, priority2 128, priority1 128. -/
  holdClass : Byte
  clockClass : Byte
  prio2 : Byte
  prio1 : Byte
  /-- NETn_PTP_BAD, _TXTS_DROPS, _RX_DISCARD, _FCS_ERR; reset 0. -/
  ptpBad : Word
  txtsDrops : Word
  rxDiscard : Word
  fcsErr : Word
  /-- Transmit timestamp queue, oldest first, at most 64, R374; reset empty. -/
  txts : List TxTs
  /-- A run of timestamp drops is open, R375; reset false. -/
  txtsRun : Bool
  /-- The latest 8 path-delay results in ns, newest first, R371; reset empty. -/
  delays : List Int
  /-- A two-step Sync awaiting its Follow_Up: (sequenceId, t2, correction), R371; reset none. -/
  syncWait : Option (BitVec 16 × Int × Int)
  /-- A Delay_Req or Pdelay_Req sent: (sequenceId, t departure), R371; reset none. -/
  delayWait : Option (BitVec 16 × Int)
  /-- A Pdelay_Resp received: (sequenceId, t2, t4, correction), R371; reset none. -/
  pdelayWait : Option (BitVec 16 × Int × Int × Int)
  /-- The time of the last Sync sent of which a Delay_Resp completes: (t1, t2), R371; reset none. -/
  lastSync : Option (Int × Int)
  /-- NETn_PARENT: grandmasterIdentity; reset 0. -/
  parent : BitVec 64
  /-- The parent's sourcePortIdentity, R371, R372; reset 0. -/
  parentSrc : BitVec 64
  /-- Next sequenceId of a sent message; DC 0. -/
  seqId : BitVec 16
  /-- Instant of the last PTP_MALFORMED, R373; reset none. -/
  malAt : Option Nat
  /-- TX_LATE raised in this block, R366; reset false. -/
  lateRaised : Bool
  /-- Frames sent, newest first; own; reset empty. -/
  sent : List NetOut
  deriving DecidableEq, Repr

/-- The run of missing samples of a stream or link (R379): samples missing so far, samples since the last run ended (8 when
its fade is over), each channel's last sample received. -/
structure GapSt where
  run   : Nat
  since : Nat
  last  : List Word
  deriving DecidableEq, Repr

/-- A receive stream (R376 to R384). -/
structure Srx where
  /-- Its record; reset none. -/
  cfg : Option RxRec
  /-- NET_SRXuuu_CTL.enable as written (ST); reset 0. -/
  enableReg : Bool
  /-- Enable in effect, R382; reset 0. -/
  enable : Bool
  /-- NET_SRXuuu_STATUS.state: 0 off 1 waiting 2 RECEIVING 3 LOST, R380; reset 0. -/
  state : Fin 4
  /-- leg_a_up, leg_b_up, R380; reset 0. -/
  legA : Bool
  legB : Bool
  /-- _PACKETS _DUPLICATES _LATE _EARLY _GAPS _MALFORMED; reset 0. -/
  packets : Word
  dups : Word
  late : Word
  early : Word
  gaps : Word
  malformed : Word
  /-- worst_margin; reset 0x7FFF_FFFF. -/
  margin : Word
  /-- Newest accepted sequence number, R377; reset none. -/
  newest : Option (BitVec 16)
  /-- Sequence numbers marked, R377; reset empty. -/
  marked : List (BitVec 16)
  /-- Samples written and not yet closed: (media index, words by channel), R378; reset empty. -/
  buf : List (Nat × List Word)
  /-- The run of missing samples, R379; reset none. -/
  gap : GapSt
  /-- The SOURCE block formed at its close, by channel, R379; reset none. -/
  formed : Option (List Frame)
  /-- STREAM_GAP, STREAM_MALFORMED raised in this block; reset false. -/
  gapRaised : Bool
  malRaised : Bool
  deriving DecidableEq, Repr

/-- A transmit stream (R364 to R366, R385 to R387). -/
structure Stx where
  cfg : Option TxRec
  /-- NET_STXuuu_CTL.enable as written (ST); reset 0. -/
  enableReg : Bool
  /-- Enable in effect, R386; reset 0. -/
  enable : Bool
  /-- held_by_redundancy, R387; reset 0. -/
  held : Bool
  /-- _PACKETS, _LATE; reset 0. -/
  packets : Word
  late : Word
  /-- SINK samples stamped and not yet sent: (stamp, words by channel), R364; reset empty. -/
  buf : List (Nat × List Word)
  /-- Packets due and not yet started: (packet number, boundary, leg B), R365, R366; reset empty. -/
  due : List (Nat × Nat × Bool)
  deriving DecidableEq, Repr

/-- The network island (chapter 11). -/
structure Net where
  eths : Vector Eth 4
  rx : Vector Srx 256
  tx : Vector Stx 256
  /-- NET_RXBUF.spill_kib, R381; reset 0. -/
  spillKib : Nat
  /-- NET_RXBUF.pool_kib, R381; reset 0. -/
  poolKib : Nat
  deriving DecidableEq, Repr

/-! ## Memory, crossbar, DRAM, secure partition -/

/-- Causes of an ERROR response (R394). -/
inductive XCause where
  | decode | denied | notReady | ecc | timeout | noAtomic | fenced
  deriving DecidableEq, Repr


/-- An answer of the crossbar: data, or an ERROR with its cause (R394). -/
inductive XResp where
  | okay (data : List Byte)
  | error (c : XCause)
  deriving DecidableEq, Repr

/-- An outstanding transaction (R397). -/
structure XOut where
  master : Fin 37
  id     : Fin 16
  addr   : BitVec 40
  target : Option (Fin 21)
  write  : Bool
  /-- Beats of a write burst still to be delivered, R412, R413. -/
  beats  : Nat
  resp   : Option XResp
  /-- The lane that brings a peer's response, R444. -/
  lane   : Option (Fin 4) := none
  /-- The address after a write burst: its beats still to be delivered end there, R399. -/
  stop   : Nat := 0
  deriving DecidableEq, Repr

/-- What a request asks of a bank. -/
inductive BankOp where
  | read (len : Nat)
  | write (bytes : List (Option Byte))
  | atomic (op : Nat) (operand : Word)
  deriving DecidableEq, Repr

/-- A granted request at its bank (R400): the cycle in which it reached the bank, and how often it has lost in a row. -/
structure BankReq where
  master : Fin 37
  id     : Fin 16
  addr   : BitVec 40
  op     : BankOp
  since  : Nat
  lost   : Nat
  deriving DecidableEq, Repr

/-- The crossbar and the shared banks (chapter 12). -/
structure Xbar where
  /-- XBAR_CTL.age_step, R395; reset 32. -/
  ageStep : Byte
  /-- XBAR_FENCED, R412; reset 0. -/
  fenced : BitVec 37
  /-- Masters in reset, R412; reset 0. -/
  inReset : BitVec 37
  /-- XBAR_FENCE_LOG: drained, id, master; reset 0. -/
  fDrained : Byte
  fId : Fin 16
  fMaster : Fin 37
  /-- XBAR_FENCE_ADDR; reset 0. -/
  fAddr : BitVec 40
  /-- XBAR_ERR_LOG: cause (0 none), target, master; reset 0. -/
  eCause : Nat
  eTarget : Fin 32
  eMaster : Fin 37
  /-- XBAR_ERR_ADDR; reset 0. -/
  eAddr : BitVec 40
  /-- XBAR_ERRORS; reset 0. -/
  errors : Word
  /-- XBAR_PRIOmm: nibble per target, R391, R395; reset the master's reset priority. -/
  prio : Vector (Vector (BitVec 4) 21) 37
  /-- Transactions outstanding, oldest first, R397; reset empty. -/
  outstanding : List XOut
  /-- Requests that compete at the banks, in the order they came, R400; reset empty. -/
  bankQ : List BankReq
  /-- The cycle from which a bank is free again, where one has served such requests, R400; reset empty. -/
  bankFree : List (Nat × Nat)
  /-- Master on which each target is parked (granted last), R396; DC 0. -/
  parked : Vector (Fin 37) 21
  /-- Responses delivered to masters, newest first; own; reset empty. -/
  delivered : List (Fin 37 × Fin 16 × XResp)
  /-- Instant of the last XBAR_ERROR of each master, R394; reset none. -/
  errAt : Vector (Option Nat) 37
  /-- MEM_BANK_REQ as read back: the state requested of each bank; reset ON (0xAAAA_AAAA). -/
  bankReq : Vector (BitVec 2) 256
  /-- Bank states, R405; reset OFF (MEM_BANK_STATE 0); S4 turns them ON. -/
  bank : Vector BankState 256
  /-- Bank changes waiting for a MEMORY plan: (bank, state), R406; reset empty. -/
  bankWait : List (Fin 256 × BankState)
  /-- Banks holding a fixed allocation (maquette store, spilled tables, spilled buffers), R406; reset empty. -/
  fixed : List Nat
  /-- MEM_REPAIR.failed and rows, R409; reset 0. -/
  repFailed : Nat
  repRows : Nat
  /-- MEM_ECC_CE, MEM_ECC_UE, R410; reset 0. -/
  ce : Word
  ue : Word
  /-- MEM_ECC_LOG; reset 0. -/
  eccLog : BitVec 27
  /-- An uncorrectable SRAM error in this and the previous interval, R450; reset false. -/
  ueNow : Bool
  uePrev : Bool
  /-- SRAM_ECC_CORRECTED raised in this pacing interval, R410; reset false. -/
  ceRaised : Bool
  /-- Words with a correctable, and with an uncorrectable, error (64-bit word numbers); DC none. -/
  badCe : List Nat
  badUe : List Nat
  /-- MEM_SCRUB_CTL.scrub_en, R411; reset 1. -/
  scrub : Bool
  /-- Instant of the last BANK_ACCESS_OFF, R405; reset none. -/
  offAt : Option Nat
  /-- MEM_SEC_STATUS.state: 0 open 1 wiping 2 CLOSED, R421; reset 0. -/
  secState : Fin 3
  /-- MEM_SEC_STATUS.bad_banks, R422; reset 0. -/
  secBad : Byte
  /-- The wipe in progress is a full one, R421; reset false. -/
  secFull : Bool
  /-- A word has read back non-zero since the last power-on reset, R422; reset false. -/
  secClosed : Bool
  /-- Lanes that still bring the response of a remote access answered with TIMEOUT: it is discarded, R401, R444; reset empty. -/
  lateWin : List (Fin 4)
  /-- Transactions completed under each fence, with the ID and address to be logged, R412; own; reset empty. -/
  fences : List (Fin 37 × Fin 16 × BitVec 40 × Nat)
  deriving DecidableEq, Repr

/-- DRAM states of DRAMc_STATUS. -/
inductive DramState where
  | off | training | ready | failed | down
  deriving DecidableEq, Repr

/-- A DRAM controller (R414 to R419). -/
structure Dram where
  /-- DRAMc_STATUS.state; reset OFF. -/
  state : DramState
  /-- DRAMc_STATUS.fail_step, R416; reset 0. -/
  failStep : Nat
  /-- DRAMc_STATUS.mr4, R417; reset 0. -/
  mr4 : BitVec 16
  /-- DRAMc_CFG.usable_mib in 16 MiB units, R415; reset 0. -/
  usable : Nat
  /-- DRAMc_CFG.rate; reset 0. -/
  rate : Byte
  /-- DRAMc_CFG.ranks; reset 0. -/
  ranks : Bool
  /-- DRAMc_CFG.type; reset 0. -/
  lp5x : Bool
  /-- DRAMc_CE, DRAMc_UE, R415; reset 0. -/
  ce : Word
  ue : Word
  /-- DRAMc_ERR_ADDR; reset 0. -/
  errAddr : BitVec 40
  /-- Instants of the uncorrectable errors of the last second, R418; reset empty. -/
  ueAt : List Nat
  /-- In self-refresh, R503; reset false. -/
  selfRefresh : Bool
  /-- WCK-to-DQ re-trackings made, R417; own; reset 0. -/
  retracks : Nat
  deriving DecidableEq, Repr

/-- A handshake channel between two islands: its FIFO, and errors recorded by the sender (R13, R15). -/
structure HsChan where
  src   : Fin 59
  dst   : Fin 59
  fifo  : List (List Byte)
  /-- Transfers delivered, newest first. -/
  out   : List (List Byte)
  /-- A transfer held back because the FIFO is full, R13. -/
  wait  : Option (List Byte)
  error : Bool
  deriving DecidableEq, Repr

/-! ## Redundancy and Grenik lanes -/

inductive LaneState where
  | off | training | hello | up | down | refused
  deriving DecidableEq, Repr

/-- A frame sent on a lane (R439): own record of what leaves. -/
inductive LinkOut where
  | hello | ack (a : BitVec 16) (nak : Bool) | audio (block : BitVec 48) (samples : List Word)
  | time | breath (b : BreathMsg) | param (p : PAddr) (v : Word) (blk : BitVec 48)
  | seed (m : SeedMsg) | health (w : Word) (blk : BitVec 48) | cast (m : CastMsg) | window (m : WinMsg)
  deriving DecidableEq, Repr

/-- A frame as it leaves a lane: its header fields and what it carries (R439). -/
structure LinkFrame where
  out  : LinkOut
  seq  : BitVec 16
  ack  : BitVec 16
  retx : Bool
  deriving DecidableEq, Repr

/-- A Grenik lane (R436 to R445). -/
structure LaneSt where
  /-- Its LINK record; reset role OFF. -/
  cfg : LinkRec
  /-- RED_LANEn_STATUS.state; reset OFF. -/
  state : LaneState
  /-- failures, R440; reset 0. -/
  failures : BitVec 16
  /-- refused_field, R438; reset 0. -/
  refusedField : Fin 6
  /-- peer_position; reset 0. -/
  peerPos : BitVec 4
  /-- RED_LANEn_RETX; reset 0. -/
  retx : Word
  /-- HELLO agrees and the 1 ms runs, R438; reset false. -/
  agreed : Bool
  /-- Instants of the failures of the last ms, R440; reset empty. -/
  failAt : List Nat
  /-- Next sequence number to send; DC 0. -/
  seq : BitVec 16
  /-- Frames outstanding, oldest first, at most 64, R440; reset empty. -/
  window : List (BitVec 16 × LinkOut)
  /-- Last frame received in order; DC 0xFFFF. -/
  lastRx : BitVec 16
  /-- Frames sent, newest first; own; reset empty. -/
  sent : List LinkFrame
  /-- Link-channel samples received: (block, words), R441; reset empty. -/
  rx : List (Nat × List Word)
  /-- The run of missing link samples, R379, R441; reset none. -/
  gap : GapSt
  /-- The SOURCE block formed at its close, by channel, R379, R441; reset none. -/
  formed : Option (List Frame)
  /-- LINK_RX_LATE raised in this block, R441; reset false. -/
  lateRaised : Bool
  /-- The link SOURCE frame of this interval has been published, R441; reset false. -/
  published : Bool
  deriving DecidableEq, Repr

/-- Pair states of R452. -/
inductive PairState where
  | off | alone | joining | verifying | paired | isolated | held
  deriving DecidableEq, Repr

/-- The redundancy unit (chapter 13). -/
structure Red where
  /-- RED_CTL.active_gpio; reset 0. -/
  activeGpio : Fin 32
  /-- RED_CTL.gpio_en; reset 0. -/
  gpioEn : Bool
  /-- RED_CTL.auto_reseed; reset 1. -/
  autoReseed : Bool
  /-- Rank, sampled at power-on reset, R446; DC false. -/
  rank : Bool
  /-- RED_PAIR_STATUS.state, R452; reset OFF. -/
  pair : PairState
  /-- partner_state, partner_rank, R451; reset 0. -/
  partnerState : Fin 8
  partnerRank : Bool
  /-- seed_phase, R458; reset 0. -/
  seedPhase : Fin 4
  /-- RED_PAIR_FLAGS (RWS): mismatch isolated rank_conflict seed_takeover seed_aborted seed_failed; reset 0. -/
  flags : BitVec 6
  /-- RED_PARAM_EPOCH, R448; reset 0. -/
  paramEpoch : Word
  /-- RED_DIGEST, R449; reset 0. -/
  digest : Word
  /-- Unit digests by interval, newest first, R454; reset empty. -/
  digests : List (BitVec 48 × Word)
  /-- Unit health words by interval, newest first, R454; reset empty. -/
  healths : List (BitVec 48 × Word)
  /-- RED_PARTNER_DIGEST; reset 0. -/
  partnerDigest : Word
  /-- RED_UNIT_HEALTH, R450; reset 0. -/
  unitHealth : Word
  /-- RED_MATCHES; reset 0. -/
  matches_ : Word
  /-- RED_COUNTS.replays and mismatches; reset 0. -/
  replays : BitVec 16
  mismatches : BitVec 16
  /-- RED_PAIR_SEL; reset 0. -/
  pairSel : BitVec 16
  /-- CRITICAL pairs in ascending node id, R431; reset empty. -/
  pairs : List PairSt
  /-- Last block received from the partner, R451; reset 0. -/
  lastPartner : BitVec 48
  /-- Breaths missing in a row, R455; reset 0. -/
  missed : Nat
  /-- Breaths received in a row while ALONE or ISOLATED, R456; reset 0. -/
  heard : Nat
  /-- The block of the last breath received: a second copy of it counts no more, R451; reset none. -/
  lastBreath : Option (BitVec 48)
  /-- A digest mismatch awaits breath m + 1: (m, own fail, partner fail), R454; reset none. -/
  duetBad : Option (BitVec 48 × Bool × Bool)
  /-- A pair-state change waits for a boundary: (block, state), R454 to R459; reset none. -/
  due : Option (BitVec 48 × PairState)
  /-- Comparing after a reconnection: matches so far, R456; reset none. -/
  reconnect : Option Nat
  /-- Third-phase mismatches, R458; reset 0. -/
  seedFails : Nat
  /-- Seed: parameters received and not yet committed, their epoch; R458; reset none. -/
  seedParams : List SeedParam
  seedEpoch : Option (Word × BitVec 48)
  /-- Parameters written at each boundary since the seed was asked for, with its block, R447, R458; own; reset empty. -/
  seedWritten : List (BitVec 48 × List PAddr)
  /-- Nodes whose items are complete on the joiner, R458; reset empty. -/
  seedDone : List Nat
  /-- The joiner's GAIN, SEND and LIMIT values as last received, R458; reset empty. -/
  seedGains : List (Nat × Word)
  seedSends : List (Nat × Word)
  seedLimits : List (Nat × Word)
  /-- As source: 0 none, 1 the parameter record is due at the next boundary, 2 the state is, 3 forwarding, R458; reset 0. -/
  seedSrc : Fin 4
  /-- A reseed request waits, R457; reset false. -/
  reseed : Bool
  /-- HEALTH frames of the cluster: failing positions, R450; reset empty. -/
  clusterBad : List Nat
  /-- HEALTH frames passed on: position and block, newest first, R445, R450; reset empty. -/
  healthSeen : List (Fin 8 × BitVec 48)
  /-- The last breath came from a transmitting partner, R457; reset false. -/
  partnerTx : Bool
  /-- Lanes TL0 to TL3. -/
  lanes : Vector LaneSt 4
  deriving DecidableEq, Repr

/-! ## Amplifier modulators -/

/-- Channel states of R473. -/
inductive AmpState where
  | off | starting | running | stopping | shutdown | testing | latched | diag
  deriving DecidableEq, Repr

/-- An amplifier modulator channel (chapter 14). -/
structure Amp where
  /-- An AMP record of the loaded image enables the channel, R470; reset false. -/
  present : Bool
  /-- AMPnn_CFG.flt_active_high (LK); reset 0. -/
  fltHigh : Bool
  /-- AMPnn_CFG.domain; reset 0. -/
  domain : Fin 4
  /-- AMPnn_CFG.blank_counts; reset 0. -/
  blank : Byte
  /-- AMPnn_CFG.dead_counts; reset 0. -/
  dead : Byte
  /-- AMPnn_CFG.period_counts, 12 bits; reset 2,048. -/
  period : Nat
  /-- AMPnn_CTL.diag_kind (true quick); reset 0. -/
  diagQuick : Bool
  /-- AMPnn_CTL.auto_start (LK); reset 0. -/
  autoStart : Bool
  /-- AMPnn_LEVEL.min_pulse; reset 40. -/
  minPulse : Byte
  /-- AMPnn_LEVEL.fs_index as written and in effect (ST); reset 0x7333. -/
  fsReg : BitVec 16
  fsIndex : BitVec 16
  /-- AMPnn_LIM.lim_thr as written and in effect (ST); reset 0x0080_0000. -/
  limReg : Word
  limThr : Word
  /-- AMPnn_PROTECT.start_blocks as written; reset 8. -/
  startBlocks : Byte
  /-- AMPnn_PROTECT.retry_ms, 13 bits; reset 500. -/
  retryMs : Nat
  /-- AMPnn_PROTECT.oc_thr as written; reset 128. -/
  ocThr : Byte
  /-- AMPnn_STATUS.state, R473; reset OFF. -/
  state : AmpState
  /-- AMPnn_STATUS.braced, R481; reset 0. -/
  braced : Bool
  /-- AMPnn_STATUS.group_size, R470; reset 0. -/
  groupSize : Nat
  /-- AMPnn_STATUS.slot, R470; reset 0. -/
  slot : Nat
  /-- AMPnn_STATUS.retries, R479; reset 0. -/
  retries : Nat
  /-- AMPnn_FLAGS (RWS): oc_limited shutdown driver_fault latched clip start_ignored diag_refused; reset 0. -/
  flags : BitVec 7
  /-- AMPnn_OC_CYCLES; reset 0. -/
  ocCycles : Word
  /-- AMPnn_SHUTDOWNS; reset 0. -/
  shutdowns : Word
  /-- AMPnn_CLIPS; reset 0. -/
  clips : Word
  /-- AMPnn_DIAG_LEVEL, signed hundredths of a dB; reset -4,000. -/
  diagLevel : BitVec 16
  /-- AMPnn_SHORT; reset 1,000. -/
  shortM : Word
  /-- AMPnn_OPEN; reset 200,000. -/
  openM : Word
  /-- AMPnn_I_FS; reset 0. -/
  iFs : Word
  /-- AMPnn_V_FS; reset 0. -/
  vFs : Word
  /-- AMPnn_DIAG_RESULT.c_nf; reset 0. -/
  cNf : BitVec 24
  /-- AMPnn_DIAG_RESULT.points; reset 0. -/
  points : Nat
  /-- AMPnn_DIAG_RESULT.class, R483; reset 0. -/
  cls : Fin 6
  /-- AMPnn_DIAG_RMIN; reset 0. -/
  rmin : Word
  /-- AMPnn_DIAG_Z0 to _Z9, R484; reset 0. -/
  z : Vector Word 10
  /-- The running diagnostic is a quick run, R485; own; reset false. -/
  runQuick : Bool
  /-- AMPnn_EN high, R463; reset false. -/
  en : Bool
  /-- Carrier periods of the channel's slot since the grid of its group began, R470; reset 0. -/
  grid : Nat
  /-- The APLL whose clock is lost: the channel is OFF at the end of the carrier period in progress, R472; reset none. -/
  lost : Option (Fin 4)
  /-- The carrier period in progress is the last of a stop, R475; own; reset false. -/
  ends : Bool
  /-- Channel limiter gain of the last sample in 2^-31, R464, R220; reset unity. -/
  gLast : Nat
  /-- The block at which a start becomes RUNNING, or the boundary of a stop trigger, R475; reset 0. -/
  trigBlk : BitVec 48
  /-- A stop met the start before its data: they stay zero, R475; own; reset false. -/
  muted : Bool
  /-- Carrier periods since the channel joined its grid, R470; own; reset 0. -/
  k : Nat
  /-- Pulse width W_k of the period in progress, R467; own; reset 0. -/
  width : Nat
  /-- The noise shaper's state is no longer known to be zero, R467; own; reset false. -/
  shaped : Bool
  /-- Limited signal words with their start or stop factors: the 8 samples of the block being modulated and the 4 that
  follow, R464, R475; reset empty. -/
  words : List Word
  /-- The period in progress holds an early edge, R476; reset false. -/
  limNow : Bool
  /-- Early edges of leg A in the period in progress, by count, with the level taken, R476; reset empty. -/
  early : List (Nat × Bool)
  /-- Leg A is high as the period in progress begins, R467; own; reset false. -/
  startHigh : Bool
  /-- HSCLK cycles from the last edge of leg A in an earlier period to the start of the period in progress, R469; own; reset
  none. -/
  lastEdge : Option Nat
  /-- Consecutive limited periods, R477; reset 0. -/
  limRun : Nat
  /-- Limited periods among the last round(f_c × 1 ms), newest first as period numbers, R477; reset empty. -/
  limWin : List Nat
  /-- AMP_OC_LIMITING raised in this block, R476; reset false. -/
  ocRaised : Bool
  /-- A run of blocks that hold a clip is open, and this block holds one, R468; reset false. -/
  clipRun : Bool
  clipNow : Bool
  /-- Instant of the shutdown or of the end of the last retry test, R478; reset none. -/
  waitFrom : Option Nat
  /-- The retry interval passed while braced, R481; reset false. -/
  retryDue : Bool
  /-- Instant of entry to RUNNING, R478, R479; reset none. -/
  runFrom : Option Nat
  /-- Started by a retry, R478; reset false. -/
  resumed : Bool
  deriving DecidableEq, Repr

/-! ## Patina and life cycle -/

/-- One Patina island (R531 to R536). -/
structure PatIsland where
  /-- PATINA_SLACKii.slack; reset 0xFFFF. -/
  slack : BitVec 16
  /-- PATINA_SLACKii.least; reset 0xFFFF. -/
  least : BitVec 16
  /-- Least slack of the 256-hour period, R536; own; reset 0xFFFF. -/
  period : BitVec 16
  /-- Consecutive measurements below floor_ps, R533, R535; reset 0. -/
  run : Nat
  /-- Instant of the last PATINA_LOW, R535; reset none. -/
  lowAt : Option Nat
  /-- Instant of the last request and whether its lowering is still to take effect, R533, R534; reset none. -/
  request : Option Nat
  lowering : Bool
  /-- Every measurement since the request was below floor_ps, R534; reset false. -/
  below : Bool
  deriving DecidableEq, Repr

/-- Life-cycle requests and the tamper erase (R538 to R543). -/
structure Lc where
  /-- LC_STATUS.result; reset 0. -/
  result : Byte
  /-- LC_CTL.target; reset 0. -/
  target : BitVec 3
  /-- The transition that is running and waits for its wipe, LC_STATUS.busy, R540; reset none. -/
  running : Option LcState
  /-- LC_PROV_CTL.item; reset 0. -/
  item : BitVec 3
  /-- LC_PROV_ADDR, bits [63:3]; reset 0. -/
  addr : BitVec 64
  /-- LC_AUTH_0 to _23; reset 0. -/
  auth : Vector Word 24
  deriving DecidableEq, Repr

/-! ## Host interface -/

/-- A flash update in progress (R572). -/
structure FlashUpd where
  target  : Fin 6
  content : List Byte
  deriving DecidableEq, Repr

/-- An answer of the host interface to a request that has a completion (R551, R566). -/
inductive Completion where
  | data (bytes : List Byte)
  | ur
  | ca (zeros : Nat)
  deriving DecidableEq, Repr

/-- The host interface, mailbox and SPI slave (chapter 17). -/
structure HostIf where
  /-- HOST_WINk: enable, half, region, R550; reset 0. -/
  wins : Vector Word 64
  /-- HOST_STATUS.link_up; reset 0. -/
  linkUp : Bool
  /-- HOST_STATUS.width; reset 0. -/
  width : BitVec 4
  /-- HOST_STATUS.speed; reset 0. -/
  speed : BitVec 4
  /-- HOST_REFUSED; reset 0. -/
  refused : Word
  /-- HOST_REFUSED_LOG: reason, answer, BAR; reset 0. -/
  refReason : BitVec 4
  refAnswer : BitVec 2
  refBar : BitVec 3
  /-- HOST_REFUSED_ADDR; reset 0. -/
  refAddr : Word
  /-- Instant of the last PCIE_REQUEST_REFUSED, R551; reset none. -/
  refAt : Option Nat
  /-- Bytes of BAR2 by offset: the mailbox ring at 0 to 0x3FFF (R555), the MSI-X table at 0xF000 (R553); reset 0 (empty list). -/
  ring : Mem
  /-- MB_TAIL; reset 0. -/
  tail : Word
  /-- MB_HEAD; reset 0. -/
  head : Word
  /-- MB_CTL.enable; reset 0. -/
  enable : Bool
  /-- MB_STATUS.ring_error (W1C); reset 0. -/
  ringError : Bool
  /-- Instant of the last HOST_BAD_COMMAND, R560; reset none. -/
  badAt : Option Nat
  /-- The 16 SPI slots of 64 bytes, R568; DC 0. -/
  spi : Mem
  /-- SPI slots submitted and not yet executed, in order, R568; reset empty. -/
  spiQ : List (Fin 16)
  /-- The last command came from the PCIe ring, R568; reset false. -/
  lastRing : Bool
  /-- SPI_STATUS.last_nak; reset 0. -/
  lastNak : Byte
  /-- SPI_STATUS.refused; reset 0. -/
  spiRefused : BitVec 16
  /-- The answer that the next SPI frame carries first, R566; DC 0x00 (ACK). -/
  spiAnswer : Byte
  /-- The data driven on MISO by the last frame, R566; own; reset empty. -/
  spiOut : List Byte
  /-- Instant of the last SPI_FRAME_REFUSED, R567; reset none. -/
  spiAt : Option Nat
  /-- The completion of the last host read or AtomicOp, R550, R551; own; reset none. -/
  answer : Option Completion
  /-- FLASH_STATUS.result; reset 0. -/
  flResult : Byte
  /-- FLASH_STATUS.target; reset 0. -/
  flTarget : Fin 6
  /-- FLASH_STATUS.state; reset 0. -/
  flState : Fin 8
  /-- The flash update in progress, R572; reset none. -/
  flUpd : Option FlashUpd
  deriving DecidableEq, Repr

/-- The QSPI boot flash as R569 lays it out; DC: every byte absent (empty contents). -/
structure Flash where
  /-- Flash headers, primary and copy, R570. -/
  headers : Vector (List Byte) 2
  /-- DRAM configuration blocks, primary and copy, R571. -/
  dram : Vector (List Byte) 2
  /-- Plinth firmware, primary and backup. -/
  plinth : Vector (List Byte) 2
  /-- Image slot A, slot B, golden. -/
  images : Vector (List Byte) 3
  /-- Read mode and clock in MHz chosen at S5, R570; reset 0 and 25. -/
  quad : Bool
  mhz : Nat
  deriving DecidableEq, Repr

/-! ## The whole machine -/

/-- The LY9740: every subsystem, the memories, the free-value counter and the queue of commands that wait. -/
structure State where
  /-- Always-on domain, non-volatile record, black box, clock (chapters 15, 16). -/
  ao : Ao
  /-- Power, supplies, resets, boot steps (chapter 15). -/
  power : Power
  /-- Image registers and the loaded image (chapter 02). -/
  img : ImgUnit
  /-- Scene controller and parameter record (chapter 08). -/
  scene : Scene
  /-- One entry per running copy of a process (chapters 04, 07); reset empty. -/
  procs : List ProcSt
  /-- Published frames by node (chapters 01, 06); reset empty. -/
  outs : List NodeOut
  /-- Placement engine (chapter 03). -/
  placer : Placer
  /-- SE00 to SE23 (chapter 04). -/
  engines : Vector Engine 24
  /-- Summing fabric (chapter 06). -/
  fabric : Fabric
  /-- Event controller, GPIO, meters, detectors (chapters 07, 17). -/
  evt : Evt
  /-- Clock and time island (chapter 09). -/
  clk : Clk
  /-- Serial audio ports (chapter 10). -/
  saps : Vector Sap 32
  /-- Network island (chapter 11). -/
  net : Net
  /-- Crossbar and banks (chapter 12). -/
  xbar : Xbar
  /-- DRAM controllers (chapter 12). -/
  drams : Vector Dram 2
  /-- Bytes of engine local memories, banks, secure partition and DRAM by crossbar address, R390; DC 0. -/
  mem : Mem
  /-- Host memory as the DMA reads and writes it; what is not listed cannot be read; reset empty. -/
  hostMem : Mem
  /-- Handshake channels (R13); reset empty. -/
  hs : List HsChan
  /-- Redundancy unit and lanes (chapter 13). -/
  red : Red
  /-- Amplifier modulators (chapter 14). -/
  amps : Vector Amp 16
  /-- Patina islands 0 to 58 (chapter 16). -/
  patina : Vector PatIsland 59
  /-- Life cycle and provisioning (chapter 16). -/
  lc : Lc
  /-- Host interface (chapter 17). -/
  host : HostIf
  /-- Boot flash (chapter 17). -/
  flash : Flash
  /-- Free values taken so far: the model's own counter behind the opaque constants of Config; DC 0. -/
  free : Nat
  /-- Commands that wait, first in, first out; reset empty. -/
  pending : List Instr
  deriving DecidableEq, Repr

/-- Faults: none. The block never stops on a command, so the type has no constructor. -/
inductive Fault where
  deriving DecidableEq, Repr

/-- Refusals: only a command whose meaning is not written yet. -/
inductive Refusal where
  /-- Raised by `exec` for a command that has no meaning in the model. Safe: the machine stops there. -/
  | notModelled (mnemonic : String)
  deriving DecidableEq, Repr

/-! ## Reset values -/

/-- The zero vector register and accumulator lanes. -/
def zeroLanes : List Word := List.replicate 16 0

def zeroAcc : List AccLane := List.replicate 16 { v := 0, held := false }

def CfgCopy.reset : CfgCopy :=
  { lcState := .blank, keySlots := Vector.replicate 4 none, imageKey := none, minSerial := 0, bootTarget := true,
    powerOnStart := true, lastBands := Vector.replicate 8 none, tamperAct := 0, stepDown := 4, startMargin := 60,
    warnPs := 40, floorPs := 25, lastAllow := Vector.replicate 24 50, hours := 0, writeCount := 0, valid := true }

def StartRec.reset : StartRec :=
  { startCount := 0, resetKind := 0, safe := false, bootTarget := false, halted := false, incomplete := 0, rail := 0,
    steps := Vector.replicate 10 0xFF000000 }

def Ao.reset : Ao :=
  { now := 0, startCount := 0, cfgA := CfgCopy.reset, cfgB := CfgCopy.reset, nvQueue := [], nvBusy := none,
    ledger := Vector.replicate 16 StartRec.reset, newest := 0, repairMap := [], history := [], histNext := 0,
    bbSlots := [], bbHead := 0, bbOldest := 0, bbQueue := [], bbLost := 0, bbSuppressed := 0,
    bbLostRun := 0, bbPostLoss := false, bbWins := [], bbTb := 0, held := [], heldLost := 0, tamperActive := 0,
    tamperTripped := 0, tamperArmed := 0x1F, denials := [], authFails := 0, nonce := 0, nonceCount := 0 }

def Start.reset : Start :=
  { step := 0, result := 0, safe := false, alternate := [], incomplete := 0, source := 0, firstSource := 0,
    failStep := 0, s9At := [], s9Set := false, waiting := false, pinHeld := false, wakeLow := false, passed := false,
    s9Fail := none }

def Power.reset : Power :=
  { state := 3, target := 3, moving := none, deferred := none, lastStatus := 0, braced := false, belowWarn := 0,
    dipMask := 0, dipLow := 65535, braceAt := 0, present := Vector.replicate 9 0,
    lowest := Vector.replicate 9 0xFFFF, enables := 0, pwrHold := true, faultN := false, rstKind := 0, rstRail := 0,
    rstStep := 0, offNotTaken := false, offWait := false, nvLifted := false, nvAllowed := 0, temp := 0x80,
    tempMax := 0x80, hotThr := 100, hotArmed := true, hotLast := none, start := Start.reset }

def ImgUnit.reset : ImgUnit :=
  { ctlSource := 0, ctlVerify := false, hostAddr := 0, result := 0, step := 0, state := 0, detail := 0,
    loaded := none, req := none }

def RegEntry.reset : RegEntry :=
  { state := 0, kind := .engineLocal, unit := 0, base := 0, size := 0, slot := 0 }

def CopySlot.reset : CopySlot :=
  { kind := 0, region := 0, old := RegEntry.reset, new := RegEntry.reset, mark := 0, siteA := 0, siteB := 0 }

def Placer.reset : Placer :=
  { state := .idle, trigger := none, queued := [], merged := [], reduced := false, epoch := 0, epochBlk := 0,
    commitReg := 900, commit := 900, rtView := false, overlapCompare := true, freeze := false, faults := 0,
    misses := 0, lastCause := 0, lastNode := 0, arenaKib := 0, current := none, pending := none, table := [],
    next := [], slots := Vector.replicate 64 CopySlot.reset, moves := [], waiting := [], freeing := [], bankDue := [],
    pages := [], firstPlans := [],
    resizes := [] }

def Ctx.reset : Ctx :=
  { node := none, v := Vector.replicate 16 zeroLanes, accC := Vector.replicate 8 zeroAcc,
    accM := Vector.replicate 8 zeroAcc, p := Vector.replicate 8 0, m := Vector.replicate 8 0,
    l := Vector.replicate 8 0, b := Vector.replicate 8 0, lc := Vector.replicate 2 0, bexp := 31, bexpEn := false,
    cmask := 0, cmaskBr := 0, ctlHazard := false, gov := false, sat := false, pc := 0, transfer := none, stack := [],
    loops := [], atEnd := false, cache := [], flight := [], cycles := 0, readWait := false, storeWait := false,
    ended := false, stale := false, inFrame := [], outFrame := [] }

def Engine.reset : Engine :=
  { fg := Ctx.reset, bg := Ctx.reset, parked := none, stalled := none, orphan := none, wbuf := [],
    wbufWait := [], haltReq := false, halted := false, flags := 0, cycles := 0, cyclesNow := 0, cyclesMax := 0,
    faults := 0, lastKind := 0, lastWindow := 0, lastNode := 0, lastOfs := 0, govRaised := false, eccRaised := false,
    begun := [], cap := 40, allow := 50, actual := 40, freqDue := none, spare := false, out := false, outCause := 0,
    outDue := none, causeCleared := false, suspect := false, cleanRun := 0, seqNext := 0, passes := 0, sequence := 0,
    stFail := false, passFail := false, passBad := false, residueNow := false, residuePrev := false, badLane := false, eccNow := false,
    eccPrev := false, clockFault := false, health := 0, lastUe := none }

def Fabric.reset : Fabric :=
  { sums := [], limits := [], sends := [], units := 0, load := 0, finish := 0, finishMax := 0, spillKib := 0,
    onchipKib := 0, overruns := 0, grAlarm := 0, sumSat := Vector.replicate 32 0,
    overNow := false, overPrev := false, satNow := none, spilled := [] }

def Scene.reset : Scene :=
  { slots := Vector.replicate 4 { state := .empty, mq := none }, op := none, ctlOp := 0, ctlSlot := 0, addr := 0,
    arg := 0, capFirst := 0, capLast := 0, stResult := 0, stState := 0, stSlot := 0, stEntry := 0, castNext := false,
    castTb := 0, castSlot := 0, castMq := 0, castBlk := 0, resId := 0, resStatus := 0, casts := [], seq := 0,
    lastId := 0, lastOutcome := 0, lastDefer := 0, lastBlk := 0, range := 0, params := [], seen := [] }

def Evt.reset : Evt :=
  { offered := [], held := [], qEnable := false, qLog2 := 16, qBase := 0, qWr := 0, qRd := 0, qDrops := 0, qSeq := 0,
    qRun := 0, qPost := false,
    classVec := #v[0, 2, 3, 4, 5, 6, 7, 8, 9, 10, 11, 12, 13, 14, 15, 0],
    ovr := Vector.replicate 64 0, gpioDir := 0, gpioOut := 0, gpioExt := 0, gpioPulse := Vector.replicate 16 0,
    mPeriod := 240, mEnable := false, mBase := 0, mLog2 := 16, mWr := 0, mRd := 0, mDrops := 0, mSeq := 0,
    mDropRun := false, mRecs := [], mLast := [], detLost := 0, detCount := 0, detChanges := [],
    msixLast := Vector.replicate 64 none, msixPend := 0, msixMask := BitVec.allOnes 64, msixSent := [], gpioDue := Vector.replicate 16 none }

def Timebase.reset : Timebase :=
  { time := 0, blk := 0, ivl := 0, open_ := true, srcClosed := false, staged := [], state := .free, source := 0, index := 0, slewPpm := 10,
    holdWindow := 3, servoBw := 1, jumpThr := 1000, rate := 0, servoRate := 0, rates := [], outliers := 0, outRun := 0,
    goodRun := 0, validRun := 0, stepped := false, refused := false, slew := 0, sourceValid := false, lostDue := none,
    offset := 0, kept := none, setS := 0, setNs := 0, snap := { sec := 0, ns := 0, frac := 0 },
    snapBlk := 0, blkHi := 0, follows := none, jumped := none, numbered := [] }

def Apll.reset : Apll :=
  { enable := false, bandMode := 0, bandField := 0, seed := 1, state := .off, band := 0, mclk := false, err := 0,
    lfsr := 1, step := 0, good := 0, bad := 0, inUse := none, lastGood := false, aligned := false, frac := 0,
    mash := Vector.replicate 3 0, carries := Vector.replicate 3 false, divStep := 0 }

def Cmp.reset : Cmp :=
  { fires := 0, action := 0, tb := 0, late := false, arm := false, blk := 0, mask := 0, period := 0, due := 0, owed := false }

def Clk.reset : Clk :=
  { tbs := Vector.replicate 4 Timebase.reset, aplls := Vector.replicate 4 Apll.reset,
    cmps := Vector.replicate 16 Cmp.reset, xtalOk := false, sysrefOk := false, onSysref := false, openLoop := false,
    wckValid := Vector.replicate 2 false, refValid := Vector.replicate 2 false, wckRate := Vector.replicate 2 0xF,
    wckRatio := Vector.replicate 2 0, refMode := Vector.replicate 2 0,
    outs := Vector.replicate 2 { div := 0, idx := 0, src := 0, regDiv := 0, regIdx := 0, regSrc := 0, low := 0 },
    capTb := 0, capRise := 0, capFall := 0, caps := [], capDrops := 0, capRun := false, gstage := [],
    clockFaults := 0 }

def SapRec.reset : SapRec :=
  { format := 0, master := false, slots := 0, slotWidth := 0, dataWidth := 0, fsDelay := false, fsInvert := false,
    bclkInvert := false, native32 := false, hizMasked := false, fsWidth := 0, lineDir := 0, domain := 0,
    rampBlocks := 0, leadBlocks := 0, zcTimeout := 0, enable := Vector.replicate 4 0, mask := Vector.replicate 4 0 }

def Sap.reset : Sap :=
  { cfg := SapRec.reset, present := false, zcTimeout := 10, leadBlocks := 8, rampBlocks := 12, arm := false,
    state := .stopped, maskBusy := false, mismatch := false, missing := 0, flags := 0, enable := Vector.replicate 4 0,
    maskReg := Vector.replicate 4 0, mask := Vector.replicate 4 0, maskHeld := Vector.replicate 4 none, ramps := [],
    phase := 0, period := 0, underruns := 0, overruns := 0, glitches := 0, clips := 0, startBlk := 0,
    lastSample := none, cur := none, words := [], lastStart := none, validRun := 0, badPeriods := 0, badBits := 0,
    lastFrame := [], outFrom := none, fadeIn := none, fadeOut := none, zeroTo := 0, zeroFrom := none, first := 0, clkFirst := 0,
    leadEnd := none, stopEnd := none, joining := false, zcN := 0, zcStop := false, zc := [], rx := [], outBuf := [],
    late := [], tx := [], evGlitch := false,
    evUnder := false, evOver := false, clipRun := false, clipNow := false, clocks := false }

def EthRec.reset : EthRec :=
  { mode := 0, fec := 0, vlan := false, jumbo := false, ptpEn := false, profile := 0, mac := [], vlanTag := 0, ip := 0,
    netmask := 0, ptpDomain := 0, ptpTb := 0, master := false, dscpPtp := 0, asym := 0, logSync := 0,
    logAnnounce := 0, logMinDelay := 0, priority1 := 0, priority2 := 0 }

def Eth.reset : Eth :=
  { cfg := EthRec.reset, present := false, linkUp := false, igmpV2 := false, ptpState := 0, flags := 0, asym := 0,
    holdClass := 187, clockClass := 248, prio2 := 128, prio1 := 128, ptpBad := 0, txtsDrops := 0, rxDiscard := 0,
    fcsErr := 0, txts := [], txtsRun := false, delays := [], syncWait := none, delayWait := none,
    pdelayWait := none, lastSync := none, parent := 0, parentSrc := 0, seqId := 0, malAt := none, lateRaised := false, sent := [] }

def GapSt.reset : GapSt := { run := 0, since := 8, last := [] }

def Srx.reset : Srx :=
  { cfg := none, enableReg := false, enable := false, state := 0, legA := false, legB := false, packets := 0, dups := 0,
    late := 0, early := 0, gaps := 0, malformed := 0, margin := 0x7FFFFFFF, newest := none, marked := [], buf := [],
    gap := GapSt.reset, formed := none, gapRaised := false, malRaised := false }

def Stx.reset : Stx :=
  { cfg := none, enableReg := false, enable := false, held := false, packets := 0, late := 0, buf := [], due := [] }

def Net.reset : Net :=
  { eths := Vector.replicate 4 Eth.reset, rx := Vector.replicate 256 Srx.reset, tx := Vector.replicate 256 Stx.reset,
    spillKib := 0, poolKib := 0 }

def Dram.reset : Dram :=
  { state := .off, failStep := 0, mr4 := 0, usable := 0, rate := 0, ranks := false, lp5x := false, ce := 0, ue := 0,
    errAddr := 0, ueAt := [], selfRefresh := false, retracks := 0 }

def LinkRec.reset : LinkRec :=
  { role := 0, timeXfer := false, domain := 0, rxCh := 0, txCh := 0, asym := 0 }

def LaneSt.reset : LaneSt :=
  { cfg := LinkRec.reset, state := .off, failures := 0, refusedField := 0, peerPos := 0, retx := 0, agreed := false,
    failAt := [], seq := 0, window := [], lastRx := 0xFFFF, sent := [], rx := [], gap := GapSt.reset, formed := none, lateRaised := false,
    published := false }

def Red.reset : Red :=
  { activeGpio := 0, gpioEn := false, autoReseed := true, rank := false, pair := .off, partnerState := 0,
    partnerRank := false, seedPhase := 0, flags := 0, paramEpoch := 0, digest := 0, digests := [], healths := [],
    partnerDigest := 0, unitHealth := 0, matches_ := 0, replays := 0, mismatches := 0, pairSel := 0, pairs := [],
    lastPartner := 0, missed := 0, heard := 0, lastBreath := none, duetBad := none, due := none, reconnect := none,
    seedFails := 0, seedParams := [], seedEpoch := none, seedWritten := [], seedDone := [], seedGains := [], seedSends := [], seedLimits := [], seedSrc := 0, reseed := false,
    clusterBad := [], healthSeen := [], partnerTx := false, lanes := Vector.replicate 4 LaneSt.reset }

def Amp.reset : Amp :=
  { present := false, fltHigh := false, domain := 0, blank := 0, dead := 0, period := 2048, diagQuick := false,
    autoStart := false, minPulse := 40, fsReg := 0x7333, fsIndex := 0x7333, limReg := 0x00800000,
    limThr := 0x00800000, startBlocks := 8, retryMs := 500, ocThr := 128, state := .off, braced := false,
    groupSize := 0, slot := 0, retries := 0, flags := 0, ocCycles := 0, shutdowns := 0, clips := 0,
    diagLevel := BitVec.ofInt 16 (-4000), shortM := 1000, openM := 200000, iFs := 0, vFs := 0, cNf := 0, points := 0,
    cls := 0, rmin := 0, z := Vector.replicate 10 0, runQuick := false, en := false, grid := 0, lost := none, ends := false, gLast := 2147483648,
    trigBlk := 0, muted := false, k := 0, width := 0, shaped := false, words := [], limNow := false, limRun := 0, limWin := [],
    ocRaised := false, clipRun := false, clipNow := false, waitFrom := none, retryDue := false, runFrom := none,
    resumed := false, early := [], startHigh := false, lastEdge := none }

def PatIsland.reset : PatIsland :=
  { slack := 0xFFFF, least := 0xFFFF, period := 0xFFFF, run := 0, lowAt := none, request := none, lowering := false,
    below := false }

def Lc.reset : Lc :=
  { result := 0, target := 0, running := none, item := 0, addr := 0, auth := Vector.replicate 24 0 }

def HostIf.reset : HostIf :=
  { wins := Vector.replicate 64 0, linkUp := false, width := 0, speed := 0, refused := 0, refReason := 0,
    refAnswer := 0, refBar := 0, refAddr := 0, refAt := none, ring := [], tail := 0, head := 0, enable := false,
    ringError := false, badAt := none, spi := [], spiQ := [], lastRing := false, lastNak := 0, spiRefused := 0,
    spiAnswer := 0, spiOut := [], spiAt := none, answer := none, flResult := 0, flTarget := 0, flState := 0,
    flUpd := none }

def Flash.reset : Flash :=
  { headers := Vector.replicate 2 [], dram := Vector.replicate 2 [], plinth := Vector.replicate 2 [],
    images := Vector.replicate 3 [], quad := false, mhz := 25 }

/-- Reset priorities of a master toward every target (R395). -/
def resetPrio (m : Nat) : BitVec 4 :=
  if m < 24 then 8 else if m = 24 then 12 else if m < 29 then 14 else if m < 33 then 10 else 6

def Xbar.reset : Xbar :=
  { ageStep := 32, fenced := 0, inReset := 0, fDrained := 0, fId := 0, fMaster := 0, fAddr := 0, eCause := 0,
    eTarget := 0, eMaster := 0, eAddr := 0, errors := 0,
    prio := Vector.ofFn (fun m : Fin 37 => Vector.replicate 21 (resetPrio m.val)), outstanding := [],
    parked := Vector.replicate 21 0, delivered := [], errAt := Vector.replicate 37 none,
    bankReq := Vector.replicate 256 2, bank := Vector.replicate 256 .off, bankWait := [], fixed := [], repFailed := 0,
    repRows := 0, ce := 0, ue := 0, eccLog := 0, ueNow := false, uePrev := false, ceRaised := false, badCe := [],
    badUe := [], scrub := true, offAt := none, secState := 0, secBad := 0, secFull := false, secClosed := false,
    lateWin := [], fences := [], bankQ := [], bankFree := [] }

/-- The machine right after reset. -/
def State.reset : State :=
  { ao := Ao.reset, power := Power.reset, img := ImgUnit.reset, scene := Scene.reset, procs := [], outs := [],
    placer := Placer.reset, engines := Vector.replicate 24 Engine.reset, fabric := Fabric.reset, evt := Evt.reset,
    clk := Clk.reset, saps := Vector.replicate 32 Sap.reset, net := Net.reset, xbar := Xbar.reset,
    drams := Vector.replicate 2 Dram.reset, mem := [], hostMem := [], hs := [], red := Red.reset,
    amps := Vector.replicate 16 Amp.reset, patina := Vector.replicate 59 PatIsland.reset, lc := Lc.reset,
    host := HostIf.reset, flash := Flash.reset, free := 0, pending := [] }

end Sys2Proof.Machine
end

