-- ==== Sys2Proof/Machine/Flags.lean ====
section
/-! DEFINITION. Rounding, saturation, sticky flags and saturating counters, said once for every chapter. -/

namespace Sys2Proof.Machine

/-! ## Rounding (R597) -/

/-- `num / den` rounded to the nearest integer, ties to even (rne of R597). -/
def rne (num : Int) (den : Nat) : Int :=
  let q := num / (den : Int)
  let r := num % (den : Int)
  if 2 * r < den then q
  else if 2 * r > den then q + 1
  else if q % 2 = 0 then q else q + 1

/-- `num / den` truncated toward zero (trunc of R220). -/
def truncDiv (num : Int) (den : Nat) : Int := num.tdiv den

/-- Round half up: floor(num/den + 1/2). -/
def roundHalfUp (num : Int) (den : Nat) : Int := (2 * num + den) / (2 * (den : Int))

/-- The value clamped to [lo, hi]. -/
def clampInt (lo hi v : Int) : Int := if v < lo then lo else if hi < v then hi else v

def clampNat (lo hi v : Nat) : Nat := if v < lo then lo else if hi < v then hi else v

/-- Greatest and least signed 32-bit values. -/
def maxWord : Int := 2147483647
def minWord : Int := -2147483648

/-- The signed word nearest to an integer (saturation of R597). -/
def satWord (v : Int) : Word := BitVec.ofInt 32 (clampInt minWord maxWord v)

/-- A sample times an exact fraction, rounded once and saturated (R597). -/
def scale (w : Word) (num : Int) (den : Nat) : Word := satWord (rne (w.toInt * num) den)

/-- Saturating unsigned counters of 32, 16 and 8 bits. -/
def satInc32 (w : Word) (n : Nat := 1) : Word := BitVec.ofNat 32 (min 4294967295 (w.toNat + n))
def satInc16 (w : BitVec 16) (n : Nat := 1) : BitVec 16 := BitVec.ofNat 16 (min 65535 (w.toNat + n))
def satInc8 (w : Byte) (n : Nat := 1) : Byte := BitVec.ofNat 8 (min 255 (w.toNat + n))

/-! ## Sticky flags (R8) -/

/-- The hardware sets sticky bit `i`. -/
def setFlag {n : Nat} (f : BitVec n) (i : Nat) : BitVec n := f ||| BitVec.ofNat n (2 ^ i)

/-- The host writes a word to an RWS or W1C field: each 1 clears its bit. -/
def w1c {n : Nat} (f : BitVec n) (w : Nat) : BitVec n := f &&& ~~~ BitVec.ofNat n w

/-- Set or clear bit `i` of a status word. -/
def putBit {n : Nat} (f : BitVec n) (i : Nat) (b : Bool) : BitVec n :=
  if b then f ||| BitVec.ofNat n (2 ^ i) else f &&& ~~~ BitVec.ofNat n (2 ^ i)

/-! ## Integer square root, logarithm and powers in fixed point -/

/-- Bit-by-bit integer square root: the result gains one bit of `2^k` a step. -/
def isqrtGo : Nat → Nat → Nat → Nat
  | 0, _, acc => acc
  | k + 1, v, acc =>
    let t := acc + 2 ^ k
    isqrtGo k v (if t * t ≤ v then t else acc)

/-- floor(sqrt v) for v < 2^256. -/
def isqrt (v : Nat) : Nat := isqrtGo 128 v 0

/-- rne(sqrt(num/den)): the nearest integer to a square root is never a tie of even half-integers, since
(k + 1/2)^2 is tested exactly. -/
def rneSqrt (num den : Nat) : Nat :=
  let k := isqrt (num / den)
  -- compare num/den with (k + 1/2)^2 = (2k+1)^2 / 4
  let a := 4 * num
  let b := (2 * k + 1) * (2 * k + 1) * den
  if a < b then k else if b < a then k + 1 else if k % 2 = 0 then k else k + 1

/-- Fraction bits of the fixed-point helpers. -/
def fxBits : Nat := 96
def fxOne : Nat := 2 ^ 96

/-- Binary digits of log2 of a mantissa m in [1, 2), in fixed point with `fxBits` fraction bits: the classical
squaring method, one result bit a step. -/
def log2Frac : Nat → Nat → Nat → Nat
  | 0, _, acc => acc
  | k + 1, m, acc =>
    let sq := m * m / fxOne
    if sq ≥ 2 * fxOne then log2Frac k (sq / 2) (2 * acc + 1) else log2Frac k sq (2 * acc)

/-- log2(num/den) × 2^64, rounded toward minus infinity within one unit; num and den positive. -/
def log2Fx (num den : Nat) : Int :=
  let e : Int := (Nat.log2 num : Int) - (Nat.log2 den : Int)
  -- mantissa num/den scaled to [1, 2)
  let m := if e ≥ 0 then num * fxOne / (den * 2 ^ e.toNat) else num * 2 ^ (-e).toNat * fxOne / den
  let em := if m < fxOne then (e - 1, m * 2) else (e, m)
  em.1 * (2 ^ 64 : Nat) + (log2Frac 64 em.2 0 : Int)

/-- ln 2 and log10 2 scaled by 2^96. -/
def ln2Fx : Nat := 54916777467707473351141471128
def log10of2Fx : Nat := 23850053418134191015272426710

/-- Taylor terms of exp for x in fixed point: sum over k of x^k / k!. -/
def expTerms : Nat → Nat → Nat → Nat → Nat → Nat
  | 0, _, _, _, acc => acc
  | n + 1, k, x, term, acc => expTerms n (k + 1) x (term * x / fxOne / k) (acc + term)

/-- 2^(f / 2^64) in fixed point (`fxBits` fraction bits) for 0 ≤ f < 2^64. -/
def exp2Frac (f : Nat) : Nat := expTerms 30 1 (f * ln2Fx / 2 ^ 64) fxOne 0

/-- rne(a × 2^(x / 2^64)) for a natural `a`. -/
def mulExp2 (a : Nat) (x : Int) : Nat :=
  let k := x / (2 ^ 64 : Nat)
  let f := (x % (2 ^ 64 : Nat)).toNat
  let p := a * exp2Frac f
  if k ≥ 0 then (rne (p * 2 ^ k.toNat : Nat) fxOne).toNat
  else (rne (p : Nat) (fxOne * 2 ^ (-k).toNat)).toNat

/-- Hundredths of a dB of an amplitude ratio: rne(2000 × log10(num/den)). -/
def dbOf (num den : Nat) : Int :=
  rne (2000 * log2Fx num den * log10of2Fx) (2 ^ 160)

/-- The exponent x of 2^(x/2^64) that equals 10^(c/2000), c in hundredths of a dB. -/
def dbExp (c : Int) : Int := c * (2 ^ 160 : Nat) / (2000 * log10of2Fx : Nat)

/-- rne(unit × 10^(c/2000)). -/
def dbToLin (unit : Nat) (c : Int) : Nat := mulExp2 unit (dbExp c)

end Sys2Proof.Machine
end

