-- ==== Sys2Proof/Machine/Operands.lean ====
section
/-! DEFINITION. Fields of words and byte strings, association lists and vectors: how operands are taken apart
and put back. -/

namespace Sys2Proof.Machine

/-! ## Fields of a 32-bit word -/

/-- Bits [hi:lo] of a word as a number. -/
def fld (w : Word) (hi lo : Nat) : Nat := w.toNat / 2 ^ lo % 2 ^ (hi + 1 - lo)

/-- Bit `i` of a word. -/
def flag (w : Word) (i : Nat) : Bool := w.toNat / 2 ^ i % 2 == 1

/-- Bits [hi:lo] as a two's complement number. -/
def sfld (w : Word) (hi lo : Nat) : Int :=
  let n := hi + 1 - lo
  let v := fld w hi lo
  if v < 2 ^ (n - 1) then v else (v : Int) - (2 ^ n : Nat)

/-- A word from (value, low bit) fields. -/
def packW (fs : List (Nat × Nat)) : Word := BitVec.ofNat 32 (fs.foldl (fun a f => a + f.1 * 2 ^ f.2) 0)

def b2n (b : Bool) : Nat := if b then 1 else 0

/-- A Fin from a number, reduced modulo its size. -/
def fin (n : Nat) [NeZero n] (v : Nat) : Fin n := Fin.ofNat n v

/-! ## Bytes, little-endian -/

/-- `n` little-endian bytes of a number. -/
def leBytes : Nat → Nat → List Byte
  | 0, _ => []
  | n + 1, v => BitVec.ofNat 8 v :: leBytes n (v / 256)

/-- The number that little-endian bytes spell. -/
def leNat : List Byte → Nat
  | [] => 0
  | b :: bs => b.toNat + 256 * leNat bs

/-- The number that big-endian bytes spell. -/
def beNat (bs : List Byte) : Nat := bs.foldl (fun a b => 256 * a + b.toNat) 0

/-- `n` bytes of a byte string from an offset; bytes past the end read as absent. -/
def slice (bs : List Byte) (ofs n : Nat) : List Byte := (bs.drop ofs).take n

/-- An n-byte little-endian field of a byte string. -/
def leAt (bs : List Byte) (ofs n : Nat) : Nat := leNat (slice bs ofs n)

/-- An n-byte little-endian two's complement field. -/
def leIntAt (bs : List Byte) (ofs n : Nat) : Int :=
  let v := leAt bs ofs n
  if v < 2 ^ (8 * n - 1) then v else (v : Int) - (2 ^ (8 * n) : Nat)

def zeroBytes (n : Nat) : List Byte := List.replicate n 0

def allZero (bs : List Byte) : Bool := bs.all (· == 0)

/-- Replace the bytes from an offset on. -/
def putAt (bs : List Byte) (ofs : Nat) (new : List Byte) : List Byte :=
  bs.take ofs ++ new ++ bs.drop (ofs + new.length)

/-- The little-endian words of a byte string. -/
def wordsOf : List Byte → List Word
  | a :: b :: c :: d :: t => BitVec.ofNat 32 (leNat [a, b, c, d]) :: wordsOf t
  | _ => []

def bytesOfWords (ws : List Word) : List Byte := ws.flatMap (fun w => leBytes 4 w.toNat)

/-! ## CRCs -/

/-- Eight bit steps of a reflected CRC-32. -/
def crc32Bits : Nat → Nat → Nat
  | 0, c => c
  | k + 1, c => crc32Bits k (if c % 2 = 1 then (c / 2) ^^^ 0xEDB88320 else c / 2)

/-- CRC-32, IEEE 802.3 polynomial (R44, R523). -/
def crc32 (bs : List Byte) : Nat :=
  (bs.foldl (fun c b => crc32Bits 8 (c ^^^ b.toNat)) 0xFFFFFFFF) ^^^ 0xFFFFFFFF

def crc16Bits : Nat → Nat → Nat
  | 0, c => c
  | k + 1, c => crc16Bits k (if c ≥ 0x8000 then ((2 * c) % 65536) ^^^ 0x1021 else 2 * c)

/-- CRC-16, polynomial 0x1021, initial value 0xFFFF (R565). -/
def crc16 (bs : List Byte) : Nat := bs.foldl (fun c b => crc16Bits 8 (c ^^^ (256 * b.toNat))) 0xFFFF

/-! ## Association lists, in rising key order -/

def aget {α : Type} (l : List (Nat × α)) (k : Nat) : Option α := (l.find? (·.1 == k)).map (·.2)

def agetD {α : Type} (l : List (Nat × α)) (k : Nat) (d : α) : α := (aget l k).getD d

def aset {α : Type} : List (Nat × α) → Nat → α → List (Nat × α)
  | [], k, v => [(k, v)]
  | (k', v') :: t, k, v =>
    if k < k' then (k, v) :: (k', v') :: t else if k = k' then (k, v) :: t else (k', v') :: aset t k v

def adel {α : Type} (l : List (Nat × α)) (k : Nat) : List (Nat × α) := l.filter (·.1 != k)

/-! ## Vectors -/

/-- Replace one element of a fixed array. -/
def upd {α : Type} {n : Nat} (v : Vector α n) (i : Fin n) (f : α → α) : Vector α n := v.set i.1 (f (v.get i)) i.2

/-- Replace one element, by number; no effect past the end. -/
def updN {α : Type} {n : Nat} (v : Vector α n) (i : Nat) (f : α → α) : Vector α n :=
  if h : i < n then v.set i (f (v.get ⟨i, h⟩)) h else v

def getN {α : Type} {n : Nat} (v : Vector α n) (i : Nat) (d : α) : α := if h : i < n then v.get ⟨i, h⟩ else d

def putN {α : Type} {n : Nat} (v : Vector α n) (i : Nat) (a : α) : Vector α n := updN v i (fun _ => a)

/-- All indices of a fixed array in rising order. -/
def idxs (n : Nat) : List Nat := List.range n

/-- The set bits of a mask below `n`, rising. -/
def maskBits (m n : Nat) : List Nat := (List.range n).filter (fun i => m / 2 ^ i % 2 == 1)

/-- Replace the elements of a list that satisfy a test. -/
def mapIf {α : Type} (p : α → Bool) (f : α → α) (l : List α) : List α := l.map (fun a => if p a then f a else a)

/-- Element `i` of a list, or a default. -/
def nth {α : Type} (l : List α) (i : Nat) (d : α) : α := l.getD i d

/-- Fold a state function over a list. -/
def each {α σ : Type} (l : List α) (f : α → σ → σ) (s : σ) : σ := l.foldl (fun s a => f a s) s

/-! ## Parameter addresses (R65) -/

def paddrNode (p : PAddr) : Nat := fld p 31 12

def paddrIndex (p : PAddr) : Nat := fld p 11 0

def paddrOf (node index : Nat) : PAddr := BitVec.ofNat 32 (node * 4096 + index)

end Sys2Proof.Machine
end

