-- ==== Sys2Proof/Machine/Ops.lean ====
section
/-! DEFINITION. Operations over the memories and the state that every chapter shares: byte stores, subsystem
updates, the clock, the domains of the loaded image, and raising an event. -/

namespace Sys2Proof.Machine

/-! ## Byte stores in canonical form -/

/-- Insert a byte, or remove the entry, at one address of a strictly rising list. -/
def Mem.ins : Mem → Nat → Option Byte → Mem
  | [], a, some b => [(a, b)]
  | [], _, none => []
  | (a', b') :: t, a, o =>
    if a < a' then (match o with | some b => (a, b) :: (a', b') :: t | none => (a', b') :: t)
    else if a = a' then (match o with | some b => (a, b) :: t | none => t)
    else (a', b') :: Mem.ins t a o

/-- The listed byte at an address. -/
def Mem.at? : Mem → Nat → Option Byte
  | [], _ => none
  | (a', b) :: t, a => if a = a' then some b else if a < a' then none else Mem.at? t a

/-- A byte of chip memory: an unlisted address reads as 0 (assumption 3). -/
def Mem.get (m : Mem) (a : Nat) : Byte := (m.at? a).getD 0

/-- Write a byte of chip memory: a zero is not listed. -/
def Mem.put (m : Mem) (a : Nat) (b : Byte) : Mem := m.ins a (if b = 0 then none else some b)

/-- Read `n` bytes. -/
def Mem.getN (m : Mem) : Nat → Nat → List Byte
  | _, 0 => []
  | a, n + 1 => m.get a :: Mem.getN m (a + 1) n

/-- Write bytes from an address on. -/
def Mem.putN (m : Mem) (a : Nat) : List Byte → Mem
  | [] => m
  | b :: bs => Mem.putN (m.put a b) (a + 1) bs

/-- Write bytes with strobes: an off strobe leaves its byte (R393). -/
def Mem.putStrobed (m : Mem) (a : Nat) : List (Option Byte) → Mem
  | [] => m
  | some b :: bs => Mem.putStrobed (m.put a b) (a + 1) bs
  | none :: bs => Mem.putStrobed m (a + 1) bs

/-- Zero the addresses in [lo, hi). -/
def Mem.clear (m : Mem) (lo hi : Nat) : Mem := m.filter (fun c => c.1 < lo || hi ≤ c.1)

/-- A little-endian 32-bit word. -/
def Mem.word (m : Mem) (a : Nat) : Word := BitVec.ofNat 32 (leNat (m.getN a 4))

/-- Strictly rising addresses. -/
def Mem.rising : Mem → Bool
  | [] => true
  | [_] => true
  | (a, _) :: (b, y) :: t => a < b && Mem.rising ((b, y) :: t)

/-- The canonical form: strictly rising addresses and no listed zero. -/
def Mem.wf (m : Mem) : Bool := Mem.rising m && m.all (fun c => c.2 != 0)

/-- Read host memory: none where a byte is absent. -/
def Mem.readAll (m : Mem) : Nat → Nat → Option (List Byte)
  | _, 0 => some []
  | a, n + 1 =>
    match m.at? a, Mem.readAll m (a + 1) n with
    | some b, some bs => some (b :: bs)
    | _, _ => none

/-- The bytes present from an address on, at most `n`. -/
def Mem.readRun (m : Mem) : Nat → Nat → List Byte
  | _, 0 => []
  | a, n + 1 =>
    match m.at? a with
    | some b => b :: Mem.readRun m (a + 1) n
    | none => []

/-- Write host memory. -/
def Mem.store (m : Mem) (a : Nat) : List Byte → Mem
  | [] => m
  | b :: bs => Mem.store (m.ins a (some b)) (a + 1) bs

/-! ## Subsystem updates -/

def State.onAo (s : State) (f : Ao → Ao) : State := { s with ao := f s.ao }
def State.onPower (s : State) (f : Power → Power) : State := { s with power := f s.power }
def State.onStart (s : State) (f : Start → Start) : State :=
  { s with power := { s.power with start := f s.power.start } }
def State.onImg (s : State) (f : ImgUnit → ImgUnit) : State := { s with img := f s.img }
def State.onScene (s : State) (f : Scene → Scene) : State := { s with scene := f s.scene }
def State.onPlacer (s : State) (f : Placer → Placer) : State := { s with placer := f s.placer }
def State.onEngine (s : State) (e : Fin 24) (f : Engine → Engine) : State :=
  { s with engines := upd s.engines e f }
def State.onEngines (s : State) (f : Engine → Engine) : State := { s with engines := s.engines.map f }
def State.onFabric (s : State) (f : Fabric → Fabric) : State := { s with fabric := f s.fabric }
def State.onEvt (s : State) (f : Evt → Evt) : State := { s with evt := f s.evt }
def State.onClk (s : State) (f : Clk → Clk) : State := { s with clk := f s.clk }
def State.onTb (s : State) (t : Fin 4) (f : Timebase → Timebase) : State :=
  { s with clk := { s.clk with tbs := upd s.clk.tbs t f } }
def State.onApll (s : State) (a : Fin 4) (f : Apll → Apll) : State :=
  { s with clk := { s.clk with aplls := upd s.clk.aplls a f } }
def State.onCmp (s : State) (u : Fin 16) (f : Cmp → Cmp) : State :=
  { s with clk := { s.clk with cmps := upd s.clk.cmps u f } }
def State.onSap (s : State) (p : Fin 32) (f : Sap → Sap) : State := { s with saps := upd s.saps p f }
def State.onEth (s : State) (n : Fin 4) (f : Eth → Eth) : State :=
  { s with net := { s.net with eths := upd s.net.eths n f } }
def State.onSrx (s : State) (u : Fin 256) (f : Srx → Srx) : State :=
  { s with net := { s.net with rx := upd s.net.rx u f } }
def State.onStx (s : State) (u : Fin 256) (f : Stx → Stx) : State :=
  { s with net := { s.net with tx := upd s.net.tx u f } }
def State.onXbar (s : State) (f : Xbar → Xbar) : State := { s with xbar := f s.xbar }
def State.onDram (s : State) (c : Fin 2) (f : Dram → Dram) : State := { s with drams := upd s.drams c f }
def State.onRed (s : State) (f : Red → Red) : State := { s with red := f s.red }
def State.onLane (s : State) (l : Fin 4) (f : LaneSt → LaneSt) : State :=
  { s with red := { s.red with lanes := upd s.red.lanes l f } }
def State.onAmp (s : State) (c : Fin 16) (f : Amp → Amp) : State := { s with amps := upd s.amps c f }
def State.onPat (s : State) (i : Fin 59) (f : PatIsland → PatIsland) : State :=
  { s with patina := upd s.patina i f }
def State.onLc (s : State) (f : Lc → Lc) : State := { s with lc := f s.lc }
def State.onHost (s : State) (f : HostIf → HostIf) : State := { s with host := f s.host }
def State.onProcs (s : State) (f : ProcSt → ProcSt) : State := { s with procs := s.procs.map f }

/-- Update one copy of a process. -/
def State.onProc (s : State) (node : Nat) (e : Fin 24) (f : ProcSt → ProcSt) : State :=
  { s with procs := mapIf (fun p => p.node == node && p.engine == e) f s.procs }

/-- Update the record of one declared parameter. -/
def State.onParam (s : State) (p : PAddr) (f : ParamSt → ParamSt) : State :=
  { s with scene := { s.scene with params := mapIf (fun q => q.decl.paddr == p) f s.scene.params } }

/-- Run a state change when a condition holds. -/
def State.when (s : State) (b : Bool) (f : State → State) : State := if b then f s else s

def State.engine (s : State) (e : Fin 24) : Engine := s.engines.get e
def State.tb (s : State) (t : Fin 4) : Timebase := s.clk.tbs.get t
def State.apll (s : State) (a : Fin 4) : Apll := s.clk.aplls.get a
def State.sap (s : State) (p : Fin 32) : Sap := s.saps.get p
def State.eth (s : State) (n : Fin 4) : Eth := s.net.eths.get n
def State.srx (s : State) (u : Fin 256) : Srx := s.net.rx.get u
def State.stx (s : State) (u : Fin 256) : Stx := s.net.tx.get u
def State.lane (s : State) (l : Fin 4) : LaneSt := s.red.lanes.get l
def State.amp (s : State) (c : Fin 16) : Amp := s.amps.get c
def State.cfg (s : State) : CfgCopy := s.ao.cfgA
def State.now (s : State) : Nat := s.ao.now

/-- Take a fresh free value: its index, and the state with the counter advanced. -/
def State.fresh (s : State) : Nat × State := (s.free, { s with free := s.free + 1 })

/-! ## Absolute time -/

/-- More than `span` ticks have passed since an instant, or there is none ("at most once per ..." limits). -/
def due (last : Option Nat) (span now : Nat) : Bool :=
  match last with
  | none => true
  | some t => t + span ≤ now

/-- Ticks of n milliseconds (R7). -/
def msTicks (n : Nat) : Nat := n * Config.ms

/-! ## Rates, domains and nodes of the loaded image -/

/-- Sample rate in Hz of a rate code (R3, R49). -/
def rateHz (r : Fin 6) : Nat := getN #v[44100, 48000, 88200, 96000, 176400, 192000] r.val 96000

/-- The rate belongs to the 44.1 kHz family. -/
def rate441 (r : Fin 6) : Bool := r.val % 2 == 0

def State.image (s : State) : Option Image := s.img.loaded

def State.domains (s : State) : List DomainRec := (s.img.loaded.map (·.domains)).getD []

/-- The domain that a timebase carries (R17). -/
def State.domOfTb (s : State) (t : Fin 4) : Option DomainRec := s.domains.find? (fun d => d.tb == t)

/-- The record of a domain. -/
def State.domain? (s : State) (d : Fin 4) : Option DomainRec := s.domains.find? (fun r => r.dom == d)

/-- The timebase of a domain; timebase 0 where none is declared. -/
def State.tbOf (s : State) (d : Fin 4) : Fin 4 := ((s.domain? d).map (·.tb)).getD 0

/-- The sample rate of a domain. -/
def State.fsOf (s : State) (d : Fin 4) : Nat := ((s.domain? d).map (fun r => rateHz r.rate)).getD 96000

/-- Samples in a time of milliseconds, to the nearest (rne of ms × fs / 1000). -/
def msSamples (fs ms : Nat) : Nat := (rne (fs * ms) 1000).toNat

def State.nodes (s : State) : List NodeRec := (s.img.loaded.map (·.nodes)).getD []

def State.node? (s : State) (n : Nat) : Option NodeRec := s.nodes.find? (fun r => r.id == n)

/-- The image is loaded under the cluster profile. While no image is loaded none holds, also after a cluster image is released
(R2 does not say; DESIGN CHOICE, assumption 215). -/
def State.isCluster (s : State) : Bool := (s.img.loaded.map (·.cluster)).getD false

/-- The pacing timebase: that of the lowest-numbered domain of the image (R425). -/
def State.pacing (s : State) : Option DomainRec :=
  s.domains.foldl (fun a d => match a with
    | none => some d
    | some b => if d.dom < b.dom then some d else a) none

/-! ## Events (R10, R512, R522 to R527, R573) -/

/-- Nanoseconds since the PTP epoch of a timebase. -/
def Timebase.nsTotal (t : Timebase) : Nat := t.time / 2 ^ 48

/-- The timebase counts as locked in an event's flags (R523). -/
def TbState.settled : TbState → Bool
  | .locked => true
  | .syntonised => true
  | _ => false

/-- The timebase that a timebase follows in the end, through those whose source is TB as well: at most three lie between. -/
def State.tbRoot (s : State) (t : Fin 4) : Fin 4 :=
  let go (u : Fin 4) : Fin 4 := (s.tb u).follows.getD u
  go (go (go t))

/-- The state that a timebase shows: that of the timebase it follows where its source is TB (R298). -/
def State.tbState (s : State) (t : Fin 4) : TbState := (s.tb (s.tbRoot t)).state

/-- Recorded values: each the number of bytes it takes and the value (R524). -/
abbrev Vals := List (Nat × Nat)

/-- The record of an event raised now (R523, R524). -/
def mkEvent (s : State) (code : Nat) (vals : Vals) : EventRec :=
  let t := s.tb s.ao.bbTb
  { code := BitVec.ofNat 16 code, tb := BitVec.ofNat 8 s.ao.bbTb.val, locked := (s.tbState s.ao.bbTb).settled,
    startCount := s.ao.startCount, uptimeMs := BitVec.ofNat 32 (s.ao.now / Config.ms),
    ns := BitVec.ofNat 32 (t.nsTotal % 1000000000), sec := BitVec.ofNat 48 (t.nsTotal / 1000000000),
    data := vals.flatMap (fun v => leBytes v.1 v.2) }

/-- Offer an event to the black box: it joins the queue, or is lost when 256 wait (R527). -/
def bbOffer (e : EventRec) (s : State) : State :=
  s.onAo fun a =>
    if a.bbQueue.length < 256 then { a with bbQueue := a.bbQueue ++ [(e, s.power.braced)] }
    else { a with bbLost := satInc16 a.bbLost, bbLostRun := a.bbLostRun + 1, bbPostLoss := true }

/-- The start is in S0 to S3, before the event controller is powered (R512). -/
def State.early (s : State) : Bool := s.power.start.result == 0 && s.power.start.step < 4

/-- Offer an event to the host: held up to 32 before S4 (R512), otherwise to the event queue (R573). -/
def hostOffer (e : EventRec) (s : State) : State :=
  if s.early then
    s.onAo fun a =>
      if a.held.length < 32 then { a with held := a.held ++ [e] } else { a with heldLost := satInc8 a.heldLost }
  else s.onEvt fun v => { v with offered := v.offered ++ [e] }

/-- Raise an event (R522): it is offered to the black box and to the host. -/
def raise (code : Nat) (vals : Vals) (s : State) : State :=
  let e := mkEvent s code vals
  hostOffer e (bbOffer e s)

/-- Raise an event when a condition holds. -/
def raiseIf (b : Bool) (code : Nat) (vals : Vals) (s : State) : State := if b then raise code vals s else s

/-- Numbers as recorded values of 1, 2, 4 and 8 bytes. -/
def v8 (n : Nat) : Nat × Nat := (1, n)
def v16 (n : Nat) : Nat × Nat := (2, n)
def v32 (n : Nat) : Nat × Nat := (4, n)
def v64 (n : Nat) : Nat × Nat := (8, n)
/-- A signed number of 32 bits. -/
def vI32 (n : Int) : Nat × Nat := (4, (BitVec.ofInt 32 n).toNat)
def vI64 (n : Int) : Nat × Nat := (8, (BitVec.ofInt 64 n).toNat)

/-! ## Non-volatile writes (R520, R521) -/

/-- The next queued write begins, unless a brace holds it; R506 lets a counted number through the hold. -/
def nvBegin (s : State) : State :=
  match s.ao.nvBusy, s.ao.nvQueue with
  | none, w :: rest =>
    let go (s : State) : State := s.onAo fun a => { a with nvBusy := some w, nvQueue := rest }
    if s.power.braced = false then go s
    else if s.power.nvLifted && decide (0 < s.power.nvAllowed) then
      (go s).onPower fun p => { p with nvAllowed := p.nvAllowed - 1 }
    else s
  | _, _ => s

/-- Ask for a non-volatile write: it joins the queue in the order requested (R520) and begins when it may (R492). -/
def nvAsk (w : NvWrite) (s : State) : State := nvBegin (s.onAo fun a => { a with nvQueue := a.nvQueue ++ [w] })

/-- One item of a configuration copy changed. -/
def CfgCopy.apply (c : CfgCopy) : CfgItem → CfgCopy
  | .lcState v => { c with lcState := v }
  | .keySlot i v => { c with keySlots := upd c.keySlots i (fun _ => v) }
  | .imageKey v => { c with imageKey := v }
  | .minSerial v => { c with minSerial := v }
  | .bootCfg t p => { c with bootTarget := t, powerOnStart := p }
  | .lastBand i b => { c with lastBands := upd c.lastBands i (fun _ => some b) }
  | .tamperAct v => { c with tamperAct := v }
  | .patina sd m w f => { c with stepDown := sd, startMargin := m, warnPs := w, floorPs := f }
  | .lastAllow e v => { c with lastAllow := upd c.lastAllow e (fun _ => v) }
  | .hours v => { c with hours := v }

/-- What the registers over the configuration read (R8): the last values written, those that wait to be stored included. -/
def State.cfgWritten (s : State) : CfgCopy :=
  (s.ao.nvBusy.toList ++ s.ao.nvQueue).foldl (fun c w => match w with
    | .cfg i => c.apply i
    | _ => c) s.cfg

end Sys2Proof.Machine
end

