-- ==== Sys2Proof/Machine/Memory.lean ====
section
/-! DEFINITION. The address map (R390), the region table and regions in motion (R105 to R114), and how an engine
reaches its windows (R146 to R154). -/

namespace Sys2Proof.Machine

/-! ## The address map (R390, R392) -/

def bankBytes : Nat := 0x30000

def secureBase : Nat := 0x10000000

def engineBase (e : Nat) : Nat := 0x60000000 + 0x100000 * e

def dramBase (c : Nat) : Nat := if c = 0 then 0x400000000 else 0x800000000

/-- Crossbar targets of R392: clusters 0 to 15, 16 and 17 DRAM, 18 secure, 19 island, 20 tandem outbound. -/
def targetOf (a : Nat) : Option (Fin 21) :=
  if a < 0x3000000 then some (Fin.ofNat 21 (a / (16 * bankBytes)))
  else if 0x10000000 ≤ a ∧ a < 0x10080000 then some 18
  else if 0x40000000 ≤ a ∧ a < 0x44000000 then some 19
  else if 0x60000000 ≤ a ∧ a < 0x61800000 then some 19
  else if 0x78000000 ≤ a ∧ a < 0x78400000 then some 19
  else if 0x7C000000 ≤ a ∧ a < 0x7C200000 then some 19
  else if 0x7E000000 ≤ a ∧ a < 0x7E100000 then some 19
  else if 0x80000000 ≤ a ∧ a < 0x100000000 then some 20
  else if 0x400000000 ≤ a ∧ a < 0x800000000 then some 16
  else if 0x800000000 ≤ a ∧ a < 0xC00000000 then some 17
  else none

/-- The shared bank that an address lies in. -/
def bankOf (a : Nat) : Option (Fin 256) := if a < 0x3000000 then some (Fin.ofNat 256 (a / bankBytes)) else none

/-! ## The region table (R105) -/

def State.entry (s : State) (r : Nat) : RegEntry := agetD s.placer.table r RegEntry.reset

/-- The crossbar address of a byte at a location in the form of R105; `who` is an engine that uses its own
instance of a CRITICAL node's region, at the same memory and base in its own local memory (R92). -/
def RegEntry.addr (e : RegEntry) (who : Option (Fin 24)) (ofs : Nat) : Nat :=
  match e.kind with
  | .engineLocal =>
    let eng := match who with
      | some w => w.val
      | none => e.unit / 8
    engineBase eng + 0x40000 * (e.unit / 2 % 4) + 64 * e.base + ofs
  | .shared => bankBytes * e.unit + 64 * e.base + ofs
  | .dram => dramBase (e.unit % 2) + 64 * e.base + ofs

/-- Region-table entry of R105 as its 64 bits. -/
def RegEntry.bits (e : RegEntry) : Nat :=
  let kind := match e.kind with
    | .engineLocal => 0
    | .shared => 1
    | .dram => 2
  let size := if e.state = 2 ∨ e.state = 3 then e.slot % 64 * 2 ^ 16 else e.size / 8 % 2 ^ 22
  e.state.val * 2 ^ 61 + kind * 2 ^ 59 + e.unit % 256 * 2 ^ 51 + e.base % 2 ^ 29 * 2 ^ 22 + size

def State.regions (s : State) : List RegionRec := (s.img.loaded.map (·.regions)).getD []

/-- Region indices that a node owns, rising: its windows 0 to 59 (R147). -/
def State.ownedRegions (s : State) (node : Nat) : List (Nat × RegionRec) :=
  (s.regions.zipIdx.filter (fun p => p.1.owner == node)).map (fun p => (p.2, p.1))

def State.region? (s : State) (r : Nat) : Option RegionRec := s.regions[r]?

/-- Index of the region with a region id. -/
def State.regionIdx (s : State) (id : Nat) : Option Nat := s.regions.findIdx? (fun r => r.id == id)

/-- The node runs as a CRITICAL pair. -/
def State.critical (s : State) (node : Nat) : Bool := ((s.node? node).map (·.critical)).getD false

/-- The engines that hold an instance of a node's regions: the primary first (R92). -/
def State.instances (s : State) (node : Nat) : List (Fin 24) :=
  match s.red.pairs.find? (fun q => q.node == node) with
  | some q => q.prim :: q.sec.toList
  | none => []

/-- The engine instance that an access uses: for a CRITICAL node's engine-local region an engine its own, and every other access the
primary's (R92). -/
def State.instanceOf (s : State) (node : Nat) (e : Option (Fin 24)) (r : RegEntry) : Option (Fin 24) :=
  match r.kind with
  | .engineLocal => if s.critical node then e.or (s.instances node).head? else none
  | _ => none

/-- The addresses that a write to a RESIDENT region goes to: the engine's own instance, or for the host and DMA every instance. -/
def State.residentWr (s : State) (node ofs : Nat) (e : Option (Fin 24)) (r : RegEntry) : List Nat :=
  let own := [r.addr (s.instanceOf node e r) ofs]
  match r.kind, e with
  | .engineLocal, none =>
    if s.critical node ∧ s.instances node ≠ [] then (s.instances node).map (fun w => r.addr (some w) ofs) else own
  | _, _ => own

/-- Where an access to a region goes: the address a read uses, the addresses that every write goes to, and the byte in DRAM
that a write reaches through the pages that hold it (R106 to R112). `staged`: an engine's access needs the page. `none` in
`rd` is a region that faults for an engine. -/
structure Route where
  rd     : Option Nat
  wr     : List Nat
  home   : Option Nat
  staged : Bool
  shared : Bool
  deriving DecidableEq, Repr

def Route.plain (a : Nat) (wr : List Nat) (shared : Bool) : Route :=
  { rd := some a, wr := wr, home := none, staged := false, shared := shared }

/-- An access through the pages of a region in DRAM; `wr` beside them. -/
def Route.paged (a : Nat) (wr : List Nat) : Route := { rd := some a, wr := wr, home := some a, staged := true, shared := true }

/-- The move that a copy of kind 2 belongs to has not reached its first overlap boundary (R116). -/
def State.beforeOverlap (s : State) (node : Nat) (c : CopySlot) : Bool :=
  s.placer.moves.any (fun v => v.node == node && v.a == c.siteA && v.b == c.siteB && v.phase == 0)

/-- An engine that is neither site of a moving copy: the pair's other engine, which keeps its own instance (R92). -/
def State.otherCopy (s : State) (node : Nat) (c : CopySlot) (e : Option (Fin 24)) : Bool :=
  match e with
  | some w => s.critical node && c.kind == 2 && w != c.siteA && w != c.siteB
  | none => false

/-- The location at a region offset for an access by engine `e` (or by the host or DMA, none) under R106 to R114. -/
def State.route (s : State) (node r ofs : Nat) (e : Option (Fin 24)) : Route :=
  let en := s.entry r
  let inst (x : RegEntry) := s.instanceOf node e x
  let sh (x : RegEntry) : Bool := x.kind == .shared
  match en.state.val with
  | 1 => .plain (en.addr (inst en) ofs) (s.residentWr node ofs e en) (sh en)
  | 2 =>
    let c := getN s.placer.slots en.slot CopySlot.reset
    if s.otherCopy node c e then .plain (c.old.addr e ofs) [c.old.addr e ofs] (sh c.old)
    else
      let o := c.old.addr none ofs
      let n := c.new.addr none ofs
      if c.new.size ≤ ofs then .plain o [o] (sh c.old)
      else match c.new.kind, decide (ofs / 64 < c.mark) with
        | .dram, true => .paged n [o]
        | .dram, false => { rd := some o, wr := [o], home := some n, staged := false, shared := sh c.old }
        | _, true => .plain n [o, n] (sh c.new)
        | _, false => .plain o [o, n] (sh c.old)
  | 3 =>
    let c := getN s.placer.slots en.slot CopySlot.reset
    if s.otherCopy node c e then .plain (c.old.addr e ofs) [c.old.addr e ofs] (sh c.old)
    else
      let o := c.old.addr none ofs
      let n := c.new.addr none ofs
      let both := e.isNone || s.beforeOverlap node c
      let other (a : Nat) : List Nat := if both then [a] else []
      match decide (e = some c.siteB), c.new.kind with
      | true, .dram => .paged n []
      | true, _ => .plain n [n] (sh c.new)
      | false, .dram => { rd := some o, wr := [o], home := if both then some n else none, staged := false, shared := sh c.old }
      | false, _ => .plain o (o :: other n) (sh c.old)
  | 4 => .paged (en.addr none ofs) []
  | _ => { rd := none, wr := [], home := none, staged := false, shared := false }

/-! ## Staged pages (R109, R110) -/

def pageOf (ofs : Nat) : Nat := ofs / 4096

def State.page? (s : State) (e : Fin 24) (r pg : Nat) : Option Page :=
  s.placer.pages.find? (fun p => p.engine == e && p.region == r && p.page == pg)

/-- The plan in force. -/
def State.plan (s : State) : Plan := s.placer.current.getD { sites := [], homes := [], shed := [] }

/-- An engine's staging pool: that of the plan in force, else of the pending one (R109). -/
def State.poolOf (s : State) (e : Fin 24) : Option PoolHome :=
  (s.plan.pools.find? (fun q => q.engine == e)).or
    (s.placer.pending.bind (fun c => c.plan.pools.find? (fun q => q.engine == e)))

/-- The shared-bank address of a page's first byte. -/
def State.pageAddr (s : State) (p : Page) : Nat :=
  match s.poolOf p.engine with
  | some q => bankBytes * q.unit + 64 * q.base + 4096 * p.slot
  | none => 0

/-- The page's slot holds a byte. -/
def State.pageHolds (s : State) (p : Page) (a : Nat) : Bool := decide (s.pageAddr p ≤ a ∧ a < s.pageAddr p + 4096)

/-- Copies of a page in the pools: an engine's own, or every one. -/
def State.poolPages (s : State) (e : Option (Fin 24)) (r pg : Nat) : List Page :=
  s.placer.pages.filter (fun p => p.region == r && p.page == pg && e.all (· == p.engine))

/-- The addresses that a write at a region offset goes to: an engine's own page alone where it works in the page, every page
that holds the byte otherwise, and DRAM where no pool holds it (R109, R110). -/
def State.writeAddrs (s : State) (e : Option (Fin 24)) (r ofs : Nat) (t : Route) : List Nat :=
  t.wr ++ match t.home with
    | none => []
    | some h => match s.poolPages (if t.staged then e else none) r (pageOf ofs) with
      | [] => [h]
      | ps => ps.map (fun p => s.pageAddr p + ofs % 4096)

/-- The address that a read at a region offset uses. -/
def State.readAddr (s : State) (e : Option (Fin 24)) (r ofs : Nat) (t : Route) : Option Nat :=
  if t.staged then match s.poolPages e r (pageOf ofs) with
    | p :: _ => some (s.pageAddr p + ofs % 4096)
    | [] => t.rd
  else t.rd

/-- The pages that hold a byte written are dirty (R109). -/
def soil (a : Nat) (s : State) : State :=
  s.onPlacer fun q => { q with pages := mapIf (fun p => s.pageHolds p a) (fun p => { p with dirty := true }) q.pages }

/-- Move a page to the front of the most-recently-used order and change it. -/
def touchPage (e : Fin 24) (r pg : Nat) (f : Page → Page) (s : State) : State :=
  match s.page? e r pg with
  | none => s
  | some p =>
    s.onPlacer fun q => { q with pages := f p :: q.pages.filter (fun x => !(x.engine == e && x.region == r && x.page == pg)) }

/-! ## Windows of a process (R146 to R152) -/

/-- Why an access faults. -/
inductive AccErr where
  /-- A region fault: window, region index, offset (R126). -/
  | region (win r ofs : Nat)
  /-- An address fault: window and offset (R152). -/
  | addr (win ofs : Nat)
  deriving DecidableEq, Repr

/-- What a word access reaches. -/
inductive Loc where
  | mem (rd : Nat) (wr : List Nat) (shared : Bool)
  | page (r pg rd : Nat) (wr : List Nat)
  | input (i : Nat)
  | ring (ofs : Nat)
  | output (i : Nat)
  | param (ofs : Nat)
  | inst (ofs : Nat)
  /-- An atomic-region window with a non-zero operation (R403): operation and region offset address. -/
  | atomic (op : Nat) (rd : Nat) (wr : List Nat)
  deriving DecidableEq, Repr

/-- Groups of 16 among n inputs or outputs. -/
def groups16 (n : Nat) : Nat := (n + 15) / 16

/-- Window, offset of a data address; none where bit 31 is clear (R146). The two low bits are ignored (R154). -/
def splitAddr (a : Word) : Option (Nat × Nat) :=
  let v := a.toNat / 4 * 4
  if v < 2 ^ 31 then none else some (v / 2 ^ 25 % 64, v % 2 ^ 25)

/-- Bytes of the input window: 512 per group, or for a bridge node the rings and the count word (R149). -/
def inputWindow (n : NodeRec) : Nat := if n.bridge then 0xF004 else 512 * groups16 n.inputs.length

/-- Translate one word access of a node on an engine (R146 to R152, R404). `write` marks a store, `ld` a scalar
load, which alone may carry an atomic operation. -/
def State.translate (s : State) (e : Fin 24) (n : NodeRec) (a : Word) (write ld : Bool) : Except AccErr Loc :=
  match splitAddr a with
  | none => .error (.addr (a.toNat / 2 ^ 25 % 64) (a.toNat % 2 ^ 25))
  | some (w, ofs) =>
    if w = 60 then
      if write ∨ inputWindow n ≤ ofs then .error (.addr w ofs)
      else if n.bridge then .ok (.ring ofs) else .ok (.input (ofs / 4))
    else if w = 61 then
      if 512 * groups16 n.outputs ≤ ofs then .error (.addr w ofs) else .ok (.output (ofs / 4))
    else if w = 62 then
      if write ∨ 32768 ≤ ofs then .error (.addr w ofs) else .ok (.param ofs)
    else if w = 63 then
      if n.bodyB ≤ ofs then .error (.addr w ofs) else .ok (.inst ofs)
    else
      match (s.ownedRegions n.id)[w]? with
      | none => .error (.addr w ofs)
      | some (r, rec) =>
        let op := if rec.atomic then ofs / 2 ^ 23 else 0
        let o := if rec.atomic then ofs % 2 ^ 23 else ofs
        if rec.size ≤ o then .error (.addr w ofs)
        else if op ≠ 0 ∧ (write ∨ ld = false) then .error (.addr w ofs)
        else
          let t := s.route n.id r o (some e)
          let wr := s.writeAddrs (some e) r o t
          match s.readAddr (some e) r o t with
          | none => .error (.region w r o)
          | some rd =>
            if t.staged then
              if (s.page? e r (pageOf o)).isSome then .ok (.page r (pageOf o) rd wr) else .error (.region w r o)
            else if op ≠ 0 then .ok (.atomic op rd wr)
            else .ok (.mem rd wr t.shared)

/-- A store waits in the write buffer at an address: the newest such byte (R153). -/
def wbufByte (wb : List (Nat × List Byte)) (a : Nat) : Option Byte :=
  wb.foldl (fun o p => if p.1 ≤ a ∧ a < p.1 + p.2.length then some (nth p.2 (a - p.1) 0) else o) none

/-- A word of memory as an engine sees it: its own write buffer first. -/
def engineWord (s : State) (e : Fin 24) (a : Nat) : Word :=
  let g := s.engine e
  let wb := g.wbuf ++ g.wbufWait
  BitVec.ofNat 32 (leNat ((List.range 4).map (fun i => (wbufByte wb (a + i)).getD (s.mem.get (a + i)))))

/-- The time in a parameter's PARAMS record, which stands for an undeclared xfade_time or tap_ramp (R243, R247). -/
def State.declaredTime (s : State) (n : NodeRec) (idx : Nat) : Word :=
  ((s.scene.params.find? (fun q => q.decl.paddr == paddrOf n.id idx)).map (fun q => BitVec.ofNat 32 q.decl.time)).getD 0

/-- A parameter of a node by its index, as (start of block, end of block); a standard parameter that the
image does not declare has its default (R150, R223, R253, R599). -/
def State.paramWords (s : State) (n : NodeRec) (idx : Nat) : Word × Word :=
  match s.scene.params.find? (fun q => q.decl.paddr == paddrOf n.id idx) with
  | some q => (q.start, q.value)
  | none =>
    let d : Word := match n.type, idx with
      | .gain, 1 => 0x08000000
      | .send, 1 => 0x08000000
      | .send, 2 => 1
      | .meter, 1 => 1
      | .mux, 1 => BitVec.ofNat 32 (n.bodyA % 256)
      | .mux, 2 => s.declaredTime n 1
      | .delay, 2 => s.declaredTime n 1
      | .limit, 1 => 8292584
      | .limit, 2 => 50
      | .detect, 1 => 265
      | .detect, 2 => 12000
      | _, _ => 0
    (d, d)

/-- Read a word through a translated location. -/
def State.readLoc (s : State) (e : Fin 24) (n : NodeRec) (c : Ctx) : Loc → Word
  | .mem rd _ _ => engineWord s e rd
  | .atomic _ rd _ => engineWord s e rd
  | .page _ _ rd _ => engineWord s e rd
  | .input i => nth c.inFrame i 0
  | .output i => nth c.outFrame i 0
  | .ring ofs =>
    match s.procs.find? (fun p => p.node == n.id && p.engine == e) with
    | some p => if ofs = 0xF000 then p.ringCount else p.ring.word ofs
    | none => 0
  | .param ofs => if ofs < 0x4000 then (s.paramWords n (ofs / 4)).1 else (s.paramWords n ((ofs - 0x4000) / 4)).2
  | .inst ofs =>
    match s.procs.find? (fun p => p.node == n.id && p.engine == e) with
    | some p => p.inst.word ofs
    | none => 0

/-- Replace element `i` of a list of words. -/
def setWord (l : List Word) (i : Nat) (w : Word) : List Word := l.set i w

/-- A store of the engine to shared memory enters the write buffer, or waits for room in it (R153, R604). -/
def bufferWrite (e : Fin 24) (a : Nat) (bs : List Byte) (s : State) : State :=
  s.onEngine e fun g =>
    if g.wbuf.length < 8 ∧ g.wbufWait = [] then { g with wbuf := g.wbuf ++ [(a, bs)] }
    else { g with wbufWait := g.wbufWait ++ [(a, bs)], fg := { g.fg with storeWait := true } }

/-- An engine's buffered stores to `len` bytes at `lo` reach memory now, in their order; each keeps its place in the buffer
(R109, R145). -/
def settleStores (lo len : Nat) (e : Fin 24) (s : State) : State :=
  let g := s.engine e
  let hit (p : Nat × List Byte) : Bool := decide (p.1 < lo + len ∧ lo < p.1 + p.2.length)
  let hits := (g.wbuf ++ g.wbufWait).filter hit
  if hits.isEmpty then s
  else
    let s := each hits (fun p s => { s with mem := s.mem.putN p.1 p.2 }) s
    s.onEngine e fun g => { g with wbuf := mapIf hit (fun p => (p.1, [])) g.wbuf, wbufWait := mapIf hit (fun p => (p.1, [])) g.wbufWait }

/-- Where a buffered store goes as well that was issued before its region began to move: the copy in progress (R112), or until
the first overlap boundary the instance of the new site (R116). -/
def State.mirrorOf (s : State) (a : Nat) : List Nat :=
  (List.finRange 64).flatMap fun k =>
    let c := s.placer.slots.get k
    let o := c.old.addr none 0
    let en := s.entry c.region
    let node := ((s.regions[c.region]?).map (·.owner)).getD 0
    if c.kind ≠ 0 ∧ o ≤ a ∧ a < o + min c.old.size c.new.size ∧ en.slot = k.val
        ∧ (en.state = 2 ∨ (en.state = 3 ∧ s.beforeOverlap node c = true)) then
      match c.new.kind with
      | .dram => match s.poolPages none c.region (pageOf (a - o)) with
        | [] => [c.new.addr none (a - o)]
        | ps => ps.map (fun p => s.pageAddr p + (a - o) % 4096)
      | _ => [c.new.addr none (a - o)]
    else []

/-- Which local memory a location uses for the costs of R153: 0 X, 1 Y, 2 C; none for shared memory. -/
def localOf : Loc → Option Nat
  | .mem rd _ shared => if shared then none else some (rd / 0x40000 % 4)
  | .page _ _ _ _ => none
  | .atomic _ _ _ => none
  | .input _ => some 0
  | .ring _ => some 0
  | .output _ => some 0
  | .param _ => some 2
  | .inst _ => some 1

/-- The address of the word that a location reads (R174); a process item lies where its engine's memory holds it. -/
def locAddr (e : Fin 24) (n : NodeRec) : Loc → Nat
  | .mem rd _ _ => rd
  | .page _ _ rd _ => rd
  | .atomic _ rd _ => rd
  | .input i => engineBase e + Config.itemBase n.id 60 + 4 * i
  | .ring ofs => engineBase e + Config.itemBase n.id 60 + ofs
  | .output i => engineBase e + Config.itemBase n.id 61 + 4 * i
  | .param ofs => engineBase e + 0x80000 + Config.itemBase n.id 62 + ofs
  | .inst ofs => engineBase e + 0x40000 + Config.itemBase n.id 63 + ofs

/-- The access waits for the crossbar when it reads. -/
def sharedLoc : Loc → Bool
  | .mem _ _ shared => shared
  | .page _ _ _ _ => true
  | .atomic _ _ _ => true
  | _ => false

/-! ## Errors of a bank (R410) -/

/-- A correctable error is corrected and counted (R410). -/
def bankCorrected (b : Nat) (word : Nat) (s : State) : State :=
  let was := s.xbar.ceRaised
  raiseIf (!was) 0x400A [v8 b]
    (s.onXbar fun x => { x with ce := satInc32 x.ce, badCe := x.badCe.filter (· != word), ceRaised := true })

/-- An uncorrectable error is counted and logged (R410). -/
def bankUncorrectable (addr : Nat) (s : State) : State :=
  raise 0x400B [v64 addr]
    (s.onXbar fun x => { x with ue := satInc32 x.ue, eccLog := BitVec.ofNat 27 (addr / 8), ueNow := true })

end Sys2Proof.Machine
end

