-- ==== Sys2Proof/Machine/Lanes.lean ====
section
/-! DEFINITION. Grenik lanes (R436 to R440): HELLO, bringing a lane up, go-back-N, failures, and sending a frame; and the
cast group that the lanes join (R270, R283). -/

namespace Sys2Proof.Machine

/-! ## Cast groups (R270, R283, R455) -/

def State.mirrored (s : State) : Bool := (s.img.loaded.map (·.mirrored)).getD false
def State.clusterPos (s : State) : Nat := (s.img.loaded.map (·.clusterPos)).getD 0
def State.clusterSize (s : State) : Nat := (s.img.loaded.map (·.clusterSize)).getD 0

/-- The positions of the chips of the cast group. -/
def State.group (s : State) : List Nat :=
  if s.red.pair = .isolated then [0]
  else if s.isCluster then
    let one := List.range s.clusterSize
    if s.mirrored then one ++ one.map (· + 8) else one
  else if s.red.lanes.toList.any (fun l => l.cfg.role == 5) then [0, 1]
  else [0]

/-- This chip's position in its cast group. -/
def State.position (s : State) : Nat :=
  if s.group = [0] then 0
  else if s.isCluster then s.clusterPos + (if s.mirrored then 8 * b2n s.red.rank else 0)
  else b2n s.red.rank

def State.alone (s : State) : Bool := s.group == [0]

/-! ## Sending (R439, R440) -/

def LaneSt.isUp (l : LaneSt) : Bool := l.state == .up

/-- The lanes in service. -/
def State.lanesUp (s : State) : List (Fin 4) := (List.finRange 4).filter (fun l => (s.lane l).isUp)

/-- Frames beyond the 64 outstanding wait in the same list, which holds them in order. -/
def windowSize : Nat := 64

/-- A frame of the window as it leaves: it names the last frame received in order (R439). -/
def LaneSt.frame (l : LaneSt) (retx : Bool) (p : BitVec 16 × LinkOut) : LinkFrame :=
  { out := p.2, seq := p.1, ack := l.lastRx, retx := retx }

/-- A frame that stands outside the window: HELLO and ACK take no sequence number of their own (R439 does not say; DESIGN CHOICE,
assumption 248). -/
def LaneSt.sendNow (l : LaneSt) (f : LinkOut) : LaneSt := { l with sent := l.frame false (l.seq, f) :: l.sent }

/-- Give a frame to a lane: it takes the next sequence number and leaves when the window has room. -/
def LaneSt.give (l : LaneSt) (f : LinkOut) : LaneSt :=
  { l with seq := l.seq + 1, window := l.window ++ [(l.seq, f)],
           sent := if l.window.length < windowSize then l.frame false (l.seq, f) :: l.sent else l.sent }

/-- What waits for a lane that leaves service never comes: neither the responses of a peer nor those that are to be discarded
(R401, R444). -/
def laneGone (l : Fin 4) (s : State) : State :=
  s.onXbar fun x => { x with
    lateWin := x.lateWin.filter (· != l), outstanding := mapIf (fun o => o.lane == some l) (fun o => { o with lane := none }) x.outstanding }

/-- Send a frame on a lane that is UP. -/
def laneSend (l : Fin 4) (f : LinkOut) (s : State) : State :=
  s.onLane l fun x => if x.isUp then x.give f else x

/-- Send a frame on every lane of a list. -/
def lanesSend (ls : List (Fin 4)) (f : LinkOut) (s : State) : State := each ls (fun l t => laneSend l f t) s

/-- Lanes in service that reach the chips of a cluster, its mirror and a duet partner (R437, R445). -/
def State.groupLanes (s : State) : List (Fin 4) :=
  s.lanesUp.filter (fun l => let r := (s.lane l).cfg.role.val; 1 ≤ r && r ≤ 5)

/-- Lanes of the pair: DUET, or MIRROR. -/
def State.pairLanes (s : State) : List (Fin 4) :=
  s.lanesUp.filter (fun l => let r := (s.lane l).cfg.role.val; r == 4 || r == 5)

/-- A SEED frame leaves on the pair's lane with the fewest frames outstanding, so that both DUET lanes carry the seed (R458). -/
def seedSend (m : SeedMsg) (s : State) : State :=
  let best (o : Option (Fin 4)) (l : Fin 4) : Option (Fin 4) := match o with
    | none => some l
    | some k => if (s.lane l).window.length < (s.lane k).window.length then some l else some k
  match s.pairLanes.foldl best none with
  | some l => laneSend l (.seed m) s
  | none => s

/-- Pieces of a byte string that fit a frame: offset and bytes. -/
def pieces : Nat → Nat → List Byte → List (Nat × List Byte)
  | 0, _, _ => []
  | k + 1, ofs, bs => if bs.isEmpty then [] else (ofs, bs.take 960) :: pieces k (ofs + 960) (bs.drop 960)

/-- As the source of a seed, a write that a process makes in a region below the watermark goes to the joiner (R112, R458): the
primary's, where the process is a pair. -/
def forwardStore (e : Fin 24) (n : NodeRec) (a : Word) (bs : List Byte) (s : State) : State :=
  let mine : Bool := match s.red.pairs.find? (fun q => q.node == n.id) with
    | some q => q.prim == e
    | none => true
  if s.red.seedSrc == 3 && mine then
    match splitAddr a with
    | some (w, ofs) =>
      if w = 63 then seedSend (.instState n.id ofs bs) s
      else match (s.ownedRegions n.id)[w]? with
        | some (r, rec) => seedSend (.forward r (if rec.atomic then ofs % 2 ^ 23 else ofs) bs) s
        | none => s
    | none => s
  else s

/-- A frame has been received in order (R439: the ack field of the frames sent after it). -/
def laneRx (l : Fin 4) (s : State) : State :=
  s.onLane l fun x => if x.isUp then { x with lastRx := x.lastRx + 1 } else x

/-- A frame of a pair or group whose row names no lane counts on the lowest lane that carries it. -/
def laneRxFirst (ls : List (Fin 4)) (s : State) : State :=
  match ls with
  | [] => s
  | l :: _ => laneRx l s

/-! ## The bytes of a frame (R439, R445, R451) -/

/-- Frame types. -/
def LinkOut.type : LinkOut → Nat
  | .hello => 0x01 | .ack _ _ => 0x02 | .audio _ _ => 0x10 | .time => 0x11 | .breath _ => 0x20 | .param _ _ _ => 0x21
  | .seed _ => 0x22 | .health _ _ => 0x23 | .cast _ => 0x30 | .window _ => 0x40

/-- The message of a CAST frame; 7 is the model's own report to the caster (R287). -/
def castCode : CastKind → Nat
  | .announce => 1 | .ready => 2 | .notReady => 3 | .go => 4 | .defer => 5 | .abort => 6 | .lost => 7

/-- The 24 bytes of a CAST payload (R445). -/
def castBytes (m : CastMsg) : List Byte :=
  [BitVec.ofNat 8 (castCode m.kind), m.position.zeroExtend 8] ++ leBytes 2 m.castId.toNat ++ [BitVec.ofNat 8 m.slot.val, BitVec.ofNat 8 m.timebase.val,
    m.reason, m.deferrals] ++ leBytes 8 m.block.toNat ++ leBytes 4 m.mqId.toNat ++ zeroBytes 4

/-- The 48 bytes of a BREATH payload (R451). -/
def breathBytes (b : BreathMsg) : List Byte :=
  leBytes 6 b.block.toNat ++ [BitVec.ofNat 8 (b2n b.rank), BitVec.ofNat 8 (b.pairState.val + 8 * b2n b.lost + 16 * b2n b.transmitting)]
    ++ leBytes 8 b.buildId.toNat ++ leBytes 4 b.digest.toNat ++ leBytes 4 b.health.toNat ++ leBytes 4 b.paramEpoch.toNat
    ++ leBytes 6 b.lastBlock.toNat ++ zeroBytes 14

/-- The payload of a frame, where the spec lays it out. -/
def LinkOut.payload : LinkOut → Option (List Byte)
  | .ack _ _ => some []
  | .breath b => some (breathBytes b)
  | .cast m => some (castBytes m)
  | .hello => none
  | .audio _ _ => none
  | .time => none
  | .param _ _ _ => none
  | .seed _ => none
  | .health _ _ => none
  | .window _ => none

/-- frame_flags bit 0. -/
def LinkOut.isNak : LinkOut → Bool
  | .ack _ nak => nak
  | .hello => false | .audio _ _ => false | .time => false | .breath _ => false | .param _ _ _ => false | .seed _ => false
  | .health _ _ => false | .cast _ => false | .window _ => false

/-- The 8-byte header of a frame with a payload of `len` bytes. -/
def LinkFrame.header (f : LinkFrame) (len : Nat) : List Byte :=
  [BitVec.ofNat 8 f.out.type, BitVec.ofNat 8 (b2n f.out.isNak + 2 * b2n f.retx)] ++ leBytes 2 len ++ leBytes 2 f.seq.toNat
    ++ leBytes 2 f.ack.toNat

/-- A frame as it stands on the lane: header, payload, and the CRC-32 over both (R439). -/
def LinkFrame.bytes (f : LinkFrame) : Option (List Byte) :=
  f.out.payload.map fun p => let b := f.header p.length ++ p; b ++ leBytes 4 (crc32 b)

/-! ## HELLO (R438) -/

/-- The role that the far end must have. -/
def peerRole (r : Nat) : Nat := if r = 1 then 2 else if r = 2 then 1 else r

/-- The position that R437 gives the peer. -/
def State.peerPosition (s : State) (role : Nat) : Nat :=
  let p := s.clusterPos
  let n := max 1 s.clusterSize
  match role with
  | 1 => (p + 1) % n
  | 2 => (p + n - 1) % n
  | 3 => (p + n / 2) % n
  | _ => p

/-- The first field of a HELLO that disagrees. -/
def State.helloFault (s : State) (l : Fin 4) (h : HelloMsg) : Option (Fin 6) :=
  let r := (s.lane l).cfg.role.val
  let build := (s.img.loaded.map (·.buildId)).getD 0
  let serial := (s.img.loaded.map (·.serial)).getD 0
  if h.role.val ≠ peerRole r then some 0
  else if r ≠ 6 ∧ h.buildId ≠ build then some 1
  else if r = 5 ∧ h.serial ≠ serial then some 2
  else if 1 ≤ r ∧ r ≤ 4 ∧ h.size ≠ s.clusterSize then some 3
  else if 1 ≤ r ∧ r ≤ 4 ∧ h.position ≠ s.peerPosition r then some 4
  else if r = 4 ∧ h.rank = s.red.rank then some 5
  else none

/-- Two partners of equal rank do not pair (R446). -/
def rankConflict (s : State) : State := raise 0x9013 [] (s.onRed fun r => { r with flags := setFlag r.flags 2 })

def sendHello (l : Fin 4) (s : State) : State := s.onLane l fun x => x.sendNow .hello

/-- The lane exchanges HELLO frames in these states. -/
def LaneState.greets : LaneState → Bool
  | .hello => true
  | .down => true
  | .refused => true
  | .off => false
  | .training => false
  | .up => false

def receiveHello (l : Fin 4) (h : HelloMsg) (s : State) : State :=
  let x := s.lane l
  if x.state.greets then
    let role := x.cfg.role.val
    let clash := (role == 5 || role == 4) && h.rank == s.red.rank && !x.agreed
    let s' := s.onLane l fun y => { y with peerPos := BitVec.ofNat 4 h.position }
    match s.helloFault l h with
    | some f =>
      let again := x.state == .refused && x.refusedField == f
      let s' := s'.onLane l fun y => { y with state := .refused, refusedField := f, agreed := false }
      let s' := raiseIf (!again) 0x9008 [v8 l.val, v8 f.val] s'
      if clash && !again && f == 5 then rankConflict s' else s'
    | none =>
      let s' := s'.onLane l fun y => { y with state := .hello, agreed := true }
      if clash then rankConflict s' else s'
  else s

/-- HELLO (R438). -/
def execHello (l : Fin 4) (h : HelloMsg) (s : State) : Host.Outcome State Fault Refusal := .next (receiveHello l h s)

/-- HELLO_REPEAT (R438). -/
def execHelloRepeat (l : Fin 4) (s : State) : Host.Outcome State Fault Refusal :=
  .next (if (s.lane l).state.greets then sendHello l s else s)

/-- A failure of R440 within the last millisecond. -/
def State.laneClean (s : State) (l : Fin 4) : Bool := (s.lane l).failAt.all (fun t => t + Config.ms ≤ s.now)

/-- 1 ms after HELLO agreed with no failure, the lane is UP. -/
def laneUp (l : Fin 4) (s : State) : State :=
  let x := s.lane l
  if x.state == .hello && x.agreed && s.laneClean l then
    raise 0x9006 [v8 l.val] (s.onLane l fun y => { y with state := .up, window := [], seq := 0, lastRx := 0xFFFF })
  else s

/-- LANE_UP_TIMER (R438). -/
def execLaneUpTimer (l : Fin 4) (s : State) : Host.Outcome State Fault Refusal := .next (laneUp l s)

/-- LANE_TRAINING_COMPLETE (R438). -/
def execLaneTrainingComplete (l : Fin 4) (s : State) : Host.Outcome State Fault Refusal :=
  .next (if (s.lane l).state = .training then sendHello l (s.onLane l fun x => { x with state := .hello }) else s)

/-- A restart of HELLO at once: the lane leaves service. -/
def restartHello (l : Fin 4) (s : State) : State :=
  let st := (s.lane l).state
  if st = .off ∨ st = .training then s
  else laneGone l (sendHello l (s.onLane l fun x => { x with state := .hello, agreed := false, window := [] }))

/-- LANE_RESTART (R438). -/
def execLaneRestart (l : Fin 4) (s : State) : Host.Outcome State Fault Refusal := .next (restartHello l s)

/-! ## Go-back-N (R440) -/

/-- Frames acknowledged leave the window; frames that waited for room are sent. -/
def LaneSt.acked (l : LaneSt) (a : BitVec 16) : LaneSt :=
  let k := (l.window.findIdx? (fun p => p.1 == a)).map (· + 1)
  match k with
  | none => l
  | some k =>
    let rest := l.window.drop k
    let fresh := (rest.take windowSize).drop (windowSize - k)
    { l with window := rest, sent := (fresh.map (l.frame false)).reverse ++ l.sent }

/-- Every frame outstanding is sent again, in order. -/
def LaneSt.resend (l : LaneSt) : LaneSt :=
  let out := l.window.take windowSize
  { l with sent := (out.map (l.frame true)).reverse ++ l.sent, retx := satInc32 l.retx out.length }

/-- One failure; 16 within 1 ms take the lane DOWN. -/
def laneFail (l : Fin 4) (s : State) : State :=
  let now := s.now
  let s := s.onLane l fun x =>
    { x with failures := satInc16 x.failures, failAt := now :: x.failAt.filter (fun t => now < t + Config.ms) }
  let x := s.lane l
  if x.isUp && 16 ≤ x.failAt.length then
    raise 0x9007 [v8 l.val] (laneGone l (s.onLane l fun y => { y with state := .down, agreed := false, window := [], failAt := [] }))
  else s

/-- ACK (R440). -/
def execAck (l : Fin 4) (ack : BitVec 16) (nak : Bool) (s : State) : Host.Outcome State Fault Refusal :=
  .next (s.onLane l fun x =>
    if x.isUp then (if nak then (x.acked ack).resend else x.acked ack) else x)

/-- ACK_TIMEOUT (R440): 1 µs with frames outstanding and no progress. -/
def execAckTimeout (l : Fin 4) (s : State) : Host.Outcome State Fault Refusal :=
  .next (if (s.lane l).isUp && !(s.lane l).window.isEmpty then laneFail l (s.onLane l LaneSt.resend) else s)

/-- A frame that fails its CRC or arrives out of sequence is discarded and answered by a NAK. -/
def frameError (l : Fin 4) (crcError : Bool) (s : State) : State :=
  let x := s.lane l
  let s := if x.isUp then s.onLane l fun y => y.sendNow (.ack y.lastRx true) else s
  if crcError then laneFail l s else s

/-- LINK_FRAME_ERROR (R440). -/
def execLinkFrameError (l : Fin 4) (crcError : Bool) (s : State) : Host.Outcome State Fault Refusal :=
  .next (frameError l crcError s)

/-- TIME_TRANSFER_TICK (R443): each end sends a TIME frame every millisecond while time transfer is on. -/
def execTimeTransferTick (l : Fin 4) (s : State) : Host.Outcome State Fault Refusal :=
  .next (if (s.lane l).cfg.timeXfer then laneSend l .time s else s)

end Sys2Proof.Machine
end

