-- ==== Sys2Proof/Machine/EngineCore.lean ====
section
/-! DEFINITION. The signal engine's registers, addresses and arithmetic (R137 to R171), and writes in flight
(R156, R157, R172). -/

namespace Sys2Proof.Machine

/-! ## Registers (R137, R138, R182, R183) -/

def anyMask (m : BitVec 16) : Bool := m != 0
def allMask (m : BitVec 16) : Bool := m == 0xFFFF

/-- sr as one word (R138). -/
def Ctx.sr (c : Ctx) : Word :=
  packW [(c.bexp.toNat, 27), (b2n c.bexpEn, 26), (c.cmask.toNat, 8), (b2n (anyMask c.cmask), 7),
    (b2n (allMask c.cmask), 6), (b2n c.ctlHazard, 2), (b2n c.gov, 1), (b2n c.sat, 0)]

/-- Read a scalar register (R182, R183). -/
def Ctx.sreg (c : Ctx) : SReg → Word
  | .p i => c.p.get i
  | .m i => c.m.get i
  | .l i => c.l.get i
  | .b i => c.b.get i
  | .lc i => (c.lc.get i).setWidth 32
  | .sr => c.sr

/-- A write to a scalar register becomes visible (R138, R183). -/
def Ctx.setSReg (c : Ctx) (r : SReg) (w : Word) : Ctx :=
  match r with
  | .p i => { c with p := upd c.p i (fun _ => w) }
  | .m i => { c with m := upd c.m i (fun _ => w) }
  | .l i => { c with l := upd c.l i (fun _ => w) }
  | .b i => { c with b := upd c.b i (fun _ => w) }
  | .lc i => { c with lc := upd c.lc i (fun _ => w.setWidth 16) }
  | .sr =>
    let m : BitVec 16 := BitVec.ofNat 16 (fld w 23 8)
    { c with bexp := BitVec.ofNat 5 (fld w 31 27), bexpEn := flag w 26, cmask := m, cmaskBr := m,
             ctlHazard := c.ctlHazard && !flag w 2, gov := c.gov && !flag w 1, sat := c.sat && !flag w 0 }

/-- A write in flight becomes visible in the registers; stores are not register writes. -/
def Ctx.land (c : Ctx) : Dest → Ctx
  | .vec v ws => { c with v := upd c.v v (fun _ => ws) }
  | .lane v l w => { c with v := upd c.v v (fun ws => setWord ws l.val w) }
  | .accC a ls => { c with accC := upd c.accC a (fun _ => ls) }
  | .accM a ls => { c with accM := upd c.accM a (fun _ => ls) }
  | .accBoth a ls => { c with accC := upd c.accC a (fun _ => ls), accM := upd c.accM a (fun _ => ls) }
  | .sreg r w => c.setSReg r w
  | .cmaskSel m => { c with cmask := m }
  | .cmaskBr m => { c with cmaskBr := m }
  | .store _ _ => c

/-! ## Address generation (R163, R164, R184 to R186) -/

/-- An address or pointer folded into its circular buffer, or modulo 2^32 for a linear one. -/
def fold32 (base len : Word) (v : Int) : Word :=
  let n := len.toNat / 4 * 4
  if n = 0 then BitVec.ofInt 32 v else BitVec.ofInt 32 (base.toNat + (v - base.toNat) % (n : Int))

/-- Address of element k of an access (R163, R164). -/
def elemAddr (c : Ctx) (p : Word) (i : Fin 8) (d : Int) (k : Nat) : Word :=
  fold32 (c.b.get i) (c.l.get i) ((p.toNat : Int) + d + 4 * k)

/-- The post-modified pointer (R163, R164). -/
def postMod (c : Ctx) (p : Word) (i : Fin 8) (m : Int) : Word :=
  fold32 (c.b.get i) (c.l.get i) ((p.toNat : Int) + m)

/-- Pointers as the slots of one instruction see them, and those post-modified (R186). -/
structure Ptrs where
  p   : Vector Word 8
  mod : List (Fin 8)
  deriving Repr

/-- Addresses of an access of n elements in units of `unit` bytes, with its post-modify applied. -/
def formAddr (c : Ctx) (q : Ptrs) (a : Addr) (unit n : Nat) : List Word × Ptrs :=
  let p := q.p.get a.p
  let step : Int := a.imm * unit
  let d : Int := match a.mode with
    | .ofs => step
    | _ => 0
  let addrs := (List.range n).map (elemAddr c p a.p d)
  let bump (m : Int) : Ptrs :=
    { p := upd q.p a.p (fun _ => postMod c p a.p m), mod := a.p :: q.mod }
  match a.mode with
  | .ptr => (addrs, q)
  | .ofs => (addrs, q)
  | .postImm => (addrs, bump step)
  | .postMod => (addrs, bump (c.m.get a.p).toInt)

/-- A vector access that is not aligned to 64 bytes, or that wraps, costs a stall (R153, R193). -/
def vectorStall (as : List Word) : Nat :=
  let a := as.headD 0
  let straight := (as.zipIdx).all (fun p => p.1.toNat / 4 == a.toNat / 4 + p.2)
  if a.toNat / 4 % 16 = 0 ∧ straight then 0 else 1

/-! ## Arithmetic (R166 to R171) -/

def accMax : Int := 2 ^ 79 - 1
def accMin : Int := -(2 ^ 79)

/-- A lane whose exact result is v: in range, or the bound with hold (R167). -/
def accLane (v : Int) : AccLane :=
  if v > accMax then { v := BitVec.ofInt 80 accMax, held := true }
  else if v < accMin then { v := BitVec.ofInt 80 accMin, held := true }
  else { v := BitVec.ofInt 80 v, held := false }

/-- The lane's result overflowed. -/
def accOver (v : Int) : Bool := v > accMax || v < accMin

def lane (l : List Word) (i : Nat) : Int := (nth l i 0).toInt

def accAt (l : List AccLane) (i : Nat) : AccLane := nth l i { v := 0, held := false }

/-- Lanes after an accumulate of `f i` into each lane that is not held, and whether any overflowed (R167). -/
def accumulate (d : List AccLane) (f : Nat → Int) : List AccLane × Bool :=
  let each16 := (List.range 16).map fun i =>
    let a := accAt d i
    if a.held then (a, false) else (accLane (a.v.toInt + f i), accOver (a.v.toInt + f i))
  (each16.map (·.1), each16.any (·.2))

/-- The exact shifted value of a scaled move: divided by 2^s with ties to even, or multiplied by 2^-s (R169). -/
def scaledValue (v s : Int) : Int := if s ≥ 0 then rne v (2 ^ s.toNat) else v * (2 ^ (-s).toNat : Nat)

def clampShift (s : Int) : Int := clampInt (-16) 63 s

/-- A value saturates to a 32-bit word. -/
def satOver (v : Int) : Bool := v > maxWord || v < minWord

/-- A lane of a scaled move: its word and whether it saturated; a held lane always saturates (R169, R170). -/
def scaledLane (a : AccLane) (s : Int) : Word × Bool :=
  let x := scaledValue a.v.toInt s
  if a.held then (if a.v.toInt < 0 then satWord minWord else satWord maxWord, true) else (satWord x, satOver x)

/-- Leading bits equal to the sign bit, minus one; 31 for a zero word (R171). -/
def redundantBits (w : Word) : Nat :=
  let v := w.toInt
  let m := if v < 0 then (-v - 1).toNat else v.toNat
  if m = 0 then 31 else 30 - Nat.log2 m

def lanes16 (f : Nat → Word) : List Word := (List.range 16).map f

/-- Lanes of a saturating operation and whether any saturated (R170). -/
def satLanes (f : Nat → Int) : List Word × Bool :=
  (lanes16 (fun i => satWord (f i)), (List.range 16).any (fun i => satOver (f i)))

/-- A compare mask from a lane test (R188). -/
def maskOf (f : Nat → Bool) : BitVec 16 :=
  BitVec.ofNat 16 ((List.range 16).foldl (fun a i => a + (if f i then 2 ^ i else 0)) 0)

end Sys2Proof.Machine
end

