-- ==== Sys2Proof/Machine/Publish.lean ====
section
/-! DEFINITION. What a process's block work leaves: its output frames, their digest and publication (R141, R424),
the substitute for a missed block (R127, R128) and the ramp of a restarted process (R122). -/

namespace Sys2Proof.Machine

/-- Silence for one output. -/
def silence : Frame := List.replicate 8 0

/-- Digest of output frames: CRC-32 over each output's samples in order (R424). -/
def digestOf (fs : List Frame) : Word := BitVec.ofNat 32 (crc32 (bytesOfWords fs.flatten))

/-- The block a node works on in the present interval: interval less tier, a compare-before node one block early,
since its holding buffer adds the block that rule 9 of R56 counts (R29, R435; assumption 12). None before the first
block has come in. -/
def workIdx (ivl : Nat) (n : NodeRec) : Option Nat :=
  let t := n.tier - b2n n.before
  if t ≤ ivl then some (ivl - t) else none

def State.ivl (s : State) (n : NodeRec) : Nat := (s.tb (s.tbOf n.domain)).ivl

/-- Published frames of a node for a block. -/
def State.framesAt (s : State) (node w : Nat) : Option (List Frame) :=
  (s.outs.find? (fun o => o.node == node)).bind (fun o => aget o.frames w)

/-- One output of a node for a block; silence where nothing is published. -/
def State.frameAt (s : State) (node out w : Nat) : Frame := nth ((s.framesAt node w).getD []) out silence

/-- Keep the frames of the latest blocks: no reader is more than 15 tiers behind. -/
def trimFrames (l : List (Nat × List Frame)) (w : Nat) : List (Nat × List Frame) := l.filter (fun p => w < p.1 + 20)

/-- Publish the frames of a node for a block (R141). -/
def publish (node w : Nat) (fs : List Frame) (s : State) : State :=
  let lastOf : List Word := fs.map (fun f => nth f 7 0)
  if s.outs.any (fun o => o.node == node) then
    let put (o : NodeOut) : NodeOut := { o with frames := trimFrames (aset o.frames w fs) w, last := lastOf }
    { s with outs := mapIf (fun o => o.node == node) put s.outs }
  else { s with outs := s.outs ++ [{ node := node, frames := [(w, fs)], last := lastOf, misses := 0 }] }

def State.pair? (s : State) (node : Nat) : Option PairSt := s.red.pairs.find? (fun p => p.node == node)

def State.proc? (s : State) (node : Nat) (e : Fin 24) : Option ProcSt :=
  s.procs.find? (fun p => p.node == node && p.engine == e)

/-- The copy's output is the one that readers take at once: not a new overlap copy, not the secondary of a pair,
not held back for comparison (R116, R431, R435). -/
def State.released (s : State) (n : NodeRec) (p : ProcSt) : Bool :=
  !p.isNew && !n.before &&
    (match s.pair? n.id with
     | some q => q.prim == p.engine
     | none => true)

/-- The exact factors of the first block after a miss and of the restart ramp, rounded once (R122, R127, R597). -/
def restoreSample (p : Restore) (i : Nat) (w : Word) : Word :=
  let a : Nat × Nat := if p.missed then (i + 1, 8) else (1, 1)
  let j := p.rampLen - p.rampIn + i
  let b : Nat × Nat := if p.rampIn > 0 ∧ j < p.rampLen then (j + 1, p.rampLen) else (1, 1)
  if a.2 = 1 ∧ b.2 = 1 then w else scale w (a.1 * b.1 : Nat) (a.2 * b.2)

/-- Frames as they leave a copy that completes. -/
def restoreFrames (p : Restore) (fs : List Frame) : List Frame :=
  fs.map (fun f => f.zipIdx.map (fun q => restoreSample p q.2 q.1))

/-- The factors on the block that a copy completes now. -/
def ProcSt.restoring (p : ProcSt) : Restore := { missed := decide (0 < p.misses), rampIn := p.rampIn, rampLen := p.rampLen }

/-- A copy completes its block work with these frames: the engine takes the digest of what it has computed, before the fade
that R127 or R122 puts on it. -/
def ProcSt.complete (p : ProcSt) (fs : List Frame) : ProcSt :=
  let r := restoreFrames p.restoring fs
  { p with out := some r, raw := fs, restore := p.restoring, digest := digestOf fs, last := r.map (fun f => nth f 7 0), misses := 0, missedNow := false,
           unresolved := false, rampIn := p.rampIn - 8 }

/-- The substitute of R127 for one output: a fade from the last sample released, then silence. -/
def substitute (misses : Nat) (y : Word) : Frame :=
  if misses = 0 then (List.range 8).map (fun (i : Nat) => scale y ((7 : Int) - i) 8) else silence

/-- A copy misses its block (R127). -/
def ProcSt.miss (p : ProcSt) (outputs : Nat) : ProcSt :=
  let fs := (List.range outputs).map (fun k => substitute p.misses (nth p.last k 0))
  { p with out := some fs, digest := digestOf fs, misses := p.misses + 1, missedNow := true,
           last := fs.map (fun _ => 0) }

/-- A block enters a DELAY's history, as many samples of it as its region holds (R246). -/
def ProcSt.record (p : ProcSt) (x : Frame) : ProcSt :=
  { p with hist := ((List.range 8).reverse.map (fun i => nth x i 0) ++ p.hist).take p.histCap }

/-- Complete the block work of a copy: its frames, digest, and publication when they are the released ones. -/
def completeProc (n : NodeRec) (e : Fin 24) (fs : List Frame) (s : State) : State :=
  match s.proc? n.id e, workIdx (s.ivl n) n with
  | some p, some w =>
    let p' := p.complete fs
    let s := s.onProc n.id e (fun _ => p')
    if s.released n p' then publish n.id w (p'.out.getD []) s else s
  | _, _ => s

/-- Count a miss and report it: DEADLINE_MISS once per run, FAULT_UNRESOLVED once per run (R128). -/
def countMiss (p : ProcSt) (cause : Fin 3) (s : State) : State :=
  let s := s.onPlacer fun q =>
    { q with misses := satInc32 q.misses, lastCause := cause, lastNode := BitVec.ofNat 20 p.node }
  let s := raiseIf (p.misses = 0) 0x5008 [] s
  if cause = 1 ∧ p.unresolved = false then
    (raise 0x5009 [] s).onProc p.node p.engine (fun q => { q with unresolved := true })
  else s

/-- No second copy of the process runs. -/
def State.soleCopy (s : State) (node : Nat) : Bool :=
  match s.pair? node with
  | some q => q.sec.isNone
  | none => true

/-- A copy gives up its block: substitute, count, and publish it when readers would take this copy and no other
copy can serve them (R127, R174, R434). -/
def missProc (n : NodeRec) (e : Fin 24) (cause : Fin 3) (s : State) : State :=
  match s.proc? n.id e, workIdx (s.ivl n) n with
  | some p, some w =>
    let p' := p.miss n.outputs
    let p' := if n.type = .delay then p'.record (s.frameAt (n.inputs.headD (0, 0)).1 (n.inputs.headD (0, 0)).2 w) else p'
    let s := countMiss p cause (s.onProc n.id e (fun _ => p'))
    if s.released n p' ∧ s.soleCopy n.id then publish n.id w (p'.out.getD []) s else s
  | _, _ => s

end Sys2Proof.Machine
end

