-- ==== Sys2Proof/Machine/Engine.lean ====
section
/-! DEFINITION. Issuing one instruction word on an engine: writes landing, addresses, faults, the three slots,
control transfers and loops, and the end of block work (R126, R139 to R201, R601, R604). -/

namespace Sys2Proof.Machine

/-! ## Programs and the contexts of an engine -/

/-- The program of a PROC node. -/
def State.progOf (s : State) (n : NodeRec) : Option ProgRec :=
  (s.img.loaded.map (·.programs)).getD [] |>.find? (fun p => p.id == n.bodyRef)

/-- The foreground process of an engine, with its node record. -/
def State.fgNode (s : State) (e : Fin 24) : Option NodeRec := (s.engine e).fg.node.bind s.node?

/-- The context waits for a read, or for room in the write buffer (R153). -/
def Ctx.waits (c : Ctx) : Bool := c.readWait || c.storeWait

/-- The engine can issue its next instruction: it has a foreground process and nothing holds it (R126, R153, R428). -/
def Engine.free (g : Engine) : Bool :=
  g.fg.node.isSome && g.stalled.isNone && !g.fg.waits && !g.fg.ended && !g.out

/-- Block work of a process begins: the register values of R139. -/
def Ctx.enter (node entry : Nat) (inp : List Word) (outs : Nat) : Ctx :=
  { Ctx.reset with
    node := some node
    p := #v[0xF8000000, 0xFA000000, 0xFC000000, 0xFE000000, 0, 0, 0, 0]
    pc := entry
    inFrame := inp
    outFrame := List.replicate (128 * groups16 outs) 0 }

/-- The context in the background that waits for nothing but its turn (R126 step 4). -/
def Engine.displaced (g : Engine) : Bool := g.bg.node.isSome && g.parked.isNone

/-- The foreground process has ended or faulted: a displaced process resumes, else the engine is free. -/
def Engine.next (g : Engine) (bg : Ctx) : Engine :=
  if g.displaced then { g with fg := g.bg, bg := bg } else { g with fg := Ctx.reset, bg := bg }

/-- Output frames of a process from its output window: sample i of output 16g + j is lane j of vector 8g + i (R149). -/
def framesOfWindow (ws : List Word) (n : Nat) : List Frame :=
  (List.range n).map fun k => (List.range 8).map fun i => nth ws (16 * (8 * (k / 16) + i) + k % 16) 0

/-- The input window of a process from its input frames (R149). -/
def windowOfFrames (fs : List Frame) : List Word :=
  (List.range (groups16 fs.length)).flatMap fun g =>
    (List.range 8).flatMap fun i => (List.range 16).map fun j => nth (nth fs (16 * g + j) []) i 0

/-! ## Faults (R126, R174, R601) -/

/-- Record the latest fault of any kind. -/
def setFault (e : Fin 24) (kind : Fin 6) (node win ofs : Nat) (s : State) : State :=
  s.onEngine e fun g =>
    { g with lastKind := kind, lastNode := BitVec.ofNat 20 node, lastWindow := BitVec.ofNat 6 win,
             lastOfs := BitVec.ofNat 25 ofs }

/-- A block of work ends that has used so many cycles (R142): more than its program declares is an overrun, reported once for each
run of such blocks (R143). -/
def chargeCycles (e : Fin 24) (n : NodeRec) (used : Nat) (s : State) : State :=
  let late := decide (((s.progOf n).map (·.cycles)).getD 0 < used)
  let was := ((s.proc? n.id e).map (·.overrun)).getD false
  let s := (s.onEngine e fun g => { g with
    cyclesNow := g.cyclesNow + used, flags := if late then setFlag g.flags 6 else g.flags }).onProc n.id e fun p => { p with overrun := late }
  raiseIf (late && !was) 0x6004 [v32 n.id, v32 used] s

/-- Leave the foreground process: its block work is over. -/
def leaveFg (e : Fin 24) (s : State) : State :=
  s.onEngine e fun g => g.next (if g.displaced then Ctx.reset else g.bg)

/-- A fault that ends the process's block work at once (R174): address, stack, ECC or fetch. -/
def fatalFault (e : Fin 24) (n : NodeRec) (kind : Fin 6) (win ofs flagBit : Nat) (s : State) : State :=
  let c := (s.engine e).fg
  let s := setFault e kind n.id win ofs s
  let s := s.onEngine e fun g => { g with flags := setFlag g.flags flagBit }
  let s := if kind = 3 then raise 0x6003 [v32 n.id] s
           else if kind = 4 then s
           else raise 0x6002 [v32 n.id, v8 kind.val, v8 win, v32 ofs] s
  leaveFg e (chargeCycles e n (c.cycles + 5) (missProc n e 0 s))

/-- A region fault (R126): the context parks in the background, or the engine stalls in place when one is parked. -/
def regionFault (e : Fin 24) (n : NodeRec) (win r ofs : Nat) (s : State) : State :=
  let s := setFault e 1 n.id win ofs s
  let f : FaultSt := { region := r, offset := ofs, node := n.id }
  s.onEngine e fun g =>
    let g := { g with faults := satInc32 g.faults }
    if g.parked.isSome then { g with stalled := some f } else { g.next g.fg with parked := some f }

/-- An engine becomes suspect (R429): it keeps its load, and its clean passes count anew. -/
def markSuspect (e : Fin 24) (s : State) : State :=
  let was := (s.engine e).suspect
  let s := s.onEngine e fun g => { g with suspect := true, cleanRun := 0 }
  raiseIf (!was) 0x9002 [v8 e.val] s

/-- The memory that an ECC event names: X, Y or C of an engine; no rule gives a shared bank its code (R178). -/
def eccMemory (addr : Nat) : Vals :=
  [if 0x60000000 ≤ addr ∧ addr < 0x61800000 then v8 (addr / 0x40000 % 4) else v8 (Config.eccMemory (addr / 0x30000)).toNat]

/-- An uncorrectable error met by an engine's read (R174, R428 cause 3, R429); one in a shared bank is the bank's too (R410). -/
def eccUncorrected (e : Fin 24) (addr : Nat) (s : State) : State :=
  let again := match (s.engine e).lastUe with
    | some x => decide (s.now < x + Config.tick)
    | none => false
  let s := raise 0x6006 ([v8 e.val] ++ eccMemory addr ++ [v64 addr]) (if (bankOf addr).isSome then bankUncorrectable addr s else s)
  let s := s.onEngine e fun g =>
    { g with eccNow := true, lastUe := some s.now, outDue := if again then some 3 else g.outDue }
  markSuspect e s

/-! ## Writes that become visible (R172, R197) -/

/-- Store bytes at a window address: what becomes visible of a store (R112, R153). -/
def landStore (e : Fin 24) (n : NodeRec) (a : Word) (bs : List Byte) (s : State) : State :=
  let s := forwardStore e n a bs s
  match s.translate e n a true false with
  | .ok (.mem _ wr shared) =>
    each wr (fun x t => if shared then soil x (bufferWrite e x bs t) else { t with mem := t.mem.putN x bs }) s
  | .ok (.page r pg _ wr) => each wr (fun x t => soil x (bufferWrite e x bs t)) (touchPage e r pg id s)
  | .ok (.output i) =>
    let put (l : List Word) (p : Word × Nat) : List Word := setWord l (i + p.2) p.1
    s.onEngine e fun g => { g with fg := { g.fg with outFrame := (wordsOf bs).zipIdx.foldl put g.fg.outFrame } }
  | .ok (.inst ofs) => s.onProc n.id e fun p => { p with inst := p.inst.putN ofs bs }
  | .error (.region _ r ofs) =>
    -- the page has left the pool since the store issued: the bytes go to its home (R109)
    each (s.writeAddrs (some e) r ofs (s.route n.id r ofs (some e))) (fun x t => { t with mem := t.mem.putN x bs }) s
  | _ => s

/-- The writes in flight advance by one instruction, and those that are due land in their order (R157, R172). -/
def landFlight (e : Fin 24) (n : NodeRec) (s : State) : State :=
  let fl := (s.engine e).fg.flight.map (fun f => { f with left := f.left - 1 })
  let due := fl.filter (fun f => f.left == 0)
  let rest := fl.filter (fun f => f.left != 0)
  let s := s.onEngine e fun g => { g with fg := { (due.foldl (fun c f => c.land f.dest) g.fg) with flight := rest } }
  each due (fun f t => match f.dest with
    | .store a bs => landStore e n a bs t
    | _ => t) s

/-- At the end of block work every store in flight lands (R141). -/
def landStores (e : Fin 24) (n : NodeRec) (s : State) : State :=
  each (s.engine e).fg.flight (fun f t => match f.dest with
    | .store a bs => landStore e n a bs t
    | _ => t) s

/-! ## The memory accesses of an instruction (R153, R173, R186) -/

/-- One access: its word addresses, whether it is a vector, a store, a scalar load. -/
structure Access where
  addrs : List Word
  vec   : Bool
  store : Bool
  ld    : Bool
  deriving Repr

/-- The access of the compute slot. -/
def computeAccess (c : Ctx) (q : Ptrs) (o : ComputeOp) : Option Access × Ptrs :=
  match o.addrs with
  | [] => (none, q)
  | a :: _ =>
    let r := formAddr c q a 64 16
    (some { addrs := r.1, vec := true, store := false, ld := false }, r.2)

/-- The access, or the post-modify of adv, of a move slot (R194). -/
def moveAccess (c : Ctx) (q : Ptrs) (m : MoveOp) : Option Access × Ptrs :=
  let go (a : Addr) (unit n : Nat) (vec store ld : Bool) : Option Access × Ptrs :=
    let r := formAddr c q a unit n
    (some { addrs := r.1, vec := vec, store := store, ld := ld }, r.2)
  match m with
  | .vld _ a => go a 64 16 true false false
  | .vst _ a => go a 64 16 true true false
  | .vbc _ a => go a 4 1 false false false
  | .vldl _ _ a => go a 4 1 false false false
  | .vstl _ _ a => go a 4 1 false true false
  | .ld _ a => go a 4 1 false false true
  | .st _ a => go a 4 1 false true false
  | .adv p by_ =>
    let m : Int := match by_ with
      | .imm d => d
      | .mod => (c.m.get p).toInt
    (none, { p := upd q.p p (fun x => postMod c x p m), mod := p :: q.mod })
  | _ => (none, q)

/-- Translate every word of an access; the first word that faults decides (R173). -/
def State.locs (s : State) (e : Fin 24) (n : NodeRec) (a : Access) : Except AccErr (List Loc) :=
  a.addrs.foldr (fun w acc =>
    match s.translate e n w a.store a.ld with
    | .error x => .error x
    | .ok l => match acc with
      | .error x => .error x
      | .ok ls => .ok (l :: ls)) (.ok [])

/-- The first word read that meets an uncorrectable error: its address in the process's windows, and in memory (R174). -/
def State.badWord (s : State) (e : Fin 24) (n : NodeRec) (rs : List (Word × Loc)) : Option (Word × Nat) :=
  (rs.map (fun p => (p.1, locAddr e n p.2))).find? (fun p => s.xbar.badUe.contains (p.2 / 8))

/-- Correctable errors among the words read are corrected and reported once per block per engine (R174), those of shared banks by
the bank as well (R410). -/
def correctWords (e : Fin 24) (n : NodeRec) (ls : List Loc) (s : State) : State :=
  let hits := (ls.map (fun l => locAddr e n l / 8)).filter s.xbar.badCe.contains
  if hits.isEmpty then s
  else
    let s := each (hits.eraseDups.filter (fun w => (bankOf (8 * w)).isSome)) (fun w s => bankCorrected (8 * w / bankBytes) w s) s
    let s := s.onXbar fun x => { x with badCe := x.badCe.filter (fun w => !hits.contains w) }
    let first := !(s.engine e).eccRaised
    let s := s.onEngine e fun g => { g with flags := setFlag g.flags 4, eccRaised := true }
    raiseIf first 0x6005 ([v8 e.val] ++ eccMemory (hits.headD 0 * 8)) s

/-- Stall cycles of the accesses of one instruction (R153). -/
def stallsOf (as : List (Access × List Loc)) : Nat :=
  let mem := as.filterMap (fun p => (p.2.head?).bind localOf)
  let dup (k : Nat) : Nat := (mem.filter (· == k)).length - 1
  dup 0 + dup 1 + dup 2 + (as.map (fun p => if p.1.vec then vectorStall p.1.addrs else 0)).sum

/-! ## Results of the slots -/

/-- What the slots of an instruction leave: writes with their latency, and the flags set at once. -/
structure Result where
  writes : List InFlight
  sat    : Bool
  gov    : Bool
  movaSat : Bool
  bexp   : Option Nat
  deriving Repr

def Result.none : Result := { writes := [], sat := false, gov := false, movaSat := false, bexp := Option.none }

def Result.one (l : Nat) (d : Dest) : Result := { Result.none with writes := [{ left := l, dest := d }] }

def Result.both (a b : Result) : Result :=
  { writes := a.writes ++ b.writes, sat := a.sat || b.sat, gov := a.gov || b.gov, movaSat := a.movaSat || b.movaSat,
    bexp := match a.bexp, b.bexp with
      | some x, some y => some (min x y)
      | some x, Option.none => some x
      | Option.none, y => y }

/-- An accumulator write: compute slots see it after 1 instruction, other reads after 2 (R156, R196). -/
def accWrite (a : Fin 8) (ls : List AccLane) (gov : Bool) : Result :=
  { Result.none with
    writes := [{ left := 1, dest := .accC a ls }, { left := 2, dest := .accM a ls }], gov := gov }

def vecWrite (v : Fin 16) (p : List Word × Bool) : Result :=
  { Result.one 2 (.vec v p.1) with sat := p.2 }

/-- A compare: vsel sees the mask after 2 instructions, conditional branches after 5 (R156, R196). -/
def maskWrite (m : BitVec 16) : Result :=
  { Result.none with writes := [{ left := 2, dest := .cmaskSel m }, { left := 5, dest := .cmaskBr m }] }

/-- A compute slot that forms products, each of which is checked against its operands' residues (R426; assumption 123). -/
def multiplies : ComputeOp → Bool
  | .mul _ _ _ => true
  | .mac _ _ _ => true
  | .msu _ _ _ => true
  | _ => false

/-- The compute slot's arithmetic on visible registers; `src` is the memory operand where there is one (R188). -/
def computeResult (c : Ctx) (o : ComputeOp) (src : List Word) : Result :=
  let v (i : Fin 16) : List Word := c.v.get i
  let opnd (s : MSrc) : List Word := match s with
    | .reg i => v i
    | .mem _ => src
  let prod (va : Fin 16) (s : MSrc) (i : Nat) : Int := lane (v va) i * lane (opnd s) i
  let word (i : Fin 16) (k : Nat) : Word := nth (v i) k 0
  match o with
  | .mul a va s => accWrite a ((List.range 16).map (fun i => accLane (prod va s i))) false
  | .mac a va s =>
    let r := accumulate (c.accC.get a) (prod va s)
    accWrite a r.1 r.2
  | .msu a va s =>
    let r := accumulate (c.accC.get a) (fun i => -(prod va s i))
    accWrite a r.1 r.2
  | .clr a => accWrite a zeroAcc false
  | .aadd a b =>
    let r := accumulate (c.accC.get a) (fun i => (accAt (c.accC.get b) i).v.toInt)
    accWrite a r.1 r.2
  | .asub a b =>
    let r := accumulate (c.accC.get a) (fun i => -(accAt (c.accC.get b) i).v.toInt)
    accWrite a r.1 r.2
  | .vadd d a b => vecWrite d (satLanes (fun i => lane (v a) i + lane (v b) i))
  | .vsub d a b => vecWrite d (satLanes (fun i => lane (v a) i - lane (v b) i))
  | .vabs d a => vecWrite d (satLanes (fun i => (lane (v a) i).natAbs))
  | .vneg d a => vecWrite d (satLanes (fun i => -(lane (v a) i)))
  | .vmin d a b => vecWrite d (lanes16 (fun i => if lane (v a) i ≤ lane (v b) i then word a i else word b i), false)
  | .vmax d a b => vecWrite d (lanes16 (fun i => if lane (v a) i ≤ lane (v b) i then word b i else word a i), false)
  | .vand d a b => vecWrite d (lanes16 (fun i => word a i &&& word b i), false)
  | .vor d a b => vecWrite d (lanes16 (fun i => word a i ||| word b i), false)
  | .vxor d a b => vecWrite d (lanes16 (fun i => word a i ^^^ word b i), false)
  | .vshl d a n => vecWrite d (lanes16 (fun i => word a i <<< n.val), false)
  | .vsra d a n => vecWrite d (lanes16 (fun i => (word a i).sshiftRight n.val), false)
  | .vsel d a b => vecWrite d (lanes16 (fun i => if c.cmask.getLsbD i then word a i else word b i), false)
  | .vcmpeq a b => maskWrite (maskOf (fun i => word a i == word b i))
  | .vcmplt a b => maskWrite (maskOf (fun i => lane (v a) i < lane (v b) i))
  | .vcmple a b => maskWrite (maskOf (fun i => lane (v a) i ≤ lane (v b) i))
  | .nop => Result.none
  | .done => Result.none
  | .ret => Result.none
  | .br _ => Result.none
  | .bc _ _ => Result.none
  | .call _ => Result.none
  | .loop _ _ => Result.none

/-- The shift of a scaled move: an immediate, or the low 7 bits of a modifier, clamped (R169). -/
def shiftOf (c : Ctx) : Shift → Int
  | .imm s => clampShift s
  | .mod k => clampShift (sfld (c.m.get k) 6 0)

/-- Consecutive words of a store as contiguous runs of bytes, none of which crosses a page of a STAGED region (R109). -/
def storeRuns (ws : List (Word × Word)) : List Dest :=
  let go (acc : List (Word × List Byte)) (p : Word × Word) : List (Word × List Byte) :=
    match acc with
    | (a, bs) :: t =>
      if a.toNat / 4 * 4 + bs.length = p.1.toNat / 4 * 4 ∧ p.1.toNat / 4096 = a.toNat / 4096 then (a, bs ++ leBytes 4 p.2.toNat) :: t
      else (p.1, leBytes 4 p.2.toNat) :: (a, bs) :: t
    | [] => [(p.1, leBytes 4 p.2.toNat)]
  ((ws.foldl go []).reverse).map (fun p => .store p.1 p.2)

/-- A move slot's result: `addrs` and `src` are its word addresses and the words read there (R192). -/
def moveResult (c : Ctx) (m : MoveOp) (addrs src : List Word) : Result :=
  let w0 := src.headD 0
  let stores (ws : List Word) : Result :=
    { Result.none with writes := (storeRuns (addrs.zip ws)).map (fun d => { left := 2, dest := d }) }
  match m with
  | .nop => Result.none
  | .vld v _ => Result.one 2 (.vec v src)
  | .vbc v _ => Result.one 2 (.vec v (List.replicate 16 w0))
  | .vldl v l _ => Result.one 2 (.lane v l w0)
  | .vst v _ => stores (c.v.get v)
  | .vstl v l _ => stores [nth (c.v.get v) l.val 0]
  | .ld r _ => Result.one 3 (.sreg r w0)
  | .st r _ => stores [c.sreg r]
  | .mova v a sh =>
    let s := shiftOf c sh
    let ls := (List.range 16).map (fun i => scaledLane (accAt (c.accM.get a) i) s)
    let ws := ls.map (·.1)
    let sated := ls.any (·.2)
    let bx := if c.bexpEn then some (ws.foldl (fun b w => min b (redundantBits w)) c.bexp.toNat) else Option.none
    { Result.one 2 (.vec v ws) with sat := sated, movaSat := sated, bexp := bx }
  | .ldi r k imm => Result.one 3 (.sreg r (BitVec.ofInt 32 (imm * (4 ^ k.val : Nat))))
  | .lda r win ofs => Result.one 3 (.sreg r (BitVec.ofNat 32 (2 ^ 31 + 2 ^ 25 * win.val + 64 * ofs.val)))
  | .mov d x => Result.one 3 (.sreg d (c.sreg x))
  | .vmov d x => Result.one 2 (.vec d (c.v.get x))
  | .mvta a v sh =>
    let f (i : Nat) : Int := lane (c.v.get v) i * (2 ^ sh.val : Nat)
    { Result.one 2 (.accBoth a ((List.range 16).map (fun i => accLane (f i)))) with
      gov := (List.range 16).any (fun i => accOver (f i)) }
  | .ldc k imm => Result.one 3 (.sreg (.lc k) (imm.setWidth 32))
  | .adv _ _ => Result.none

/-- A write of sr by the same instruction that sets a flag leaves that flag set (R183). -/
def keepFlags (r : Result) (hazard : Bool) (f : InFlight) : InFlight :=
  match f.dest with
  | .sreg .sr w =>
    let w := if hazard then w &&& ~~~ (4 : Word) else w
    let w := if r.gov then w &&& ~~~ (2 : Word) else w
    let w := if r.sat then w &&& ~~~ (1 : Word) else w
    { f with dest := .sreg .sr w }
  | _ => f

/-! ## Control (R158 to R162, R189) -/

/-- What the compute slot does to control. -/
inductive Flow where
  | fall | branch (t : Nat) | call (t : Nat) | ret | enter (ctr : Fin 2) (t n : Nat) | skip (t : Nat) | stack | hazard
  deriving Repr

def condHolds (m : BitVec 16) : Cond → Bool
  | .any => anyMask m
  | .all => allMask m
  | .notAny => !anyMask m
  | .notAll => !allMask m

/-- The instruction stands in a delay slot, or in the last two instructions of an active loop body (R159, R162). -/
def Ctx.suppressed (c : Ctx) : Bool :=
  c.transfer.isSome || c.loops.any (fun l => c.pc == l.last || c.pc + 1 == l.last)

/-- The control effect of a compute slot at the context's pc. -/
def flowOf (c : Ctx) (o : ComputeOp) : Flow :=
  if o.isControl && c.suppressed then .hazard
  else match o with
    | .br t => .branch t
    | .bc k t => if condHolds c.cmaskBr k then .branch t else .fall
    | .call t => if c.stack.length ≥ 8 then .stack else .call t
    | .ret => if c.stack.isEmpty then .stack else .ret
    | .loop k t =>
      let okLevel := if k = 0 then c.loops.isEmpty else c.loops.length == 1
      if !okLevel then .stack
      else
        let n := (c.lc.get k).toNat
        if n = 0 then .skip t else .enter k t n
    | _ => .fall

/-- Loops whose body does not hold the target of a branch that takes place end; calls and returns end none (R162). -/
def keepLoops (ls : List LoopSt) (t : Nat) : List LoopSt := ls.filter (fun l => l.first ≤ t && t ≤ l.last)

/-- The bodies held in the loop cache: at most two (R162). -/
def cacheBody (c : List (Nat × Nat)) (b : Nat × Nat) : List (Nat × Nat) := (b :: c.filter (· != b)).take 2

/-- A body of more than 32 instructions, with any enclosing body, costs 3 cycles at each return (R161). -/
def loopCost (ls : List LoopSt) : Nat :=
  match ls with
  | [] => 0
  | l :: outer =>
    let size (x : LoopSt) : Nat := x.last + 1 - x.first
    let total := match outer with
      | [] => size l
      | o :: _ => if o.first ≤ l.first ∧ l.last ≤ o.last then size o else size l + size o
    if total ≤ 32 then 0 else 3

/-- The end of an iteration of the innermost loop: return to the start of the body, or end the loop (R161). -/
def Ctx.loopReturn (c : Ctx) : Ctx :=
  match c.loops with
  | [] => { c with atEnd := false }
  | l :: outer =>
    let n := (c.lc.get l.ctr).toNat
    if n ≤ 1 then
      { c with lc := upd c.lc l.ctr (fun _ => 0), loops := outer, pc := l.last + 1,
               atEnd := outer.any (fun o => o.last == l.last) }
    else { c with lc := upd c.lc l.ctr (fun _ => BitVec.ofNat 16 (n - 1)), pc := l.first, atEnd := false,
                  cycles := c.cycles + loopCost c.loops }

/-- Resolve every iteration end that still waits (at most one for each level). -/
def Ctx.settle (c : Ctx) : Ctx :=
  let c := if c.atEnd then c.loopReturn else c
  if c.atEnd then c.loopReturn else c

/-- Advance the program counter past an instruction, with the pending transfer, the stack and the loops. -/
def Ctx.advance (c : Ctx) (f : Flow) : Ctx :=
  let pc := c.pc
  match c.transfer with
  | some (t, k) =>
    let c := match f with
      | .hazard => { c with ctlHazard := true }
      | _ => c
    if k ≤ 1 then { c with transfer := none, pc := t }
    else { c with transfer := some (t, k - 1), pc := pc + 1 }
  | none =>
    let atEnd (ls : List LoopSt) (done : Nat) : Bool := match ls with
      | [] => false
      | l :: _ => l.last == done
    match f with
    | .fall => { c with pc := pc + 1, atEnd := atEnd c.loops pc }
    | .hazard => { c with pc := pc + 1, atEnd := atEnd c.loops pc, ctlHazard := true }
    | .branch t => { c with pc := pc + 1, transfer := some (t, 2), loops := keepLoops c.loops t }
    | .call t => { c with pc := pc + 1, transfer := some (t, 2), stack := (pc + 3) :: c.stack }
    | .ret => { c with pc := pc + 1, transfer := some (c.stack.headD 0, 2), stack := c.stack.drop 1 }
    | .enter k t n =>
      { c with pc := pc + 1, loops := { ctr := k, first := pc + 1, last := t } :: c.loops,
               cache := cacheBody c.cache (pc + 1, t), lc := upd c.lc k (fun _ => BitVec.ofNat 16 n) }
    | .skip t => { c with pc := t + 1, atEnd := atEnd c.loops t }
    | .stack => c

/-! ## Issue -/

/-- The block work of a context has ended: the output frame is published, cycles are charged (R141 to R143). -/
def closeWork (e : Fin 24) (c : Ctx) (s : State) : State :=
  match c.node.bind s.node? with
  | some n => if c.stale then s else chargeCycles e n (c.cycles + 5) (completeProc n e (framesOfWindow c.outFrame n.outputs) s)
  | none => s

/-- A context that done has ended gives up its bank once it waits for nothing (R142, R153). -/
def finishWork (e : Fin 24) (s : State) : State :=
  let g := s.engine e
  let ready (c : Ctx) : Bool := c.ended && !c.waits
  if ready g.fg then leaveFg e (closeWork e g.fg s)
  else if ready g.bg then (closeWork e g.bg s).onEngine e fun g => { g with bg := Ctx.reset }
  else s

/-- done has issued: the stores in flight land, and block work ends (R141). -/
def endWork (e : Fin 24) (n : NodeRec) (s : State) : State :=
  finishWork e ((landStores e n s).onEngine e fun g => { g with fg := { g.fg with ended := true } })

/-- An atomic of a scalar load: the word changes at every location it is held at, and the old value returns
(R112, R402, R404). -/
def atomicWord (op : Nat) (old operand : Word) : Word :=
  if op = 1 then old + operand
  else if op = 2 then satWord (old.toInt + operand.toInt)
  else operand

/-- Issue one instruction word on the foreground process of an engine. -/
def issue (e : Fin 24) (n : NodeRec) (i : Insn) (s0 : State) : State :=
  let start := s0.onEngine e fun g => { g with fg := g.fg.settle }
  let len := ((s0.progOf n).map (fun p => p.code.length)).getD 0
  if len ≤ (start.engine e).fg.pc then fatalFault e n 5 0 (start.engine e).fg.pc 2 start
  else
    let s := landFlight e n start
    let c := (s.engine e).fg
    let flow := flowOf c i.c
    let q0 : Ptrs := { p := c.p, mod := [] }
    let rc := computeAccess c q0 i.c
    let r0 := moveAccess c rc.2 i.m0
    let r1 := moveAccess c r0.2 i.m1
    let locsOf (o : Option Access) : Except AccErr (List Loc) := match o with
      | none => .ok []
      | some a => s.locs e n a
    match flow, locsOf rc.1, locsOf r0.1, locsOf r1.1 with
    | .stack, _, _, _ => fatalFault e n 3 0 0 3 start
    | _, .error (.addr w o), _, _ => fatalFault e n 2 w o 2 start
    | _, .error (.region w r o), _, _ => regionFault e n w r o start
    | _, .ok _, .error (.addr w o), _ => fatalFault e n 2 w o 2 start
    | _, .ok _, .error (.region w r o), _ => regionFault e n w r o start
    | _, .ok _, .ok _, .error (.addr w o) => fatalFault e n 2 w o 2 start
    | _, .ok _, .ok _, .error (.region w r o) => regionFault e n w r o start
    | flow, .ok lc, .ok l0, .ok l1 =>
      let reads (o : Option Access) (ls : List Loc) : List (Word × Loc) := match o with
        | some a => if a.store then [] else a.addrs.zip ls
        | none => []
      let rs := reads rc.1 lc ++ reads r0.1 l0 ++ reads r1.1 l1
      let rd := rs.map (·.2)
      match s.badWord e n rs with
      | some (a, bad) =>
        let at_ := (splitAddr a).getD (0, 0)
        eccUncorrected e bad (fatalFault e n 4 at_.1 at_.2 5 start)
      | none =>
        let words (ls : List Loc) : List Word := ls.map (s.readLoc e n c)
        let addrsOf (o : Option Access) : List Word := (o.map (·.addrs)).getD []
        let res := (computeResult c i.c (words lc)).both
          ((moveResult c i.m0 (addrsOf r0.1) (words l0)).both (moveResult c i.m1 (addrsOf r1.1) (words l1)))
        let accs := [(rc.1, lc), (r0.1, l0), (r1.1, l1)].filterMap (fun p => p.1.map (fun a => (a, p.2)))
        let stalls := stallsOf accs
        let waits := rd.any sharedLoc
        let ptrWrites : List InFlight :=
          r1.2.mod.eraseDups.map (fun k => { left := 1, dest := .sreg (.p k) (r1.2.p.get k) })
        -- atomics of scalar loads
        let atom (m : MoveOp) (as : List Word) (ls : List Loc) (t : State) : State := match m, ls with
          | .ld r _, [.atomic op rd wr] =>
            let nw := leBytes 4 (atomicWord op (engineWord s e rd) (c.sreg r)).toNat
            forwardStore e n (as.headD 0) nw (each wr (fun x u => let u := settleStores x 4 e u; { u with mem := u.mem.putN x nw }) t)
          | _, _ => t
        let touch (t : State) : State := each rd (fun l u => match l with
          | .page r pg _ _ => touchPage e r pg id u
          | _ => u) t
        let s := correctWords e n rd (touch (atom i.m1 (addrsOf r1.1) l1 (atom i.m0 (addrsOf r0.1) l0 s)))
        let s := s.onEngine e fun g =>
          let c := g.fg
          let hazard : Bool := match flow with
            | .hazard => true
            | _ => false
          let c := { c with sat := c.sat || res.sat, gov := c.gov || res.gov, cycles := c.cycles + 1 + stalls,
                            bexp := match res.bexp with
                              | some b => BitVec.ofNat 5 b
                              | none => c.bexp,
                            flight := c.flight ++ ptrWrites ++ res.writes.map (keepFlags res hazard),
                            readWait := waits }
          let f := if res.gov then setFlag g.flags 0 else g.flags
          let f := if res.movaSat then setFlag f 1 else f
          { g with fg := c.advance flow, flags := f, residueNow := g.residueNow || (g.badLane && multiplies i.c) }
        let first := res.gov && !(s.engine e).govRaised
        let s := if first then raise 0x6001 [v32 n.id] (s.onEngine e fun g => { g with govRaised := true }) else s
        match i.c with
        | .done => endWork e n s
        | _ => s

/-- Issue a word when the engine's next instruction can issue; a halted engine issues only under a step (R176). -/
def issueWord (e : Fin 24) (i : Insn) (s : State) : State :=
  let g := s.engine e
  match s.fgNode e with
  | some n => if g.free && !g.halted then issue e n i s else s
  | none => s

/-- The word of a compute-slot row with its two move slots. -/
def computeWord (c : ComputeOp) (m0 m1 : MoveOp) : Insn := { c := c, m0 := m0, m1 := m1 }

/-- The word of a move-slot row with the slots beside it. -/
def moveWord (m : MoveOp) (w : MovePeers) : Insn :=
  if w.slot1 then { c := w.c, m0 := w.other, m1 := m } else { c := w.c, m0 := m, m1 := w.other }

end Sys2Proof.Machine
end

