-- ==== Sys2Proof/Machine/Crypto.lean ====
section
/-! DEFINITION. The cryptographic standards that the spec names and does not restate: SHA-384 and ECDSA P-384
(R46, R541) and AES-256-GCM (R75). Their text is FIPS 180-4, FIPS 186, SEC 1 and SP 800-38D (PRESUMED,
assumption 4). -/

namespace Sys2Proof.Machine

/-! ## SHA-384 -/

/-- The first 80 primes: the constants of the hash are digits of their roots. -/
def shaPrimes : List Nat :=
  [2, 3, 5, 7, 11, 13, 17, 19, 23, 29, 31, 37, 41, 43, 47, 53, 59, 61, 67, 71, 73, 79, 83, 89, 97, 101, 103, 107, 109, 113]
  ++ [127, 131, 137, 139, 149, 151, 157, 163, 167, 173, 179, 181, 191, 193, 197, 199, 211, 223, 227, 229, 233, 239, 241, 251]
  ++ [257, 263, 269, 271, 277, 281, 283, 293, 307, 311, 313, 317, 331, 337, 347, 349, 353, 359, 367, 373, 379, 383, 389, 397]
  ++ [401, 409]

/-- The k-th root of n, whose bits from `bits` - 1 down are decided one by one on top of r. -/
def rootBits (k n : Nat) : Nat → Nat → Nat
  | 0, r => r
  | i + 1, r => rootBits k n i (if (r + 2 ^ i) ^ k ≤ n then r + 2 ^ i else r)

/-- The first 64 fractional bits of the k-th root of a number below 512. -/
def rootFraction (k p : Nat) : BitVec 64 := BitVec.ofNat 64 (rootBits k (p * 2 ^ (64 * k)) 69 0)

/-- The hash value before the first block: square roots of the ninth to sixteenth primes. -/
def shaStart : List (BitVec 64) := ((shaPrimes.drop 8).take 8).map (rootFraction 2)

/-- The constants of the 80 rounds: cube roots of the primes. -/
def shaConstants : List (BitVec 64) := shaPrimes.map (rootFraction 3)

/-- A word under three rotations. -/
def shaTurn (a b c : Nat) (x : BitVec 64) : BitVec 64 := x.rotateRight a ^^^ x.rotateRight b ^^^ x.rotateRight c

/-- A word under two rotations and a shift. -/
def shaMix (a b c : Nat) (x : BitVec 64) : BitVec 64 := x.rotateRight a ^^^ x.rotateRight b ^^^ x >>> c

/-- A round: the registers take in the oldest of the sixteen message words in the window, which a new word replaces. -/
def shaStep (p : List (BitVec 64) × List (BitVec 64)) (k : BitVec 64) : List (BitVec 64) × List (BitVec 64) :=
  let r (i : Nat) : BitVec 64 := nth p.1 i 0
  let m (i : Nat) : BitVec 64 := nth p.2 i 0
  let pick := r 6 ^^^ (r 4 &&& (r 5 ^^^ r 6))
  let most := (r 0 &&& (r 1 ||| r 2)) ||| (r 1 &&& r 2)
  let t := r 7 + shaTurn 14 18 41 (r 4) + pick + k + m 0
  ((t + shaTurn 28 34 39 (r 0) + most) :: p.1.take 3 ++ (r 3 + t) :: (p.1.drop 4).take 3,
   p.2.drop 1 ++ [shaMix 19 61 6 (m 14) + m 9 + shaMix 1 8 7 (m 1) + m 0])

/-- The hash value after a block of 128 bytes. -/
def shaBlock (h : List (BitVec 64)) (block : List Byte) : List (BitVec 64) :=
  let words := (List.range 16).map (fun i => BitVec.ofNat 64 (beNat ((block.drop (8 * i)).take 8)))
  (h.zip (shaConstants.foldl shaStep (h, words)).1).map (fun p => p.1 + p.2)

def shaBlocks : Nat → List (BitVec 64) → List Byte → List (BitVec 64)
  | 0, h, _ => h
  | n + 1, h, bs => shaBlocks n (shaBlock h (bs.take 128)) (bs.drop 128)

/-- Big-endian bytes of a number. -/
def beBytes (n v : Nat) : List Byte := (leBytes n v).reverse

/-- SHA-384 digest of a byte string, as a number of 384 bits. -/
def sha384 (bs : List Byte) : Nat :=
  let len := bs.length
  let pad := (128 - (len + 17) % 128) % 128
  let msg := bs ++ [0x80] ++ zeroBytes pad ++ beBytes 16 (8 * len)
  ((shaBlocks (msg.length / 128) shaStart msg).take 6).foldl (fun a w => a * 2 ^ 64 + w.toNat) 0

/-! ## ECDSA P-384 -/

def p384 : Nat := 2 ^ 384 - 2 ^ 128 - 2 ^ 96 + 2 ^ 32 - 1
def p384b : Nat := 0xb3312fa7e23ee7e4988e056be3f82d19181d9c6efe8141120314088f5013875ac656398d8a2ed19d2a85c8edd3ec2aef
def p384n : Nat := 0xffffffffffffffffffffffffffffffffffffffffffffffffc7634d81f4372ddf581a0db248b0a77aecec196accc52973
def p384x : Nat := 0xaa87ca22be8b05378eb1c71ef320ad746e1d3b628ba79b9859f741e082542a385502f25dbf55296c3a545e3872760ab7
def p384y : Nat := 0x3617de4a96262c6f5d9e98bf9292dc29f8f41dbd289a147ce9da3113b5f0b8c00a60b1ce1d7e819d7a431d7c90ea0e5f

/-- Modular power by bits of the exponent, most significant first. -/
def powModGo (m b e : Nat) : Nat → Nat → Nat
  | 0, acc => acc
  | k + 1, acc =>
    let sq := acc * acc % m
    powModGo m b e k (if e / 2 ^ k % 2 = 1 then sq * b % m else sq)

def powMod (m b e : Nat) : Nat := powModGo m (b % m) e 384 1

/-- Inverse modulo a prime. -/
def invMod (m a : Nat) : Nat := powMod m a (m - 2)

/-- The point lies on P-384 (R538). -/
def onCurve (x y : Nat) : Bool :=
  x < p384 && y < p384 && (y * y + 3 * x) % p384 == (x * x * x + p384b) % p384

/-- Affine addition; none is the point at infinity. -/
def ecAdd : Option (Nat × Nat) → Option (Nat × Nat) → Option (Nat × Nat)
  | none, q => q
  | p, none => p
  | some (x1, y1), some (x2, y2) =>
    if x1 = x2 ∧ (y1 + y2) % p384 = 0 then none
    else
      let l := if x1 = x2 then (3 * x1 * x1 + (p384 - 3)) * invMod p384 (2 * y1) % p384
               else (y2 + p384 - y1) * invMod p384 (x2 + p384 - x1) % p384
      let x3 := (l * l + 2 * p384 - x1 - x2) % p384
      some (x3, (l * (x1 + p384 - x3) + p384 - y1) % p384)

def ecMulGo (q : Option (Nat × Nat)) (k : Nat) : Nat → Option (Nat × Nat) → Option (Nat × Nat)
  | 0, acc => acc
  | i + 1, acc =>
    let d := ecAdd acc acc
    ecMulGo q k i (if k / 2 ^ i % 2 = 1 then ecAdd d q else d)

def ecMul (k : Nat) (q : Option (Nat × Nat)) : Option (Nat × Nat) := ecMulGo q k 384 none

/-- The 96-byte signature verifies over the digest under the 96-byte public key (R46, R541). -/
def ecdsaVerify (key sig : List Byte) (digest : Nat) : Bool :=
  let x := beNat (slice key 0 48)
  let y := beNat (slice key 48 48)
  let r := beNat (slice sig 0 48)
  let t := beNat (slice sig 48 48)
  if r = 0 ∨ t = 0 ∨ p384n ≤ r ∨ p384n ≤ t ∨ onCurve x y = false then false
  else
    let w := invMod p384n t
    let u1 := digest * w % p384n
    let u2 := r * w % p384n
    match ecAdd (ecMul u1 (some (p384x, p384y))) (ecMul u2 (some (x, y))) with
    | none => false
    | some (px, _) => px % p384n == r

/-! ## AES-256-GCM -/

def gfMulGo : Nat → Nat → Nat → Nat → Nat
  | 0, _, _, acc => acc
  | k + 1, a, b, acc =>
    let a2 := if a ≥ 128 then ((2 * a) ^^^ 0x11B) else 2 * a
    gfMulGo k a2 (b / 2) (if b % 2 = 1 then acc ^^^ a else acc)

/-- Product in GF(2^8) of AES. -/
def gfMul (a b : Nat) : Nat := gfMulGo 8 a b 0

def gfPow : Nat → Nat → Nat
  | 0, _ => 1
  | k + 1, a => gfMul a (gfPow k a)

def rotl8 (x k : Nat) : Nat := ((x <<< k) ||| (x >>> (8 - k))) % 256

/-- The AES substitution of one byte. -/
def aesSub (a : Nat) : Nat :=
  let i := gfPow 254 a
  i ^^^ rotl8 i 1 ^^^ rotl8 i 2 ^^^ rotl8 i 3 ^^^ rotl8 i 4 ^^^ 0x63

def xorL (a b : List Nat) : List Nat := (a.zip b).map (fun p => p.1 ^^^ p.2)

/-- Key schedule: words of 4 bytes, newest first. -/
def aesExpandGo : Nat → Nat → List (List Nat) → List (List Nat)
  | 0, _, ws => ws
  | n + 1, i, ws =>
    let t := nth ws 0 []
    let t' :=
      if i % 8 = 0 then
        match t.map aesSub with
        | [a, b, c, d] => [b ^^^ gfPow (i / 8 - 1) 2, c, d, a]
        | o => o
      else if i % 8 = 4 then t.map aesSub else t
    aesExpandGo n (i + 1) (xorL (nth ws 7 []) t' :: ws)

def words4 : Nat → List Nat → List (List Nat)
  | 0, _ => []
  | n + 1, l => l.take 4 :: words4 n (l.drop 4)

/-- The 15 round keys of a 32-byte key. -/
def aesKeys (key : List Byte) : List (List Nat) :=
  let ws := (aesExpandGo 52 8 (words4 8 (key.map (·.toNat))).reverse).reverse
  (List.range 15).map (fun r => ((ws.drop (4 * r)).take 4).flatten)

def aesShiftRows (st : List Nat) : List Nat :=
  (List.range 16).map (fun i => nth st ((i + 4 * (i % 4)) % 16) 0)

def aesMixCol (c : List Nat) : List Nat :=
  (List.range 4).map fun i =>
    gfMul (nth c i 0) 2 ^^^ gfMul (nth c ((i + 1) % 4) 0) 3 ^^^ nth c ((i + 2) % 4) 0 ^^^ nth c ((i + 3) % 4) 0

def aesRound (last : Bool) (st k : List Nat) : List Nat :=
  let a := aesShiftRows (st.map aesSub)
  let b := if last then a else ((words4 4 a).map aesMixCol).flatten
  xorL b k

/-- AES-256 of one block. -/
def aesBlock (ks : List (List Nat)) (blk : List Nat) : List Nat :=
  let st := xorL blk (nth ks 0 [])
  let st := ((ks.drop 1).take 13).foldl (aesRound false) st
  aesRound true st (nth ks 14 [])

def gmulGo : Nat → Nat → Nat → Nat → Nat
  | 0, _, _, z => z
  | k + 1, x, v, z =>
    let z' := if x / 2 ^ k % 2 = 1 then z ^^^ v else z
    gmulGo k x (if v % 2 = 1 then (v / 2) ^^^ (0xE1 * 2 ^ 120) else v / 2) z'

/-- Product of GHASH. -/
def gmul (x y : Nat) : Nat := gmulGo 128 x y 0

def padTo16 (bs : List Byte) : List Byte := bs ++ zeroBytes ((16 - bs.length % 16) % 16)

def ghashGo (h : Nat) : Nat → Nat → List Byte → Nat
  | 0, y, _ => y
  | n + 1, y, bs => ghashGo h n (gmul (y ^^^ beNat (bs.take 16)) h) (bs.drop 16)

def gcmCtrGo (ks : List (List Nat)) (iv : List Nat) : Nat → Nat → List Byte → List Byte
  | 0, _, _ => []
  | n + 1, c, bs =>
    let stream := aesBlock ks (iv ++ (beBytes 4 c).map (·.toNat))
    ((bs.take 16).zip stream).map (fun p => BitVec.ofNat 8 (p.1.toNat ^^^ p.2))
      ++ gcmCtrGo ks iv n (c + 1) (bs.drop 16)

/-- Open a GCM message: the plaintext, or none where the tag does not match (R75). -/
def gcmOpen (key iv aad cipher tag : List Byte) : Option (List Byte) :=
  let ks := aesKeys key
  let ivn := iv.map (·.toNat)
  let h := beNat ((aesBlock ks (List.replicate 16 0)).map (BitVec.ofNat 8))
  let auth := padTo16 aad ++ padTo16 cipher ++ beBytes 8 (8 * aad.length) ++ beBytes 8 (8 * cipher.length)
  let y := ghashGo h (auth.length / 16) 0 auth
  let e0 := beNat ((aesBlock ks (ivn ++ [0, 0, 0, 1])).map (BitVec.ofNat 8))
  if (y ^^^ e0) = beNat tag then some (gcmCtrGo ks ivn ((cipher.length + 15) / 16) 2 cipher) else none

end Sys2Proof.Machine
end

