-- ==== Sys2Proof/Machine/ImageParse.lean ====
section
/-! DEFINITION. Reading an Armature image (R39 to R67): header, directory, section payloads and records.
A failed check carries its result code of R79 and the detail of SYS_IMG_DETAIL. -/

namespace Sys2Proof.Machine

/-- The outcome of a check: a value, or (result code, detail). -/
abbrev Chk (α : Type) := Except (Nat × Nat) α

/-- Pass when the condition holds. -/
def need (b : Bool) (code detail : Nat) : Chk Unit := if b then .ok () else .error (code, detail)

/-- Run a check on every element, first failure first. -/
def needAll {α : Type} (l : List α) (f : α → Chk Unit) : Chk Unit :=
  match l with
  | [] => .ok ()
  | a :: t => match f a with
    | .error e => .error e
    | .ok _ => needAll t f

/-! ## Header and directory (R42, R43) -/

/-- Image size as the header states it. -/
def hdrSize (bs : List Byte) : Nat := leAt bs 0x0C 4

/-- Offset of the first byte of a range that is not zero. -/
def firstNonZero (bs : List Byte) (ofs n : Nat) : Option Nat :=
  ((slice bs ofs n).findIdx? (· != 0)).map (· + ofs)

/-- A directory entry. -/
structure DirEnt where
  idx    : Nat
  type   : Nat
  flags  : Nat
  offset : Nat
  length : Nat
  count  : Nat
  tag    : List Byte
  aad    : List Byte
  deriving DecidableEq, Repr

def DirEnt.pos (d : DirEnt) : Nat := 128 + 32 * d.idx

def DirEnt.enc (d : DirEnt) : Bool := d.flags % 2 == 1

def readDirEnt (bs : List Byte) (k : Nat) : DirEnt :=
  let e := slice bs (128 + 32 * k) 32
  { idx := k, type := leAt e 0 2, flags := leAt e 2 2, offset := leAt e 4 4, length := leAt e 8 4,
    count := leAt e 12 4, tag := slice e 16 16, aad := slice e 0 16 }

def readDir (bs : List Byte) : List DirEnt := (List.range (leAt bs 0x14 2)).map (readDirEnt bs)

/-- The directory entry of a section type. -/
def dirOf (bs : List Byte) (t : Nat) : Option DirEnt := (readDir bs).find? (fun d => d.type == t)

/-- A section's plaintext, decrypted where the section is encrypted (R75); none where the tag fails. -/
def plaintext (key : Option (List Byte)) (bs : List Byte) (d : DirEnt) : Option (List Byte) :=
  let raw := slice bs d.offset d.length
  if d.enc then
    match key with
    | none => none
    | some k => gcmOpen k (slice bs 0x2C 8 ++ leBytes 4 d.idx) d.aad raw d.tag
  else some raw

/-- Payload and record count of a section type; empty where the image has none. -/
def sectionPart (key : Option (List Byte)) (bs : List Byte) (t : Nat) : Nat × Nat × List Byte :=
  match dirOf bs t with
  | none => (0, 0, [])
  | some d => (d.offset, d.count, (plaintext key bs d).getD [])

/-- Fixed-size records of a payload. -/
def records (size count : Nat) (bs : List Byte) : List (List Byte) :=
  (List.range count).map (fun i => slice bs (size * i) size)

/-- What follows the last record is padding: fewer than 8 zero bytes (R40). -/
def padOk (bs : List Byte) (used : Nat) : Bool := let r := bs.drop used; r.length < 8 && allZero r

/-! ## Records -/

def readDomain (r : List Byte) : DomainRec :=
  { dom := fin 4 (leAt r 0 1), rate := fin 6 (leAt r 1 1), tb := fin 4 (leAt r 2 1), apll := fin 4 (leAt r 3 1) }

def readCapacity (r : List Byte) : Capacity :=
  { minEngines := leAt r 0 1, spares := leAt r 1 1, engineLoad := leAt r 0x10 8, fabricLoad := leAt r 0x18 8,
    sramBytes := leAt r 0x20 8, dramBytes := leAt r 0x28 8 }

/-- Primitive types (R54). -/
def nodeType? (t : Nat) : Option NodeType :=
  match t with
  | 1 => some .source | 2 => some .sink | 3 => some .gain | 4 => some .mux | 5 => some .send | 6 => some .sum
  | 7 => some .delay | 8 => some .proc | 9 => some .limit | 10 => some .meter | 11 => some .detect
  | 12 => some .split | _ => none

def NodeType.bodyBytes : NodeType → Nat
  | .source => 4 | .sink => 4 | .gain => 0 | .mux => 4 | .send => 0 | .sum => 0 | .delay => 4 | .proc => 8
  | .limit => 0 | .meter => 4 | .detect => 0 | .split => 0

/-- Inputs and outputs that a type may have (R54). -/
def NodeType.io (t : NodeType) (i o : Nat) : Bool :=
  match t with
  | .source => i == 0 && o == 1
  | .sink => i == 1 && o == 0
  | .gain => i == 1 && o == 1
  | .mux => i == 0 && o == 1
  | .send => i == 1 && o == 0
  | .sum => i == 0 && o == 1
  | .delay => i == 1 && o == 1
  | .proc => i ≤ 64 && 1 ≤ o && o ≤ 64
  | .limit => i == 1 && o == 1
  | .meter => i == 1 && o == 0
  | .detect => i == 1 && o == 0
  | .split => i == 1 && 2 ≤ o && o ≤ 16

/-- An input-list entry (R53): source node and output; none where its zero bits are not zero. -/
def readEdge (w : Nat) : Option (Nat × Nat) := if w % 16 = 0 then some (w / 4096, w / 16 % 256) else none

/-- One node record at the head of a byte string: the record and its length; a malformed input-list entry fails with
BAD_EDGE, anything else with BAD_NODE (the choice of code for R53 is DEDUCED, assumption 10). -/
def readNode (bs : List Byte) : Chk (NodeRec × Nat) :=
  let id := leAt bs 0 4
  let bad : Chk (NodeRec × Nat) := .error (0x0501, id % 0x100000)
  let nin := leAt bs 8 1
  let nout := leAt bs 9 1
  let len := leAt bs 10 2
  let fl := leAt bs 7 1
  match nodeType? (leAt bs 4 1) with
  | none => bad
  | some t =>
    let edges := (List.range nin).map (fun k => readEdge (leAt bs (16 + 4 * k) 4))
    let bo := 16 + 4 * nin
    let a := leAt bs bo 4
    let bodyOk : Bool := match t with
      | .mux => leAt bs (bo + 1) 1 ≤ 1 && leAt bs (bo + 2) 2 == 0
      | .meter => leAt bs bo 1 ≤ 2 && leAt bs (bo + 1) 3 == 0
      | _ => true
    let refOk : Bool := match t with
      | .gain | .sum | .limit | .detect | .split => leAt bs 12 4 == 0
      | _ => true
    if id ≥ 0x100000 ∨ leAt bs 5 1 > 3 ∨ leAt bs 6 1 > 15 ∨ fl ≥ 8 ∨ t.io nin nout = false
        ∨ len ≠ 16 + 4 * nin + t.bodyBytes ∨ bs.length < len ∨ bodyOk = false ∨ refOk = false then bad
    else if edges.any Option.isNone then .error (0x0502, id % 0x100000)
    else
      .ok ({ id := id, type := t, domain := fin 4 (leAt bs 5 1), tier := leAt bs 6 1, critical := fl % 2 == 1,
             before := fl / 2 % 2 == 1, bridge := fl / 4 % 2 == 1, inputs := edges.filterMap id',
             outputs := nout, bodyRef := leAt bs 12 4, bodyA := if t.bodyBytes = 0 then 0 else a,
             bodyB := if t.bodyBytes = 8 then leAt bs (bo + 4) 4 else 0 }, len)
where
  id' (o : Option (Nat × Nat)) : Option (Nat × Nat) := o

/-- All node records (R51): strictly ascending ids, exactly `count` of them; a record that runs past the payload gives its own
offset (R603). -/
def readNodes (base ofs : Nat) (prev : Option Nat) : Nat → List Byte → Chk (List NodeRec)
  | 0, bs => if padOk bs 0 then .ok [] else .error (0x0501, base + ofs)
  | n + 1, bs =>
    if bs.length < 16 ∨ bs.length < leAt bs 10 2 then .error (0x0501, base + ofs)
    else match readNode bs with
      | .error d => .error d
      | .ok (r, len) =>
        let asc := match prev with
          | none => true
          | some p => p < r.id
        if asc = false then .error (0x0501, r.id)
        else match readNodes base (ofs + len) (some r.id) n (bs.drop len) with
          | .error e => .error e
          | .ok rs => .ok (r :: rs)

/-- All choice lists (R58): the entries of each, or none for one that is malformed in itself. -/
def readMuxLists (base ofs : Nat) : Nat → List Byte → Chk (List (Option (List (Nat × Nat))))
  | 0, bs => if padOk bs 0 then .ok [] else .error (0x0506, base + ofs)
  | n + 1, bs =>
    let c := leAt bs 0 1
    let len := 4 + 4 * c
    if bs.length < 4 ∨ bs.length < len then .error (0x0506, base + ofs)
    else
      let es := (List.range c).map (fun k => readEdge (leAt bs (4 + 4 * k) 4))
      let one := if 1 ≤ c ∧ c ≤ 64 ∧ leAt bs 1 3 = 0 ∧ es.all Option.isSome then
        some (es.filterMap (fun o => o)) else none
      match readMuxLists base (ofs + len) n (bs.drop len) with
      | .error e => .error e
      | .ok rs => .ok (one :: rs)

/-! ## PORTS records (R60) -/

def inR (v lo hi : Nat) : Bool := lo ≤ v && v ≤ hi

def words32 (r : List Byte) (ofs : Nat) : Vector Word 4 :=
  #v[BitVec.ofNat 32 (leAt r ofs 4), BitVec.ofNat 32 (leAt r (ofs + 4) 4), BitVec.ofNat 32 (leAt r (ofs + 8) 4),
     BitVec.ofNat 32 (leAt r (ofs + 12) 4)]

def bitIn (v i : Nat) : Bool := v / 2 ^ i % 2 == 1

/-- A SAP record whose fields lie in their ranges (R349, R350). -/
def readSap (r : List Byte) : Option SapRec :=
  let f := leAt r 9 1
  let slots := leAt r 6 1
  let fmt := leAt r 4 1
  let sw := leAt r 7 1
  let dw := leAt r 8 1
  let en := words32 r 0x10
  let mk := words32 r 0x20
  let okM := (idxs 4).all fun k =>
    let e := (getN en k 0).toNat
    e < 2 ^ slots && ((getN mk k 0).toNat &&& e) == (getN mk k 0).toNat
  if inR fmt 0 2 && inR (leAt r 5 1) 0 1 && inR slots 1 32 && (fmt == 2 || slots == 2)
      && (sw == 16 || sw == 24 || sw == 32) && (dw == 16 || dw == 24 || dw == 32) && dw ≤ sw && f < 32
      && (fmt == 2 || !bitIn f 0) && inR (leAt r 10 1) 0 2 && (fmt == 2 || leAt r 10 1 == 0)
      && inR (leAt r 11 1) 0 15 && inR (leAt r 12 1) 0 3 && inR (leAt r 13 1) 1 64 && inR (leAt r 15 1) 1 50 && okM then
    some { format := fmt, master := leAt r 5 1 == 1, slots := slots, slotWidth := sw, dataWidth := dw,
           fsDelay := bitIn f 0, fsInvert := bitIn f 1, bclkInvert := bitIn f 2, native32 := bitIn f 3,
           hizMasked := bitIn f 4, fsWidth := leAt r 10 1, lineDir := BitVec.ofNat 4 (leAt r 11 1),
           domain := fin 4 (leAt r 12 1), rampBlocks := leAt r 13 1, leadBlocks := leAt r 14 1,
           zcTimeout := leAt r 15 1, enable := en, mask := mk }
  else none

/-- An ETH record whose fields lie in their ranges (R357, R358). -/
def readEth (r : List Byte) : Option EthRec :=
  let f := leAt r 6 1
  let ls := leIntAt r 0x20 1
  let la := leIntAt r 0x21 1
  let lm := leIntAt r 0x22 1
  if inR (leAt r 4 1) 0 2 && inR (leAt r 5 1) 0 2 && !(leAt r 5 1 == 2 && leAt r 4 1 == 1) && f < 8
      && inR (leAt r 7 1) 0 3 && leAt r 0xE 2 < 0x8000 && inR (leAt r 0x18 1) 0 127 && inR (leAt r 0x19 1) 0 3
      && inR (leAt r 0x1A 1) 0 1 && inR (leAt r 0x1B 1) 0 63 && (-7 ≤ ls && ls ≤ 1) && (-3 ≤ la && la ≤ 3)
      && (-7 ≤ lm && lm ≤ 5) && allZero (slice r 0x25 11) then
    some { mode := leAt r 4 1, fec := leAt r 5 1, vlan := bitIn f 0, jumbo := bitIn f 1, ptpEn := bitIn f 2,
           profile := fin 4 (leAt r 7 1), mac := slice r 8 6, vlanTag := BitVec.ofNat 16 (leAt r 0xE 2),
           ip := BitVec.ofNat 32 (leAt r 0x10 4), netmask := BitVec.ofNat 32 (leAt r 0x14 4),
           ptpDomain := BitVec.ofNat 8 (leAt r 0x18 1), ptpTb := fin 4 (leAt r 0x19 1), master := leAt r 0x1A 1 == 1,
           dscpPtp := leAt r 0x1B 1, asym := leIntAt r 0x1C 4, logSync := ls, logAnnounce := la, logMinDelay := lm,
           priority1 := BitVec.ofNat 8 (leAt r 0x23 1), priority2 := BitVec.ofNat 8 (leAt r 0x24 1) }
  else none

def readRxLeg (r : List Byte) (o : Nat) : RxLeg :=
  { group := BitVec.ofNat 32 (leAt r o 4), udp := BitVec.ofNat 16 (leAt r (o + 4) 2), port := fin 4 (leAt r (o + 6) 1),
    src0 := BitVec.ofNat 32 (leAt r (o + 8) 4), src1 := BitVec.ofNat 32 (leAt r (o + 12) 4) }

/-- A STREAM_RX record whose fields lie in their ranges (R384). -/
def readRx (r : List Byte) : Option RxRec :=
  let f := leAt r 9 1
  let b := bitIn f 0
  if inR (leAt r 4 1) 1 2 && inR (leAt r 5 1) 0 3 && inR (leAt r 6 1) 1 64 && inR (leAt r 8 1) 96 127 && f < 4
      && 4 ≤ leAt r 0xA 2 && inR (leAt r 0x16 1) 0 3 && leAt r 0x17 1 == 0
      && (!b || (inR (leAt r 0x26 1) 0 3 && leAt r 0x27 1 == 0)) then
    some { format := leAt r 4 1, domain := fin 4 (leAt r 5 1), channels := leAt r 6 1, samples := leAt r 7 1,
           pt := BitVec.ofNat 7 (leAt r 8 1), enabled := bitIn f 1, rxDelay := leAt r 0xA 2,
           tsOffset := BitVec.ofNat 32 (leAt r 0xC 4), legA := readRxLeg r 0x10,
           legB := if b then some (readRxLeg r 0x20) else none }
  else none

def readTxLeg (r : List Byte) (o : Nat) : TxLeg :=
  { dest := BitVec.ofNat 32 (leAt r o 4), udpDst := BitVec.ofNat 16 (leAt r (o + 4) 2),
    udpSrc := BitVec.ofNat 16 (leAt r (o + 6) 2), port := fin 4 (leAt r (o + 8) 1), mac := slice r (o + 12) 6 }

/-- A multicast IPv4 address. -/
def isMulticast (ip : Word) : Bool := ip.toNat / 2 ^ 28 == 0xE

def txLegOk (r : List Byte) (o : Nat) : Bool :=
  inR (leAt r (o + 8) 1) 0 3 && leAt r (o + 9) 3 == 0 && leAt r (o + 18) 2 == 0
    && (!isMulticast (BitVec.ofNat 32 (leAt r o 4)) || allZero (slice r (o + 12) 6))

/-- A STREAM_TX record whose fields lie in their ranges (R385). -/
def readTx (r : List Byte) : Option TxRec :=
  let f := leAt r 9 1
  let b := bitIn f 0
  if inR (leAt r 4 1) 1 2 && inR (leAt r 5 1) 0 3 && inR (leAt r 6 1) 1 64 && inR (leAt r 8 1) 96 127 && f < 4
      && 1 ≤ leAt r 0xA 1 && inR (leAt r 0xB 1) 0 63 && leAt r 0x16 2 == 0 && txLegOk r 0x18
      && (!b || txLegOk r 0x2C) then
    some { format := leAt r 4 1, domain := fin 4 (leAt r 5 1), channels := leAt r 6 1, samples := leAt r 7 1,
           pt := BitVec.ofNat 7 (leAt r 8 1), enabled := bitIn f 1, ttl := BitVec.ofNat 8 (leAt r 0xA 1),
           dscp := BitVec.ofNat 8 (leAt r 0xB 1), tsOffset := BitVec.ofNat 32 (leAt r 0xC 4),
           ssrc := BitVec.ofNat 32 (leAt r 0x10 4), seqOffset := BitVec.ofNat 16 (leAt r 0x14 2),
           legA := readTxLeg r 0x18, legB := if b then some (readTxLeg r 0x2C) else none }
  else none

/-- A LINK record whose fields lie in their ranges (R442). -/
def readLink (r : List Byte) : Option LinkRec :=
  if inR (leAt r 4 1) 0 6 && leAt r 5 1 < 2 && inR (leAt r 6 1) 0 3 && leAt r 7 1 == 0 && leAt r 8 2 ≤ 1024
      && leAt r 0xA 2 ≤ 1024 && allZero (slice r 0x10 16) then
    some { role := fin 7 (leAt r 4 1), timeXfer := bitIn (leAt r 5 1) 0, domain := fin 4 (leAt r 6 1),
           rxCh := leAt r 8 2, txCh := leAt r 0xA 2, asym := leIntAt r 0xC 4 }
  else none

/-- An AMP record whose fields lie in their ranges (R486). -/
def readAmp (r : List Byte) : Option AmpRec :=
  let tl := leIntAt r 0x12 2
  if inR (leAt r 4 1) 0 3 && leAt r 5 1 < 4 && inR (leAt r 6 2) 1000 2880 && inR (leAt r 0xA 2) 8 255
      && inR (leAt r 0xC 2) 1 0x7FFF && inR (leAt r 0xE 1) 1 255 && inR (leAt r 0xF 1) 1 255
      && inR (leAt r 0x10 2) 100 5000 && (-6000 ≤ tl && tl ≤ -2000) && inR (leAt r 0x14 4) 256 0x7FFFFFFF
      && leAt r 0x18 4 != 0 && leAt r 0x1C 4 != 0 && leAt r 0x20 4 < leAt r 0x24 4 && leAt r 0x24 4 ≤ 1048575
      && allZero (slice r 0x28 8) then
    some { domain := fin 4 (leAt r 4 1), fltHigh := bitIn (leAt r 5 1) 0, autoStart := bitIn (leAt r 5 1) 1,
           period := leAt r 6 2, dead := leAt r 8 1, blank := leAt r 9 1, minPulse := leAt r 0xA 2,
           fsIndex := BitVec.ofNat 16 (leAt r 0xC 2), ocThr := leAt r 0xE 1, startBlocks := leAt r 0xF 1,
           retryMs := leAt r 0x10 2, testLevel := tl, limThr := leAt r 0x14 4, iFs := BitVec.ofNat 32 (leAt r 0x18 4),
           vFs := BitVec.ofNat 32 (leAt r 0x1C 4), shortM := leAt r 0x20 4, openM := leAt r 0x24 4 }
  else none

/-- The greatest source index of each timebase source (R295, R296). -/
def sourceLimit (src : Nat) : Nat :=
  match src with
  | 1 => 3 | 2 => 1 | 3 => 1 | 4 => 31 | 5 => 3 | 6 => 3 | _ => 31

/-- A CLOCK record whose fields lie in their ranges (R307). -/
def readClock (r : List Byte) : Option ClockRec :=
  let src := leAt r 4 1
  let im := leAt r 6 1
  let imOk := if src = 2 then im ≤ 2 else if src = 3 then im = 1 ∨ im = 2 else im = 0
  if src ≤ 6 && leAt r 5 1 ≤ sourceLimit src && decide imOk && leAt r 7 1 ≤ 2 && inR (leAt r 8 4) 100 10000000
      && inR (leAt r 0xC 1) 1 100 && leAt r 0xD 1 ≤ 7 && leAt r 0xE 2 == 0 && leAt r 0x14 4 == 0 then
    some { source := src, index := leAt r 5 1, inputMode := im, servoBw := leAt r 7 1, jumpThr := leAt r 8 4,
           slewPpm := leAt r 0xC 1, holdWindow := leAt r 0xD 1, apllSeed := BitVec.ofNat 32 (leAt r 0x10 4) }
  else none

/-- Record length and greatest unit of each interface kind (R60). -/
def portForm (kind : Nat) : Option (Nat × Nat) :=
  match kind with
  | 1 => some (48, 31) | 2 => some (48, 3) | 3 => some (48, 255) | 4 => some (64, 255) | 5 => some (32, 3)
  | 6 => some (48, 15) | 7 => some (24, 3) | _ => none

def readPort (r : List Byte) : Option PortRec :=
  let unit := leAt r 1 1
  let body : Option PortBody := match leAt r 0 1 with
    | 1 => (readSap r).map .sap
    | 2 => (readEth r).map .eth
    | 3 => (readRx r).map .rx
    | 4 => (readTx r).map .tx
    | 5 => (readLink r).map .link
    | 6 => (readAmp r).map .amp
    | 7 => (readClock r).map .clock
    | _ => none
  body.map (fun b => { unit := unit, body := b })

/-- All PORTS records: exactly `count`, each of its kind's length; a bad record fails with its index. -/
def readPorts (base ofs idx : Nat) : Nat → List Byte → Chk (List PortRec)
  | 0, bs => if padOk bs 0 then .ok [] else .error (0x0601, base + ofs)
  | n + 1, bs =>
    if bs.length < 4 then .error (0x0601, base + ofs)
    else match portForm (leAt bs 0 1) with
      | none => .error (0x0601, idx)
      | some (len, top) =>
        if leAt bs 2 2 ≠ len ∨ top < leAt bs 1 1 then .error (0x0601, idx)
        else if bs.length < len then .error (0x0601, base + ofs)
        else match readPort (bs.take len) with
          | none => .error (0x0601, idx)
          | some p => match readPorts base (ofs + len) (idx + 1) n (bs.drop len) with
            | .error e => .error e
            | .ok ps => .ok (p :: ps)

/-! ## PROGRAMS, REGIONS, PARAMS and the rest (R62 to R71) -/

def codeWords : Nat → List Byte → List (BitVec 64)
  | 0, _ => []
  | n + 1, bs => BitVec.ofNat 64 (leNat (bs.take 8)) :: codeWords n (bs.drop 8)

/-- One program at the head of a payload, with its length; none where a field is out of its range (R62, R63). An entry that is no
multiple of 8 below code_bytes and a reserved word that is not zero are refused too: the spec states neither (DESIGN CHOICE,
assumption 214). -/
def readProgram (bs : List Byte) : Option (ProgRec × Nat) :=
  let cb := leAt bs 4 4
  let db := leAt bs 8 4
  let code := codeWords (cb / 8) (slice bs 32 cb)
  if leAt bs 0 2 ≤ 4095 && leAt bs 2 2 == 1 && cb % 8 == 0 && cb ≤ 65536 && leAt bs 0x1C 4 == 0
      && leAt bs 0x14 4 % 8 == 0 && leAt bs 0x14 4 < cb && codeOk (cb / 8) 0 code then
    some ({ id := leAt bs 0 2, code := code, data := slice bs (32 + cb) db, cycles := leAt bs 0xC 4,
            mac := leAt bs 0x10 4, entry := leAt bs 0x14 4 / 8, bridgeLat := leAt bs 0x18 4 }, 32 + cb + db)
  else none

def readPrograms (base ofs idx : Nat) : Nat → List Byte → Chk (List ProgRec)
  | 0, bs => if padOk bs 0 then .ok [] else .error (0x0701, base + ofs)
  | n + 1, bs =>
    let len := 32 + leAt bs 4 4 + leAt bs 8 4
    if bs.length < 32 ∨ bs.length < len then .error (0x0701, base + ofs)
    else match readProgram bs with
      | none => .error (0x0701, idx)
      | some (p, len) => match readPrograms base (ofs + len) (idx + 1) n (bs.drop len) with
        | .error e => .error e
        | .ok ps => .ok (p :: ps)

/-- A REGIONS record, its initial data taken from the PROGRAMS payload (R64). -/
def readRegion (progs r : List Byte) : RegionRec :=
  let f := leAt r 10 2
  { id := leAt r 0 4, size := leAt r 4 4, align := leAt r 8 1, cls := fin 4 (leAt r 9 1), zeroFill := bitIn f 0,
    persist := bitIn f 1, atomic := bitIn f 2, owner := leAt r 12 4, init := slice progs (leAt r 16 4) (leAt r 20 4) }

/-- The record itself is in form (R64, R96, R403). -/
def regionForm (progs r : List Byte) : Bool :=
  let sz := leAt r 4 4
  inR (leAt r 8 1) 3 16 && leAt r 9 1 ≤ 3 && leAt r 10 2 < 8 && leAt r 16 4 + leAt r 20 4 ≤ progs.length
    && leAt r 20 4 ≤ sz && sz ≤ 33554424 && (!bitIn (leAt r 10 2) 2 || (leAt r 9 1 == 2 && sz ≤ 8388608))

def tclassOf (n : Nat) : TClass := if n = 0 then .ramp else if n = 1 then .stepZc else if n = 2 then .step else .xfade

def readParam (r : List Byte) : ParamRec :=
  { paddr := BitVec.ofNat 32 (leAt r 0 4), init := BitVec.ofNat 32 (leAt r 4 4), min := BitVec.ofNat 32 (leAt r 8 4),
    max := BitVec.ofNat 32 (leAt r 12 4), cls := tclassOf (leAt r 16 1), dbLaw := leAt r 17 1 == 1, time := leAt r 18 2 }

def readSymbol (r : List Byte) : SymRec :=
  { name := (slice r 0 48).takeWhile (· != 0), paddr := BitVec.ofNat 32 (leAt r 48 4), unit := leAt r 52 2 }

def readEvMap (r : List Byte) : EvMapRec :=
  { code := BitVec.ofNat 16 (leAt r 0 2), vector := BitVec.ofNat 8 (leAt r 2 1), notQueued := bitIn (leAt r 3 1) 0 }

def readHint (r : List Byte) : HintRec :=
  { node := leAt r 0 4, shedRank := leAt r 4 1, trimmable := bitIn (leAt r 5 1) 0,
    margin := if leAt r 6 2 = 0 then 96 else leAt r 6 2 }

/-- A maquette entry (R260). -/
def readMqEntry (r : List Byte) : MqEntry :=
  let o := leAt r 8 1
  { paddr := BitVec.ofNat 32 (leAt r 0 4), value := BitVec.ofNat 32 (leAt r 4 4),
    ov := if bitIn o 0 then some { cls := tclassOf (o / 2 % 4), dbLaw := bitIn o 3, time := leAt r 10 2 } else none }

/-- A maquette's fields and entries, without its checks (R259). -/
def readMaquette (bs : List Byte) : Maquette :=
  { slot := fin 4 (leAt bs 6 1), id := BitVec.ofNat 32 (leAt bs 8 4), buildId := BitVec.ofNat 64 (leAt bs 16 8),
    label := slice bs 32 32,
    entries := (records 12 (leAt bs 12 4) (bs.drop 64)).map readMqEntry }

end Sys2Proof.Machine
end

