-- ==== Sys2Proof/Machine/ImageCheck.lean ====
section
/-! DEFINITION. The checks of load steps 1 to 11 (R40 to R79, R603). Within a step the checks run in the order
written here; the spec fixes only the order of the steps (assumption 10). -/

namespace Sys2Proof.Machine

/-- What the checks consult besides the image itself. -/
structure ChkEnv where
  /-- Life cycle, public keys, minimum serial (R73, R74). -/
  cfg : CfgCopy
  /-- The image key, while the secure partition can be read (R75, R421). -/
  key : Option (List Byte)
  /-- Bytes of DRAM that training found (R48). -/
  dram : Nat
  deriving Repr

/-! ## Steps 1 to 5 -/

def imgMagic : List Byte := [0x41, 0x52, 0x4D, 0x54]

/-- Step 1: `avail` is what the source holds, up to the header and then up to image_size (R41, R42, R603). -/
def check1 (avail : List Byte) : Chk Unit := do
  need (128 ≤ avail.length) 0x0A01 avail.length
  need (avail.take 4 == imgMagic) 0x0101 0
  need (leAt avail 8 4 == 128) 0x0101 8
  need (hdrSize avail % 8 == 0 && hdrSize avail ≤ 0x4000000 && 128 ≤ hdrSize avail) 0x0101 0xC
  need (leAt avail 0x13 1 < 4) 0x0101 0x13
  let zero (ofs n : Nat) : Chk Unit := match firstNonZero avail ofs n with
    | none => .ok ()
    | some o => .error (0x0101, o)
  zero 0x16 2
  zero 0x25 3
  zero 0x34 76
  need (hdrSize avail ≤ avail.length) 0x0A01 avail.length

def check2 (bs : List Byte) : Chk Unit := need (leAt bs 4 2 == 1) 0x0102 4

/-- R73: the key slots that a life-cycle state accepts. -/
def slotAccepted (l : LcState) (k : Nat) : Bool :=
  match l with
  | .blank => false
  | .develop => k ≤ 3
  | .production => k ≤ 2
  | .ret => k == 3
  | .ended => false

/-- R73: the debug flag is refused in PRODUCTION. -/
def check3 (env : ChkEnv) (bs : List Byte) : Chk Unit := do
  need (slotAccepted env.cfg.lcState (leAt bs 0x24 1)) 0x0201 0x24
  need (!(bitIn (leAt bs 0x13 1) 1 && env.cfg.lcState == .production)) 0x0201 0x13

def check4 (env : ChkEnv) (bs : List Byte) : Chk Unit := need (env.cfg.minSerial.toNat ≤ leAt bs 0x20 4) 0x0202 0x20

/-- R46: the signature covers bytes 0 to image_size − 105. -/
def check5 (env : ChkEnv) (bs : List Byte) : Chk Unit :=
  let n := hdrSize bs
  let ok := match getN env.cfg.keySlots (leAt bs 0x24 1) none with
    | some k => ecdsaVerify k (slice bs (n - 96) 96) (sha384 (bs.take (n - 104)))
    | none => false
  need (ok && 232 ≤ n) 0x0203 (n - 96)

/-! ## Step 6: the directory (R40, R43 to R45, R603) -/

/-- Record size of a fixed-size section. -/
def fixedRec (t : Nat) : Option Nat :=
  match t with
  | 1 => some 64 | 2 => some 8 | 3 => some 64 | 8 => some 24 | 9 => some 20 | 0xA => some 8 | 0xC => some 8 | _ => none

def roundUp8 (n : Nat) : Nat := (n + 7) / 8 * 8

/-- Payloads overlap (R40). An empty payload that lies strictly inside another counts as an overlap: the rule does not say (DESIGN
CHOICE, assumption 214). -/
def overlaps (a b : DirEnt) : Bool := a.offset < b.offset + b.length && b.offset < a.offset + a.length

/-- One directory entry against the entries before it. -/
def checkEntry (bs : List Byte) (before : List DirEnt) (d : DirEnt) : Chk Unit := do
  let n := hdrSize bs
  let dirEnd := 128 + 32 * leAt bs 0x14 2
  need (d.flags < 4) 0x0301 d.pos
  need (d.enc || allZero d.tag) 0x0301 d.pos
  need (d.offset % 8 == 0 && d.length % 8 == 0 && dirEnd ≤ d.offset && d.offset + d.length ≤ n - 104) 0x0301 d.pos
  need (before.all (fun e => !overlaps e d)) 0x0301 d.pos
  need (!(d.enc && (d.type == 1 || d.type == 2 || d.type == 3))) 0x0301 d.pos
  let known := 1 ≤ d.type && d.type ≤ 0xC
  need (known || leAt bs 6 2 ≤ 3) 0x0102 d.pos
  need (known || !bitIn d.flags 1) 0x0302 d.pos
  need (!(known && before.any (fun e => e.type == d.type))) 0x0302 d.pos
  match fixedRec d.type with
  | some z => need (d.length == roundUp8 (d.count * z) && (d.type != 1 || d.count == 1)) 0x0301 d.pos
  | none => .ok ()

def checkEntries (bs : List Byte) (before : List DirEnt) : List DirEnt → Chk Unit
  | [] => .ok ()
  | d :: ds => do
    checkEntry bs before d
    checkEntries bs (before ++ [d]) ds

/-- The first byte between payloads that is not zero. An empty payload ends no gap. R40 speaks of bytes between payloads;
those before the first payload and after the last are held to it too (DESIGN CHOICE, assumption 214). -/
def gapByte (bs : List Byte) (ds : List DirEnt) : Option Nat :=
  let dirEnd := 128 + 32 * leAt bs 0x14 2
  let ends := dirEnd :: ds.map (fun d => d.offset + d.length)
  let starts := (hdrSize bs - 104) :: (ds.filter (fun d => d.length != 0)).map (fun d => d.offset)
  ends.findSome? fun lo =>
    let hi := starts.foldl (fun a x => if lo ≤ x ∧ x < a then x else a) (hdrSize bs - 104)
    let inside := ds.any (fun d => d.offset < lo && lo < d.offset + d.length)
    if inside then none else firstNonZero bs lo (hi - lo)

def requiredTypes : List Nat := [1, 2, 3, 4, 5, 6, 7, 8, 9, 0xA]

/-- Step 6. For a section_count outside 10 to 32, R42 names neither step nor code: the model takes this step and BAD_DIRECTORY
with the field's offset (DESIGN CHOICE, assumption 214). -/
def check6 (bs : List Byte) : Chk Unit := do
  let n := hdrSize bs
  let k := leAt bs 0x14 2
  need (10 ≤ k && k ≤ 32) 0x0301 0x14
  need (128 + 32 * k ≤ n - 104) 0x0301 0x14
  let ds := readDir bs
  checkEntries bs [] ds
  needAll requiredTypes fun t => need (ds.any (fun d => d.type == t)) 0x0302 128
  match gapByte bs ds with
  | some o => .error (0x0301, o)
  | none => .ok ()
  need (slice bs (n - 104) 8 == [0x41, 0x52, 0x4D, 0x54, 0x45, 0x4E, 0x44, 0]) 0x0301 (n - 104)

/-- R75: every encrypted section's tag verifies. -/
def check7 (env : ChkEnv) (bs : List Byte) : Chk Unit :=
  needAll (readDir bs) fun d => need (plaintext env.key bs d).isSome 0x0303 d.pos

/-! ## Step 8: profile, CAPACITY, DOMAINS -/

/-- R42: cluster_size and cluster_position fit the profile, and mirrored stands in the cluster profile only. R42 and R79 name
neither step nor code for a mirrored bit in a standalone image: the model takes step 8 and BAD_PROFILE (DESIGN CHOICE,
assumption 214). -/
def checkProfile (bs : List Byte) : Chk Unit := do
  let p := leAt bs 0x10 1
  let n := leAt bs 0x11 1
  let pos := leAt bs 0x12 1
  need (p == 1 || p == 2) 0x0401 0x10
  need (if p == 1 then n == 0 else 2 ≤ n && n ≤ 8) 0x0401 0x11
  need (if p == 1 then pos == 0 else pos < n) 0x0401 0x12
  need (!bitIn (leAt bs 0x13 1) 0 || p == 2) 0x0401 0x13

/-- On-chip memory that regions may use: engine X, Y and C, and the shared banks (R48). -/
def sramTotal : Nat := 24 * 655360 + 256 * 196608

def countOf (bs : List Byte) (t : Nat) : Nat := ((dirOf bs t).map (·.count)).getD 0

def checkCapacity (env : ChkEnv) (bs : List Byte) : Chk Unit := do
  let (base, _, r) := sectionPart env.key bs 1
  let c := readCapacity r
  need (inR c.minEngines 1 24) 0x0404 base
  need (c.spares ≤ 4) 0x0404 (base + 1)
  match firstNonZero r 2 2 with
  | some o => .error (0x0404, base + o)
  | none => .ok ()
  need (leAt r 4 4 == countOf bs 4) 0x0404 (base + 4)
  need (leAt r 8 4 == countOf bs 8 && leAt r 8 4 ≤ 65536) 0x0404 (base + 8)
  need (leAt r 0xC 4 == countOf bs 7 && leAt r 0xC 4 ≤ 4096) 0x0404 (base + 0xC)
  need (leAt r 0x30 4 == countOf bs 9) 0x0404 (base + 0x30)
  match firstNonZero r 0x34 12 with
  | some o => .error (0x0404, base + o)
  | none => .ok ()
  need (c.minEngines + c.spares ≤ 24) 0x0402 base
  need (c.engineLoad ≤ 14400000000 * c.minEngines) 0x0402 (base + 0x10)
  need (c.fabricLoad ≤ 86400000000) 0x0402 (base + 0x18)
  need (c.sramBytes ≤ sramTotal) 0x0402 (base + 0x20)
  need (c.dramBytes ≤ env.dram) 0x0402 (base + 0x28)

/-- R49, R3: fields in range and distinct; a bad record gives its index. Reserved bytes that are not zero are refused in the
same way: R49 gives them no consequence (DESIGN CHOICE, assumption 214). -/
def checkDomains (env : ChkEnv) (bs : List Byte) : Chk Unit := do
  let (_, n, r) := sectionPart env.key bs 2
  need (inR n 1 4) 0x0403 (min n 4)
  let rs := records 8 n r
  needAll (rs.zipIdx) fun p =>
    let a := p.1
    let before := rs.take p.2
    let fresh (o : Nat) : Bool := before.all (fun b => leAt b o 1 != leAt a o 1)
    need (leAt a 0 1 ≤ 3 && leAt a 1 1 ≤ 5 && leAt a 2 1 ≤ 3 && leAt a 3 1 ≤ 3 && allZero (slice a 4 4) && fresh 0
      && fresh 2 && fresh 3) 0x0403 p.2

def check8 (env : ChkEnv) (bs : List Byte) : Chk Unit := do
  checkProfile bs
  checkCapacity env bs
  checkDomains env bs

/-! ## The sections as their records, once their step has parsed them -/

def domainsOf (env : ChkEnv) (bs : List Byte) : List DomainRec :=
  let (_, n, r) := sectionPart env.key bs 2
  (records 8 n r).map readDomain

def rateOf (ds : List DomainRec) (d : Fin 4) : Option (Fin 6) := (ds.find? (fun r => r.dom == d)).map (·.rate)

/-- Rate units of a rate code (R205). -/
def rateUnits (r : Fin 6) : Nat := if r.val < 2 then 1 else if r.val < 4 then 2 else 4

def unitsOf (ds : List DomainRec) (d : Fin 4) : Nat := ((rateOf ds d).map rateUnits).getD 0

def nodesOf (env : ChkEnv) (bs : List Byte) : Chk (List NodeRec) :=
  let (base, n, r) := sectionPart env.key bs 4
  readNodes base 0 none n r

def listsOf (env : ChkEnv) (bs : List Byte) : Chk (List (Option (List (Nat × Nat)))) :=
  let (base, n, r) := sectionPart env.key bs 5
  readMuxLists base 0 n r

def portsOf (env : ChkEnv) (bs : List Byte) : Chk (List PortRec) :=
  let (base, n, r) := sectionPart env.key bs 6
  readPorts base 0 0 n r

def progsOf (env : ChkEnv) (bs : List Byte) : Chk (List ProgRec) :=
  let (base, n, r) := sectionPart env.key bs 7
  readPrograms base 0 0 n r

def regionRecs (env : ChkEnv) (bs : List Byte) : List (List Byte) :=
  let (_, n, r) := sectionPart env.key bs 8
  records 24 n r

def regionsOf (env : ChkEnv) (bs : List Byte) : List RegionRec :=
  (regionRecs env bs).map (readRegion (sectionPart env.key bs 7).2.2)

def paramRecs (env : ChkEnv) (bs : List Byte) : List (List Byte) :=
  let (_, n, r) := sectionPart env.key bs 9
  records 20 n r

def paramsOf (env : ChkEnv) (bs : List Byte) : List ParamRec := (paramRecs env bs).map readParam

def symbolRecs (env : ChkEnv) (bs : List Byte) : List (List Byte) :=
  let (_, n, r) := sectionPart env.key bs 3
  records 64 n r

/-! ## Step 9: nodes, graph, choice lists (R51 to R59, R70, R206, R207, R252, R255) -/

def findNode (ns : List NodeRec) (n : Nat) : Option NodeRec := ns.find? (fun r => r.id == n)

/-- An edge names an existing node output. -/
def edgeOk (ns : List NodeRec) (e : Nat × Nat) : Bool :=
  match findNode ns e.1 with
  | some r => e.2 < r.outputs
  | none => false

/-- The nodes that a node reads: its inputs and, for a MUX, its choice list. -/
def readsOf (ls : List (List (Nat × Nat))) (n : NodeRec) : List (Nat × Nat) :=
  if n.type = .mux then (ls[n.bodyRef]?).getD [] else n.inputs

/-- The limits of rule 10 for SENDs, by rate units. -/
def sendLimit (u : Nat) : Nat := if u = 1 then 1179648 else if u = 2 then 655360 else 393216

/-- SENDs of every domain in proportion, over the common multiple of the three limits. -/
def sendShare (ds : List DomainRec) (ns : List NodeRec) : Nat :=
  let lcm := 5898240
  (ns.map (fun n => if n.type = .send then lcm / sendLimit (unitsOf ds n.domain) else 0)).sum

def topId (ns : List NodeRec) (t : NodeType) : Nat := (ns.filter (fun n => n.type == t)).foldl (fun a n => max a n.id) 0

def kindCount (ns : List NodeRec) (t : NodeType) : Nat := (ns.filter (fun n => n.type == t)).length

/-- R56 rule 8 and the flags of R52, and the domain of R52. A bridge flag on a node that is not a PROC is refused with BAD_NODE: the
spec does not say (DESIGN CHOICE, assumption 214). -/
def nodeOk (ds : List DomainRec) (ns : List NodeRec) (n : NodeRec) : Bool :=
  ds.any (fun d => d.dom == n.domain)
    && (!n.critical || n.type == .proc || n.type == .gain || n.type == .delay)
    && (!n.before || n.critical) && (!n.bridge || n.type == .proc)
    && (n.type != .meter || (n.bodyRef ≤ 8191 && ns.all (fun m => m.type != .meter || m.id ≥ n.id || m.bodyRef != n.bodyRef)))

/-- A MUX's list exists, its default position is valid (R59, R70) and its entries have its domain (R58). -/
def muxOk (ns : List NodeRec) (ls : List (List (Nat × Nat))) (n : NodeRec) : Bool :=
  match ls[n.bodyRef]? with
  | none => false
  | some l =>
    let p := n.bodyA % 256
    (p < l.length || p == 0x40) && l.all (fun e => ((findNode ns e.1).map (fun r => r.domain == n.domain)).getD false)

/-- Rules 1, 5 and 6 of R56, and R206. -/
def edgesOk (ns : List NodeRec) (n : NodeRec) : Bool :=
  n.inputs.all (edgeOk ns)
    && (n.type != .limit || n.inputs.all (fun e => ((findNode ns e.1).map (fun r => r.type == .sum)).getD false))
    && (n.type != .send || (((findNode ns n.bodyRef).map (fun r => r.type == .sum)).getD false
      && ns.all (fun m => m.type != .send || m.id ≥ n.id || m.bodyRef != n.bodyRef || m.inputs != n.inputs)))

/-- Rules 5 and 7 of R56. -/
def domainOk (ns : List NodeRec) (ls : List (List (Nat × Nat))) (n : NodeRec) : Bool :=
  let doms := (readsOf ls n).filterMap (fun e => (findNode ns e.1).map (·.domain))
  (if n.bridge then doms.all (fun d => d != n.domain && some d == doms.head?) else doms.all (· == n.domain))
    && (n.type != .send || ((findNode ns n.bodyRef).map (fun r => r.domain == n.domain)).getD false)

/-- Rules 3, 4, 5 and 9 of R56, and R207. -/
def tierOk (ns : List NodeRec) (ls : List (List (Nat × Nat))) (n : NodeRec) : Bool :=
  let srcs := (readsOf ls n).filterMap (fun e => findNode ns e.1)
  (n.type != .source || n.tier == 0) && (n.type != .sum || 1 ≤ n.tier)
    && (n.type != .send || ((findNode ns n.bodyRef).map (fun r => r.tier == n.tier)).getD false)
    && srcs.all (fun r =>
      r.tier ≤ n.tier
        && (r.type != .sum || (if n.type = .limit then n.tier == r.tier else r.tier < n.tier))
        && (r.type != .limit || n.type == .sink || r.tier < n.tier)
        && (!n.before || r.tier < n.tier))

/-- Arcs of rule 2: (from, to). -/
def arcsOf (ns : List NodeRec) (ls : List (List (Nat × Nat))) : List (Nat × Nat) :=
  ns.flatMap (fun n => (readsOf ls n).map (fun e => (e.1, n.id)) ++ (if n.type = .send then [(n.id, n.bodyRef)] else []))

/-- Drop, round by round, the nodes that no remaining arc enters or that none leaves: what is left lies on cycles or
between them. -/
def pruneArcs : Nat → List Nat → List (Nat × Nat) → List Nat
  | 0, ids, _ => ids
  | k + 1, ids, arcs =>
    let keep := ids.filter (fun i => arcs.any (fun a => a.2 == i) && arcs.any (fun a => a.1 == i))
    if keep.length = ids.length then ids
    else pruneArcs k keep (arcs.filter (fun a => keep.contains a.1 && keep.contains a.2))

/-- Program ids and data lengths as the payload gives them (rule 11, before step 10 checks PROGRAMS). -/
def progHeads : Nat → List Byte → List (Nat × Nat)
  | 0, _ => []
  | n + 1, bs =>
    if bs.length < 32 then []
    else (leAt bs 0 2, leAt bs 8 4) :: progHeads n (bs.drop (32 + leAt bs 4 4 + leAt bs 8 4))

/-- R56 rule 11. -/
def refsOk (heads : List (Nat × Nat)) (regs : List (List Byte)) (n : NodeRec) : Bool :=
  match n.type with
  | .proc =>
    match heads.find? (fun h => h.1 == n.bodyRef) with
    | some h => n.bodyA + n.bodyB ≤ h.2
    | none => false
  | .delay => regs.any (fun r => leAt r 0 4 == n.bodyRef && leAt r 12 4 == n.id)
  | _ => true

def check9 (env : ChkEnv) (bs : List Byte) : Chk Unit := do
  let ds := domainsOf env bs
  let ns ← nodesOf env bs
  let raw ← listsOf env bs
  needAll raw.zipIdx fun p =>
    let ok := match p.1 with
      | none => false
      | some l => l.all (edgeOk ns)
    need ok 0x0506 (0x80000000 + p.2)
  let ls := raw.map (fun o => o.getD [])
  needAll ns fun n => need (nodeOk ds ns n) 0x0501 n.id
  needAll ns fun n => need (edgesOk ns n) 0x0502 n.id
  needAll ns fun n => need (n.type != .mux || muxOk ns ls n) 0x0506 n.id
  needAll ns fun n => need (domainOk ns ls n) 0x0505 n.id
  needAll ns fun n => need (tierOk ns ls n) 0x0503 n.id
  let cyc := pruneArcs ns.length (ns.map (·.id)) (arcsOf ns ls)
  need cyc.isEmpty 0x0504 (cyc.headD 0)
  need (sendShare ds ns ≤ 5898240) 0x0501 (topId ns .send)
  need (kindCount ns .sum ≤ 1024) 0x0501 (topId ns .sum)
  need (kindCount ns .limit ≤ 2048) 0x0501 (topId ns .limit)
  need (kindCount ns .detect ≤ 4096) 0x0501 (topId ns .detect)
  let (_, np, pr) := sectionPart env.key bs 7
  needAll ns fun n => need (refsOk (progHeads np pr) (regionRecs env bs) n) 0x0501 n.id

/-! ## Step 10: PORTS, PROGRAMS, REGIONS -/

def PortBody.kind : PortBody → Nat
  | .sap _ => 1 | .eth _ => 2 | .rx _ => 3 | .tx _ => 4 | .link _ => 5 | .amp _ => 6 | .clock _ => 7

/-- Domain of the channels of a record, where it carries them. -/
def PortBody.domain? : PortBody → Option (Fin 4)
  | .sap r => some r.domain
  | .rx r => some r.domain
  | .tx r => some r.domain
  | .link r => some r.domain
  | .amp r => some r.domain
  | .eth _ => none
  | .clock _ => none

def sapRec? (ps : List PortRec) (u : Nat) : Option SapRec :=
  ps.findSome? fun p => match p.body with
    | .sap r => if p.unit = u then some r else none
    | _ => none

def ethRec? (ps : List PortRec) (u : Nat) : Option EthRec :=
  ps.findSome? fun p => match p.body with
    | .eth r => if p.unit = u then some r else none
    | _ => none

def clockRec? (ps : List PortRec) (u : Nat) : Option ClockRec :=
  ps.findSome? fun p => match p.body with
    | .clock r => if p.unit = u then some r else none
    | _ => none

def linkRec? (ps : List PortRec) (u : Nat) : Option LinkRec :=
  ps.findSome? fun p => match p.body with
    | .link r => if p.unit = u then some r else none
    | _ => none

/-- MCLK cycles in a sample period (R324). -/
def mclkPer (units : Nat) : Nat := 1024 / units

/-- Sample bytes of a stream format (R359). -/
def sampleBytes (fmt : Nat) : Nat := if fmt = 1 then 3 else 4

/-- Rate, samples and frame size of a stream (R359, R360, R388). -/
def streamOk (ds : List DomainRec) (ps : List PortRec) (fmt samples channels : Nat) (d : Fin 4) (legs : List (Fin 4)) :
    Bool :=
  match rateOf ds d with
  | none => false
  | some r =>
    (if fmt = 2 then samples == 8
     else if r = 1 then samples == 6 || samples == 12 || samples == 16 || samples == 48
     else if r = 3 then samples == 12 || samples == 24 || samples == 32 || samples == 96
     else false)
    && legs.all (fun l =>
      match ethRec? ps l.val with
      | none => false
      | some e => e.mode != 0 && 40 + (if fmt = 2 then 8 else 0) + samples * channels * sampleBytes fmt
          ≤ (if e.jumbo then 9198 else 1500))

/-- A LINK record's role under the profile (R437), its channels (R441, R442). -/
def linkOk (ds : List DomainRec) (bs : List Byte) (unit : Nat) (r : LinkRec) : Bool :=
  let cluster := leAt bs 0x10 1 == 2
  let n := leAt bs 0x11 1
  let role := r.role.val
  let units := unitsOf ds r.domain
  (if cluster then
    role == 0 || (role == unit + 1 && (role != 3 || (n % 2 == 0 && 4 ≤ n)) && (role != 4 || bitIn (leAt bs 0x13 1) 0))
   else role == 0 || (if unit < 2 then role == 6 else role == 5))
  && (role == 0 || units != 0) && r.rxCh * units ≤ 2048 && r.txCh * units ≤ 2048
  && (!(role == 4 || role == 5) || (r.rxCh == 0 && r.txCh == 0))

/-- One PORTS record against the rest of the image (R350, R358, R360, R388, R437, R442, R486, R61). -/
def portOk (ds : List DomainRec) (bs : List Byte) (ps : List PortRec) (p : PortRec) : Bool :=
  let cluster := leAt bs 0x10 1 == 2
  let carries (t : Nat) : Bool := ds.any (fun d => d.tb.val == t)
  match p.body with
  | .sap r => unitsOf ds r.domain != 0 && r.slots * r.slotWidth ≤ mclkPer (unitsOf ds r.domain)
  | .eth r => !(r.master && cluster)
      && (carries r.ptpTb.val || (match clockRec? ps r.ptpTb.val with
          | some c => c.source == 1 && c.index == p.unit
          | none => false))
  | .rx r => streamOk ds ps r.format r.samples r.channels r.domain (r.legA.port :: r.legB.toList.map (·.port))
  | .tx r => streamOk ds ps r.format r.samples r.channels r.domain (r.legA.port :: r.legB.toList.map (·.port))
  | .link r => linkOk ds bs p.unit r
  | .amp r => !cluster && unitsOf ds r.domain != 0
  | .clock r =>
    if r.source = 4 then
      match sapRec? ps r.index, ds.find? (fun d => d.tb.val == p.unit) with
      | some sr, some d => !sr.master && sr.domain == d.dom
      | _, _ => false
    else if r.source = 6 then
      r.index != p.unit && (match clockRec? ps r.index with
        | some c => c.source != 6
        | none => true)
    else true

/-- Index of the record at which a running total of rate units first passes 4,096 (R50, R388). -/
def overTotal (w : PortRec → Nat) (ps : List PortRec) : Option Nat :=
  let go (acc : Nat × Option Nat) (p : PortRec × Nat) : Nat × Option Nat :=
    let t := acc.1 + w p.1
    (t, if acc.2.isSome then acc.2 else if 4096 < t then some p.2 else none)
  (ps.zipIdx.foldl go (0, none)).2

def popW (w : Word) : Nat := (maskBits w.toNat 32).length

def sapUnits (ds : List DomainRec) (p : PortRec) : Nat :=
  match p.body with
  | .sap r => ((idxs 4).map (fun k => popW (getN r.enable k 0))).sum * unitsOf ds r.domain
  | _ => 0

def rxUnits (ds : List DomainRec) (p : PortRec) : Nat :=
  match p.body with
  | .rx r => r.channels * unitsOf ds r.domain
  | _ => 0

def txUnits (ds : List DomainRec) (p : PortRec) : Nat :=
  match p.body with
  | .tx r => r.channels * unitsOf ds r.domain
  | _ => 0

/-- A channel that a SOURCE (`sink` false) or a SINK may name on a record (R61, R323, R388, R442, R486). -/
def channelOk (p : PortRec) (sink : Bool) (c : Nat) : Bool :=
  match p.body with
  | .sap r =>
    c < 128 && bitIn r.lineDir.toNat (c / 32) == sink && bitIn (getN r.enable (c / 32) 0).toNat (c % 32)
  | .rx r => !sink && c < r.channels
  | .tx r => sink && c < r.channels
  | .link r => c < (if sink then r.txCh else r.rxCh)
  | .amp _ => sink && c == 0
  | .eth _ => false
  | .clock _ => false

/-- The record and channel of a SOURCE or SINK, its domain that of the record (R61). -/
def endOk (ps : List PortRec) (n : NodeRec) : Bool :=
  match ps[n.bodyRef]? with
  | none => false
  | some p => channelOk p (n.type == .sink) n.bodyA && p.body.domain? == some n.domain

def checkPorts (env : ChkEnv) (bs : List Byte) (ns : List NodeRec) : Chk Unit := do
  let ds := domainsOf env bs
  let ps ← portsOf env bs
  needAll ps.zipIdx fun p =>
    need ((ps.take p.2).all (fun q => !(q.body.kind == p.1.body.kind && q.unit == p.1.unit)) && portOk ds bs ps p.1)
      0x0601 p.2
  let tl (u : Nat) : Option LinkRec := linkRec? ps u
  let role (u : Nat) : Nat := ((tl u).map (fun r => r.role.val)).getD 0
  let same : Bool := match tl 2, tl 3 with
    | some a, some b => a == b
    | _, _ => true
  let last := (ps.zipIdx.filter (fun p => p.1.body.kind == 5 && 2 ≤ p.1.unit)).foldl (fun a p => max a p.2) 0
  need (leAt bs 0x10 1 == 2 || (role 2 == role 3 && same)) 0x0601 last
  needAll ns fun n => need (!(n.type == .source || n.type == .sink) || endOk ps n) 0x0602 n.id
  needAll ns fun n =>
    need (n.type != .sink || ns.all (fun m => m.type != .sink || m.id ≥ n.id || m.bodyRef != n.bodyRef || m.bodyA != n.bodyA))
      0x0602 n.id
  let total (w : PortRec → Nat) : Chk Unit := match overTotal w ps with
    | some i => .error (0x0602, 0x80000000 + i)
    | none => .ok ()
  total (sapUnits ds)
  total (rxUnits ds)
  total (txUnits ds)

/-- R62: unique program ids; bridge_latency only where a bridge node is served. -/
def checkPrograms (env : ChkEnv) (bs : List Byte) (ns : List NodeRec) : Chk Unit := do
  let ps ← progsOf env bs
  needAll ps.zipIdx fun p =>
    need ((ps.take p.2).all (fun q => q.id != p.1.id)
      && (p.1.bridgeLat == 0 || ns.any (fun n => n.bridge && n.bodyRef == p.1.id))) 0x0701 p.2

def ownerType : NodeType → Bool
  | .gain => true
  | .mux => true
  | .delay => true
  | .proc => true
  | .meter => true
  | .detect => true
  | .split => true
  | .source => false
  | .sink => false
  | .send => false
  | .sum => false
  | .limit => false

/-- R64, R96, R148, R403. -/
def checkRegions (env : ChkEnv) (bs : List Byte) (ns : List NodeRec) : Chk Unit := do
  let pr := (sectionPart env.key bs 7).2.2
  let rs := regionRecs env bs
  needAll rs.zipIdx fun p =>
    let before := rs.take p.2
    need (regionForm pr p.1 && before.all (fun q => leAt q 0 4 != leAt p.1 0 4)
      && ((findNode ns (leAt p.1 12 4)).map (fun n => ownerType n.type)).getD false
      && (before.filter (fun q => leAt q 12 4 == leAt p.1 12 4)).length < 60) 0x0702 p.2

def check10 (env : ChkEnv) (bs : List Byte) : Chk Unit := do
  let ns ← nodesOf env bs
  checkPorts env bs ns
  checkPrograms env bs ns
  checkRegions env bs ns

/-! ## Step 11: PARAMS, SYMBOLS, MAQUETTES, HINTS, EVENTS_MAP -/

/-- How a standard parameter's raw word is limited (R66, R598): its stated range, compared signed or unsigned. -/
inductive PFormat where
  | signed | unsigned | range (lo hi : Nat) | position
  deriving DecidableEq, Repr

/-- The format of a node's parameter index; none where the type has no such parameter (R65, R66). -/
def paramFormat (t : NodeType) (idx : Nat) : Option PFormat :=
  match t, idx with
  | .gain, 1 => some .signed
  | .gain, 2 => some (.range 0 1)
  | .mux, 1 => some .position
  | .mux, 2 => some (.range 1 2000)
  | .send, 1 => some .signed
  | .send, 2 => some (.range 0 1)
  | .delay, 1 => some .signed
  | .delay, 2 => some (.range 1 2000)
  | .limit, 1 => some .signed
  | .limit, 2 => some (.range 1 2000)
  | .meter, 1 => some (.range 0 1)
  | .detect, 1 => some .signed
  | .detect, 2 => some (.range 1 65535)
  | .proc, i => if 1 ≤ i ∧ i ≤ 0xEFF then some .signed else none
  | _, _ => none

/-- a ≤ b under the comparison of R598. -/
def pLe (f : PFormat) (a b : Word) : Bool :=
  match f with
  | .signed => a.toInt ≤ b.toInt
  | .unsigned => a.toNat ≤ b.toNat
  | .range _ _ => a.toNat ≤ b.toNat
  | .position => true

/-- The value clamped to a declared range (R68, R598). -/
def pClamp (f : PFormat) (lo hi v : Word) : Word :=
  if f = .position then v else if pLe f lo v = false then lo else if pLe f v hi = false then hi else v

/-- Class and time that R67, R214 and R238 permit for a parameter. -/
def transitionOk (n : NodeRec) (idx : Nat) (c : TClass) (law time : Nat) : Bool :=
  let timeOk : Bool := match c with
    | .ramp => time ≤ 2000
    | .stepZc => 1 ≤ time && time ≤ 50
    | .step => true
    | .xfade => 1 ≤ time && time ≤ 2000
  let isPos := n.type == .mux && idx == 1
  law ≤ 1 && timeOk && (c != .xfade || isPos) && !(c == .ramp && isPos)
    && !(c == .stepZc && ((n.type == .proc && n.inputs.isEmpty) || n.type == .delay || n.type == .meter || n.type == .detect
        || n.type == .send))

/-- A PARAMS record (R65 to R70, R598). -/
def paramOk (ns : List NodeRec) (r : List Byte) : Bool :=
  let p := readParam r
  match findNode ns (paddrNode p.paddr) with
  | none => false
  | some n =>
    match paramFormat n.type (paddrIndex p.paddr) with
    | none => false
    | some f =>
      let inside : Bool := match f with
        | .range lo hi => lo ≤ p.min.toNat && p.max.toNat ≤ hi
        | _ => true
      let delayOk := n.type != .delay || paddrIndex p.paddr != 1 || (0 ≤ p.min.toInt && p.max.toInt ≤ 256 * (n.bodyA : Int))
      leAt r 16 1 ≤ 3 && leAt r 17 1 ≤ 1 && transitionOk n (paddrIndex p.paddr) p.cls (leAt r 17 1) p.time
        && (if f = .position then p.init.toNat == n.bodyA % 256
            else pLe f p.min p.max && pLe f p.min p.init && pLe f p.init p.max && inside && delayOk)

/-- R66 to R70, R598. Two records with one PADDR are refused with BAD_PARAMETER: the spec does not say (DESIGN CHOICE, assumption
214). -/
def checkParams (env : ChkEnv) (bs : List Byte) (ns : List NodeRec) : Chk Unit := do
  let rs := paramRecs env bs
  let (base, n, raw) := sectionPart env.key bs 9
  need (padOk raw (20 * n)) 0x0801 (base + 20 * n)
  needAll rs.zipIdx fun p =>
    need (paramOk ns p.1 && (rs.take p.2).all (fun q => leAt q 0 4 != leAt p.1 0 4)) 0x0801 (leAt p.1 0 4)

def nameChar (b : Byte) : Bool :=
  let c := b.toNat
  (97 ≤ c && c ≤ 122) || (48 ≤ c && c ≤ 57) || c == 46 || c == 45 || c == 95

def bytesLt : List Byte → List Byte → Bool
  | _, [] => false
  | [], _ :: _ => true
  | a :: s, b :: t => if a.toNat < b.toNat then true else if b.toNat < a.toNat then false else bytesLt s t

/-- A SYMBOLS record after the one before it (R71). A unit code above 7, which R72 does not list, is refused with BAD_SYMBOL:
the spec does not say (DESIGN CHOICE, assumption 214). -/
def symbolOk (ns : List NodeRec) (ps : List ParamRec) (prev : Option (List Byte)) (r : List Byte) : Bool :=
  let s := readSymbol r
  inR s.name.length 1 47 && s.name.all nameChar && allZero (slice r s.name.length (48 - s.name.length))
    && s.unit ≤ 7 && allZero (slice r 54 10) && (findNode ns (paddrNode s.paddr)).isSome
    && (paddrIndex s.paddr == 0 || ps.any (fun p => p.paddr == s.paddr))
    && (match prev with
        | none => true
        | some q => bytesLt (readSymbol q).name s.name)

def checkSymbols (env : ChkEnv) (bs : List Byte) (ns : List NodeRec) : Chk Unit :=
  let rs := symbolRecs env bs
  let ps := paramsOf env bs
  needAll rs.zipIdx fun p =>
    need (symbolOk ns ps (if p.2 = 0 then none else rs[p.2 - 1]?) p.1) 0x0802 (leAt p.1 48 4)

/-! ### Maquettes (R259, R260, R263, R264) -/

/-- What a maquette is checked against: the build, the nodes, the declared parameters and the choice lists. -/
structure MqEnv where
  build  : BitVec 64
  nodes  : List NodeRec
  params : List PAddr
  lists  : List (List (Nat × Nat))

/-- A MUX position value is selectable (R59). -/
def positionOk (lists : List (List (Nat × Nat))) (n : NodeRec) (v : Word) : Bool :=
  v.toNat < ((lists[n.bodyRef]?).getD []).length || v == 0x40

/-- The checks of R263 from BAD_HEADER on: the result code and the index of the entry at fault. -/
def maquetteFault (env : MqEnv) (inSection : Bool) (bs : List Byte) : Option (Nat × Option Nat) :=
  let cnt := leAt bs 12 4
  let es := records 12 cnt (bs.drop 64)
  let ix := es.zipIdx
  if bs.take 4 ≠ [0x4D, 0x41, 0x51, 0x54] ∨ leAt bs 4 2 ≠ 1 ∨ leAt bs 7 1 ≠ 0 ∨ leAt bs 8 4 = 0 ∨ cnt < 1 ∨ 262144 < cnt
      ∨ leAt bs 28 4 ≠ 64 + 12 * cnt ∨ (inSection ∧ 3 < leAt bs 6 1) then some (2, none)
  else if leAt bs 16 8 ≠ env.build.toNat then some (3, none)
  else if crc32 (slice bs 64 (12 * cnt)) ≠ leAt bs 24 4 then some (4, none)
  else
    let order := ix.find? (fun p => match es[p.2 - 1]? with
      | some q => p.2 ≠ 0 ∧ leAt p.1 0 4 ≤ leAt q 0 4
      | none => false)
    let undeclared := ix.find? (fun p => !env.params.contains (BitVec.ofNat 32 (leAt p.1 0 4)))
    let nodeOf (r : List Byte) : Option NodeRec := findNode env.nodes (leAt r 0 4 / 4096)
    let transition := ix.find? (fun p =>
      let o := leAt p.1 8 1
      16 ≤ o || leAt p.1 9 1 != 0 || (bitIn o 0 && (match nodeOf p.1 with
        | some n => !transitionOk n (leAt p.1 0 4 % 4096) (tclassOf (o / 2 % 4)) (o / 8 % 2) (leAt p.1 10 2)
        | none => true)))
    let position := ix.find? (fun p => match nodeOf p.1 with
      | some n => n.type == .mux && leAt p.1 0 4 % 4096 == 1 && !positionOk env.lists n (BitVec.ofNat 32 (leAt p.1 4 4))
      | none => false)
    match order, undeclared, transition, position with
    | some p, _, _, _ => some (5, some p.2)
    | none, some p, _, _ => some (6, some p.2)
    | none, none, some p, _ => some (7, some p.2)
    | none, none, none, some p => some (8, some p.2)
    | none, none, none, none => none

/-- The paddr of entry i of a maquette; 0 when it has none (R264). -/
def mqPaddr (bs : List Byte) (i : Nat) : Nat := if leAt bs 12 4 ≤ i ∨ bs.length < 64 + 12 * i + 4 then 0 else leAt bs (64 + 12 * i) 4

/-- The maquettes of the section, from `bs` on: `slots` are those named before, `prev` the first paddr of the one
before (R264). -/
def checkMaquettes (env : MqEnv) (slots : List Nat) (prev : Nat) : Nat → List Byte → Chk Unit
  | 0, bs => need (allZero bs && bs.length < 8) 0x0801 prev
  | n + 1, bs => do
    let len := 64 + 12 * leAt bs 12 4
    need (64 ≤ bs.length) 0x0801 0
    match maquetteFault env true (bs.take len) with
    | some (_, some i) => .error (0x0801, mqPaddr bs i)
    | some (_, none) => .error (0x0801, mqPaddr bs 0)
    | none => .ok ()
    need (len ≤ bs.length && !slots.contains (leAt bs 6 1)) 0x0801 (mqPaddr bs 0)
    need (n == 0 || allZero (slice bs len (roundUp8 len - len))) 0x0801 (mqPaddr bs 0)
    checkMaquettes env (leAt bs 6 1 :: slots) (mqPaddr bs 0) n (bs.drop (if n = 0 then len else roundUp8 len))

/-- All maquettes of a payload that passed its checks. -/
def readMaquettes : Nat → List Byte → List Maquette
  | 0, _ => []
  | n + 1, bs =>
    let len := 64 + 12 * leAt bs 12 4
    readMaquette bs :: readMaquettes n (bs.drop (roundUp8 len))

/-- R97. -/
def checkHints (env : ChkEnv) (bs : List Byte) (ns : List NodeRec) : Chk Unit :=
  let (_, n, raw) := sectionPart env.key bs 0xC
  let rs := records 8 n raw
  needAll rs.zipIdx fun p =>
    let r := p.1
    let id := leAt r 0 4
    let nd := findNode ns id
    need (nd.isSome && (rs.take p.2).all (fun q => leAt q 0 4 != id) && leAt r 4 1 ≤ 15 && leAt r 5 1 < 2
      && (!bitIn (leAt r 5 1) 0 || (nd.map (fun x => x.type == .delay)).getD false)) 0x0801 (id % 0x100000 * 4096)

/-- Vectors that routing may name (R575). -/
def vectorOk (v : Nat) : Bool := inR v 2 47 || v == 0xFF

/-- R575. -/
def checkEventsMap (env : ChkEnv) (bs : List Byte) : Chk Unit := do
  let (_, n, raw) := sectionPart env.key bs 0xA
  let rs := records 8 n raw
  needAll rs.zipIdx fun p =>
    let r := p.1
    let code := leAt r 0 2
    let overs := (rs.take (p.2 + 1)).filter (fun q => leAt q 0 2 % 4096 != 0)
    need (vectorOk (leAt r 2 1) && leAt r 3 1 < 2 && allZero (slice r 4 4) && (code % 4096 == 0 || overs.length ≤ 64))
      0x0803 code

def mqEnvOf (env : ChkEnv) (bs : List Byte) (ns : List NodeRec) : MqEnv :=
  let lists := match listsOf env bs with
    | .ok l => l.map (fun o => o.getD [])
    | .error _ => []
  { build := BitVec.ofNat 64 (leAt bs 0x18 8), nodes := ns, params := (paramsOf env bs).map (·.paddr), lists := lists }

def check11 (env : ChkEnv) (bs : List Byte) : Chk Unit := do
  let ns ← nodesOf env bs
  checkParams env bs ns
  checkSymbols env bs ns
  let (_, n, raw) := sectionPart env.key bs 0xB
  checkMaquettes (mqEnvOf env bs ns) [] 0 n raw
  checkHints env bs ns
  checkEventsMap env bs

/-- The check of one of the steps 1 to 11. -/
def checkStep (env : ChkEnv) (bs : List Byte) (step : Nat) : Chk Unit :=
  match step with
  | 1 => check1 bs
  | 2 => check2 bs
  | 3 => check3 env bs
  | 4 => check4 env bs
  | 5 => check5 env bs
  | 6 => check6 bs
  | 7 => check7 env bs
  | 8 => check8 env bs
  | 9 => check9 env bs
  | 10 => check10 env bs
  | 11 => check11 env bs
  | _ => .ok ()

/-- The value of a check that has passed. -/
def okOr {α : Type} (c : Chk α) (d : α) : α :=
  match c with
  | .ok a => a
  | .error _ => d

/-- The image that bytes which passed steps 1 to 11 spell. -/
def imageOf (env : ChkEnv) (bs : List Byte) : Image :=
  let (_, _, cap) := sectionPart env.key bs 1
  let (_, nm, mq) := sectionPart env.key bs 0xB
  let (_, nh, hi) := sectionPart env.key bs 0xC
  let (_, ne, ev) := sectionPart env.key bs 0xA
  { cluster := leAt bs 0x10 1 == 2, clusterSize := leAt bs 0x11 1, clusterPos := leAt bs 0x12 1,
    mirrored := bitIn (leAt bs 0x13 1) 0, debug := bitIn (leAt bs 0x13 1) 1,
    buildId := BitVec.ofNat 64 (leAt bs 0x18 8), serial := BitVec.ofNat 32 (leAt bs 0x20 4),
    keySlot := fin 4 (leAt bs 0x24 1), encrypted := (readDir bs).any DirEnt.enc, cap := readCapacity cap,
    domains := domainsOf env bs, nodes := okOr (nodesOf env bs) [],
    muxLists := (okOr (listsOf env bs) []).map (fun o => o.getD []), ports := okOr (portsOf env bs) [],
    programs := okOr (progsOf env bs) [], regions := regionsOf env bs, params := paramsOf env bs,
    symbols := (symbolRecs env bs).map readSymbol, evMap := (records 8 ne ev).map readEvMap,
    maquettes := readMaquettes nm mq, hints := (records 8 nh hi).map readHint }

end Sys2Proof.Machine
end

