-- ==== Sys2Proof/Machine/Transitions.lean ====
section
/-! DEFINITION. Parameter transitions (R227 to R248, R257, R276 to R278): laws, writes that take effect at a boundary,
fades of MUX and DELAY taps, and the movement of a SEND's effective coefficient (R212 to R214). -/

namespace Sys2Proof.Machine

/-! ## Durations and laws (R228, R230, R242) -/

def ceilDiv (a b : Nat) : Nat := (a + b - 1) / b

/-- N counted in blocks (R228). -/
def blocksOfMs (fs ms : Nat) : Nat := max 1 (ceilDiv (ms * fs) 8000)

/-- N counted in samples (R228). -/
def samplesOfMs (fs ms : Nat) : Nat := max 1 (ceilDiv (ms * fs) 1000)

/-- The nearest integer to (m0^(n−k) × m1^k)^(1/n), from a guess within one unit of it; ties to even. -/
def rootNear (m0 m1 k n guess : Nat) : Nat :=
  let p := 2 ^ n * m0 ^ (n - k) * m1 ^ k
  let up := (2 * guess + 1) ^ n
  let dn := (2 * guess - 1) ^ n
  if up < p ∨ (up = p ∧ guess % 2 = 1) then guess + 1
  else if p < dn ∨ (p = dn ∧ guess % 2 = 1) then guess - 1
  else guess

/-- The linear-in-dB magnitude of R230, correctly rounded. -/
def dbMagnitude (m0 m1 k n : Nat) : Nat :=
  let x : Int := log2Fx m1 m0 * k / (n : Int)
  rootNear m0 m1 k n (mulExp2 m0 x)

/-- v_k of a RAMP (R229, R230). -/
def rampValue (v0 v1 : Int) (k n : Nat) (dbLaw : Bool) : Int :=
  if n ≤ k then v1
  else if dbLaw ∧ 0 ≤ v0 * v1 then
    let mag : Int := dbMagnitude (max v0.natAbs 8) (max v1.natAbs 8) k n
    if v0 < 0 ∨ v1 < 0 then -mag else mag
  else v0 + rne ((v1 - v0) * k) n

/-- Terms x^(2i+1)/(2i+1)! of a sine with alternating signs, in fixed point. -/
def sinTerms : Nat → Nat → Int → Int → Int → Int
  | 0, _, _, _, acc => acc
  | j + 1, k, x2, term, acc =>
    sinTerms j (k + 2) x2 (-(term * x2 / fxOne) / ((k + 1) * (k + 2) : Nat)) (acc + term)

/-- π/2 in fixed point. -/
def halfPiFx : Nat := 124451306656115542615260972311

/-- sin(π c / (2 n)) in fixed point, for 0 ≤ c ≤ n. -/
def sinFx (c n : Nat) : Int :=
  let x : Int := (halfPiFx * c / n : Nat)
  sinTerms 24 1 (x * x / fxOne) x 0

/-- Incoming and outgoing weights at counter c (R242). -/
def fadeWeights (power : Bool) (c n : Nat) : Int × Int :=
  if power then (rne (sinFx c n * 2 ^ 30) fxOne, rne (sinFx (n - c) n * 2 ^ 30) fxOne)
  else
    let w := rne ((c * 2 ^ 30 : Nat) : Int) n
    (w, 2 ^ 30 - w)

/-! ## Parameters of the loaded image -/

def State.param? (s : State) (p : PAddr) : Option ParamSt := s.scene.params.find? (fun q => q.decl.paddr == p)

/-- The comparison format of a declared parameter (R598). -/
def State.formatOf (s : State) (p : PAddr) : PFormat :=
  match s.node? (paddrNode p) with
  | some n => (paramFormat n.type (paddrIndex p)).getD .unsigned
  | none => .unsigned

/-- The value of a parameter of a node at the end of the block, declared or not. -/
def State.pval (s : State) (n : NodeRec) (idx : Nat) : Word := (s.paramWords n idx).2

/-- The target of a parameter, or its default where it is not declared. -/
def State.ptarget (s : State) (n : NodeRec) (idx : Nat) : Word :=
  match s.param? (paddrOf n.id idx) with
  | some q => q.target
  | none => s.pval n idx

def State.muxList (s : State) (n : NodeRec) : List (Nat × Nat) :=
  (((s.img.loaded.map (·.muxLists)).getD [])[n.bodyRef]?).getD []

/-- The mute factor u of a raw mute value (GAIN). -/
def muteFactor (w : Word) : Int := if w = 0 then 134217728 else 0

/-- A parameter that is not a factor in its own right: the GAIN mute moves in the factor u. -/
def isMute (n : NodeRec) (idx : Nat) : Bool := n.type == .gain && idx == 2

/-! ## Writes that take effect at a boundary -/

/-- A parameter write with the transition that governs it (R261, R276, R278). -/
structure PWrite where
  paddr : PAddr
  value : Word
  cls   : TClass
  dbLaw : Bool
  time  : Nat
  /-- The transition comes from an override (R260). -/
  ovr   : Bool
  deriving DecidableEq, Repr

/-- An individual write: the class, law and time of the PARAMS record (R278). -/
def ParamRec.write (d : ParamRec) (v : Word) : PWrite :=
  { paddr := d.paddr, value := v, cls := d.cls, dbLaw := d.dbLaw, time := d.time, ovr := false }

/-- Present value that a new RAMP starts from: the end of the last block (R231); for a GAIN mute, its factor. -/
def ParamSt.present (q : ParamSt) (mute : Bool) : Int :=
  match q.trans with
  | .ramp v0 k n law => if mute then rampValue v0.toInt (muteFactor q.target) k n law else q.value.toInt
  | _ => if mute then q.held.getD (muteFactor q.value) else q.value.toInt

/-- The transition of one generic parameter at a write (R231 to R237, R277). -/
def ParamSt.move (q : ParamSt) (fs : Nat) (w : PWrite) (v : Word) (mute : Bool) : ParamSt :=
  match w.cls with
  | .stepZc =>
    match q.trans with
    | .zc _ left d => { q with target := v, trans := .zc v left d }
    | .ramp _ _ _ _ => { q with target := v, start := q.value, trans := .zc v (samplesOfMs fs w.time) false
                                held := if mute then some (q.present mute) else none }
    | .steady => { q with target := v, start := q.value, trans := .zc v (samplesOfMs fs w.time) false }
  | .step => { q with target := v, start := v, value := v, trans := .steady, held := none }
  | .xfade => { q with target := v, start := v, value := v, trans := .steady, held := none }
  | .ramp =>
    if w.time = 0 then { q with target := v, start := v, value := v, trans := .steady, held := none }
    else
      let same : Bool := match q.trans with
        | .ramp _ k n _ => decide (k < n) && q.target == v
        | _ => false
      if same then q
      else
        { q with target := v, trans := .ramp (BitVec.ofInt 32 (q.present mute)) 0 (blocksOfMs fs w.time) w.dbLaw, held := none }

/-! ### Fades (R242 to R247) -/

/-- What the taps of a process read now: the incoming (or only) choice. -/
def ProcSt.selected (p : ProcSt) : Nat :=
  match p.fade with
  | some f => f.inn
  | none => p.sel

/-- A fade that has reached N reads only its incoming tap, which is then the selected input (R242). -/
def ProcSt.settleFade (p : ProcSt) : ProcSt :=
  match p.fade with
  | some f => if f.n ≤ f.c then { p with sel := f.inn, fade := none } else p
  | none => p

/-- A fade to `x` starts, or the running fade goes on toward it (R242, R244, R245); `n` is the new length. -/
def ProcSt.fadeTo (p : ProcSt) (x n : Nat) (power : Bool) : ProcSt :=
  let p := p.settleFade
  match p.fade with
  | none => if p.sel = x then p else { p with fade := some { c := 0, n := n, power := power, out := p.sel, inn := x } }
  | some f =>
    if x = f.inn then p
    else if x = f.out then { p with fade := some { f with c := f.n - f.c, out := f.inn, inn := f.out } }
    else if 2 * f.c < f.n then { p with fade := some { f with n := n, inn := x } }
    else { p with fade := some { f with c := f.n - f.c, n := n, out := f.inn, inn := x } }

/-- A STEP selects at once (R241, R247). -/
def ProcSt.jumpTo (p : ProcSt) (x : Nat) : ProcSt := { p with sel := x, fade := none }

/-- Change every copy of a node's process. -/
def State.onNode (s : State) (node : Nat) (f : ProcSt → ProcSt) : State :=
  { s with procs := mapIf (fun p => p.node == node) f s.procs }

/-- The fade time of a MUX or DELAY change (R243, R247): an override's time, the declared time parameter as it
stands, else the time of the changed parameter's record. -/
def State.fadeTime (s : State) (n : NodeRec) (w : PWrite) (declTime : Nat) : Nat :=
  if w.ovr then w.time
  else match s.param? (paddrOf n.id 2) with
    | some q => q.value.toNat
    | none => declTime

/-- A refused expert write of a MUX position (R59, R290). -/
def rangeRefused (p : PAddr) (v : Word) (s : State) : State :=
  raise 0x8006 [v32 p.toNat, v32 v.toNat] (s.onScene fun c => { c with range := p })

/-- A MUX position change (R235, R237, R241 to R245). -/
def muxWrite (n : NodeRec) (q : ParamSt) (w : PWrite) (s : State) : State :=
  if !positionOk ((s.img.loaded.map (·.muxLists)).getD []) n w.value then rangeRefused w.paddr w.value s
  else
    let fs := s.fsOf n.domain
    let x := w.value.toNat
    match w.cls with
    | .stepZc => s.onParam w.paddr fun q => q.move fs w w.value false
    | .xfade =>
      let t := s.fadeTime n w q.decl.time
      let s := s.onParam w.paddr fun q => { q with target := w.value, start := w.value, value := w.value, trans := .steady }
      s.onNode n.id fun p => p.fadeTo x (samplesOfMs fs t) (n.bodyA / 256 % 256 == 1)
    | _ =>
      let s := s.onParam w.paddr fun q => { q with target := w.value, start := w.value, value := w.value, trans := .steady }
      s.onNode n.id fun p => p.jumpTo x

/-- Move a DELAY's tap (R247): STEP or a time of 0 jumps, any other class crossfades with equal gain. -/
def tapMove (n : NodeRec) (declTime : Nat) (w : PWrite) (s : State) : State :=
  let fs := s.fsOf n.domain
  let t := s.fadeTime n w declTime
  let s := s.onParam w.paddr fun q => { q with target := w.value, start := w.value, value := w.value, trans := .steady }
  s.onNode n.id fun p =>
    if w.cls = .step ∨ t = 0 then p.jumpTo w.value.toNat else p.fadeTo w.value.toNat (samplesOfMs fs t) false

/-- Samples of history that a delay value reads (R246). -/
def delayReach (d : Nat) : Nat := d / 256 + (if d % 256 = 0 then 0 else 1)

/-- The node's region may be resized (R97). -/
def State.trimmable (s : State) (node : Nat) : Bool :=
  ((s.img.loaded.map (·.hints)).getD []).any (fun h => h.node == node && h.trimmable)

/-- Samples that a DELAY's region holds (R246). -/
def State.delayCap (s : State) (node : Nat) : Nat := ((s.procs.find? (fun p => p.node == node)).map (·.histCap)).getD 0

/-- The value of a trigger (R98). -/
def triggerCode : Trigger → Nat
  | .load => 1 | .engineOut => 2 | .patina => 3 | .memory => 4 | .delay => 5 | .host => 6

/-- The freeze holds a trigger (R101). -/
def triggerHeld : Trigger → Bool
  | .load => false | .engineOut => false | .patina => true | .memory => true | .delay => true | .host => true

/-- A plan trigger arrives (R98 to R101): it starts a plan, joins the one that is BUILDING, or is queued; one that a freeze
holds is reported once. -/
def queueTrigger (t : Trigger) (s : State) : State :=
  let p := s.placer
  let wait (s : State) : State :=
    s.onPlacer fun p => if p.queued.contains t then p else { p with queued := p.queued ++ [t] }
  if p.freeze && triggerHeld t then raiseIf (!p.queued.contains t) 0x500C [] (wait s)
  else if s.power.state == 2 then wait s
  else match p.state with
    | .idle =>
      if s.img.loaded.isSome || t == .load then s.onPlacer fun p => { p with state := .building, trigger := some t, merged := [] }
      else s
    | .building => s.onPlacer fun p => if p.merged.contains t || p.trigger == some t then p else { p with merged := p.merged ++ [t] }
    | _ => wait s

/-- A DELAY change: a tap move, or first a longer region (R129, R247, R248). -/
def delayWrite (n : NodeRec) (q : ParamSt) (w : PWrite) (s : State) : State :=
  if s.trimmable n.id && decide (s.delayCap n.id < delayReach w.value.toNat) then
    let ov : Option Override := some { cls := w.cls, dbLaw := w.dbLaw, time := if w.ovr then w.time else q.decl.time }
    let r : Resize := { node := n.id, cap := 0, dly := w.value, ov := if w.ovr then ov else none, moves := true, done := false }
    let s := s.onParam w.paddr fun q => { q with target := w.value }
    queueTrigger .delay
      (s.onPlacer fun p => { p with resizes := r :: p.resizes.filter (fun x => x.node != n.id || x.cap != 0) })
  else tapMove n q.decl.time w (s.onPlacer fun p => { p with
    resizes := (p.resizes.filter (fun x => x.node != n.id || x.cap != 0)).map (fun x => if x.node = n.id then { x with moves := false } else x) })

/-! ### SEND coefficients (R212 to R214) -/

/-- The target of a send's effective coefficient. -/
def State.sendTarget (s : State) (n : NodeRec) : Word := if s.ptarget n 2 = 0 then 0 else s.ptarget n 1

/-- The effective coefficient moves toward its new target under a class, law and time. -/
def SendSt.retarget (x : SendSt) (fs : Nat) (v : Word) (cls : TClass) (dbLaw : Bool) (time : Nat) : SendSt :=
  if cls = .ramp ∧ 0 < time then
    let running : Bool := match x.trans with
      | .ramp _ k n _ => decide (k < n)
      | _ => false
    if running && x.target == v then x
    else { x with target := v, trans := .ramp x.cEnd 0 (blocksOfMs fs time) dbLaw }
  else { x with target := v, cEnd := v, trans := .steady }

/-- The writes of one boundary to one send move its coefficient once (R214). -/
def sendMove (n : NodeRec) (ws : List PWrite) (s : State) : State :=
  let mine := ws.filter (fun w => paddrNode w.paddr == n.id)
  let en := (mine.filter (fun w => paddrIndex w.paddr == 2)).getLast?
  let co := (mine.filter (fun w => paddrIndex w.paddr == 1)).getLast?
  let decl := s.param? (paddrOf n.id 1)
  let law : TClass × Bool × Nat :=
    match en, co with
    | some w, some c => if w.ovr then (w.cls, w.dbLaw, w.time) else (c.cls, c.dbLaw, c.time)
    | some w, none =>
      if w.ovr then (w.cls, w.dbLaw, w.time)
      else match decl with
        | some q => (q.decl.cls, q.decl.dbLaw, q.decl.time)
        | none => (.step, false, 0)
    | none, some c => (c.cls, c.dbLaw, c.time)
    | none, none => (.step, false, 0)
  match en, co with
  | none, none => s
  | _, _ =>
    let v := s.sendTarget n
    let fs := s.fsOf n.domain
    s.onFabric fun f =>
      match aget f.sends n.id with
      | some x => { f with sends := aset f.sends n.id (x.retarget fs v law.1 law.2.1 law.2.2) }
      | none => f

/-! ### All writes of a boundary -/

/-- One write takes effect (R257): its value clamped (R68), its transition started. -/
def applyWrite (w0 : PWrite) (s : State) : State :=
  match s.param? w0.paddr, s.node? (paddrNode w0.paddr) with
  | some q, some n =>
    let f := s.formatOf w0.paddr
    let w := { w0 with value := pClamp f q.decl.min q.decl.max w0.value }
    let idx := paddrIndex w.paddr
    if n.type = .mux ∧ idx = 1 then muxWrite n q w s
    else if n.type = .delay ∧ idx = 1 then delayWrite n q w s
    else s.onParam w.paddr fun q => q.move (s.fsOf n.domain) w w.value (isMute n idx)
  | _, _ => s

/-- Of the writes of one boundary to a parameter the last takes effect (R274, R278). -/
def lastWrites : List PWrite → List PWrite
  | [] => []
  | w :: ws => if ws.any (fun x => x.paddr == w.paddr) then lastWrites ws else w :: lastWrites ws

/-- The sends that the writes of one boundary name move once (R214). -/
def moveSends (ws : List PWrite) (s : State) : State :=
  each ((ws.map (fun w => paddrNode w.paddr)).eraseDups) (fun k t => match t.node? k with
    | some n => if n.type = .send then sendMove n ws t else t
    | none => t) s

/-! ## The boundary's own work on parameters -/

/-- The value that a parameter holds at the end of the block that ends, an armed STEP_ZC that has applied included. -/
def ParamSt.endValue (q : ParamSt) : Word :=
  match q.trans with
  | .zc v _ true => v
  | _ => q.value

/-- A parameter enters a block: a finished ramp is steady, an applied or expired STEP_ZC holds its value (R229, R235,
R236), and the start word takes the present value. -/
def ParamSt.enter (q : ParamSt) : ParamSt :=
  match q.trans with
  | .steady => { q with start := q.value }
  | .ramp _ k n _ => if n ≤ k then { q with start := q.value, trans := .steady } else { q with start := q.value }
  | .zc v left d =>
    if d ∨ left ≤ 8 then { q with start := v, value := v, trans := .steady, held := none }
    else { q with start := q.value, trans := .zc v (left - 8) false }

/-- A ramping parameter takes its next end-of-block value (R229). -/
def ParamSt.advance (mute : Bool) (q : ParamSt) : ParamSt :=
  match q.trans with
  | .ramp v0 k n law =>
    if mute then { q with trans := .ramp v0 (k + 1) n law, value := if n ≤ k + 1 then q.target else q.value }
    else { q with trans := .ramp v0 (k + 1) n law,
                  value := BitVec.ofInt 32 (rampValue v0.toInt q.target.toInt (k + 1) n law) }
  | _ => q

def SendSt.enter (x : SendSt) : SendSt :=
  match x.trans with
  | .ramp _ k n _ => if n ≤ k then { x with cStart := x.cEnd, trans := .steady } else { x with cStart := x.cEnd }
  | _ => { x with cStart := x.cEnd }

def SendSt.advance (x : SendSt) : SendSt :=
  match x.trans with
  | .ramp v0 k n law =>
    { x with trans := .ramp v0 (k + 1) n law,
             cEnd := BitVec.ofInt 32 (rampValue v0.toInt x.target.toInt (k + 1) n law) }
  | _ => x

/-- The node of a parameter lies in a domain. -/
def State.inDomain (s : State) (d : Fin 4) (p : PAddr) : Bool :=
  ((s.node? (paddrNode p)).map (fun n => n.domain == d)).getD false

/-- The MUX position that a settled STEP_ZC selects, and the fades that have ended, at a boundary. -/
def settleNodes (d : Fin 4) (s : State) : State :=
  let s := each (s.scene.params.filter (fun q => s.inDomain d q.decl.paddr)) (fun q t =>
    match q.trans, t.node? (paddrNode q.decl.paddr) with
    | .zc v left dn, some n =>
      if n.type = .mux ∧ paddrIndex q.decl.paddr = 1 ∧ (dn ∨ left ≤ 8) then t.onNode n.id fun p => p.jumpTo v.toNat
      else t
    | _, _ => t) s
  s.onProcs ProcSt.settleFade

/-- g_end of a GAIN node (R239): the factors as they stand at the end of the block. -/
def State.factors (s : State) (n : NodeRec) (ending : Bool) : Int × Int :=
  let val (q : ParamSt) : Word := if ending then q.endValue else q.value
  let f : Int := match s.param? (paddrOf n.id 1) with
    | some q => (val q).toInt
    | none => (s.pval n 1).toInt
  let u : Int := match s.param? (paddrOf n.id 2) with
    | some q =>
      match q.trans with
      | .ramp v0 k m law => rampValue v0.toInt (muteFactor q.target) k m law
      | .zc v _ true => if ending then muteFactor v else q.held.getD (muteFactor q.value)
      | _ => q.held.getD (muteFactor q.value)
    | none => muteFactor (s.pval n 2)
  (f, u)

def gainOf (f u : Int) : Int := rne (f * u) 134217728

/-- g_start of every GAIN node of a domain becomes its g_end of the block that ends (R239). -/
def latchGains (d : Fin 4) (s : State) : State :=
  s.onProcs fun p =>
    match s.node? p.node with
    | some n =>
      if n.type = .gain ∧ n.domain = d then
        let x := s.factors n true
        { p with gStart := BitVec.ofInt 32 (gainOf x.1 x.2) }
      else p
    | none => p

/-- Enter a block for every parameter and send of a domain, before the writes of the boundary. -/
def enterParams (d : Fin 4) (s : State) : State :=
  let s := settleNodes d (latchGains d s)
  let mine := fun (q : ParamSt) => s.inDomain d q.decl.paddr
  let s := s.onScene fun c => { c with params := mapIf mine ParamSt.enter c.params }
  s.onFabric fun f =>
    { f with sends := f.sends.map (fun p => (p.1, if s.inDomain d (paddrOf p.1 0) then p.2.enter else p.2)) }

/-- The block's ramp values, after the writes of the boundary (RAMP_STEP). -/
def advanceParams (d : Fin 4) (s : State) : State :=
  let mine := fun (q : ParamSt) => s.inDomain d q.decl.paddr
  let mute (q : ParamSt) : Bool :=
    ((s.node? (paddrNode q.decl.paddr)).map (fun n => isMute n (paddrIndex q.decl.paddr))).getD false
  let s := s.onScene fun c => { c with params := mapIf mine (fun q => q.advance (mute q)) c.params }
  s.onFabric fun f =>
    { f with sends := f.sends.map (fun p => (p.1, if s.inDomain d (paddrOf p.1 0) then p.2.advance else p.2)) }

/-! ## Timed ends (R229, R235, R242) -/

/-- A ramp that has reached block N is steady at its target. -/
def rampDone (p : PAddr) (s : State) : State :=
  s.onParam p fun q => match q.trans with
    | .ramp _ k n _ => if n ≤ k then { q with value := q.target, trans := .steady } else q
    | _ => q

/-- RAMP_COMPLETE (R229). -/
def execRampComplete (paddr : PAddr) (s : State) : Host.Outcome State Fault Refusal := .next (rampDone paddr s)

/-- An armed STEP_ZC whose N samples have passed in this block watches no longer: it applies at the next boundary, as a STEP. -/
def zcTimeout (p : PAddr) (s : State) : State :=
  s.onParam p fun q => match q.trans with
    | .zc v left false => if left ≤ 8 then { q with trans := .zc v 0 false } else q
    | _ => q

/-- STEP_ZC_TIMEOUT (R235). -/
def execStepZcTimeout (paddr : PAddr) (s : State) : Host.Outcome State Fault Refusal := .next (zcTimeout paddr s)

/-- XFADE_COMPLETE (R242). -/
def execXfadeComplete (node : Nat) (s : State) : Host.Outcome State Fault Refusal :=
  .next (s.onNode node ProcSt.settleFade)

end Sys2Proof.Machine
end

