-- ==== Sys2Proof/Machine/Primitives.lean ====
section
/-! DEFINITION. The block work of the built-in primitives GAIN, MUX, DELAY, SPLIT, METER and DETECT (R55, R234 to R255),
the input rings of bridge nodes (R149), and how an engine begins a ready process (R126, R139). -/

namespace Sys2Proof.Machine

/-! ## Inputs -/

/-- Frame of an edge for a block. -/
def State.edgeFrame (s : State) (e : Nat × Nat) (w : Nat) : Frame := s.frameAt e.1 e.2 w

/-- The last sample of the same signal's previous block; zero before the first. -/
def State.lastOfEdge (s : State) (e : Nat × Nat) (w : Nat) : Word :=
  if w = 0 then 0 else nth (s.edgeFrame e (w - 1)) 7 0

/-- Sample i of a signal is a zero crossing (R234). -/
def crossingAt (prev : Word) (x : Frame) (i : Nat) : Bool :=
  let a := (nth x i 0).toInt
  let b := if i = 0 then prev.toInt else (nth x (i - 1) 0).toInt
  a == 0 || decide (a * b < 0)

/-- The first zero crossing among the first `lim` samples of a block. -/
def firstCrossing (prev : Word) (x : Frame) (lim : Nat) : Option Nat :=
  (List.range (min 8 lim)).find? (crossingAt prev x)

/-- Where an armed STEP_ZC of a parameter applies in this block, given the signal it watches (R235). -/
def zcPoint (q : Option ParamSt) (prev : Word) (x : Frame) : Option Nat :=
  match q with
  | none => none
  | some q => match q.trans with
    | .zc _ left _ => firstCrossing prev x left
    | _ => none

/-- Mark that an armed STEP_ZC has met its zero crossing: it holds from the next boundary on (R235, R236). -/
def markCrossed (p : PAddr) (s : State) : State :=
  s.onParam p fun q => match q.trans with
    | .zc v left _ => { q with trans := .zc v left true }
    | _ => q

/-! ## GAIN (R239) -/

structure GainOut where
  frame : Frame
  sat   : Bool
  deriving Repr

/-- One block of a GAIN from its start gain, its gain before and after sample z. -/
def gainBlock (x : Frame) (gs gOld gNew : Int) (z : Option Nat) : GainOut :=
  let g (i : Nat) : Int := match z with
    | some k => if k ≤ i then gNew else gs + rne ((gOld - gs) * (i + 1)) 8
    | none => gs + rne ((gOld - gs) * (i + 1)) 8
  let y (i : Nat) : Int := rne ((nth x i 0).toInt * g i) 134217728
  { frame := (List.range 8).map (fun i => satWord (y i)), sat := (List.range 8).any (fun i => satOver (y i)) }

/-- The factor pair at the end of the block with each armed STEP_ZC applied where it has crossed. -/
def State.crossedFactors (s : State) (n : NodeRec) (c1 c2 : Bool) : Int × Int :=
  let base := s.factors n false
  let pend (idx : Nat) : Option Word := (s.param? (paddrOf n.id idx)).bind fun q => match q.trans with
    | .zc v _ _ => some v
    | _ => none
  (match c1, pend 1 with
    | true, some v => v.toInt
    | _, _ => base.1,
   match c2, pend 2 with
    | true, some v => muteFactor v
    | _, _ => base.2)

def gainWork (n : NodeRec) (p : ProcSt) (w : Nat) (s : State) : List Frame × ProcSt × State :=
  let e := n.inputs.headD (0, 0)
  let x := s.edgeFrame e w
  let prev := s.lastOfEdge e w
  let z1 := zcPoint (s.param? (paddrOf n.id 1)) prev x
  let z2 := zcPoint (s.param? (paddrOf n.id 2)) prev x
  let z := match z1, z2 with
    | some a, _ => some a
    | none, b => b
  let a := s.factors n false
  let b := s.crossedFactors n z1.isSome z2.isSome
  let r := gainBlock x p.gStart.toInt (gainOf a.1 a.2) (gainOf b.1 b.2) z
  let s := if z1.isSome then markCrossed (paddrOf n.id 1) s else s
  let s := if z2.isSome then markCrossed (paddrOf n.id 2) s else s
  let s := if r.sat then s.onEngine p.engine fun g => { g with flags := setFlag g.flags 1 } else s
  ([r.frame], p, s)

/-! ## MUX (R59, R235, R241, R242) -/

/-- The frame that a MUX choice selects; 0x40 is silence. -/
def State.choiceFrame (s : State) (n : NodeRec) (c w : Nat) : Frame :=
  match (s.muxList n)[c]? with
  | some e => if c = 0x40 then silence else s.edgeFrame e w
  | none => silence

/-- The weighted sum of two taps at counter c (R242). -/
def fadeMix (f : Fade) (c : Nat) (o i : Word) : Word :=
  let k := fadeWeights f.power c f.n
  satWord (rne (o.toInt * k.2 + i.toInt * k.1) (2 ^ 30))

/-- One block over the taps of a fade, or over the selected one. -/
def fadeBlock (p : ProcSt) (tap : Nat → Frame) : Frame :=
  match p.fade with
  | none => (List.range 8).map (fun i => nth (tap p.sel) i 0)
  | some f =>
    let o := tap f.out
    let n := tap f.inn
    (List.range 8).map fun i =>
      if f.c + i + 1 ≤ f.n then fadeMix f (f.c + i + 1) (nth o i 0) (nth n i 0) else nth n i 0

/-- The fade counter rises by one a sample, to N at most. -/
def ProcSt.fadeOn (p : ProcSt) : ProcSt :=
  match p.fade with
  | some f => { p with fade := some { f with c := min f.n (f.c + 8) } }
  | none => p

def muxWork (n : NodeRec) (p : ProcSt) (w : Nat) (s : State) : List Frame × ProcSt × State :=
  let tap (c : Nat) : Frame := s.choiceFrame n c w
  let prev := match (s.muxList n)[p.selected]? with
    | some e => s.lastOfEdge e w
    | none => 0
  let q := s.param? (paddrOf n.id 1)
  let z := zcPoint q prev (tap p.selected)
  let s := if (zcPoint (s.param? (paddrOf n.id 2)) prev (tap p.selected)).isSome then markCrossed (paddrOf n.id 2) s else s
  let base := fadeBlock p tap
  let pend : Option Word := q.bind fun x => match x.trans with
    | .zc v _ _ => some v
    | _ => none
  match z, pend with
  | some k, some v =>
    let nf := tap v.toNat
    let y := (List.range 8).map (fun i => if k ≤ i then nth nf i 0 else nth base i 0)
    ([y], p.fadeOn, markCrossed (paddrOf n.id 1) s)
  | _, _ => ([base], p.fadeOn, s)

/-! ## DELAY (R246, R247) -/

/-- One block of a tap at delay value d over the samples newest first. -/
def tapBlock (full : List Word) (cap d : Nat) : Frame :=
  let at' (k : Nat) (ago : Nat) : Int := if cap < ago then 0 else (nth full (k + ago) 0).toInt
  let q := d / 256
  let f := d % 256
  (List.range 8).map fun (i : Nat) => satWord (rne (at' (7 - i) q * (256 - f : Nat) + at' (7 - i) (q + 1) * (f : Nat)) 256)

def delayWork (n : NodeRec) (p : ProcSt) (w : Nat) (s : State) : List Frame × ProcSt × State :=
  let x := s.edgeFrame (n.inputs.headD (0, 0)) w
  let full := (List.range 8).reverse.map (fun i => nth x i 0) ++ p.hist
  let y := fadeBlock p (tapBlock full p.histCap)
  ([y], p.fadeOn.record x, s)

/-! ## METER (R249, R250) -/

/-- Hundredths of a dB of a power ratio. -/
def dbOfPower (num den : Nat) : Int := rne (1000 * log2Fx num den * log10of2Fx) (2 ^ 160)

def floorDb (v : Int) : Int := if v < -14400 then -14400 else v

def meterPeak (m : Nat) : Int := if m = 0 then -14400 else floorDb (dbOf m (2 ^ 23))

def meterRms (sum cnt : Nat) : Int := if sum = 0 ∨ cnt = 0 then -14400 else floorDb (dbOfPower sum (cnt * 2 ^ 46))

/-- Period in blocks as EVT_METER_CTL has it; 0 is taken as 1. -/
def Evt.period (v : Evt) : Nat := max 1 v.mPeriod.toNat

/-- Media block that a node works on, as a block number of its domain (R227). -/
def State.mediaBlock (s : State) (n : NodeRec) : BitVec 48 :=
  (s.tb (s.tbOf n.domain)).blk - BitVec.ofNat 48 (n.tier - b2n n.before)

/-- A METER's enable as it stands for the block (R150, R249). -/
def State.meterOn (s : State) (n : NodeRec) : Bool := (s.paramWords n 1).1 == 1

/-- A block of a METER has passed; it closes its period after the period's last block. -/
def meterClose (n : NodeRec) (p : ProcSt) (s : State) : ProcSt :=
  let blk := s.mediaBlock n
  let p := { p with mBlocks := p.mBlocks + 1 }
  if (blk.toNat + 1) % s.evt.period = 0 then
    let kind := n.bodyA % 256
    let none' := p.mCount = 0
    let peak := if kind = 1 ∨ none' then -14400 else meterPeak p.mPeak
    let rms := if kind = 0 ∨ none' then -14400 else meterRms p.mSum p.mCount
    let fl := b2n (s.meterOn n) + 2 * b2n p.mOver + 4 * b2n p.mFull
    { p with mPeak := 0, mSum := 0, mCount := 0, mBlocks := 0, mOver := false, mFull := false,
             mDone := p.mDone ++ [{ peak := peak, rms := rms, flags := fl, block := blk, blocks := p.mBlocks }] }
  else p

def meterWork (n : NodeRec) (p : ProcSt) (w : Nat) (s : State) : List Frame × ProcSt × State :=
  let x := s.edgeFrame (n.inputs.headD (0, 0)) w
  let on := s.meterOn n
  let abs := x.map (fun v => v.toInt.natAbs)
  let p := if on then
      { p with mPeak := abs.foldl max p.mPeak, mSum := p.mSum + (abs.map (fun a => a * a)).sum, mCount := p.mCount + 8,
               mOver := p.mOver || abs.any (fun a => 2 ^ 23 < a),
               mFull := p.mFull || x.any (fun v => v.toInt == maxWord || v.toInt == minWord) }
    else p
  ([], meterClose n p s, s)

/-! ## DETECT (R253, R255) -/

def detectWork (n : NodeRec) (p : ProcSt) (w : Nat) (s : State) : List Frame × ProcSt × State :=
  let x := s.edgeFrame (n.inputs.headD (0, 0)) w
  let thr := (s.pval n 1).toInt
  let quiet := x.all (fun v => decide ((v.toInt.natAbs : Int) ≤ thr))
  if quiet then ([], { p with silentRun := p.silentRun + 1 }, s)
  else
    let s := if p.silent && s.released n p then s.onEvt fun v => { v with detChanges := v.detChanges ++ [(n.id, false)] } else s
    ([], { p with silentRun := 0, silent := false }, s)

/-- The hold-th consecutive silent block has ended: SILENT (R253). -/
def enterSilent (node : Nat) (s : State) : State :=
  match s.node? node with
  | none => s
  | some n =>
    let hold := (s.pval n 2).toNat
    let go := n.type == .detect && s.procs.any (fun p => p.node == node && !p.silent && decide (hold ≤ p.silentRun))
    if go then
      (s.onNode node fun p => { p with silent := true }).onEvt fun v => { v with detChanges := v.detChanges ++ [(node, true)] }
    else s

/-- DETECT_ENTER_SILENT (R253). -/
def execDetectEnterSilent (node : Nat) (s : State) : Host.Outcome State Fault Refusal := .next (enterSilent node s)

/-! ## Bridge input rings (R149) -/

/-- One input-domain sample of every input enters a bridge node's rings: lane j of group g in slot count mod 64. -/
def ringPut (ins : List Frame) (i : Nat) (p : ProcSt) : ProcSt :=
  let slot := p.ringCount.toNat % 64
  let put (m : Mem) (q : Frame × Nat) : Mem :=
    m.putN (4096 * (q.2 / 16) + 64 * slot + 4 * (q.2 % 16)) (leBytes 4 (nth q.1 i 0).toNat)
  { p with ring := ins.zipIdx.foldl put p.ring, ringCount := p.ringCount + 1 }

/-! ## Beginning block work (R126, R139) -/

/-- Every frame that the node's block work reads is published. -/
def State.inputsReady (s : State) (n : NodeRec) (p : ProcSt) (w : Nat) : Bool :=
  let has (e : Nat × Nat) : Bool := (s.framesAt e.1 w).isSome
  if n.bridge then true
  else if n.type = .mux then
    let taps := match p.fade with
      | some f => [f.out, f.inn]
      | none => [p.sel]
    let armed := match (s.param? (paddrOf n.id 1)).map (·.trans) with
      | some (.zc v _ _) => [v.toNat]
      | _ => []
    (taps ++ armed).all fun c => match (s.muxList n)[c]? with
      | some e => has e
      | none => true
  else n.inputs.all has

/-- A STEP_ZC armed on a PROC parameter watches lane 0 of input 0 (R236). -/
def markProcCrossings (n : NodeRec) (x : Frame) (prev : Word) (s : State) : State :=
  let ps := s.scene.params.filter (fun q => paddrNode q.decl.paddr == n.id)
  each ps (fun q t => if (zcPoint (some q) prev x).isSome then markCrossed q.decl.paddr t else t) s

def State.ports (s : State) : List PortRec := (s.img.loaded.map (·.ports)).getD []

/-- The record that a SOURCE or SINK names (R54). -/
def State.portOf (s : State) (n : NodeRec) : Option PortRec := s.ports[n.bodyRef]?

/-- Intervals from the block that a node's output is of to the boundary at which it stands published: those of its tier, and one for
a lane, whose frames come in within the interval. -/
def State.feedLag (s : State) (e : Nat × Nat) : Nat :=
  match s.node? e.1 with
  | some r => match (s.portOf r).map PortRec.body with
    | some (.link _) => max 1 r.tier
    | _ => r.tier
  | none => 0

/-- The newest block of an input domain that all inputs of a bridge node have completed enters its rings (R149), and a STEP_ZC
on one of its parameters watches it (R236). -/
def feedBridges (d : Fin 4) (s : State) : State :=
  let ivl := (s.tb (s.tbOf d)).ivl
  each s.nodes (fun n s =>
    if n.bridge ∧ n.domain ≠ d ∧ n.inputs.any (fun e => ((s.node? e.1).map (fun r => r.domain == d)).getD false) then
      let lag := 1 + n.inputs.foldl (fun a e => max a (s.feedLag e)) 0
      if lag ≤ ivl then
        let ins := n.inputs.map (fun e => s.edgeFrame e (ivl - lag))
        let prev := (n.inputs.head?.map (fun x => s.lastOfEdge x (ivl - lag))).getD 0
        (markProcCrossings n (nth ins 0 silence) prev s).onNode n.id fun p => (List.range 8).foldl (fun q i => ringPut ins i q) p
      else s
    else s) s

/-- Cells of chip memory in the regions that a node owns, as one engine reaches them. -/
def State.regionCells (s : State) (node : Nat) (e : Fin 24) : Mem :=
  let spans := (s.ownedRegions node).filterMap fun p =>
    ((s.route node p.1 0 (some e)).rd).map (fun a => (a, p.2.size))
  s.mem.filter (fun c => spans.any (fun x => x.1 ≤ c.1 && c.1 < x.1 + x.2))

/-- What R432 keeps of the primary at the start of a block, through the interval 2 blocks later. -/
def retainBlock (n : NodeRec) (p : ProcSt) (ins : List Frame) (s : State) : State :=
  match s.pair? n.id with
  | some q =>
    if q.prim = p.engine then
      let r : Retain :=
        { ivl := s.ivl n, proc := p, ins := ins,
          params := s.scene.params.filter (fun x => paddrNode x.decl.paddr == n.id),
          cells := s.regionCells n.id p.engine }
      let keep (x : PairSt) : PairSt :=
        { x with retained := r :: x.retained.filter (fun y => decide (r.ivl < y.ivl + 3)) }
      s.onRed fun d => { d with pairs := mapIf (fun x => x.node == n.id) keep d.pairs }
    else s
  | none => s

/-- Block work of a primitive runs whole; a PROC's begins with the registers of R139. -/
def beginWork (n : NodeRec) (p : ProcSt) (w : Nat) (s : State) : State :=
  let e := p.engine
  let s := s.onEngine e fun g => { g with begun := g.begun ++ [n.id] }
  let ins := if n.type = .mux then (s.muxList n).map (fun x => s.edgeFrame x w) else n.inputs.map (fun x => s.edgeFrame x w)
  let s := retainBlock n p ins s
  let run (r : List Frame × ProcSt × State) : State :=
    completeProc n e r.1 (r.2.2.onProc n.id e (fun _ => r.2.1))
  match n.type with
  | .gain => run (gainWork n p w s)
  | .mux => run (muxWork n p w s)
  | .delay => run (delayWork n p w s)
  | .split =>
    let x := nth ins 0 silence
    completeProc n e (List.replicate n.outputs x) s
  | .meter => run (meterWork n p w s)
  | .detect => run (detectWork n p w s)
  | .proc =>
    let prev := match n.inputs.head? with
      | some x => s.lastOfEdge x w
      | none => 0
    let s := if n.inputs.isEmpty || n.bridge then s else markProcCrossings n (nth ins 0 silence) prev s
    let entry := ((s.progOf n).map (·.entry)).getD 0
    s.onEngine e fun g => { g with fg := Ctx.enter n.id entry (windowOfFrames ins) n.outputs }
  | .source => s
  | .sink => s
  | .send => s
  | .sum => s
  | .limit => s

/-- The engine can take up a process. -/
def Engine.idle (g : Engine) : Bool :=
  !g.out && !g.halted && g.fg.node.isNone && g.stalled.isNone

/-- The first process of an engine's list that is ready and not yet begun in this interval. -/
def State.nextReady (s : State) (e : Fin 24) : Option (NodeRec × ProcSt × Nat) :=
  let g := s.engine e
  s.procs.findSome? fun p =>
    if p.engine = e ∧ p.stopped = false ∧ p.out.isNone ∧ !g.begun.contains p.node then
      match s.node? p.node with
      | some n => match workIdx (s.ivl n) n with
        | some w => if s.inputsReady n p w then some (n, p, w) else none
        | none => none
      | none => none
    else none

/-- An idle engine begins the next ready process of its list. -/
def startWork (e : Fin 24) (s : State) : State :=
  if (s.engine e).idle then
    match s.nextReady e with
    | some (n, p, w) => beginWork n p w s
    | none => s
  else s

/-- BLOCK_WORK_START (R139). -/
def execBlockWorkStart (e : Fin 24) (s : State) : Host.Outcome State Fault Refusal := .next (startWork e s)

end Sys2Proof.Machine
end

