-- ==== Sys2Proof/Machine/Fabric.lean ====
section
/-! DEFINITION. The summing fabric (chapter 06): sends into sums, narrowing, completion and substitutes, LIMIT nodes, table
layout, and its counters. -/

namespace Sys2Proof.Machine

/-! ## Sends and sums (R209 to R213, R218) -/

/-- The SENDs of a SUM. -/
def State.sendsOf (s : State) (sum : Nat) : List NodeRec := s.nodes.filter (fun n => n.type == .send && n.bodyRef == sum)

/-- The coefficient for sample i (R213). -/
def sendCoeff (x : SendSt) (i : Nat) : Int :=
  x.cStart.toInt + rne ((x.cEnd.toInt - x.cStart.toInt) * (i + 1 : Nat)) 8

/-- A SEND's coefficients as the fabric holds them. -/
def State.sendSt (s : State) (n : Nat) : SendSt := agetD s.fabric.sends n { cStart := 0, cEnd := 0, target := 0, trans := .steady }

/-- Fabric memory in bytes. -/
def fabricSize : Nat := 4194304

/-- c_start and c_end of a SEND as its table entry holds them (R216). -/
def State.coeffBytes (s : State) (n : Nat) : List Byte :=
  let x := s.sendSt n
  leBytes 4 x.cStart.toNat ++ leBytes 4 x.cEnd.toNat

/-- Where a byte of the tables beyond fabric memory lies: the first of the fixed banks onwards (R217; DESIGN CHOICE, assumption
213). -/
def State.tableAddr (s : State) (o : Nat) : Nat :=
  bankBytes * s.xbar.fixed.getD ((o - fabricSize) / bankBytes) 0 + (o - fabricSize) % bankBytes

/-- Bytes of the tables from an offset on, word by word: those beyond fabric memory go to the shared banks. -/
def putTable : Nat → List Byte → State → State
  | o, a :: b :: c :: d :: t, s =>
    putTable (o + 4) t (if o < fabricSize then s else { s with mem := s.mem.putN (s.tableAddr o) [a, b, c, d] })
  | _, _, s => s

/-- The fabric reads a word of a spilled table from its bank (R217, R410). -/
def readSpilled (a : Nat) (s : State) : Word × State :=
  let s := if s.xbar.badCe.contains (a / 8) then bankCorrected (a / bankBytes) (a / 8) s else s
  if s.xbar.badUe.contains (a / 8) then
    let k := (bankUncorrectable (a / 8 * 8) s).fresh
    (Config.spilledWord k.1, k.2)
  else (BitVec.ofNat 32 (leNat (s.mem.getN a 4)), s)

/-- The coefficients that the fabric uses for a block: from its own memory, or from the bank that holds the entry (R217). -/
def readCoeffs (n : Nat) (s : State) : SendSt × State :=
  let x := s.sendSt n
  match aget s.fabric.spilled n with
  | none => (x, s)
  | some o =>
    let a := if o < fabricSize then (x.cStart, s) else readSpilled (s.tableAddr o) s
    let b := if o + 4 < fabricSize then (x.cEnd, a.2) else readSpilled (s.tableAddr (o + 4)) a.2
    ({ x with cStart := a.1, cEnd := b.1 }, b.2)

/-- The exact products of a send's block, added to the accumulator (R209). -/
def addProducts (x : SendSt) (f : Frame) (acc : List Int) : List Int :=
  (List.range 8).map (fun i => acc.getD i 0 + (nth f i 0).toInt * sendCoeff x i)

def State.sumSt? (s : State) (node : Nat) : Option SumSt := s.fabric.sums.find? (fun x => x.node == node)

def State.onSum (s : State) (node : Nat) (f : SumSt → SumSt) : State :=
  s.onFabric fun b => { b with sums := mapIf (fun x => x.node == node) f b.sums }

def SumSt.fresh (node : Nat) : SumSt := { node := node, acc := List.replicate 8 0, got := [], done := false }

/-- The narrowed output of an accumulator and whether any sample saturated (R209). -/
def narrow (acc : List Int) : Frame × Bool :=
  let y (i : Nat) : Int := rne (acc.getD i 0) 134217728
  ((List.range 8).map (fun i => satWord (y i)), (List.range 8).any (fun i => satOver (y i)))

/-! ## LIMIT nodes (R220 to R225) -/

/-- Terms of 1 − e^(−x) in fixed point: x − x²/2! + x³/3! − … -/
def oneMinusExp : Nat → Nat → Int → Int → Int → Int
  | 0, _, _, _, acc => acc
  | j + 1, k, x, term, acc => oneMinusExp j (k + 1) x (-(term * x / fxOne) / (k + 1 : Nat)) (acc + term)

/-- kq of R220 for a release of `ms` milliseconds; a release of 0 recovers at once. -/
def limitKq (fs ms : Nat) : Nat :=
  if ms = 0 ∨ fs = 0 then 2147483648
  else
    let x : Int := (1000 * fxOne / (fs * ms) : Nat)
    (rne (oneMinusExp 24 1 x x 0 * 2147483648) fxOne).toNat

/-- r[i]: the gain that brings sample i to the threshold. -/
def limitR (thr : Nat) (x : Word) : Nat :=
  if thr < x.toInt.natAbs then thr * 2147483648 / x.toInt.natAbs else 2147483648

/-- The look-ahead bound of sample i. -/
def limitLook (g0 : Nat) (r : List Nat) (i : Nat) : Nat :=
  (List.range 8).foldl (fun lim j =>
    if i < j ∧ r.getD j 0 < g0 then min lim (g0 - (g0 - r.getD j 0) * (i + 1) / (j + 1)) else lim) (r.getD i 0)

/-- The gains of a block, in order, from the gain of the sample before. -/
def limitGains (g0 kq : Nat) (r : List Nat) : Nat → Nat → Nat → List Nat
  | 0, _, _ => []
  | k + 1, i, gp =>
    let g := min (limitLook g0 r i) (gp + (2147483648 - gp) * kq / 2147483648)
    g :: limitGains g0 kq r k (i + 1) g

def limitOut (x : Word) (g : Nat) : Word := BitVec.ofInt 32 (truncDiv (x.toInt * g) 2147483648)

/-- Gain reduction in hundredths of a dB (R224). -/
def gainReduction (gmin : Nat) : Nat := if gmin = 0 then 65535 else min 65535 (dbOf 2147483648 gmin).toNat

/-- One block of a LIMIT node (R220): its frame and its new state. -/
def limitBlock (thr kq : Nat) (x : Frame) (l : LimitSt) : Frame × LimitSt :=
  let r := (List.range 8).map (fun i => limitR thr (nth x i 0))
  let g := limitGains l.gLast kq r 8 0 l.gLast
  let gr := gainReduction (g.foldl min 2147483648)
  ((List.range 8).map (fun i => limitOut (nth x i 0) (g.getD i 0)),
   { l with gLast := g.getD 7 0, gr := gr, hold := max l.hold gr })

def LimitSt.fresh (node : Nat) : LimitSt := { node := node, gLast := 2147483648, gr := 0, hold := 0, alarm := false }

/-- A LIMIT node processes the frame of its SUM (R220) under its threshold, a signed word that R220 clamps, reports its depth
(R225), and notes the zero crossings that its own STEP_ZC parameters wait for. -/
def runLimit (w : Nat) (x : Frame) (n : NodeRec) (s : State) : State :=
  let thr := clampNat 256 2147483647 (s.pval n 1).toInt.toNat
  let kq := limitKq (s.fsOf n.domain) (s.pval n 2).toNat
  let l := (s.fabric.limits.find? (fun l => l.node == n.id)).getD (LimitSt.fresh n.id)
  let r := limitBlock thr kq x l
  let depth := s.fabric.grAlarm.toNat
  let deep := decide (depth ≠ 0) && decide (depth ≤ r.2.gr)
  let prev := s.lastOfEdge (n.inputs.headD (0, 0)) w
  let s := if (zcPoint (s.param? (paddrOf n.id 1)) prev x).isSome then markCrossed (paddrOf n.id 1) s else s
  let s := if (zcPoint (s.param? (paddrOf n.id 2)) prev x).isSome then markCrossed (paddrOf n.id 2) s else s
  let s := s.onFabric fun f => { f with limits := mapIf (fun y => y.node == n.id) (fun _ => { r.2 with alarm := deep }) f.limits }
  let s := publish n.id w [r.1] s
  raiseIf (deep && !l.alarm) 0x7003 [v32 n.id, v16 r.2.gr] s

/-- LIMIT nodes that read a SUM, in ascending node id. -/
def State.limitsOf (s : State) (sum : Nat) : List NodeRec :=
  s.nodes.filter (fun n => n.type == .limit && n.inputs.any (fun e => e.1 == sum))

/-- A SUM's frame leaves: it is published and its LIMIT nodes process it. -/
def releaseSum (n : NodeRec) (w : Nat) (f : Frame) (s : State) : State :=
  each (s.limitsOf n.id) (runLimit w f) (publish n.id w [f] s)

/-! ## Completion (R209, R211, R219) -/

/-- SUM index of a node: SUMs number in ascending node id. -/
def State.sumIndex (s : State) (node : Nat) : Nat := (s.fabric.sums.findIdx? (fun x => x.node == node)).getD 0

def State.sumMisses (s : State) (node : Nat) : Nat := ((s.outs.find? (fun o => o.node == node)).map (·.misses)).getD 0

def setMisses (node k : Nat) (s : State) : State :=
  { s with outs := mapIf (fun o => o.node == node) (fun o => { o with misses := k }) s.outs }

/-- A SUM whose sources have all been added is narrowed and released; the first block after a miss is faded in. -/
def completeSum (n : NodeRec) (x : SumSt) (w : Nat) (s : State) : State :=
  let y := narrow x.acc
  let f := if 0 < s.sumMisses n.id then (List.range 8).map (fun i => scale (nth y.1 i 0) (i + 1 : Nat) 8) else y.1
  let k := s.sumIndex n.id
  let s := s.onSum n.id fun q => { q with done := true }
  let s := if y.2 then s.onFabric fun b => { b with
      sumSat := updN b.sumSat (k / 32) (fun v => setFlag v (k % 32)), satNow := some (min n.id (b.satNow.getD n.id)) } else s
  setMisses n.id 0 (releaseSum n w f s)

/-- Add one source frame to one SUM, which completes when every one of its sources has been added. -/
def addToSum (e : Nat × Nat) (sum : NodeRec) (s : State) : State :=
  match s.sumSt? sum.id, workIdx (s.ivl sum) sum with
  | some x, some w =>
    let sends := s.sendsOf sum.id
    if x.done || x.got.contains e || (s.framesAt e.1 w).isNone then s
    else
      let mine := sends.filter (fun n => n.inputs.contains e)
      let r := mine.foldl (fun (a : List Int × State) n =>
        let c := readCoeffs n.id a.2
        (addProducts c.1 (s.edgeFrame e w) a.1, c.2)) (x.acc, s)
      let x' : SumSt := { x with acc := r.1, got := e :: x.got }
      let s := r.2.onSum sum.id fun _ => x'
      if sends.all (fun n => n.inputs.all (fun i => x'.got.contains i)) then completeSum sum x' w s else s
  | _, _ => s

/-- The SUMs that a source feeds, in ascending node id. -/
def State.sumsOfEdge (s : State) (e : Nat × Nat) : List NodeRec :=
  s.nodes.filter (fun n => n.type == .sum && (s.sendsOf n.id).any (fun k => k.inputs.contains e))

/-- A source frame reaches the fabric. -/
def sourceFrame (node out : Nat) (s : State) : State := each (s.sumsOfEdge (node, out)) (addToSum (node, out)) s

/-- FABRIC_SOURCE_FRAME (R209). -/
def execFabricSourceFrame (node out : Nat) (s : State) : Host.Outcome State Fault Refusal := .next (sourceFrame node out s)

/-- A SUM that is not complete at 0.96 P releases the substitute of R127 and counts an overrun. -/
def overrunSum (n : NodeRec) (w : Nat) (s : State) : State :=
  let k := s.sumMisses n.id
  let y := ((s.outs.find? (fun o => o.node == n.id)).map (fun o => nth o.last 0 0)).getD 0
  let s := s.onSum n.id fun q => { q with done := true }
  let s := s.onFabric fun b => { b with overruns := satInc32 b.overruns, overNow := true }
  let s := setMisses n.id (k + 1) (releaseSum n w (substitute k y) s)
  raiseIf (k = 0) 0x7002 [v32 n.id] s

/-- Fabric completion for one SUM: a SUM with no sends outputs zero. -/
def closeSum (n : NodeRec) (s : State) : State :=
  match s.sumSt? n.id, workIdx (s.ivl n) n with
  | some x, some w =>
    if x.done then s
    else if (s.sendsOf n.id).isEmpty then completeSum n x w s
    else overrunSum n w s
  | _, _ => s

/-- SUM_SATURATED as an interval ends, once, with the SUM of lowest index that saturated in it (R211): SUM indices rise with the
node ids. -/
def reportSaturation (s : State) : State :=
  match s.fabric.satNow with
  | some n => raise 0x7001 [v32 n] (s.onFabric fun f => { f with satNow := none })
  | none => s

/-- Fabric completion of a domain (R29, R219); the instant at which the last SUM completed is not stated: a free
value. -/
def closeFabric (d : Fin 4) (s : State) : State :=
  let sums := s.nodes.filter (fun n => n.type == .sum && n.domain == d)
  let s := each sums closeSum s
  if sums.isEmpty then s
  else
    let k := s.fresh
    let v := (Config.fabricFinish k.1).toNat
    k.2.onFabric fun f => { f with finish := v, finishMax := max f.finishMax v }

/-- The fabric's part of a boundary: the coefficients of the block enter the tables, and the SUMs of the domain start afresh. -/
def openFabric (d : Fin 4) (s : State) : State :=
  let s := each (s.fabric.spilled.filter (fun p => s.inDomain d (paddrOf p.1 0))) (fun p => putTable p.2 (s.coeffBytes p.1)) s
  s.onFabric fun f =>
    { f with sums := mapIf (fun x => ((s.node? x.node).map (fun n => n.domain == d)).getD false)
               (fun x => SumSt.fresh x.node) f.sums }

/-! ## Counters -/

/-- FABRIC_CLEAR_GR_HOLD (R224). -/
def execFabricClearGrHold (s : State) : Host.Outcome State Fault Refusal :=
  .next (s.onFabric fun f => { f with limits := f.limits.map (fun l => { l with hold := 0 }) })

/-- FABRIC_CLEAR_COUNTS (R219). -/
def execFabricClearCounts (s : State) : Host.Outcome State Fault Refusal :=
  .next (s.onFabric fun f => { f with overruns := 0, finishMax := 0 })

/-! ## What an image needs of the fabric (R205, R215 to R217) -/

/-- Sources: the outputs that feed at least one SEND, in ascending node id and output index. -/
def fabricEdges (ns : List NodeRec) : List (Nat × Nat) :=
  let es := (ns.filter (fun n => n.type == .send)).flatMap (·.inputs)
  ns.flatMap (fun n => (List.range n.outputs).filterMap (fun o => if es.contains (n.id, o) then some (n.id, o) else none))

/-- Rate units in use (R205). -/
def fabricUnits (m : Image) : Nat :=
  ((fabricEdges m.nodes).map (fun e => ((m.nodes.find? (fun n => n.id == e.1)).map
    (fun n => unitsOf m.domains n.domain)).getD 0)).sum

/-- MAC/s of the SENDs (R215). -/
def fabricMacs (m : Image) : Nat :=
  ((m.nodes.filter (fun n => n.type == .send)).map
    (fun n => ((m.domains.find? (fun d => d.dom == n.domain)).map (fun d => rateHz d.rate)).getD 0)).sum

/-- FABRIC_LOAD.load: per-mille of 96 GMAC/s, rounded up. -/
def fabricLoadOf (m : Image) : Nat := ceilDiv (fabricMacs m * 1000) 96000000000

/-- The SENDs into a SUM with their source slots, which rise. -/
def Image.sumSlots (m : Image) (es : List (Nat × Nat)) (sum : Nat) : List (Nat × Nat) :=
  let mine := m.nodes.filter (fun n => n.type == .send && n.bodyRef == sum)
  es.zipIdx.filterMap fun e => (mine.find? (fun n => n.inputs.contains e.1)).map (fun n => (e.2, n.id))

/-- Consecutive slots form a run. -/
def slotRuns : List (Nat × Nat) → List (List (Nat × Nat))
  | [] => []
  | k :: t =>
    match slotRuns t with
    | (n :: r) :: rest => if n.1 = k.1 + 1 then (k :: n :: r) :: rest else [k] :: (n :: r) :: rest
    | rest => [k] :: rest

/-- The runs of an image's send tables, SUM by SUM in index order (assumption 213): SUM index, slots and their SENDs. -/
def Image.tableRuns (m : Image) : List (Nat × List (Nat × Nat)) :=
  let es := fabricEdges m.nodes
  (m.nodes.filter (fun n => n.type == .sum)).zipIdx.flatMap fun n => (slotRuns (m.sumSlots es n.1.id)).map fun r => (n.2, r)

/-- A run of 4 or more is dense, a shorter one is sparse entries (R215, R216). -/
def runBytes (n : Nat) : Nat := if 4 ≤ n then 16 + 8 * n else 16 * n

/-- Table space of an image in bytes. -/
def fabricTableBytes (m : Image) : Nat := (m.tableRuns.map (fun r => runBytes r.2.length)).sum

/-- Each SEND of the tables with the offset of its c_start (R216). -/
def tableEntries : Nat → List (Nat × List (Nat × Nat)) → List (Nat × Nat)
  | _, [] => []
  | o, r :: t =>
    r.2.zipIdx.map (fun x => (x.1.2, if 4 ≤ r.2.length then o + 16 + 8 * x.2 else o + 16 * x.2 + 4))
      ++ tableEntries (o + runBytes r.2.length) t

/-- The bytes of a run (R216): header and pairs of a dense one, the entries of a sparse one. -/
def State.runData (s : State) (r : Nat × List (Nat × Nat)) : List Byte :=
  if 4 ≤ r.2.length then
    leBytes 16 (Config.runHeader ((r.2.headD (0, 0)).1) r.2.length r.1).toNat ++ r.2.flatMap (fun x => s.coeffBytes x.2)
  else r.2.flatMap (fun x => leBytes 4 x.1 ++ s.coeffBytes x.2 ++ leBytes 4 0)

/-- The send tables of the loaded image, from offset 0. -/
def State.tableBytes (s : State) : List Byte := match s.img.loaded with
  | some m => m.tableRuns.flatMap s.runData
  | none => []

/-- A write of part of the tables that lies in fabric memory reaches the coefficients of the entries it covers; what it does to the
other bytes of the tables is not stated, and the model leaves them (assumption 213). -/
def writeTables (ofs : Nat) (bs : List (Option Byte)) (s : State) : State :=
  match s.img.loaded with
  | none => s
  | some m =>
    let entry (o : Nat) (x : SendSt) : SendSt :=
      let b (i : Nat) (c : Byte) : Byte :=
        if ofs ≤ o + i ∧ o + i < fabricSize then ((bs[o + i - ofs]?).getD none).getD c else c
      let put (i : Nat) (w : Word) : Word := BitVec.ofNat 32 (leNat ((leBytes 4 w.toNat).zipIdx.map (fun p => b (i + p.2) p.1)))
      { x with cStart := put 0 x.cStart, cEnd := put 4 x.cEnd }
    let hit := (tableEntries 0 m.tableRuns).filter (fun p => decide (p.2 < ofs + bs.length) && decide (ofs < p.2 + 8))
    s.onFabric fun f => { f with sends := f.sends.map fun p => match aget hit p.1 with
      | some o => (p.1, entry o p.2)
      | none => p }

/-- The fabric as a load completes: SUMs and LIMITs in ascending node id, effective coefficients at the initial values
(R212, R222, R224), table and source figures. -/
def setupFabric (s : State) : State :=
  match s.img.loaded with
  | none => s
  | some m =>
    let sends := m.nodes.filter (fun n => n.type == .send)
    let coeff (n : NodeRec) : Nat × SendSt :=
      let v := s.sendTarget n
      (n.id, { cStart := v, cEnd := v, target := v, trans := .steady })
    let bytes := fabricTableBytes m
    let spill := ceilDiv (bytes - fabricSize) 1024
    let s := s.onFabric fun f =>
      { f with sums := (m.nodes.filter (fun n => n.type == .sum)).map (fun n => SumSt.fresh n.id),
               limits := (m.nodes.filter (fun n => n.type == .limit)).map (fun n => LimitSt.fresh n.id),
               sends := sends.map coeff, units := fabricUnits m, load := fabricLoadOf m, spillKib := spill,
               onchipKib := ceilDiv (min bytes fabricSize) 1024,
               spilled := if spill = 0 then [] else (tableEntries 0 m.tableRuns).filter (fun p => decide (fabricSize < p.2 + 8)) }
    let s := if spill = 0 then s else putTable fabricSize (s.tableBytes.drop fabricSize) s
    raiseIf (0 < spill) 0x7004 [v16 spill] s

end Sys2Proof.Machine
end

