-- ==== Sys2Proof/Machine/Records.lean ====
section
/-! DEFINITION. The black box (R522 to R529), non-volatile writes (R520, R521), the host's event queue and its vectors
(R553, R554, R573, R574, R600). -/

namespace Sys2Proof.Machine

/-! ## Record bytes (R523, R524) -/

/-- The 64 bytes of a record; rec_flags bit 1 is given by `queued`, bit 2 by `post`. -/
def recBytes (seq : Nat) (queued post valid : Bool) (e : EventRec) : List Byte :=
  let data := e.data.take 32
  let fl := b2n e.locked + 2 * b2n queued + 4 * b2n post
  let body := leBytes 4 seq ++ leBytes 2 e.code.toNat ++ [e.tb, BitVec.ofNat 8 fl] ++ leBytes 4 e.startCount.toNat
    ++ leBytes 4 e.uptimeMs.toNat ++ leBytes 4 e.ns.toNat ++ leBytes 6 e.sec.toNat
    ++ [BitVec.ofNat 8 data.length, 0] ++ data ++ zeroBytes (32 - data.length)
  leBytes 4 (if valid then crc32 body else 0) ++ body

def BbRec.bytes (r : BbRec) : List Byte := recBytes r.seq.toNat r.queued r.postLoss r.valid r.ev

/-- A slot of the black-box window (R529). -/
def State.bbSlot (s : State) (slot : Nat) : List Byte :=
  match aget s.ao.bbSlots slot with
  | some r => r.bytes
  | none => zeroBytes 64

/-! ## Black box (R525 to R529) -/

/-- Sequences run modulo 699,050 × 6,144 (R525). -/
def bbModulo : Nat := 4294963200

def bbSlotCount : Nat := 6144

/-- The slot of the next sequence takes a record, valid or torn, in place of the one 6,144 before it. -/
def Ao.bbPut (a : Ao) (e : EventRec) (queued valid : Bool) : Ao :=
  let q := a.bbHead
  let r : BbRec := { seq := BitVec.ofNat 32 q, ev := e, queued := queued, postLoss := a.bbPostLoss, valid := valid }
  let none' := a.bbSlots.all (fun p => !p.2.valid)
  let span := (q + bbModulo - a.bbOldest) % bbModulo
  let old := if none' then q
    else if bbSlotCount ≤ span then (q + bbModulo - (bbSlotCount - 1)) % bbModulo else a.bbOldest
  { a with bbSlots := aset a.bbSlots (q % bbSlotCount) r, bbOldest := old }

/-- Append one record at the next sequence. -/
def bbWrite (e : EventRec) (queued : Bool) (s : State) : State :=
  s.onAo fun a => { a.bbPut e queued true with bbHead := (a.bbHead + 1) % bbModulo, bbPostLoss := false }

/-- Codes that are never suppressed: classes 0xA to 0xD, and ENGINE_OUT (R528). -/
def neverSuppressed (code : BitVec 16) : Bool :=
  let c := code.toNat / 4096
  inRange c || code == 0x9001
where
  inRange (c : Nat) : Bool := 0xA ≤ c && c ≤ 0xD

/-- A code's rate window ends: BB_SUPPRESSED carries the code and the count (R528). -/
def bbCloseWin (code : BitVec 16) (s : State) : State :=
  match s.ao.bbWins.find? (fun w => w.code == code) with
  | none => s
  | some w =>
    let s := s.onAo fun a => { a with bbWins := a.bbWins.filter (fun x => x.code != code) }
    raiseIf (0 < w.suppressed) 0xD008 [v16 code.toNat, v16 (min 65535 w.suppressed)] s

/-- Append an event's record, or count it within its code's second (R528). -/
def bbAppendEvent (e : EventRec) (queued : Bool) (s : State) : State :=
  if neverSuppressed e.code then bbWrite e queued s
  else
    let expired := match s.ao.bbWins.find? (fun w => w.code == e.code) with
      | some w => decide (w.start + Config.tick ≤ s.now)
      | none => false
    let s := if expired then bbCloseWin e.code s else s
    match s.ao.bbWins.find? (fun w => w.code == e.code) with
    | none =>
      let win : SuppressWin := { code := e.code, start := s.now, appended := 1, suppressed := 0 }
      (bbWrite e queued s).onAo fun a => { a with bbWins := win :: a.bbWins }
    | some w =>
      if w.appended < 16 then
        (bbWrite e queued s).onAo fun a =>
          { a with bbWins := mapIf (fun x => x.code == e.code) (fun x => { x with appended := x.appended + 1 }) a.bbWins }
      else
        s.onAo fun a =>
          { a with
            bbWins := mapIf (fun x => x.code == e.code) (fun x => { x with suppressed := x.suppressed + 1 }) a.bbWins
            bbSuppressed := satInc16 a.bbSuppressed }

/-- Once the queue has room again, the lost events are recorded (R527). -/
def bbReportLost (s : State) : State :=
  if 0 < s.ao.bbLostRun then
    raise 0xD009 [v16 (min 65535 s.ao.bbLostRun)] (s.onAo fun a => { a with bbLostRun := 0 })
  else s

/-- The record at the front of the queue is appended; while braced, records only queue (R492, R527). -/
def bbAppendFront (s : State) : State :=
  match s.ao.bbQueue with
  | [] => s
  | (e, queued) :: rest =>
    if s.power.braced && !(s.power.nvLifted && decide (0 < s.power.nvAllowed)) then s
    else
      let s := if s.power.braced then s.onPower fun p => { p with nvAllowed := p.nvAllowed - 1 } else s
      bbAppendEvent e queued (bbReportLost (s.onAo fun a => { a with bbQueue := rest }))

/-- BB_APPEND (R525). -/
def execBbAppend (s : State) : Host.Outcome State Fault Refusal := .next (bbAppendFront s)

/-- BB_SUPPRESS_WINDOW_END (R528). -/
def execBbSuppressWindowEnd (code : BitVec 16) (s : State) : Host.Outcome State Fault Refusal :=
  .next (bbCloseWin code s)

/-- The life-cycle state as the configuration holds it. -/
def State.lcState (s : State) : LcState := s.cfg.lcState

/-- The states in which the black box may be cleared (R529). -/
def LcState.mayClear : LcState → Bool
  | .develop => true
  | .ret => true
  | .blank => false
  | .production => false
  | .ended => false

/-- A keyed clear: every slot's commit becomes 0 and the first record after it is BB_CLEARED (R529). -/
def bbClear (s : State) : State :=
  if s.lcState.mayClear then
    let s := s.onAo fun a =>
      { a with bbSlots := a.bbSlots.map (fun p => (p.1, { p.2 with valid := false })), bbOldest := a.bbHead }
    let e := mkEvent s 0xD007 []
    hostOffer e (if s.power.braced then s.onAo fun a => { a with bbQueue := (e, true) :: a.bbQueue } else bbWrite e false s)
  else raise 0xD002 [v8 0xFF, v8 4] s

/-- BB_CLEAR (R529): without the key the write has no effect. -/
def execBbClear (key : BitVec 16) (s : State) : Host.Outcome State Fault Refusal :=
  .next (if key = 0xA5A5 then bbClear s else s)

/-! ## Non-volatile writes (R520, R521) -/

/-- A configuration write: the primary copy with its count increased, then the redundant copy (R521). -/
def cfgWrite (i : CfgItem) (s : State) : State :=
  s.onAo fun a =>
    let n := a.cfgA.writeCount + 1
    let f (c : CfgCopy) : CfgCopy := { c.apply i with writeCount := n, valid := true }
    { a with cfgA := f a.cfgA, cfgB := f a.cfgB }

/-- Write a history record at the next index of its ring (R536). -/
def histWrite (r : HistRec) (s : State) : State :=
  s.onAo fun a => { a with history := aset a.history a.histNext r, histNext := (a.histNext + 1) % 6144 }

/-- The effect of a completed write; an image key that a transition erases is reported (R544). -/
def nvApply (w : NvWrite) (s : State) : State :=
  match w with
  | .cfg (.imageKey none) => raise 0xD006 [v8 0] (cfgWrite (.imageKey none) s)
  | .cfg i => cfgWrite i s
  | .ledger k r => s.onAo fun a => { a with ledger := upd a.ledger k (fun _ => r) }
  | .history r => histWrite r s
  | .black r => s.onAo fun a => { a with bbSlots := aset a.bbSlots (r.seq.toNat % bbSlotCount) r }
  | .tamperErase => raise 0xD006 [v8 1] (cfgWrite (.imageKey none) s)

/-- The write in progress completes and the next begins. -/
def nvDone (s : State) : State :=
  match s.ao.nvBusy with
  | none => nvBegin s
  | some w => nvBegin (nvApply w (s.onAo fun a => { a with nvBusy := none }))

/-! ## The start ledger (R515, R516) -/

/-- A step word of R516. -/
def stepWord (elapsed detail form outcome : Nat) : Word :=
  let low := outcome % 4 + 4 * (form % 4) + 16 * (detail % 4096)
  BitVec.ofNat 32 (low + 65536 * min 255 elapsed + 16777216 * (255 - low % 256))

/-- The outcome of a step word: one that fails its check reads as begun. -/
def wordOutcome (w : Word) : Nat := if fld w 31 24 = 255 - fld w 7 0 then fld w 1 0 else 1

def wordForm (w : Word) : Nat := fld w 3 2

def wordDetail (w : Word) : Nat := fld w 15 4

/-- A start record as the writes that wait leave it. -/
def State.ledgerAt (s : State) (k : Fin 16) : StartRec :=
  let pick (o : Option StartRec) (w : NvWrite) : Option StartRec := match w with
    | .ledger j r => if j = k then some r else o
    | _ => o
  ((s.ao.nvBusy.toList ++ s.ao.nvQueue).foldl pick none).getD (s.ao.ledger.get k)

/-- Write the record of the current start. -/
def writeStart (f : StartRec → StartRec) (s : State) : State := nvAsk (.ledger s.ao.newest (f (s.ledgerAt s.ao.newest))) s

/-- Write one step word of the current start. -/
def writeStep (k : Nat) (w : Word) (s : State) : State := writeStart (fun r => { r with steps := putN r.steps k w }) s

/-! ## MSI-X (R553, R554) -/

/-- Ticks of 10 µs. -/
def tenUs : Nat := 7056

/-- A vector sends its message. -/
def msixSend (v : Nat) (s : State) : State :=
  s.onEvt fun x => { x with
    msixLast := putN x.msixLast v (some s.now), msixSent := (v, s.now) :: x.msixSent, msixPend := putBit x.msixPend v false }

/-- An occasion for a vector: a message at once, or its pending bit (R554). -/
def msixSignal (v : Nat) (s : State) : State :=
  if s.evt.msixMask.getLsbD v || !due (getN s.evt.msixLast v none) tenUs s.now then
    s.onEvt fun x => { x with msixPend := putBit x.msixPend v true }
  else msixSend v s

/-- A message that waited for its vector to be unmasked is sent unless its spacing has still to end. -/
def msixRetry (v : Nat) (s : State) : State := if s.evt.msixPend.getLsbD v then msixSignal v s else s

/-- MSIX_PENDING_SEND (R554): the 10 µs have ended, and a pending message of a vector that is not masked is sent. -/
def execMsixPendingSend (v : Fin 64) (s : State) : Host.Outcome State Fault Refusal :=
  .next (if s.evt.msixPend.getLsbD v.val && !s.evt.msixMask.getLsbD v.val then msixSend v.val s else s)

/-! ## The event queue (R573, R574, R600) -/

/-- Bytes free in a ring of the event controller (R251, R573). -/
def ringFree (log2 wr rd : Nat) : Nat := 2 ^ log2 - 64 - (wr + 2 ^ log2 - rd % 2 ^ log2) % 2 ^ log2

def Evt.qFree (v : Evt) : Nat := ringFree v.qLog2 v.qWr.toNat v.qRd.toNat

/-- Write one entry by DMA and advance EVT_Q_WR. -/
def qWrite (seq : Word) (post : Bool) (e : EventRec) (s : State) : State :=
  let v := s.evt
  let m := s.hostMem.store (v.qBase.toNat + v.qWr.toNat) (recBytes seq.toNat false post true e)
  { s with hostMem := m }.onEvt fun x => { x with qWr := BitVec.ofNat 32 ((x.qWr.toNat + 64) % 2 ^ x.qLog2) }

/-- An entry can be written or held now. -/
def Evt.qRoom (v : Evt) : Bool :=
  if v.qEnable then v.held.isEmpty && 64 ≤ v.qFree else v.held.length < 256

/-- Offer one entry: written, held in order, or dropped and counted. -/
def qOffer (e : EventRec) (s : State) : State :=
  let v := s.evt
  let s := s.onEvt fun x => { x with qSeq := x.qSeq + 1 }
  if v.qRoom then
    let s := s.onEvt fun x => { x with qPost := false }
    if v.qEnable then qWrite v.qSeq v.qPost e s
    else s.onEvt fun x => { x with held := x.held ++ [(v.qSeq, v.qPost, e)] }
  else s.onEvt fun x => { x with qDrops := satInc32 x.qDrops, qRun := x.qRun + 1, qPost := true }

/-- Held entries are written in order while there is room; at most 256 wait. -/
def qFlush : Nat → State → State
  | 0, s => s
  | k + 1, s =>
    match s.evt.held with
    | [] => s
    | h :: t =>
      if s.evt.qEnable && decide (64 ≤ s.evt.qFree) then
        qFlush k (qWrite h.1 h.2.1 h.2.2 (s.onEvt fun x => { x with held := t }))
      else s

/-- The routing of a code: whether it is queued, and its vector (R574). -/
def Evt.routing (v : Evt) (code : BitVec 16) : Bool × Nat :=
  match v.ovr.toList.find? (fun w => flag w 31 && fld w 15 0 == code.toNat) with
  | some w => (!flag w 24, fld w 23 16)
  | none => (true, (getN v.classVec (code.toNat / 4096) 0xFF).toNat)

/-- Queue an event where its routing says so, and signal its vector. -/
def qRouted (e : EventRec) (s : State) : State :=
  let r := s.evt.routing e.code
  let s := if r.1 then qOffer e s else s
  if r.2 < 64 then msixSignal r.2 s else s

/-- A run of drops ends as soon as there is room: EVENT_QUEUE_OVERFLOW is raised with its count, before any other
entry (R573). -/
def qSettle (s : State) : State :=
  let s := qFlush 256 s
  if 0 < s.evt.qRun ∧ s.evt.qRoom then
    let e := mkEvent s 0xE007 [v32 s.evt.qRun]
    qRouted e (bbOffer e (s.onEvt fun x => { x with qRun := 0 }))
  else s

/-- The event offered longest ago is routed. -/
def deliverEvent (s : State) : State :=
  match s.evt.offered with
  | [] => s
  | e :: rest => qRouted e (qSettle (s.onEvt fun x => { x with offered := rest }))

/-- EVENT_DELIVERY (R573). -/
def execEventDelivery (s : State) : Host.Outcome State Fault Refusal := .next (deliverEvent s)

/-- A write of EVT_Q_CTL.reset acts only while the queue is disabled (R600). -/
def qReset (s : State) : State :=
  if s.evt.qEnable then s else s.onEvt fun x => { x with qWr := 0, qRd := 0, qSeq := 0 }

/-- EVT_Q_RESET (R600). -/
def execEvtQReset (s : State) : Host.Outcome State Fault Refusal := .next (qReset s)

def qSetEnable (b : Bool) (s : State) : State := qSettle (s.onEvt fun x => { x with qEnable := b })

/-- EVT_Q_ENABLE (R600). -/
def execEvtQEnable (enable : Bool) (s : State) : Host.Outcome State Fault Refusal := .next (qSetEnable enable s)

/-- A write of EVT_Q_CTL: fields that act only while disabled take effect around the change of enable (R600). -/
def qCtlWrite (w : Word) (s : State) : State :=
  let before := s.evt.qEnable
  let after := flag w 0
  let apply (s : State) : State :=
    let s := s.onEvt fun x => { x with qLog2 := clampNat 12 22 (fld w 12 8) }
    if flag w 1 then s.onEvt fun x => { x with qWr := 0, qRd := 0, qSeq := 0 } else s
  if before && after then s
  else qSettle (apply (s.onEvt fun x => { x with qEnable := false }) |>.onEvt fun x => { x with qEnable := after })

end Sys2Proof.Machine
end

