-- ==== Sys2Proof/Machine/Scenes.lean ====
section
/-! DEFINITION. Maquettes and casts (chapter 08): slot operations, requesting and cancelling a cast, the cast messages of a
group, and what a boundary does to pending casts. -/

namespace Sys2Proof.Machine

/-! ## Status codes (R556) -/

def stOk : Byte := 0
def stBusy : Byte := 1
def stBadOpcode : Byte := 2
def stBadArg : Byte := 3
def stNotPermitted : Byte := 4
def stTimeout : Byte := 5
def stDeferred : Byte := 6

/-! ## Slots (R263 to R267) -/

def State.slotSt (s : State) (k : Fin 4) : MqSlot := s.scene.slots.get k

def setSlot (k : Fin 4) (st : SlotState) (m : Option Maquette) (s : State) : State :=
  s.onScene fun c => { c with slots := upd c.slots k (fun _ => { state := st, mq := m }) }

/-- SCENE_MQ_STATUS: 1 running, 2 done, 3 failed. -/
def mqStatus (result : Fin 10) (state : Fin 4) (k : Fin 4) (entry : Nat) (s : State) : State :=
  s.onScene fun c => { c with stResult := result, stState := state, stSlot := k, stEntry := BitVec.ofNat 18 entry }

/-- The pending casts: announced or accepted, and not yet in effect. -/
def CastSt.waits (c : CastSt) : Bool := c.applyOn.isEmpty

def State.castsWaiting (s : State) : List CastSt := s.scene.casts.filter CastSt.waits

/-- The pending casts, at most eight, for which the chip has room (R269). -/
def State.castsHeld (s : State) : List CastSt := (s.castsWaiting.filter (·.known)).take 8

/-- A slot operation is refused: the status, or none where it may start (R265, R289). -/
def State.slotRefusal (s : State) (k : Fin 4) : Option Byte :=
  if s.img.loaded.isNone then some stNotPermitted
  else if s.scene.op.isSome || s.castsWaiting.any (fun c => c.slot == k) then some stBusy
  else none

/-- A maquette enters its slot. -/
def slotValid (k : Fin 4) (m : Maquette) (s : State) : State :=
  raise 0x8007 [v8 k.val, v32 m.id.toNat] (mqStatus 0 2 k 0 (setSlot k .valid (some { m with slot := k }) s))

/-- A load or capture ends with a code of R263: the slot is EMPTY. -/
def slotReject (k : Fin 4) (result entry : Nat) (s : State) : State :=
  raise 0x8008 [v8 k.val, v8 result, v32 entry] (mqStatus (fin 10 result) 3 k entry (setSlot k .empty none s))

/-- Start a load from a host buffer; a length that the command gives bounds the buffer. -/
def slotLoad (k : Fin 4) (addr : BitVec 64) (len : Option Nat) (s : State) : Byte × State :=
  match s.slotRefusal k with
  | some st => (st, s)
  | none =>
    let op : SlotOp := { slot := k, capture := false, addr := addr, mqId := 0, first := 0, last := 0, len := len, taken := none }
    (stOk, mqStatus 0 1 k 0 (setSlot k .loading none (s.onScene fun c => { c with op := some op })))

/-- Declared parameters within a paddr range. -/
def State.paramsIn (s : State) (first last : PAddr) : List ParamSt :=
  s.scene.params.filter (fun q => first.toNat ≤ q.decl.paddr.toNat && q.decl.paddr.toNat ≤ last.toNat)

/-- Start a capture (R266): the status and the entry count. -/
def slotCapture (k : Fin 4) (id : Word) (first last : PAddr) (s : State) : Byte × Nat × State :=
  match s.slotRefusal k with
  | some st => (st, 0, s)
  | none =>
    let n := (s.paramsIn first last).length
    if id = 0 then (stBadArg, 0, s)
    else if n = 0 then (stBadArg, 0, mqStatus 0 3 k 0 (setSlot k .empty none s))
    else if 262144 < n then (stBadArg, 0, slotReject k 9 262144 s)
    else
      let op : SlotOp := { slot := k, capture := true, addr := 0, mqId := id, first := first, last := last, len := none, taken := none }
      (stOk, n, mqStatus 0 1 k 0 (s.onScene fun c => { c with op := some op }))

/-- A clear is done at once. -/
def slotClear (k : Fin 4) (s : State) : Byte × State :=
  match s.slotRefusal k with
  | some st => (st, s)
  | none => (stOk, mqStatus 0 2 k 0 (setSlot k .empty none s))

/-- A start of SCENE_MQ_CTL leaves its op and slot in the register. -/
def mqCtl (op : BitVec 2) (k : Fin 4) (s : State) : State := s.onScene fun c => { c with ctlOp := op, ctlSlot := k }

/-- SCENE_MQ_LOAD (R263). -/
def execSceneMqLoad (slot : Fin 4) (s : State) : Host.Outcome State Fault Refusal :=
  .next (slotLoad slot s.scene.addr none (mqCtl 0 slot s)).2

/-- SCENE_MQ_CAPTURE (R266). -/
def execSceneMqCapture (slot : Fin 4) (s : State) : Host.Outcome State Fault Refusal :=
  .next (slotCapture slot s.scene.arg s.scene.capFirst s.scene.capLast (mqCtl 1 slot s)).2.2

/-- SCENE_MQ_CLEAR (R265). -/
def execSceneMqClear (slot : Fin 4) (s : State) : Host.Outcome State Fault Refusal :=
  .next (slotClear slot (mqCtl 2 slot s)).2

/-- What a maquette is checked against: the loaded image. -/
def Image.mqEnv (m : Image) : MqEnv :=
  { build := m.buildId, nodes := m.nodes, params := m.params.map (·.paddr), lists := m.muxLists }

/-- Read and check a maquette in host memory (R263): its bytes, or the code and entry index. -/
def readHostMaquette (env : MqEnv) (mem : Mem) (op : SlotOp) : Except (Nat × Nat) (List Byte) :=
  match mem.readAll op.addr.toNat 64 with
  | none => .error (1, 0)
  | some hdr =>
    let total := leAt hdr 28 4
    let short := match op.len with
      | some n => decide (n < total)
      | none => false
    match maquetteFault env false hdr with
    | some (2, _) => .error (2, 0)
    | _ =>
      if short then .error (2, 0)
      else match mem.readAll op.addr.toNat total with
        | none => .error (1, 0)
        | some bs => match maquetteFault env false bs with
          | some (c, i) => .error (c, i.getD 0)
          | none => .ok bs

/-- A slot operation finishes. A capture waits for its boundary. -/
def slotDone (s : State) : State :=
  match s.scene.op, s.img.loaded with
  | some op, some m =>
    let s' := s.onScene fun c => { c with op := none }
    if op.capture then
      match op.taken with
      | none => s
      | some es =>
        slotValid op.slot { slot := op.slot, id := op.mqId, buildId := m.buildId, label := zeroBytes 32, entries := es } s'
    else
      match readHostMaquette m.mqEnv s.hostMem op with
      | .error (c, i) => slotReject op.slot c i s'
      | .ok bs => slotValid op.slot (readMaquette bs) s'
  | _, _ => s

/-- SLOT_OPERATION_DONE (R263). -/
def execSlotOperationDone (s : State) : Host.Outcome State Fault Refusal := .next (slotDone s)

/-- The targets of a capture, taken after step 5 of the first boundary after it was accepted (R266). -/
def takeCapture (s : State) : State :=
  match s.scene.op with
  | some op =>
    if op.capture ∧ op.taken.isNone then
      let es := (s.paramsIn op.first op.last).map
        (fun q => ({ paddr := q.decl.paddr, value := q.target, ov := none } : MqEntry))
      s.onScene fun c => { c with op := some { op with taken := some es } }
    else s
  | none => s

/-! ## Requesting and cancelling (R268 to R275) -/

/-- The entries of a slot that holds the named maquette. -/
def State.slotEntries (s : State) (k : Fin 4) (id : Word) : Option (List MqEntry) :=
  let x := s.slotSt k
  match x.state, x.mq with
  | .valid, some m => if m.id = id then some m.entries else none
  | _, _ => none

def State.castCount (s : State) : Nat := s.castsHeld.length

/-- Entries that a pending cast brings. -/
def State.castSize (s : State) (c : CastSt) : Nat :=
  if c.entries.isEmpty then ((s.slotEntries c.slot c.mqId).getD []).length else c.entries.length

/-- The first boundary of a timebase whose staging has not closed. -/
def State.openBoundary (s : State) (t : Fin 4) : BitVec 48 := (s.tb t).blk + (if (s.tb t).open_ then 1 else 2)

/-- The boundary at which a pending cast is due: a single-chip NEXT cast is taken to be due at the first boundary whose staging is
open. -/
def State.castBlock (s : State) (c : CastSt) : BitVec 48 := if c.isNext && !c.go then s.openBoundary c.tb else c.block

/-- Entries of the pending casts due at one boundary. -/
def State.entriesDue (s : State) (tb : Fin 4) (block : BitVec 48) : Nat :=
  ((s.castsHeld.filter (fun c => c.tb == tb && s.castBlock c == block)).map s.castSize).sum

def maxDue : Nat := 1048576

/-- Why a request is refused (R268, R269), with `n` entries due at block `b`. -/
def State.castRefusal (s : State) (k tb : Fin 4) (mq : Word) (next : Bool) (block : BitVec 48) : Option Byte :=
  let c := (s.tb tb).blk.toNat
  let lead := if s.alone then 3 else 4
  if s.power.state.val < 3 then some stNotPermitted
  else if (s.slotEntries k mq).isNone || (s.domOfTb tb).isNone || (!next && decide (block.toNat < c + lead)) then some stBadArg
  else
    let b := if next then (if s.alone then s.openBoundary tb else (s.tb tb).blk + 4) else block
    if 8 ≤ s.castCount || maxDue < s.entriesDue tb b + ((s.slotEntries k mq).getD []).length then some stBusy
    else none

/-- Remember a cast message as seen; the 256 latest are kept. -/
def noteCast (m : CastMsg) (s : State) : State :=
  s.onScene fun c => { c with seen := ((m.position, m.castId, m.kind, m.block) :: c.seen).take 256 }

/-- Send a cast message to the group (R284, R445). -/
def castSend (kind : CastKind) (c : CastSt) (reason : Byte) (s : State) : State :=
  let m : CastMsg :=
    { kind := kind, position := BitVec.ofNat 4 s.position, castId := c.castId, slot := c.slot, timebase := c.tb,
      reason := reason, deferrals := BitVec.ofNat 8 c.deferrals, block := c.block, mqId := c.mqId }
  noteCast m (lanesSend s.groupLanes (.cast m) s)

/-- SCENE_LAST (R270): outcomes 1 applied, 2 aborted, 3 cancelled, 4 lost, 5 applied after hold. -/
def castLast (c : CastSt) (outcome : Fin 6) (block : BitVec 48) (s : State) : State :=
  s.onScene fun x => { x with lastId := c.castId, lastOutcome := outcome, lastDefer := fin 4 c.deferrals, lastBlk := block }

def dropCast (id : BitVec 16) (s : State) : State :=
  s.onScene fun x => { x with casts := x.casts.filter (fun c => c.castId != id) }

def onCast (id : BitVec 16) (f : CastSt → CastSt) (s : State) : State :=
  s.onScene fun x => { x with casts := mapIf (fun c => c.castId == id) f x.casts }

/-- Request a cast: the status, the cast id, and the state after. A NEXT cast of a single-chip group starts its transfer at
once; of any other group it is a BLOCK cast at c + 4. -/
def castRequest (k tb : Fin 4) (mq : Word) (next : Bool) (block : BitVec 48) (s : State) : Byte × BitVec 16 × State :=
  match s.castRefusal k tb mq next block with
  | some st => (st, 0, s)
  | none =>
    let id := BitVec.ofNat 16 (s.position % 16 * 4096 + s.scene.seq.toNat)
    let single := s.alone
    let c : CastSt :=
      { castId := id, slot := k, mqId := mq, tb := tb, block := if next then (s.tb tb).blk + 4 else block,
        isNext := next && single, caster := true, deferrals := 0, transfer := if next && single then 1 else 0, ready := [],
        notReady := none, go := false, held := false, applyOn := [], asked := false, known := true,
        entries := if next && single then (s.slotEntries k mq).getD [] else [] }
    let s := s.onScene fun x => { x with seq := x.seq + 1, casts := x.casts ++ [c] }
    (stOk, id, if single then s else castSend .announce c 0 s)

/-- A request with its answer in SCENE_CAST_RESULT, which answers the last request. -/
def castAsk (k tb : Fin 4) (mq : Word) (next : Bool) (block : BitVec 48) (s : State) : Byte × BitVec 16 × State :=
  let r := castRequest k tb mq next block s
  (r.1, r.2.1, r.2.2.onScene fun x => { x with resId := r.2.1, resStatus := r.1 })

/-- A start of SCENE_CAST_CTL with the registers as they stand. -/
def castRegisters (s : State) : State :=
  let c := s.scene
  (castAsk c.castSlot c.castTb c.castMq c.castNext c.castBlk s).2.2

/-- SCENE_CAST_REQUEST (R268). -/
def execSceneCastRequest (s : State) : Host.Outcome State Fault Refusal := .next (castRegisters s)

/-- A cast can no longer be cancelled here (R275): staging for its boundary has closed, or its decision is sent. -/
def State.castSettled (s : State) (c : CastSt) : Bool :=
  let t := s.tb c.tb
  if s.alone then c.go || c.held || (!t.open_ && !c.isNext && decide (c.block.toNat ≤ t.blk.toNat + 1))
  else c.go || !c.caster

/-- Cancel a pending cast by id: the status and the state after. -/
def castCancel (id : BitVec 16) (s : State) : Byte × State :=
  match s.castsWaiting.find? (fun c => c.castId == id) with
  | none => (stNotPermitted, s)
  | some c =>
    if s.castSettled c then (stNotPermitted, s)
    else
      let s' := if s.alone then s else castSend .abort c 1 s
      (stOk, raise 0x8009 [v16 id.toNat] (castLast c 3 c.block (dropCast id s')))

/-- SCENE_CANCEL_WRITE (R275). -/
def execSceneCancelWrite (castId : BitVec 16) (s : State) : Host.Outcome State Fault Refusal :=
  .next (castCancel castId s).2

/-- CAST_TRANSFER_DONE (R273). -/
def execCastTransferDone (castId : BitVec 16) (s : State) : Host.Outcome State Fault Refusal :=
  .next (onCast castId (fun c => if c.transfer = 1 then { c with transfer := 2 } else c) s)

/-! ## The cast messages (R284 to R288) -/

/-- The first chip of the group that is not ready, with its reason. -/
def State.firstNotReady (s : State) (c : CastSt) : BitVec 4 × Byte × State :=
  match c.notReady with
  | some r => (r.1, r.2, s)
  | none =>
    let p := (s.group.find? (fun p => !c.ready.contains (BitVec.ofNat 4 p))).getD 0
    let k := s.fresh
    (BitVec.ofNat 4 p, Config.castNoAnswer k.1, k.2)

/-- A deferral: the shadow is discarded and the procedure repeats 16 blocks later. -/
def castDeferred (c : CastSt) (block : BitVec 48) (deferrals : Nat) (s : State) : State :=
  let r := s.firstNotReady c
  let s := onCast c.castId (fun x =>
    { x with block := block, deferrals := deferrals, ready := [], notReady := none, transfer := 0, entries := [], asked := false,
             go := false }) r.2.2
  raise 0x8002 [v16 c.castId.toNat, v64 block.toNat, v8 r.1.toNat, v8 r.2.1.toNat] s

/-- An abort: the cast ends with its reason. -/
def castAborted (c : CastSt) (reason : Byte) (s : State) : State :=
  raise 0x8003 [v16 c.castId.toNat, v8 reason.toNat] (castLast c 2 c.block (dropCast c.castId s))

/-- A cast of another chip as a message gives it. -/
def castOf (m : CastMsg) (known asked : Bool) : CastSt :=
  { castId := m.castId, slot := m.slot, mqId := m.mqId, tb := m.timebase, block := m.block, isNext := false, caster := false,
    deferrals := 0, transfer := 0, ready := [], notReady := none, go := false, held := false, applyOn := [], entries := [],
    asked := asked, known := known }

/-- An announced cast becomes pending; one whose boundary b − 2 has passed comes too late to be answered. -/
def castAnnounced (m : CastMsg) (s : State) : State :=
  if s.scene.casts.any (fun c => c.castId == m.castId && c.waits) then s
  else
    let late := decide (m.block.toNat ≤ (s.tb m.timebase).blk.toNat + 2)
    s.onScene fun x => { x with casts := x.casts ++ [castOf m true late] }

/-- A chip that lacks the announcement of a cast learns of it from a deferral (R285, R286): it answers NOT_READY from then on. -/
def castLearned (m : CastMsg) (s : State) : State :=
  castDeferred (castOf m false false) m.block m.deferrals.toNat
    (s.onScene fun x => { x with casts := x.casts ++ [castOf m false false] })

/-- The caster hears that a chip has lost its cast (R287). -/
def castReported (m : CastMsg) (s : State) : State :=
  raiseIf (fld (m.castId.setWidth 32) 15 12 == s.position) 0x8004 [v16 m.castId.toNat, v8 m.position.toNat] s

/-- A cast message acts on the cast that it names. -/
def castMessage (m : CastMsg) (s : State) : State :=
  match m.kind with
  | .announce => castAnnounced m s
  | .lost => castReported m s
  | k =>
    match s.castsWaiting.find? (fun c => c.castId == m.castId) with
    | none =>
      match k with
      | .defer => castLearned m s
      | .abort => castAborted (castOf m false false) m.reason s
      | _ => s
    | some c =>
      match k with
      | .announce => s
      | .lost => s
      | .ready => onCast c.castId (fun x => { x with ready := m.position :: x.ready }) s
      | .notReady => onCast c.castId (fun x => { x with notReady := some (x.notReady.getD (m.position, m.reason)) }) s
      | .go => onCast c.castId (fun x => { x with go := true }) s
      | .defer => castDeferred c m.block m.deferrals.toNat s
      | .abort => castAborted c m.reason s

def State.castSeen (s : State) (m : CastMsg) : Bool := s.scene.seen.contains (m.position, m.castId, m.kind, m.block)

/-- A message that has not been seen acts once. -/
def receiveCast (m : CastMsg) (s : State) : State := if s.castSeen m then s else castMessage m (noteCast m s)

/-- CAST_ANNOUNCE (R284). -/
def execCastAnnounce (m : CastMsg) (s : State) : Host.Outcome State Fault Refusal :=
  .next (receiveCast { m with kind := .announce } s)

/-- CAST_READY (R286). -/
def execCastReady (m : CastMsg) (s : State) : Host.Outcome State Fault Refusal := .next (receiveCast { m with kind := .ready } s)

/-- CAST_NOT_READY (R286). -/
def execCastNotReady (m : CastMsg) (s : State) : Host.Outcome State Fault Refusal :=
  .next (receiveCast { m with kind := .notReady } s)

/-- CAST_GO (R288). -/
def execCastGo (m : CastMsg) (s : State) : Host.Outcome State Fault Refusal := .next (receiveCast { m with kind := .go } s)

/-- CAST_DEFER (R286). -/
def execCastDefer (m : CastMsg) (s : State) : Host.Outcome State Fault Refusal := .next (receiveCast { m with kind := .defer } s)

/-- CAST_ABORT (R286). -/
def execCastAbort (m : CastMsg) (s : State) : Host.Outcome State Fault Refusal := .next (receiveCast { m with kind := .abort } s)

/-- A CAST frame that has not been seen is passed on once to every other lane of the group, and acts (R445). -/
def castFrame (l : Fin 4) (m : CastMsg) (s : State) : State :=
  if (s.lane l).isUp then
    let s := laneRx l s
    if s.castSeen m then s
    else receiveCast m (lanesSend (s.groupLanes.filter (· != l)) (.cast m) s)
  else s

/-- CAST (R445). -/
def execCast (l : Fin 4) (m : CastMsg) (s : State) : Host.Outcome State Fault Refusal := .next (castFrame l m s)

/-! ## What boundaries do (R271 to R288) -/

/-- A chip that has no decision for a cast when staging closes applies nothing and tells the caster (R287). -/
def castLost (c : CastSt) (s : State) : State :=
  let s := raise 0x8004 [v16 c.castId.toNat, v8 s.position] (castLast c 4 c.block (dropCast c.castId s))
  if c.caster then s else castSend .lost c 0 s

/-- When staging closes, a NEXT cast whose transfer is complete is due at the boundary (R271); a cast of a group whose
decision has not come is lost (R287). -/
def castsAtClose (t : Fin 4) (s : State) : State :=
  let next := BitVec.ofNat 48 ((s.tb t).blk.toNat + 1)
  each s.scene.casts (fun c s =>
    if c.tb = t ∧ c.waits = true then
      if s.alone then
        if c.isNext ∧ c.transfer = 2 then onCast c.castId (fun x => { x with go := true, block := next }) s else s
      else if c.go = false ∧ c.block.toNat ≤ next.toNat then
        castLost c s
      else s
    else s) s

/-- A number scheduled on a timebase has come when the counter holds m: one that a forward reload passes over comes at the
first boundary after the reload boundary (R23, R314). -/
def State.reached (s : State) (t : Fin 4) (b m : Nat) : Bool :=
  if (s.tb t).jumped.isSome then b == m else decide (b ≤ m)

/-- The cast is due at boundary m of its timebase; one that a brace has held is due at every boundary after (R282). -/
def State.castDue (s : State) (c : CastSt) (m : BitVec 48) : Bool :=
  if s.alone then c.held || (if c.isNext then c.go else s.reached c.tb c.block.toNat m.toNat)
  else c.go && s.reached c.tb c.block.toNat m.toNat

/-- The timebase of a parameter's domain. -/
def State.tbOfParam (s : State) (p : PAddr) : Option (Fin 4) := (s.node? (paddrNode p)).map (fun n => s.tbOf n.domain)

/-- A cast entry as a parameter write (R261, R276). -/
def State.entryWrite (s : State) (e : MqEntry) : Option PWrite :=
  match e.ov, s.param? e.paddr with
  | some o, some _ => some { paddr := e.paddr, value := e.value, cls := o.cls, dbLaw := o.dbLaw, time := o.time, ovr := true }
  | none, some q => some (q.decl.write e.value)
  | _, none => none

/-- The writes of a cast to the parameters of the domain on a timebase. -/
def State.castWrites (s : State) (c : CastSt) (t : Fin 4) : List PWrite :=
  (c.entries.filter (fun e => s.tbOfParam e.paddr == some t)).filterMap s.entryWrite

/-- Casts at a boundary of timebase t, in the order requested: the writes that take effect here, with the state after. -/
def castsAtBoundary (t : Fin 4) (m : BitVec 48) (s : State) : List PWrite × State :=
  s.scene.casts.foldl (fun (acc : List PWrite × State) c =>
    let s := acc.2
    if c.waits then
      if c.tb = t ∧ s.castDue c m then
        if s.alone ∧ s.power.braced then (acc.1, onCast c.castId (fun x => { x with held := true }) s)
        else
          let others := ((c.entries.filterMap (fun e => s.tbOfParam e.paddr)).filter (· != t)).eraseDups
          let ws := s.castWrites c t
          let s := if others.isEmpty then dropCast c.castId s else onCast c.castId (fun x => { x with applyOn := others }) s
          let s := castLast c (if c.held then 5 else 1) m s
          let s := raise 0x8001 [v16 c.castId.toNat, v8 c.slot.val, v64 m.toNat] s
          let s := raiseIf c.held 0x8005 [v16 c.castId.toNat, v64 m.toNat] s
          (acc.1 ++ ws, s)
      else acc
    else if c.applyOn.contains t then
      let left := c.applyOn.filter (· != t)
      let ws := s.castWrites c t
      (acc.1 ++ ws, if left.isEmpty then dropCast c.castId s else onCast c.castId (fun x => { x with applyOn := left }) s)
    else acc) ([], s)

/-- The chip is ready for a cast, or the reason why not (R285). -/
def State.castUnready (s : State) (c : CastSt) : Option Byte :=
  if !c.known then some 1
  else match s.slotEntries c.slot c.mqId with
  | none => some 2
  | some es =>
    if s.power.braced then some 3
    else if !s.castsHeld.any (fun x => x.castId == c.castId)
        || maxDue < s.entriesDue c.tb c.block - s.castSize c + es.length then some 4
    else none

/-- At boundary b − 2 the transfer starts, or each chip of the group answers the caster (R273, R285). -/
def castsAtReady (t : Fin 4) (m : BitVec 48) (s : State) : State :=
  each s.scene.casts (fun c s =>
    let own := BitVec.ofNat 4 s.position
    if c.tb = t ∧ c.waits = true ∧ c.isNext = false ∧ c.transfer = 0
        ∧ s.reached t c.block.toNat (m.toNat + 2) = true then
      let es := (s.slotEntries c.slot c.mqId).getD []
      if s.alone then onCast c.castId (fun x => { x with transfer := 1, entries := es }) s
      else if c.asked then s
      else match s.castUnready c with
        | none =>
          castSend .ready c 0 (onCast c.castId (fun x =>
            { x with transfer := 1, asked := true, ready := own :: x.ready, entries := es }) s)
        | some r =>
          castSend .notReady c r (onCast c.castId (fun x =>
            { x with asked := true, notReady := some (x.notReady.getD (own, r)) }) s)
    else s) s

/-- At boundary b − 1 the caster decides (R286). -/
def castsAtDecision (t : Fin 4) (m : BitVec 48) (s : State) : State :=
  each s.scene.casts (fun c s =>
    if c.tb = t ∧ c.waits = true ∧ c.caster = true ∧ c.go = false ∧ s.alone = false
        ∧ s.reached t c.block.toNat (m.toNat + 1) = true then
      let all := s.group.all (fun p => c.ready.contains (BitVec.ofNat 4 p)) && c.notReady.isNone
      if all then castSend .go c 0 (onCast c.castId (fun x => { x with go := true }) s)
      else if c.deferrals < 3 then
        let b := c.block + 16
        castDeferred c b (c.deferrals + 1) (castSend .defer { c with block := b, deferrals := c.deferrals + 1 } 0 s)
      else castAborted c 0 (castSend .abort c 0 s)
    else s) s

/-- The release of the previous image empties every slot and cancels every cast (R267). -/
def releaseScenes (s : State) : State :=
  let s := each s.castsWaiting (fun c t =>
    raise 0x8009 [v16 c.castId.toNat] (castLast c 3 c.block (dropCast c.castId t))) s
  let s := match s.scene.op with
    | some op => mqStatus 0 3 op.slot 0 s
    | none => s
  s.onScene fun c => { c with slots := Vector.replicate 4 { state := .empty, mq := none }, op := none, casts := [] }

end Sys2Proof.Machine
end

