-- ==== Sys2Proof/Machine/Clocks.lean ====
section
/-! DEFINITION. The clock and time island (chapter 09): inputs, timebases and their jumps, audio PLLs, compare units and GPIO
capture. -/

namespace Sys2Proof.Machine

/-! ## Staging (R8, R27) -/

/-- Stage an item on a timebase: for the next boundary while staging is open, else for the one after. -/
def stage (t : Fin 4) (i : StageItem) (s : State) : State :=
  s.onTb t fun x => { x with staged := x.staged ++ [{ wait := b2n (!x.open_), item := i }] }

/-- Stage an item that belongs to no domain: on the timebase that paces, or with no image for the next pacing tick. -/
def stagePacing (i : StageItem) (s : State) : State :=
  match s.pacing with
  | some d => stage d.tb i s
  | none => s.onClk fun c => { c with gstage := c.gstage ++ [i] }

/-! ## Clock inputs (R291 to R293) -/

/-- A timebase takes a clock input as its source: a REF source takes its 1 PPS from the other REF input (R295). -/
def Timebase.uses (x : Timebase) : ClkInput → Bool
  | .wck i => x.source == 2 && x.index == i.val
  | .ref i => x.source == 3 && x.index == i.val
  | .pps i => x.source == 3 && x.index == 1 - i.val

/-- The source of a timebase is lost (R300): LOCKED and SYNTONISED enter HOLDOVER at the next boundary. -/
def sourceLost (t : Fin 4) (s : State) : State :=
  s.onTb t fun x =>
    let enters := x.state == .locked || x.state == .syntonised
    { x with sourceValid := false, validRun := 0, goodRun := 0, lostDue := if enters then some x.source else x.lostDue }

/-- Every timebase with a source that satisfies a test loses it. -/
def loseSources (p : Timebase → Bool) (s : State) : State :=
  each (List.finRange 4) (fun t u => if p (u.tb t) then sourceLost t u else u) s

/-- The rate code that a word-clock input carries: that of the domain that uses it. -/
def State.wckCode (s : State) (i : Fin 2) : BitVec 4 :=
  match (List.finRange 4).find? (fun t => (s.tb t).uses (.wck i)) with
  | some t => ((s.domOfTb t).map (fun d => BitVec.ofNat 4 d.rate.val)).getD 0xF
  | none => 0xF

def setInput (i : ClkInput) (ok : Bool) (s : State) : State :=
  match i with
  | .wck k =>
    let code := if ok then s.wckCode k else 0xF
    s.onClk fun c => { c with wckValid := upd c.wckValid k (fun _ => ok), wckRate := upd c.wckRate k (fun _ => code) }
  | .ref k => s.onClk fun c => { c with refValid := upd c.refValid k (fun _ => ok) }
  | .pps k => s.onClk fun c => { c with refValid := upd c.refValid k (fun _ => ok) }

def inputNumber : ClkInput → Nat
  | .wck i => i.val
  | .ref i => 2 + i.val
  | .pps i => 2 + i.val

/-- INPUT_VALID (R291). -/
def execInputValid (i : ClkInput) (s : State) : Host.Outcome State Fault Refusal := .next (setInput i true s)

def inputLost (i : ClkInput) (s : State) : State :=
  raise 0x1009 [v8 (Config.inputCode (inputNumber i)).toNat] (loseSources (fun x => x.uses i) (setInput i false s))

/-- INPUT_LOST (R291). -/
def execInputLost (i : ClkInput) (s : State) : Host.Outcome State Fault Refusal := .next (inputLost i s)

/-- XTAL_STOP (R292). -/
def execXtalStop (s : State) : Host.Outcome State Fault Refusal :=
  .next (raise 0x100A [] (s.onClk fun c => { c with xtalOk := false, onSysref := true }))

/-- SYSREF_STOP (R292). -/
def execSysrefStop (s : State) : Host.Outcome State Fault Refusal :=
  .next (raise 0x100B [] (s.onClk fun c => { c with sysrefOk := false, openLoop := true }))

/-- What a clock output drives (R293). -/
inductive OutSignal where
  | low
  | mclk (a : Fin 4) (div : Nat)
  | wordClock (t : Fin 4)
  | pps (t : Fin 4)
  | crystal
  deriving DecidableEq, Repr

/-- The signal that CLK_OUTn_CFG selects; it is low while a new source waits, and for a value that the register does not name. -/
def ClkOut.signal (o : ClkOut) : OutSignal :=
  if o.low != 0 then .low
  else match o.src.toNat with
    | 1 => .mclk (fin 4 o.idx.toNat) o.div.toNat
    | 2 => .wordClock (fin 4 o.idx.toNat)
    | 3 => .pps (fin 4 o.idx.toNat)
    | 4 => .crystal
    | _ => .low

/-- The frequency of MCLK for a rate family (R308). -/
def mclkHz (fam441 : Bool) : Nat := if fam441 then 45158400 else 49152000

/-- Rising edges a second of what an output drives, none while it is held low: an APLL's master clock before mclk_valid, and the
word clock of a timebase that carries no domain (R293, R308, R311). -/
def State.outHz (s : State) : OutSignal → Nat
  | .low => 0
  | .mclk a d => if (s.apll a).mclk then (((s.apll a).inUse.map (fun u => mclkHz u.2)).getD 0) / 2 ^ d else 0
  | .wordClock t => ((s.domOfTb t).map (fun d => rateHz d.rate)).getD 0
  | .pps _ => 1
  | .crystal => 49152000

/-- A 1 PPS output is high for 1 ms from every whole second of its timebase, given as a time in 2^-48 ns (R293). -/
def ppsHigh (time : Nat) : Bool := decide (time % (1000000000 * 2 ^ 48) < 1000000 * 2 ^ 48)

/-- A word-clock output rises at the media instant of every sample (R18, R293): the sample whose instant is at or before a time in
2^-48 ns, and whether the output is in the first half of its period; the spec fixes the rising edge alone. -/
def wordClockHigh (fs time : Nat) : Bool := decide (2 * (time * fs % (1000000000 * 2 ^ 48)) < 1000000000 * 2 ^ 48)

/-- A write of CLK_OUTn_CFG takes effect (R293): a change of source holds the output low for a block, and a change of the divider
alone does not. -/
def ClkOut.set (o : ClkOut) (div : BitVec 3) (idx : BitVec 2) (src : BitVec 3) : ClkOut :=
  let indexed := 1 ≤ src.toNat && src.toNat ≤ 3
  let new := o.src != src || (indexed && o.idx != idx)
  { o with div := div, idx := idx, src := src, low := if new then 1 else o.low }

/-- A clock output's new source waits one block with the output low (R293). -/
def ClkOut.tick (o : ClkOut) : ClkOut := if o.low = 0 then o else { o with low := o.low - 1 }

/-! ## Rates (R294, R300) -/

/-- ppm in units of 2^-40. -/
def ppmRate (n : Int) : Int := n * (2 ^ 40 : Nat) / 1000000

def maxRate : Int := 219902326

/-- The part of the rate that a slew adds. -/
def Timebase.slewRate (x : Timebase) : Int := ppmRate (x.slew.sign * x.slewPpm)

/-- The rate in use of a timebase with a source of its own. -/
def Timebase.rateNow (x : Timebase) : Int :=
  let base := if x.state = .free then x.rate.toInt else x.servoRate
  clampInt (-maxRate) maxRate (base + x.slewRate)

/-- The rate in use: a timebase whose source is TB runs at the rate of the one it follows (R295), with a slew of its own where a
step has left one. -/
def State.rateOf (s : State) (t : Fin 4) : Int :=
  let r := s.tbRoot t
  if r = t then (s.tb t).rateNow else clampInt (-maxRate) maxRate ((s.tb r).rateNow + (s.tb t).slewRate)

/-- What a rate adds in a number of time-clock cycles, in 2^-48 ns. -/
def rateSpan (cycles : Nat) (rate : Int) : Int := (cycles : Int) * rate * (1000000000 * 2 ^ 8 : Nat) / 196608000

/-- Time that passes in a number of time-clock cycles, in 2^-48 ns (R294). -/
def State.span (s : State) (t : Fin 4) (cycles : Nat) : Nat := (rateSpan cycles ((2 ^ 40 : Nat) + s.rateOf t)).toNat

/-- What remains of a slew after a number of time-clock cycles (R302, R305). -/
def Timebase.slewOn (x : Timebase) (cycles : Nat) : Int :=
  let d := rateSpan cycles x.slewRate
  if x.slew.natAbs ≤ d.natAbs then 0 else x.slew - d

/-- The holdover rate: the mean servo rate over the hold window that ends at the last valid measurement. -/
def Timebase.holdRate (x : Timebase) : Int :=
  match x.rates with
  | [] => 0
  | (t0, _) :: _ =>
    let win := 2 ^ x.holdWindow * Config.tick / 8
    let rs := (x.rates.filter (fun p => t0 < p.1 + win)).map (·.2)
    rne rs.sum rs.length

/-! ## Jumps (R302, R305) -/

/-- The instant of boundary m on a timebase at a sample rate (R20), in 2^-48 ns. -/
def boundaryTime (fs : Nat) (m : Nat) : Nat := (8 * m + 2) * 1000000000 * 2 ^ 48 / fs

/-- The number of the last boundary at or before a time, each boundary taken at `boundaryTime` (R20, R21). -/
def blockOfTime (fs t : Nat) : BitVec 48 := BitVec.ofInt 48 (((((t + 1) * fs - 1) / (1000000000 * 2 ^ 48) : Nat) - 2 : Int) / 8)

/-- Nanoseconds in the unit of a timebase's time. -/
def nsTime (ns : Int) : Int := ns * (2 ^ 48 : Nat)

/-- 8 × 10^9 × 2^48: a block period in the unit of a timebase's time, times the sample rate. -/
def blockSpan : Nat := 8000000000 * 2 ^ 48

/-- round(O / P) with ties toward zero, for O in 2^-48 ns and P of 8 samples. -/
def blocksInOffset (fs : Nat) (o : Int) : Int :=
  let k := (2 * (o.natAbs * fs) + blockSpan - 1) / (2 * blockSpan)
  if o < 0 then -(k : Int) else k

/-- A port, stream, link channel or modulator of the domain is running. -/
def State.domainRuns (s : State) (d : Fin 4) : Bool :=
  s.saps.toList.any (fun p => p.present && p.cfg.domain == d && p.state != .stopped)
  || (s.power.state == 4 &&
      (s.net.rx.toList.any (fun u => u.enable && (u.cfg.map (·.domain)) == some d)
       || s.net.tx.toList.any (fun u => u.enable && (u.cfg.map (·.domain)) == some d)))
  || s.red.lanes.toList.any (fun l => l.isUp && l.cfg.domain == d && decide (0 < l.cfg.rxCh + l.cfg.txCh))
  || s.amps.toList.any (fun a => a.present && a.domain == d && a.state != .off && a.state != .latched)

/-- The modulator starts anew from the seed, so that its sequence is the same for the same seed (R309). -/
def Apll.reseed (a : Apll) : Apll :=
  { a with lfsr := if a.seed = 0 then 1 else a.seed, mash := Vector.replicate 3 0, carries := Vector.replicate 3 false, divStep := 0 }

/-- One crystal cycle of the third-order MASH modulator (R309): three accumulators in a row, each fed with the one before, their
carries differenced once and twice; the dither enters at the fraction's least significant bit. -/
def Apll.clock (a : Apll) : Apll :=
  let sum (x y : Word) : Nat := x.toNat + y.toNat
  let s1 := sum (a.mash.get 0) a.frac + b2n (a.lfsr.getLsbD 0)
  let r1 := BitVec.ofNat 32 s1
  let s2 := sum (a.mash.get 1) r1
  let r2 := BitVec.ofNat 32 s2
  let s3 := sum (a.mash.get 2) r2
  let c (s : Nat) : Bool := decide (2 ^ 32 ≤ s)
  let i (b : Bool) : Int := b2n b
  { a with
    lfsr := Config.ditherNext a.lfsr, mash := #v[r1, r2, BitVec.ofNat 32 s3], carries := #v[c s2, c s3, a.carries.get 1]
    divStep := i (c s1) + (i (c s2) - i (a.carries.get 0)) + (i (c s3) - 2 * i (a.carries.get 1) + i (a.carries.get 2)) }

/-- The modulator runs for a number of crystal cycles. -/
def Apll.run : Nat → Apll → Apll
  | 0, a => a
  | n + 1, a => a.clock.run n

/-- The APLL of a domain starts to acquire (R309, R310). -/
def Apll.acquire (a : Apll) (last : Option (BitVec 6)) : Apll :=
  let base : Apll := { a.reseed with mclk := false, aligned := false, good := 0, bad := 0, lastGood := false, step := 0 }
  match a.bandMode.toNat, last with
  | 1, some b => { base with state := .acquiring, band := b, lastGood := true }
  | 2, _ => { base with state := .acquiring, band := a.bandField }
  | _, _ => { base with state := .searching, band := 0 }

/-- Index of the last-good record of an APLL for its rate family. -/
def State.bandIndex (s : State) (a : Fin 4) : Fin 8 :=
  let fam := match (s.apll a).inUse with
    | some (_, f) => b2n f
    | none => 0
  fin 8 (2 * a.val + fam)

def apllAcquire (a : Fin 4) (s : State) : State :=
  let last := s.cfg.lastBands.get (s.bandIndex a)
  s.onApll a fun x => x.acquire last

/-- What follows a step of a timebase's time by an amount in 2^-48 ns: the timebases with a domain that follow it step by the same
amount at their next boundaries, so that their times stay identical (R295, R298); one without takes its leader's time anyway. -/
def stepFollowers (t : Fin 4) (delta : Int) (s : State) : State :=
  each (List.finRange 4) (fun u x =>
    if u ≠ t ∧ x.tbRoot u = t ∧ (x.domOfTb u).isSome then stage u (.tbStep delta) x else x) s

/-- A jump by offset o, in 2^-48 ns, takes effect at boundary m of a timebase (R302): the number that the counter takes, the k of
the event, and the state after. -/
def jumpTime (t : Fin 4) (o : Int) (m : BitVec 48) (s : State) : BitVec 48 × Int × State :=
  match s.domOfTb t with
  | none => (m, 0, stepFollowers t o (s.onTb t fun x => { x with time := (x.time + o).toNat, slew := 0 }))
  | some d =>
    let fs := rateHz d.rate
    let k := blocksInOffset fs o
    if s.domainRuns d.dom then
      let m' := BitVec.ofInt 48 (m.toNat + k)
      let step := rne (k * blockSpan) fs
      let left := o - step
      (m', k, stepFollowers t step (s.onTb t fun x => { x with time := boundaryTime fs m'.toNat, slew := left }))
    else
      let time := ((boundaryTime fs m.toNat : Int) + o).toNat
      let m' := BitVec.ofInt 48 (m.toNat + o * fs / blockSpan)
      let s := stepFollowers t o (s.onTb t fun x => { x with time := time, slew := 0 })
      (m', k, if (s.apll d.apll).enable then apllAcquire d.apll s else s)

/-- The reload of the counter: a forward one passes over block numbers (R23). -/
def reload (t : Fin 4) (m m' : BitVec 48) (s : State) : State :=
  s.onTb t fun x => { x with blk := m', jumped := if m.toNat < m'.toNat then some m else none }

/-- Time-clock cycles of a timebase's block interval, or of a pacing interval where no domain carries it (R294, R425). -/
def State.intervalCycles (s : State) (t : Fin 4) : Nat :=
  match s.domOfTb t with
  | some d => 8 * 196608000 / rateHz d.rate
  | none => 16384

/-- One staged change of time takes effect at the boundary that would be number m. -/
def timeItem (t : Fin 4) (m : BitVec 48) (i : StageItem) (s : State) : State :=
  match i with
  | .tbAccept =>
    let x := s.tb t
    if x.state = .refused then
      let r := jumpTime t (nsTime x.offset) m s
      let s := (reload t m r.1 r.2.2).onTb t fun y => { y with state := .locked, outRun := 0, kept := none }
      raise 0x1007 [v8 t.val, vI64 r.2.1, v64 r.1.toNat] s
    else s
  | .tbFirst o =>
    if (s.tb t).state = .acquiring then
      let r := jumpTime t (nsTime o) m s
      raise 0x1007 [v8 t.val, vI64 r.2.1, v64 r.1.toNat] (reload t m r.1 r.2.2)
    else s
  | .tbSet v =>
    let x := s.tb t
    let present : Int := match s.domOfTb t with
      | some d => (boundaryTime (rateHz d.rate) m.toNat : Int)
      | none => (x.time : Int)
    if x.state = .free then
      let r := jumpTime t (nsTime v - present) m s
      raise 0x1010 [v8 t.val, v64 r.1.toNat] (reload t m r.1 r.2.2)
    else s
  | .tbStep delta =>
    if (s.tb t).follows.isSome then
      let r := jumpTime t delta m s
      reload t m r.1 r.2.2
    else s
  | _ => s

def StageItem.isTime : StageItem → Bool
  | .tbAccept => true
  | .tbFirst _ => true
  | .tbSet _ => true
  | .tbStep _ => true
  | _ => false

/-- The items of a timebase that are due, in order; the others come one boundary nearer. -/
def takeStaged (t : Fin 4) (s : State) : List StageItem × State :=
  let x := s.tb t
  let now := (x.staged.filter (fun i => i.wait == 0)).map (·.item)
  let later := (x.staged.filter (fun i => i.wait != 0)).map (fun i => { i with wait := i.wait - 1 })
  (now, s.onTb t fun y => { y with staged := later })

/-- The writes that a pair has fixed for a block number which the counter has now reached (R23, R447). -/
def takeNumbered (t : Fin 4) (s : State) : List StageItem × State :=
  let x := s.tb t
  let here (p : BitVec 48 × StageItem) : Bool := s.reached t p.1.toNat x.blk.toNat
  ((x.numbered.filter here).map (·.2), s.onTb t fun y => { y with numbered := y.numbered.filter (fun p => !here p) })

/-- Step 1 of R26: the counter becomes m, or is reloaded; staging opens; a slew has gone on for an interval. -/
def countBoundary (t : Fin 4) (items : List StageItem) (s : State) : State :=
  let m := (s.tb t).blk + 1
  let n := s.intervalCycles t
  let s := s.onTb t fun x => { x with blk := m, ivl := x.ivl + 1, open_ := true, jumped := none, slew := x.slewOn n }
  let s := match s.domOfTb t with
    | some d => s.onTb t fun x => { x with time := boundaryTime (rateHz d.rate) m.toNat }
    | none => s
  each (items.filter StageItem.isTime) (timeItem t m) s

/-- A lost source takes effect at a boundary (R300). -/
def holdover (t : Fin 4) (s : State) : State :=
  let x := s.tb t
  match x.lostDue with
  | none => s
  | some c =>
    let s := s.onTb t fun y => { y with lostDue := none }
    if x.state = .locked ∨ x.state = .syntonised then
      raise 0x1005 [v8 t.val, v8 (Config.holdoverCause c).toNat]
        (s.onTb t fun y => { y with state := .holdover, servoRate := y.holdRate, validRun := 0, outRun := 0 })
    else s

/-! ## Sources and measurements (R295 to R303) -/

def State.sourceOk (s : State) (t : Fin 4) (source index : Nat) : Bool :=
  let range := match source with
    | 0 => true
    | 1 => index ≤ 3
    | 2 => index ≤ 1
    | 3 => index ≤ 1
    | 4 => index ≤ 31
    | 5 => index ≤ 3
    | 6 => index ≤ 3
    | _ => false
  range && !(source == 6 && (index == t.val || (s.tb (fin 4 index)).source == 6))

/-- A write of the source fields: refused, or in effect at the next boundary. -/
def selectSource (t : Fin 4) (source index : Nat) (s : State) : State :=
  if s.sourceOk t source index then
    stage t (.tbSource source index) (s.onTb t fun x => { x with source := source, index := index })
  else raise 0x1009 [v8 (Config.inputCode (8 + t.val)).toNat] s

/-- TB_SOURCE_WRITE (R298). -/
def execTbSourceWrite (tb : Fin 4) (source : BitVec 3) (index : BitVec 5) (s : State) : Host.Outcome State Fault Refusal :=
  .next (selectSource tb source.toNat index.toNat s)

/-- The time of a timebase at an instant of its interval; how far the interval has come is free. -/
def timeWithin (t : Fin 4) (s : State) : Nat × State :=
  let k := s.fresh
  ((s.tb t).time + s.span t ((Config.snapCycles k.1).toNat % s.intervalCycles t), k.2)

/-- A new source takes effect (R298). -/
def enterSource (t : Fin 4) (source index : Nat) (s : State) : State :=
  let base (x : Timebase) : Timebase :=
    { x with kept := none, goodRun := 0, validRun := 0, outRun := 0, stepped := false, sourceValid := false, lostDue := none,
             rates := [], follows := none,
             state := if source = 0 then .free else .acquiring }
  if source = 6 then
    let u := timeWithin (fin 4 index) s
    let s := u.2.onTb t fun x => { base x with follows := some (fin 4 index), time := u.1, slew := 0 }
    match s.domOfTb t with
    | some d =>
      let m := (s.tb t).blk
      reload t m (blockOfTime (rateHz d.rate) u.1) s
    | none => s
  else s.onTb t base

/-- The alignment period of a source, as a number of samples of the domain's rate or of whole seconds: numerator of ns
times the rate. -/
def State.alignment (s : State) (t : Fin 4) : Option Nat :=
  let x := s.tb t
  match x.source with
  | 2 => some (1000000000 * 2 ^ (getN s.clk.wckRatio x.index 0).toNat)
  | 4 => some 1000000000
  | _ => none

/-- An offset reduced to (−period/2, +period/2] (R295). -/
def State.reduceOffset (s : State) (t : Fin 4) (o : Int) : Int :=
  let fs := ((s.domOfTb t).map (fun d => rateHz d.rate)).getD 96000
  let wrap (v n : Int) : Int :=
    let r := v % n
    if n < 2 * r then r - n else r
  match s.alignment t with
  | some n => rne (wrap (o * fs) n) fs
  | none =>
    if (s.tb t).source = 3 then
      if (getN s.clk.refMode (1 - (s.tb t).index) 0).toNat = 2 then wrap o 1000000000 else 0
    else o

/-- Keep the servo's rates of the longest hold window. -/
def Timebase.noteRate (x : Timebase) (now : Nat) (r : Int) : Timebase :=
  { x with servoRate := r, rates := (now, r) :: x.rates.filter (fun p => now < p.1 + 16 * Config.tick) }

/-- The servo answers an accepted measurement: its gains are not stated, so its rate is a free value. -/
def servo (t : Fin 4) (s : State) : State :=
  let k := s.fresh
  let r := clampInt (-maxRate) maxRate (Config.servoRate k.1).toInt
  k.2.onTb t fun x => x.noteRate s.now r

/-- Entry to REFUSED (R299). -/
def refuse (t : Fin 4) (o : Int) (s : State) : State :=
  raise 0x1006 [v8 t.val, vI64 o]
    (s.onTb t fun x => { x with state := .refused, refused := true, servoRate := x.holdRate, outRun := 0 })

/-- A valid measurement of a source offset reaches a timebase. -/
def measure (t : Fin 4) (o0 : Int) (s : State) : State :=
  let x := s.tb t
  if x.follows.isSome || x.source == 0 then s
  else
    let o := s.reduceOffset t o0
    let s := s.onTb t fun y => { y with offset := o, sourceValid := true }
    let err := o - (if x.state = .syntonised then x.kept.getD 0 else 0)
    let thr : Int := x.jumpThr
    match x.state with
    | .free => s
    | .refused => s
    | .acquiring =>
      if x.stepped = false then stage t (.tbFirst o) (s.onTb t fun y => { y with stepped := true })
      else
        let run := if o.natAbs ≤ 250 then x.goodRun + 1 else 0
        let s := servo t (s.onTb t fun y => { y with goodRun := run })
        if 8 ≤ run then raise 0x1004 [v8 t.val] (s.onTb t fun y => { y with state := .locked, goodRun := 0, outRun := 0 }) else s
    | .holdover =>
      let s := s.onTb t fun y => { y with validRun := x.validRun + 1 }
      if 64 ≤ x.validRun + 1 then
        let s := s.onTb t fun y => { y with validRun := 0 }
        if (err.natAbs : Int) ≤ thr then
          raise 0x1004 [v8 t.val] (s.onTb t fun y => { y with state := .locked, kept := none, outRun := 0, slew := nsTime err })
        else refuse t o s
      else s
    | _ =>
      if thr < (err.natAbs : Int) then
        let s := s.onTb t fun y => { y with outliers := satInc16 y.outliers, outRun := x.outRun + 1 }
        if 4 ≤ x.outRun + 1 then refuse t o s else s
      else servo t (s.onTb t fun y => { y with outRun := 0 })

/-- TIMEBASE_MEASUREMENT (R299). -/
def execTimebaseMeasurement (tb : Fin 4) (offsetNs : Int) (s : State) : Host.Outcome State Fault Refusal :=
  .next (measure tb offsetNs s)

/-- An accept write (R302, R304): without effect outside REFUSED. -/
def acceptJump (t : Fin 4) (s : State) : State :=
  if (s.tb t).state = .refused ∧ (s.tb t).follows = none then stage t .tbAccept s else s

/-- TB_ACCEPT (R302). -/
def execTbAccept (tb : Fin 4) (s : State) : Host.Outcome State Fault Refusal := .next (acceptJump tb s)

/-- A reject write (R303, R304): the offset is kept. -/
def rejectJump (t : Fin 4) (s : State) : State :=
  let x := s.tb t
  if x.state = .refused ∧ x.follows = none then
    raise 0x1008 [v8 t.val, vI64 x.offset] (s.onTb t fun y => { y with state := .syntonised, kept := some x.offset, outRun := 0 })
  else s

/-- TB_REJECT (R303). -/
def execTbReject (tb : Fin 4) (s : State) : Host.Outcome State Fault Refusal := .next (rejectJump tb s)

/-- A set write: ignored where the source is not FREE (R305). -/
def setTime (t : Fin 4) (s : State) : State :=
  let x := s.tb t
  if x.source = 0 then stage t (.tbSet (x.setS.toNat * 1000000000 + x.setNs.toNat)) s else s

/-- TB_SET (R305). -/
def execTbSet (tb : Fin 4) (s : State) : Host.Outcome State Fault Refusal := .next (setTime tb s)

/-- A time in 2^-48 ns as seconds, nanoseconds and fraction. -/
def tbTimeOf (v : Nat) : TbTime :=
  let ns := v / 2 ^ 48
  { sec := BitVec.ofNat 48 (ns / 1000000000), ns := BitVec.ofNat 32 (ns % 1000000000), frac := BitVec.ofNat 16 (v / 2 ^ 32) }

/-- A snap latches the time, `cycles` time-clock cycles after the last boundary, and the block counter (R306). -/
def snapTime (t : Fin 4) (cycles : Nat) (s : State) : State :=
  let n := s.span t cycles
  s.onTb t fun x => { x with snap := tbTimeOf (x.time + n), snapBlk := x.blk }

/-- TB_SNAP (R306). -/
def execTbSnap (tb : Fin 4) (cycles : Nat) (s : State) : Host.Outcome State Fault Refusal := .next (snapTime tb cycles s)

/-- A TBn_ADJ write starts or extends a slew (R305). -/
def adjTime (t : Fin 4) (ns : Int) (s : State) : State :=
  if (s.tb t).source = 0 then s.onTb t fun x => { x with slew := x.slew + nsTime ns } else s

/-- TBN_ADJ (R305). -/
def execTbnAdj (tb : Fin 4) (ns : Word) (s : State) : Host.Outcome State Fault Refusal := .next (adjTime tb ns.toInt s)

/-- SLEW_END (R305). -/
def execSlewEnd (tb : Fin 4) (s : State) : Host.Outcome State Fault Refusal :=
  .next (s.onTb tb fun x => { x with slew := 0 })

/-- A read of TBn_BLK_LO latches the high half (R21). -/
def latchBlock (t : Fin 4) (s : State) : State :=
  s.onTb t fun x => { x with blkHi := BitVec.ofNat 16 (x.blk.toNat / 2 ^ 32) }

/-- TB_BLK_LO_READ (R21). -/
def execTbBlkLoRead (tb : Fin 4) (s : State) : Host.Outcome State Fault Refusal := .next (latchBlock tb s)

/-! ## Audio PLLs (R308 to R312, R602) -/

/-- The timebase and rate family that the loaded image gives an APLL. -/
def State.apllUse (s : State) (a : Fin 4) : Option (Fin 4 × Bool) :=
  (s.domains.find? (fun d => d.apll == a)).map (fun d => (d.tb, rate441 d.rate))

/-- Enable an APLL for its use: it acquires, unless it is already locked for the same use (R602). -/
def apllEnable (a : Fin 4) (s : State) : State :=
  let use := s.apllUse a
  let x := s.apll a
  if x.enable && x.state == .locked && x.inUse == use then s
  else apllAcquire a (s.onApll a fun y => { y with enable := true, inUse := use })

def apllDisable (a : Fin 4) (s : State) : State :=
  s.onApll a fun x => { x with enable := false, state := .off, mclk := false, aligned := false, good := 0, bad := 0, inUse := none }

/-- A write of the enable field. -/
def apllWriteEnable (a : Fin 4) (en : Bool) (s : State) : State :=
  if en = (s.apll a).enable then s else if en then apllEnable a s else apllDisable a s

/-- APLL_ENABLE_WRITE (R602). -/
def execApllEnableWrite (a : Fin 4) (enable : Bool) (s : State) : Host.Outcome State Fault Refusal :=
  .next (apllWriteEnable a enable s)

/-- A write of reacquire restarts the band search and the lock (R310). -/
def apllRestart (a : Fin 4) (s : State) : State := if (s.apll a).enable then apllAcquire a s else s

/-- APLL_REACQUIRE (R310). -/
def execApllReacquire (a : Fin 4) (s : State) : Host.Outcome State Fault Refusal := .next (apllRestart a s)

/-- One measurement of the band search: six binary steps, then one that verifies (R310). -/
def bandStep (a : Fin 4) (m : BandMeas) (s : State) : State :=
  let x := s.apll a
  if x.state = .searching then
    if x.step < 6 then
      let bit : BitVec 6 := BitVec.ofNat 6 (2 ^ (5 - x.step))
      s.onApll a fun y => { y with band := if m.below then y.band ||| bit else y.band, step := y.step + 1 }
    else if m.inBand then s.onApll a fun y => { y with state := .acquiring, step := 0 }
    else raise 0x1003 [v8 a.val] (s.onApll a fun y => { y with state := .failed })
  else s

/-- BAND_SEARCH_STEP (R310). -/
def execBandSearchStep (a : Fin 4) (meas : BandMeas) (s : State) : Host.Outcome State Fault Refusal :=
  .next (bandStep a meas s)

/-- A last-good band that has not locked within 50 ms gives way to a search. -/
def bandTimeout (a : Fin 4) (s : State) : State :=
  let x := s.apll a
  if x.state = .acquiring ∧ x.lastGood then
    s.onApll a fun y => { y.reseed with state := .searching, band := 0, step := 0, good := 0, lastGood := false }
  else s

/-- BAND_LOCK_TIMEOUT (R310). -/
def execBandLockTimeout (a : Fin 4) (s : State) : Host.Outcome State Fault Refusal := .next (bandTimeout a s)

/-- Crystal cycles from one comparison of an APLL to the next: a block of its domain. -/
def State.compareCycles (s : State) (a : Fin 4) : Nat :=
  match (s.apll a).inUse.bind (fun u => s.domOfTb u.1) with
  | some d => 8 * 49152000 / rateHz d.rate
  | none => 0

/-- The modulator has run for a block; the loop then gives a new fraction, which FREEZE holds (R309, R312). -/
def Apll.follow (x : Apll) (cycles : Nat) (rate err : Int) : Apll :=
  let x := x.run cycles
  if x.state = .acquiring ∨ x.state = .locked then { x with frac := Config.apllFraction rate err x.frac } else x

/-- The comparison at the media instant of a sample 8m counts toward lock, or away from it (R311, R312). -/
def comparePhase (a : Fin 4) (err : Int) (s : State) : State :=
  let n := s.compareCycles a
  let r := (s.apll a).inUse.elim 0 (fun u => s.rateOf u.1)
  let s := s.onApll a fun x => { x.follow n r err with err := BitVec.ofInt 32 err }
  let x := s.apll a
  match x.state with
  | .acquiring =>
    let g := if err.natAbs ≤ 2000 then x.good + 1 else 0
    s.onApll a fun y => { y with good := g, state := if 256 ≤ g then .locked else .acquiring, bad := 0 }
  | .freeze =>
    let g := if err.natAbs ≤ 2000 then x.good + 1 else 0
    s.onApll a fun y => { y with good := g, state := if 256 ≤ g then .locked else .freeze, bad := 0 }
  | .locked =>
    let b := if 50000 < err.natAbs then x.bad + 1 else 0
    if 4 ≤ b then
      raise 0x1002 [v8 a.val, vI32 err] (s.onApll a fun y => { y with state := .freeze, good := 0, bad := 0 })
    else s.onApll a fun y => { y with bad := b }
  | _ => s

/-- The block number whose first sample the next comparison of an APLL marks. -/
def State.apllBlock (s : State) (a : Fin 4) : Nat :=
  match (s.apll a).inUse with
  | some (t, _) => (s.tb t).blk.toNat + 1
  | none => 0

/-- The dividers are aligned at the first sample 8m with m a multiple of 64 after the lock. -/
def State.aligns (s : State) (a : Fin 4) : Bool :=
  let x := s.apll a
  x.state == .locked && !x.aligned && s.apllBlock a % 64 == 0

/-- The carrier grids of the modulators of an APLL's domain start (R470). -/
def startGrids (a : Fin 4) (s : State) : State :=
  { s with amps := s.amps.map (fun x => if (s.domain? x.domain).map (·.apll) = some a then { x with grid := 0 } else x) }

/-- mclk_valid is set; the band of the first lock becomes the last-good band. -/
def alignApll (a : Fin 4) (s : State) : State :=
  let band := (s.apll a).band
  let i := s.bandIndex a
  let s := startGrids a (raise 0x1001 [v8 a.val, v8 band.toNat] (s.onApll a fun x => { x with mclk := true, aligned := true }))
  nvAsk (.cfg (.lastBand i band)) s

/-! ## Compare units (R313 to R316) -/

/-- The first boundary that a unit armed now can meet. -/
def Timebase.firstOpen (x : Timebase) : Nat := x.blk.toNat + (if x.open_ then 1 else 2)

/-- The first of b, b + period, … that is at least n. -/
def nextDue (b period n : Nat) : Nat := if n ≤ b ∨ period = 0 then b else b + (n - b + period - 1) / period * period

def cmpArm (u : Fin 16) (arm : Bool) (s : State) : State :=
  let c := s.clk.cmps.get u
  let s := s.onCmp u fun x => { x with owed := false }
  if !arm then s.onCmp u fun x => { x with arm := false }
  else if s.isCluster && (c.action == 3 || c.action == 7) then s
  else
    let n := (s.tb c.tb).firstOpen
    let p := c.period.toNat
    if n ≤ c.blk.toNat then s.onCmp u fun x => { x with arm := true, due := x.blk }
    else
      raise 0x100D [v8 u.val, v64 c.blk.toNat]
        (s.onCmp u fun x => { x with late := true, arm := decide (p ≠ 0), due := BitVec.ofNat 48 (nextDue x.blk.toNat p n) })

/-- CMP_ARM_WRITE (R313). -/
def execCmpArmWrite (u : Fin 16) (arm : Bool) (s : State) : Host.Outcome State Fault Refusal := .next (cmpArm u arm s)

/-- The action of a unit that fires, other than a trigger. -/
def cmpAction (u : Fin 16) (s : State) : State :=
  let c := s.clk.cmps.get u
  match c.action.toNat with
  | 4 => castRegisters s
  | 5 => msixSignal (48 + u.val) s
  | 6 => s.onEvt fun v => { v with gpioDue := upd v.gpioDue u (fun _ => some (c.tb, c.mask)) }
  | _ => s

/-- The triggers that a unit gives: to a port or to a modulator, start or stop. -/
def cmpTriggers (c : Cmp) : List StageItem :=
  let ports (b : Bool) : List StageItem := (maskBits c.mask.toNat 32).map (fun i => .sapTrig (fin 32 i) b)
  let amps (b : Bool) : List StageItem := (maskBits c.mask.toNat 16).map (fun i => .ampTrig (fin 16 i) b)
  match c.action.toNat with
  | 1 => ports true
  | 2 => ports false
  | 3 => amps true
  | 7 => amps false
  | _ => []

/-- Two triggers act on the same port or modulator. -/
def sameTarget : StageItem → StageItem → Bool
  | .sapTrig p _, .sapTrig q _ => p == q
  | .ampTrig c _, .ampTrig d _ => c == d
  | _, _ => false

/-- A later trigger to the same unit prevails (R316). -/
def addTriggers (old new : List StageItem) : List StageItem :=
  old.filter (fun a => !new.any (sameTarget a)) ++ new

/-- A periodic unit at a boundary to which the counter has been reloaded forward, past its number: it owes one firing, and goes on
with the first of its numbers that is not passed over (R314). -/
def Cmp.passOver (c : Cmp) (jumped : Bool) (m : Nat) : Cmp :=
  if jumped && c.arm && c.period != 0 && decide (c.due.toNat < m) then
    { c with owed := true, due := BitVec.ofNat 48 (nextDue c.due.toNat c.period.toNat m) }
  else c

/-- The unit fires at a boundary: at its number, or for one that a reload before this boundary has passed over (R313, R314). -/
def Cmp.firesAt (c : Cmp) (jumped : Bool) (m : Nat) (owed : Bool) : Bool :=
  c.arm && (owed || (if jumped then c.due.toNat == m else decide (c.due.toNat ≤ m)))

/-- The compare units of a timebase at boundary m, in ascending number: the triggers they give and the state after. -/
def cmpsAtBoundary (t : Fin 4) (m : Nat) (s : State) : List StageItem × State :=
  (List.finRange 16).foldl (fun (acc : List StageItem × State) u =>
    let s := acc.2
    let owed := (s.clk.cmps.get u).owed
    let jumped := (s.tb t).jumped.isSome
    let s := if (s.clk.cmps.get u).tb = t then s.onCmp u fun x => { x with owed := false }.passOver jumped m else s
    let c := s.clk.cmps.get u
    if c.tb == t && c.firesAt jumped m owed then
      let p := c.period.toNat
      let s := s.onCmp u fun x =>
        { x with fires := satInc16 x.fires, arm := decide (p ≠ 0), due := BitVec.ofNat 48 (nextDue x.due.toNat p (m + 1)) }
      (addTriggers acc.1 (cmpTriggers c), cmpAction u s)
    else acc) ([], s)

/-- The pins of the pulses that boundaries of a timebase have asked for go high, where they are outputs (R315): the instant lies 6
sample periods after the boundary, which the send deadline of 7.2 samples is the first command to follow. -/
def raisePulses (t : Fin 4) (s : State) : State :=
  each (List.finRange 16) (fun u s => match s.evt.gpioDue.get u with
    | some (b, mask) =>
      if b = t then s.onEvt fun v => { v with gpioDue := upd v.gpioDue u (fun _ => none), gpioPulse := upd v.gpioPulse u (fun _ => mask &&& v.gpioDir) }
      else s
    | none => s) s

/-- GPIO_PULSE_END (R315). -/
def execGpioPulseEnd (unit : Fin 16) (s : State) : Host.Outcome State Fault Refusal :=
  .next (s.onEvt fun v => { v with gpioPulse := upd v.gpioPulse unit (fun _ => 0) })

/-! ## GPIO capture (R317) -/

def captureEdge (pin : Fin 32) (rising : Bool) (time : TbTime) (s : State) : State :=
  let c := s.clk
  let enabled := if rising then c.capRise.getLsbD pin.val else c.capFall.getLsbD pin.val
  if !enabled then s
  else if c.caps.length < 64 then
    s.onClk fun c => { c with caps := c.caps ++ [{ pin := pin, rising := rising, tb := c.capTb, time := time }] }
  else
    raiseIf (!c.capRun) 0x100F [] (s.onClk fun c => { c with capDrops := satInc32 c.capDrops, capRun := true })

/-- GPIO_EDGE (R317). -/
def execGpioEdge (pin : Fin 32) (rising : Bool) (time : TbTime) (s : State) : Host.Outcome State Fault Refusal :=
  .next (captureEdge pin rising time s)

/-- A read of GPIO_CAP_W3 removes the oldest capture; a run of drops ends when the FIFO empties. -/
def popCapture (s : State) : State :=
  s.onClk fun c => { c with caps := c.caps.drop 1, capRun := c.capRun && decide (1 < c.caps.length) }

/-- GPIO_CAP_POP (R317). -/
def execGpioCapPop (s : State) : Host.Outcome State Fault Refusal := .next (popCapture s)

end Sys2Proof.Machine
end

