-- ==== Sys2Proof/Machine/Sap.lean ====
section
/-! DEFINITION. The serial audio ports (chapter 10): frames and slips, starting and stopping, slot masks, clock trouble. -/

namespace Sys2Proof.Machine

/-! ## Slots and words (R322 to R328) -/

/-- Bit clocks of a frame (R324). -/
def SapRec.frameBits (r : SapRec) : Nat := r.slots * r.slotWidth

/-- The channels of the port's output lines, or of its input lines (R323). -/
def SapRec.channels (r : SapRec) (out : Bool) : List Nat :=
  (List.range 128).filter (fun c => bitIn r.lineDir.toNat (c / 32) == out && decide (c % 32 < r.slots))

/-! ### The lines (R325, R326, R329, R330) -/

/-- FSYNC in bit clock j of a frame (R325): while a port drives no clock it is low (R334). -/
def SapRec.fsync (r : SapRec) (j : Nat) : Bool :=
  let half := r.frameBits / 2
  let plain : Bool := match r.format with
    | 0 => decide (half ≤ j)
    | 1 => decide (j < half)
    | _ => decide (j < match r.fsWidth with
      | 0 => 1
      | 1 => r.slotWidth
      | _ => half)
  plain != r.fsInvert

/-- The FSYNC edge that starts a frame is the rising one (R325): an I2S frame starts with FSYNC low. -/
def SapRec.startsRising (r : SapRec) : Bool := (r.format != 0) != r.fsInvert

/-- Bit clocks from the frame start to the first data bit (R325). -/
def SapRec.firstBit (r : SapRec) : Nat :=
  match r.format with
  | 0 => 1
  | 1 => 0
  | _ => b2n r.fsDelay

/-- MCLK half-cycles from a frame start to the rising and to the falling edge of bit clock j, with M MCLK cycles a sample (R330). -/
def SapRec.bclkRise (r : SapRec) (mclks j : Nat) : Nat := 2 * j * mclks / r.frameBits
def SapRec.bclkFall (r : SapRec) (mclks j : Nat) : Nat := (2 * j + 1) * mclks / r.frameBits

/-- The edge of bit clock j on which data are captured, and the one on which they are launched (R326). -/
def SapRec.captureEdge (r : SapRec) (mclks j : Nat) : Nat := if r.bclkInvert then r.bclkFall mclks j else r.bclkRise mclks j
def SapRec.launchEdge (r : SapRec) (mclks j : Nat) : Nat := if r.bclkInvert then r.bclkRise mclks j else r.bclkFall mclks j

/-- The bits of an output slot, the data word MSB first and then zeros; a slot of high impedance drives none (R326, R340). -/
def SapRec.slotBits (r : SapRec) (d : Option Word) : List (Option Bool) :=
  (List.range r.slotWidth).map fun i => d.map fun w => decide (i < r.dataWidth) && w.getLsbD (r.dataWidth - 1 - i)

/-- The data bits of an output frame on line k in their order: of a frame that a start has cut short the first ones, of a long one
all and then zeros (R346). -/
def SapRec.lineBits (r : SapRec) (f : TxFrame) (k : Nat) : List (Option Bool) :=
  let slot (t : Nat) : List (Option Bool) := match f.words.find? (fun w => w.1 == 32 * k + t) with
    | some w => r.slotBits w.2
    | none => r.slotBits (some 0)
  let all := (List.range r.slots).flatMap slot
  match f.bits with
  | none => all
  | some n => all.take n ++ List.replicate (n - all.length) (some false)

/-- What line k shows in bit clock j of a frame: with the first data bit one bit clock late, the last bit of the frame before stands
in bit clock 0 (R326). -/
def SapRec.lineAt (r : SapRec) (before f : TxFrame) (k j : Nat) : Option Bool :=
  if j < r.firstBit then nth (r.lineBits before k).reverse j (some false) else nth (r.lineBits f k) (j - r.firstBit) (some false)

/-- The number that a list of bits spells, MSB first, of n bits. -/
def bitsNat (n : Nat) (bs : List Bool) : Nat := (bs.take n).foldl (fun v b => 2 * v + b2n b) 0 * 2 ^ (n - (bs.take n).length)

/-- The data words of the slots of one line: the first bits of each slot, the others ignored (R326). -/
def captureSlots (slotWidth dataWidth : Nat) : Nat → List Bool → List Word
  | 0, _ => []
  | n + 1, bs => BitVec.ofNat 32 (bitsNat dataWidth bs) :: captureSlots slotWidth dataWidth n (bs.drop slotWidth)

/-- The port words by channel that a received frame carries (R323, R326). -/
def SapRec.capture (r : SapRec) (lines : List (List Bool)) : List Word :=
  (List.range 4).flatMap fun k =>
    captureSlots r.slotWidth r.dataWidth r.slots ((nth lines k []).drop r.firstBit) ++ List.replicate (32 - r.slots) 0

/-- The low n bits of a word as a two's complement number. -/
def sext (w : Word) (n : Nat) : Int := sfld w (n - 1) 0

/-- A port word as a signal word (R327). -/
def SapRec.toSignal (r : SapRec) (d : Word) : Int :=
  if r.dataWidth = 16 then sext d 16 * 256
  else if r.dataWidth = 24 then sext d 24
  else if r.native32 then d.toInt else rne d.toInt 256

/-- A signal word as a port word, and whether it saturated (R327). -/
def SapRec.toPort (r : SapRec) (w : Word) : Word × Bool :=
  let v := w.toInt
  if r.dataWidth = 16 then
    let q := rne v 256
    let c := clampInt (-32768) 32767 q
    (BitVec.ofInt 32 c, c != q)
  else if r.dataWidth = 24 ∨ r.native32 = false then
    let c := clampInt (-8388608) 8388607 v
    (BitVec.ofInt 32 (if r.dataWidth = 24 then c else c * 256), c != v)
  else (w, false)

def Sap.slave (x : Sap) : Bool := !x.cfg.master

/-! ## Masks (R340 to R342) -/

/-- The factor that the slot masks give slot t of line k at media sample s, and whether the slot is masked there. -/
def Sap.maskGain (x : Sap) (k : Fin 4) (t s : Nat) : Nat × Nat × Bool :=
  let rs := x.ramps.filter (fun r => r.line == k)
  let held (b : Bool) : Nat × Nat × Bool := if b then (1, 1, false) else (0, 1, true)
  match rs.find? (fun r => 8 * r.first ≤ s) with
  | none =>
    let base := ((rs.getLast?).map (·.old)).getD (x.mask.get k)
    held (base.getLsbD t)
  | some r =>
    let span := 8 * r.r
    let j := s - 8 * r.first
    if r.old.getLsbD t == r.new.getLsbD t then held (r.new.getLsbD t)
    else if r.old.getLsbD t then (if j < span then (span - 1 - j, span, false) else (0, 1, true))
    else if j < span then (0, 1, true)
    else if j - span < span then (j - span + 1, span, false)
    else (1, 1, false)

/-- The write of a mask register (R341). -/
def maskWrite' (p : Fin 32) (line : Fin 4) (mask : Word) (s : State) : State :=
  let d := (s.sap p).cfg.domain
  stage (s.tbOf d) (.sapMask p line mask) (s.onSap p fun x => { x with maskReg := upd x.maskReg line (fun _ => mask) })

/-- SAP_MASK_WRITE (R341). -/
def execSapMaskWrite (p : Fin 32) (line : Fin 4) (mask : Word) (s : State) : Host.Outcome State Fault Refusal :=
  .next (maskWrite' p line mask s)

/-- The end of the last sample of a mask change. -/
def Sap.maskEnds (x : Sap) (m : Nat) : Bool := x.ramps.all (fun r => r.first + 2 * r.r ≤ m)

/-- MASK_RAMP_END (R341): mask_busy clears when the change has run. -/
def execMaskRampEnd (p : Fin 32) (s : State) : Host.Outcome State Fault Refusal :=
  let m := (s.tb (s.tbOf (s.sap p).cfg.domain)).blk.toNat
  .next (s.onSap p fun x => if x.maskEnds (m + 1) then { x with maskBusy := false } else x)

/-- The mask writes that reach a port at boundary m; a busy port holds them, a stopped one takes them without ramps. -/
def Sap.takeMasks (x0 : Sap) (m : Nat) (writes : List (Fin 4 × Word)) : Sap :=
  let busy := x0.maskBusy && !x0.maskEnds m
  let held := writes.foldl (fun v w => upd v w.1 (fun _ => some w.2)) x0.maskHeld
  let x : Sap := { x0 with maskBusy := busy, maskHeld := held }
  if busy || held.toList.all (·.isNone) then x
  else
    let new : Vector Word 4 := Vector.ofFn (fun k => match held.get k with
      | some w => w &&& x.enable.get k
      | none => x.mask.get k)
    let x : Sap := { x with mask := new, maskHeld := Vector.replicate 4 none }
    if x.state = .stopped then { x with ramps := [] }
    else
      let old := x0.mask
      let rs : List MaskRamp := (List.finRange 4).map (fun k =>
        { line := k, old := old.get k, new := new.get k, first := m, r := x.rampBlocks.toNat })
      { x with maskBusy := true, ramps := rs ++ x.ramps.filter (fun r => m ≤ r.first + 2 * r.r + 1) }

/-! ## The factors on a sample (R337, R338, R340, R345) -/

/-- The factor of a channel that starts or stops at its zero crossing (R338). -/
def Sap.zcGain (x : Sap) (c s : Nat) : Nat × Nat :=
  match x.zc.find? (fun z => z.chan == c) with
  | none => (1, 1)
  | some z =>
    let before : Nat × Nat := (b2n x.zcStop, 1)
    let after : Nat × Nat := (b2n (!x.zcStop), 1)
    match z.from_ with
    | none => before
    | some a =>
      if s < a then before
      else if z.fade && decide (s - a < 8) then (if x.zcStop then (7 - (s - a), 8) else (s - a + 1, 8))
      else after

/-- The exact factor on channel c at media sample s, as a fraction. -/
def Sap.gain (x : Sap) (c s : Nat) : Nat × Nat :=
  if s < x.zeroTo || (match x.zeroFrom with
    | some z => decide (z ≤ s)
    | none => false) then (0, 1)
  else
    let g := x.maskGain (fin 4 (c / 32)) (c % 32) s
    let f : Nat × Nat := if x.fadeIn = some (s / 8) then (s % 8 + 1, 8) else (1, 1)
    let o : Nat × Nat := if x.fadeOut = some (s / 8) then (7 - s % 8, 8) else (1, 1)
    let z := x.zcGain c s
    (g.1 * f.1 * o.1 * z.1, g.2.1 * f.2 * o.2 * z.2)

/-! ## Input (R332, R344) -/

/-- The signal word that was received for channel c at sample s, with the fraction of R344 where a stop ramps it out. -/
def Sap.received (x : Sap) (c s : Nat) : Int × Nat × Nat :=
  match x.rx.find? (fun r => r.1 == s) with
  | some r => (x.cfg.toSignal (nth r.2 c 0), 1, 1)
  | none =>
    match x.outFrom with
    | some s0 =>
      if s0 < s ∧ s ≤ s0 + 8 then (x.cfg.toSignal (nth x.lastFrame c 0), 7 - (s - s0 - 1), 8) else (0, 1, 1)
    | none => (0, 1, 1)

/-- Channel c of block n as its SOURCE delivers it (R29, R333). -/
def Sap.block (x : Sap) (c n : Nat) : Frame :=
  (List.range 8).map fun i =>
    let s := 8 * n + i
    let r := x.received c s
    let g := x.gain c s
    satWord (rne (r.1 * (r.2.1 * g.1 : Nat)) (r.2.2 * g.2))

/-! ## Output (R32, R326 to R328) -/

/-- The SINK word that waits for channel c at sample s; an undriven channel is zero. -/
def Sap.sinkWord (x : Sap) (c s : Nat) : Word :=
  ((x.outBuf.find? (fun o => o.1 == s && o.2.1 == c)).map (fun o => o.2.2)).getD 0

/-- One output frame: for each channel its port word or high impedance, and the samples that saturated. -/
def Sap.outFrame (x : Sap) (smp : Option Nat) : List (Nat × Option Word) × Nat :=
  let one (c : Nat) : (Nat × Option Word) × Nat :=
    let k : Fin 4 := fin 4 (c / 32)
    let masked := match smp with
      | some s => (x.maskGain k (c % 32) s).2.2
      | none => !(x.mask.get k).getLsbD (c % 32)
    if masked && x.cfg.hizMasked then ((c, none), 0)
    else match smp with
      | none => ((c, some 0), 0)
      | some s =>
        let g := x.gain c s
        let d := x.cfg.toPort (scale (x.sinkWord c s) g.1 g.2)
        ((c, some d.1), b2n d.2)
  let all := (x.cfg.channels true).map one
  (all.map (·.1), (all.map (·.2)).sum)

/-- A frame leaves the port; the samples that saturate are counted (R328). -/
def sapEmit (p : Fin 32) (smp : Option Nat) (s : State) : State :=
  let x := s.sap p
  let f := x.outFrame smp
  let s := s.onSap p fun y => { y with tx := ({ sample := smp, words := f.1, bits := none } :: y.tx).take 64 }
  if f.2 = 0 then s
  else
    raiseIf (!x.clipRun && !x.clipNow) 0x2009 [v8 p.val]
      (s.onSap p fun y => { y with clips := satInc32 y.clips f.2, flags := setFlag y.flags 5, clipNow := true })

/-- A slave's frame leaves at its frame start; the boundary of its own block still decides the factors on it. -/
def sapEmitOr (p : Fin 32) (smp : Nat) (s : State) : State :=
  if smp / 8 ≤ (s.tb (s.tbOf (s.sap p).cfg.domain)).blk.toNat then sapEmit p (some smp) s
  else s.onSap p fun x => { x with late := x.late ++ [(smp, none)] }

/-! ## Triggers (R335 to R339) -/

/-- The number of a port state (R334). -/
def SapState.code : SapState → Nat
  | .stopped => 0 | .acquiring => 1 | .leadIn => 2 | .running => 3 | .leadOut => 4 | .noClock => 5 | .rateMismatch => 6

/-- A trigger that the host writes (R335). -/
def sapTrigger (p : Fin 32) (start : Bool) (s : State) : State :=
  stage (s.tbOf (s.sap p).cfg.domain) (.sapTrig p start) s

def sapTriggers (mask : Nat) (start : Bool) (s : State) : State :=
  each (maskBits mask 32) (fun i => sapTrigger (fin 32 i) start) s

/-- SAP_CTL_START (R335). -/
def execSapCtlStart (p : Fin 32) (s : State) : Host.Outcome State Fault Refusal := .next (sapTrigger p true s)

/-- SAP_CTL_STOP (R335). -/
def execSapCtlStop (p : Fin 32) (s : State) : Host.Outcome State Fault Refusal := .next (sapTrigger p false s)

/-- SAP_GO (R335). -/
def execSapGo (mask : Word) (s : State) : Host.Outcome State Fault Refusal := .next (sapTriggers mask.toNat true s)

/-- SAP_HALT (R335). -/
def execSapHalt (mask : Word) (s : State) : Host.Outcome State Fault Refusal := .next (sapTriggers mask.toNat false s)

/-- The enabled and unmasked channels of a port. -/
def Sap.open_ (x : Sap) : List Nat :=
  (List.range 128).filter fun c =>
    let k : Fin 4 := fin 4 (c / 32)
    (x.enable.get k).getLsbD (c % 32) && (x.mask.get k).getLsbD (c % 32)

def Sap.seekZc (x : Sap) (b n : Nat) : Sap :=
  { x with zcN := n, first := 8 * (b + 1),
           zc := x.open_.map (fun c => { chan := c, from_ := none, fade := false }) }

/-- A port starts at boundary b (R337, R338). -/
def Sap.start (x : Sap) (cluster : Bool) (fs b : Nat) : Sap :=
  let base : Sap := { x with
    state := .leadIn, zeroFrom := none, fadeIn := none, fadeOut := none, outFrom := none, stopEnd := none, leadEnd := none,
    lastSample := none, cur := none, joining := false, zc := [], zcStop := false, first := 8 * (b + 1), clkFirst := 8 * (b + 1),
    zeroTo := 8 * (b + 1), missing := 0,
    badPeriods := 0, badBits := 0, rx := [], late := [] }
  if cluster then base.seekZc b (samplesOfMs fs x.zcTimeout.toNat)
  else
    let e := b + 1 + x.leadBlocks.toNat
    { base with leadEnd := some e, fadeIn := some e, zeroTo := 8 * e }

/-- A port stops at boundary b (R337 to R339). -/
def Sap.stop (x : Sap) (cluster : Bool) (fs b : Nat) : Sap :=
  let early := x.state = .leadIn ∨ x.state = .acquiring
  let base : Sap := { x with state := .leadOut, leadEnd := none, joining := false, zcStop := true }
  let base : Sap := if early then { base with zeroFrom := some (x.zeroFrom.getD (8 * (b + 1))) } else base
  if cluster then base.seekZc b (samplesOfMs fs x.zcTimeout.toNat)
  else
    let base : Sap := if early ∨ x.zeroFrom.isSome then base
      else { base with fadeOut := some (b + 1), zeroFrom := some (8 * (b + 2)) }
    { base with stopEnd := some (b + 2 + x.leadBlocks.toNat) }

/-- The triggers that a port has at boundary b: the stop wins (R336); a start needs arm, STOPPED and RUN (R335, R502). A stop
that is in progress goes on as it began. -/
def sapTake (p : Fin 32) (b : Nat) (start stop : Bool) (s : State) : State :=
  let x := s.sap p
  let fs := s.fsOf x.cfg.domain
  if stop then (if x.state = .stopped ∨ x.zcStop then s else s.onSap p fun y => y.stop s.isCluster fs b)
  else if start then
    if x.arm && x.state == .stopped && s.power.state == 4 then s.onSap p fun y => y.start s.isCluster fs b
    else raise 0x200A [v8 p.val, v8 x.state.code] (s.onSap p fun y => { y with flags := setFlag y.flags 6 })
  else s

def sapStarted (p : Fin 32) (b : Nat) (s : State) : State :=
  raise 0x2001 [v8 p.val, v64 b] (s.onSap p fun y => { y with state := .running, startBlk := BitVec.ofNat 48 b, joining := false })

/-- The port is STOPPED at boundary m: what it has received since gives zero (R334, R337, R338). -/
def sapStopped (p : Fin 32) (m : Nat) (s : State) : State :=
  raise 0x2002 [v8 p.val]
    (s.onSap p fun y => { y with state := .stopped, stopEnd := none, leadEnd := none, lastSample := none, cur := none, zc := [],
                                 zcStop := false, joining := false, outFrom := none, zeroFrom := some (y.zeroFrom.getD (8 * m)) })

/-- What a port's own schedule brings at boundary m: the end of its lead-in, a slave with no frames, the end of a stop. -/
def sapProgress (p : Fin 32) (m : Nat) (s : State) : State :=
  let x := s.sap p
  let s :=
    if x.state == .leadIn && x.slave && x.lastSample.isNone && decide (x.first ≤ 8 * m) then
      s.onSap p fun y => { y with state := .acquiring, leadEnd := none, joining := true, zc := [] }
    else match x.leadEnd with
      | some e =>
        if e ≤ m then
          let s := s.onSap p fun y => { y with leadEnd := none }
          if x.state = .leadIn then sapStarted p e s else s
        else s
      | none => s
  match (s.sap p).stopEnd with
  | some e => if e ≤ m then sapStopped p m s else s
  | none => s

/-! ## Zero-crossing starts and stops (R338) -/

/-- The unrounded signal on which a channel's zero crossing is judged, at sample s. -/
def Sap.judged (x : Sap) (c s : Nat) : Int :=
  if bitIn x.cfg.lineDir.toNat (c / 32) then (x.sinkWord c s).toInt else (x.received c s).1

def Sap.crosses (x : Sap) (c s : Nat) : Bool :=
  let a := x.judged c s
  a == 0 || decide (a * x.judged c (s - 1) < 0)

/-- Look for the zero crossing of one channel among the 8 samples from `lo` on. -/
def Sap.findZc (x : Sap) (lo : Nat) (z : ZcChan) : ZcChan :=
  if z.from_.isSome then z
  else
    let end_ := x.first + x.zcN
    match ((List.range 8).map (lo + ·)).find? (fun s => x.first ≤ s && (s < end_) && x.crosses z.chan s) with
    | some s => { z with from_ := some s }
    | none => if end_ < lo + 8 then { z with from_ := some end_, fade := true } else z

/-- The zero crossings of the port's outputs, or of its inputs, among the samples of a block: the one just received for inputs, the
one about to leave for outputs. -/
def Sap.seek (x : Sap) (out : Bool) (block : Nat) : Sap :=
  { x with zc := x.zc.map (fun z => if bitIn x.cfg.lineDir.toNat (z.chan / 32) = out then x.findZc (8 * block) z else z) }

/-- Every channel has started, or has stopped. -/
def Sap.zcDone (x : Sap) (m : Nat) : Bool :=
  x.zc.all (fun z => match z.from_ with
    | some a => !x.zcStop || decide (a + 8 * b2n z.fade ≤ 8 * m)
    | none => false)

/-- A cluster's start or stop is complete at boundary m: the start leaves LEAD_IN, and the stop ends in STOPPED from whatever state
clock trouble has brought (R338, R344). -/
def sapZero (p : Fin 32) (m : Nat) (s : State) : State :=
  let s := s.onSap p fun x => x.seek true m
  let x := s.sap p
  if s.isCluster && decide (x.first ≤ 8 * m) && x.zcDone m then
    if x.zcStop then sapStopped p m s else if x.state = .leadIn then sapStarted p m s else s
  else s

/-- SAP_ZC_TIMEOUT (R338): the channels that still wait start or stop with a fade. -/
def execSapZcTimeout (p : Fin 32) (s : State) : Host.Outcome State Fault Refusal :=
  .next (s.onSap p fun x =>
    { x with zc := x.zc.map (fun z => if z.from_.isSome then z else { z with from_ := some (x.first + x.zcN), fade := true }) })

/-! ## Frames (R331, R332, R343 to R348) -/

/-- The sample whose media instant is nearest, with the phase in [−T/2, +T/2). -/
def nearestSample (fs startPs : Nat) : Nat := (startPs * fs + 500000000000) / 1000000000000

/-- The phase of a frame start at sample s, in ps times fs; T is 10^12. -/
def phaseOf (fs startPs s : Nat) : Int := (startPs * fs : Nat) - (s * 1000000000000 : Nat)

def periodOk (fs periodPs : Nat) : Bool := (((periodPs * fs : Nat) : Int) - 1000000000000).natAbs * 200 ≤ 1000000000000

/-- The port's timebase loses it as a source (R300). -/
def sapSourceLost (p : Fin 32) (s : State) : State := loseSources (fun x => x.source == 4 && x.index == p.val) s

/-- The ramp-out of R344 runs from the last frame that carried a sample. -/
def Sap.rampOut (x : Sap) : Sap :=
  { x with outFrom := x.lastSample, lastFrame := if x.cur.isSome then x.words else x.lastFrame, lastSample := none,
           cur := none }

/-- Entry to RATE_MISMATCH (R347). -/
def rateMismatch (p : Fin 32) (cause : Bool) (period : Nat) (s : State) : State :=
  sapSourceLost p (raise 0x2006 [v8 p.val, v8 (b2n cause), v32 period]
    (s.onSap p fun x => { x with state := .rateMismatch, mismatch := cause, flags := setFlag x.flags 4, outFrom := x.lastSample,
                                 lastSample := none, cur := none }))

/-- The output frame that has ended had so many bits (R346): it has left already, or waits for the boundary of its block. -/
def Sap.cutFrame (x : Sap) (bits : Nat) : Sap :=
  match x.late.find? (fun l => some l.1 == x.cur) with
  | some _ => { x with late := x.late.map (fun l => if some l.1 = x.cur then (l.1, some bits) else l) }
  | none => match x.tx with
    | f :: t => { x with tx := { f with bits := some bits } :: t }
    | [] => x

/-- The frame that a frame start ends: its period and bit count are judged (R331, R346, R347). -/
def endFrame (p : Fin 32) (f : SapFrame) (s : State) : State :=
  let x := s.sap p
  let fs := s.fsOf x.cfg.domain
  if x.lastStart.isNone then s
  else
    let bitsOk := f.bits == x.cfg.frameBits
    let perOk := periodOk fs f.periodPs
    let s := s.onSap p fun y => { y with
      period := BitVec.ofNat 32 (min 4294967295 f.periodPs), validRun := if bitsOk && perOk then y.validRun + 1 else 0,
      badPeriods := if perOk then 0 else y.badPeriods + 1, badBits := if bitsOk then 0 else y.badBits + 1 }
    if x.state = .stopped then s
    else
      let s :=
        if bitsOk then s.onSap p fun y => if y.cur.isSome then { y with lastFrame := y.words } else y
        else
          let s := s.onSap p fun y => { y with
            glitches := satInc32 y.glitches, flags := setFlag y.flags 1, evGlitch := true,
            rx := y.rx.map (fun r => if some r.1 = y.cur then (r.1, y.lastFrame) else r) }
          let s := s.onSap p fun y => y.cutFrame f.bits
          raiseIf (!x.evGlitch) 0x2005 [v8 p.val, v16 f.bits] s
      let y := s.sap p
      if y.state = .rateMismatch then s
      else if 8 ≤ y.badPeriods then rateMismatch p false f.periodPs s
      else if 8 ≤ y.badBits then rateMismatch p true f.periodPs s
      else s

/-- A port recovers with frame G + 1, whose start lay at `start` (R345). -/
def recover (p : Fin 32) (start : Nat) (s : State) : State :=
  let x := s.sap p
  let s1 := nearestSample (s.fsOf x.cfg.domain) start
  let n := s1 / 8 + 1
  let fade := max n (x.leadEnd.getD 0)
  let waits := x.leadEnd.isSome || (!x.zc.isEmpty && !x.zcStop && x.zc.any (fun z => z.from_.isNone))
  let s := s.onSap p fun y => { y with
    state := if y.zcStop then .leadOut else if waits then .leadIn else .running, zeroTo := 8 * fade, fadeIn := some fade,
    outFrom := none, lastSample := some s1, cur := none, lastFrame := y.words, joining := false,
    startBlk := if y.joining then BitVec.ofNat 48 n else y.startBlk }
  raise 0x2004 [v8 p.val, v64 n] s

/-- A slave's frame is assigned to sample k (R332). -/
def assignFrame (p : Fin 32) (f : SapFrame) (k : Nat) (s : State) : State :=
  let ph := phaseOf (s.fsOf (s.sap p).cfg.domain) f.startPs k
  let ns := rne ph (1000 * max 1 (s.fsOf (s.sap p).cfg.domain))
  sapEmitOr p k (s.onSap p fun y => { y with
    lastSample := some k, cur := some k, words := y.cfg.capture f.lines, phase := BitVec.ofInt 32 ns,
    rx := ((k, y.cfg.capture f.lines) :: y.rx).take 64 })

/-- A sample that no frame carries is an underrun (R332). -/
def underrun (p : Fin 32) (smp : Nat) (s : State) : State :=
  raiseIf (!(s.sap p).evUnder) 0x2007 [v8 p.val, v64 smp]
    (s.onSap p fun y => { y with underruns := satInc32 y.underruns, flags := setFlag y.flags 2, evUnder := true })

/-- Steps 2 to 4 of R332: the next sample, a slip forward, or an overrun. -/
def nextFrame (p : Fin 32) (f : SapFrame) (last : Nat) (s : State) : State :=
  let x := s.sap p
  let fs := s.fsOf x.cfg.domain
  let ph := phaseOf fs f.startPs (last + 1)
  if 3000000000000 ≤ 4 * ph then
    assignFrame p f (last + 2) (underrun p (last + 1) s)
  else if 4 * ph < -3000000000000 then
    let s := s.onSap p fun y => { y with
      overruns := satInc32 y.overruns, flags := setFlag y.flags 3, evOver := true, cur := none, words := y.cfg.capture f.lines,
      phase := BitVec.ofInt 32 (rne ph (1000 * max 1 fs)) }
    sapEmit p none (raiseIf (!x.evOver) 0x2008 [v8 p.val, v64 (last + 1)] s)
  else assignFrame p f (last + 1) s

/-- The frame that begins: it is assigned, or it carries no sample and goes out as zeros. -/
def beginFrame (p : Fin 32) (f : SapFrame) (s : State) : State :=
  let x := s.sap p
  match x.lastSample, x.state with
  | _, .stopped => s
  | some k, _ => nextFrame p f k s
  | none, .leadIn =>
    let k := nearestSample (s.fsOf x.cfg.domain) f.startPs
    if decide (x.first ≤ k) && decide (0 < x.validRun) then assignFrame p f k s
    else sapEmit p none (s.onSap p fun y => { y with words := y.cfg.capture f.lines })
  | none, _ => sapEmit p none (s.onSap p fun y => { y with words := y.cfg.capture f.lines })

/-- A frame after a single missing frame sync: the sample that no frame has carried is an underrun (R343). -/
def afterMissing (p : Fin 32) (s : State) : State :=
  match (s.sap p).lastSample with
  | some k => underrun p (k + 1) (s.onSap p fun y => { y with lastSample := some (k + 1) })
  | none => s

/-- A frame start at a slave port. -/
def slaveFrame (p : Fin 32) (f : SapFrame) (s : State) : State :=
  let x0 := s.sap p
  let s := endFrame p f (s.onSap p fun y => { y with missing := 0 })
  let x := s.sap p
  let s := match x0.lastStart with
    | some t =>
      if (x.state == .acquiring || x.state == .noClock) && decide (2 ≤ x.validRun) then recover p t s else s
    | none => s
  let s := if x0.missing = 1 then afterMissing p s else s
  (beginFrame p f s).onSap p fun y => { y with lastStart := some f.startPs }

/-- A frame start at a master port: the frame carries the sample whose media instant is its start (R329). -/
def masterFrame (p : Fin 32) (f : SapFrame) (s : State) : State :=
  let x := s.sap p
  let k := nearestSample (s.fsOf x.cfg.domain) f.startPs
  if x.clocks && decide (x.clkFirst ≤ k) then
    let ws := x.cfg.capture f.lines
    s.onSap p fun y => { y with
      lastSample := some k, lastStart := some f.startPs, period := BitVec.ofNat 32 (min 4294967295 f.periodPs),
      words := ws, lastFrame := ws, rx := ((k, ws) :: y.rx).take 64 }
  else s

def frameStart (p : Fin 32) (f : SapFrame) (s : State) : State :=
  if (s.sap p).present then (if (s.sap p).slave then slaveFrame p f s else masterFrame p f s) else s

/-- SAP_FRAME_START (R332). -/
def execSapFrameStart (p : Fin 32) (f : SapFrame) (s : State) : Host.Outcome State Fault Refusal := .next (frameStart p f s)

/-- Frames carry samples in these states. -/
def SapState.data : SapState → Bool
  | .leadIn => true
  | .running => true
  | .leadOut => true
  | _ => false

/-- A stop is declared at the second missing frame sync (R344). -/
def clockStop (p : Fin 32) (s : State) : State :=
  let s := s.onSap p fun y => { y.rampOut with
    state := .noClock, flags := setFlag y.flags 0, validRun := 0, lastStart := none, missing := 2 }
  sapSourceLost p (raise 0x2003 [v8 p.val, v64 ((s.sap p).outFrom.getD 0)] s)

/-- A frame sync is missing (R343): a single one is an underrun once the next frame comes, and the second in a row declares a
stop. -/
def missingSync (p : Fin 32) (s : State) : State :=
  let x := s.sap p
  if x.present && x.slave && x.state.data && x.lastStart.isSome then
    if x.missing = 0 then s.onSap p fun y => { y with missing := 1 } else clockStop p s
  else s

/-- FRAME_SYNC_MISSING (R343). -/
def execFrameSyncMissing (p : Fin 32) (s : State) : Host.Outcome State Fault Refusal := .next (missingSync p s)

/-- A restart write (R348): without effect outside RATE_MISMATCH. -/
def sapRestart (p : Fin 32) (s : State) : State :=
  if (s.sap p).state = .rateMismatch then
    s.onSap p fun y => { y with state := .acquiring, badPeriods := 0, badBits := 0, validRun := 0, leadEnd := none }
  else s

/-- SAP_CTL_RESTART (R348). -/
def execSapCtlRestart (p : Fin 32) (s : State) : Host.Outcome State Fault Refusal := .next (sapRestart p s)

def sapClearCounts (p : Fin 32) (s : State) : State :=
  s.onSap p fun y => { y with underruns := 0, overruns := 0, glitches := 0, clips := 0 }

/-- SAP_CTL_CLEAR_COUNTS (R346). -/
def execSapCtlClearCounts (p : Fin 32) (s : State) : Host.Outcome State Fault Refusal := .next (sapClearCounts p s)

/-! ## A boundary of the port's domain -/

def PortBody.isSap : PortBody → Bool
  | .sap _ => true
  | _ => false

/-- What a SINK takes from the interval before the boundary at which a timebase now stands (R29). -/
def State.sinkFrame (s : State) (n : NodeRec) : Frame :=
  match n.inputs, workIdx (s.ivl n - 1) n with
  | e :: _, some w => s.edgeFrame e w
  | _, _ => silence

/-- The SINKs of a port, stream, lane or modulator that a test on its record names. -/
def State.sinksTo (s : State) (p : PortRec → Bool) : List NodeRec :=
  s.nodes.filter (fun n => n.type == .sink && ((s.portOf n).map p).getD false)

/-- The SINK words of an interval join the samples that wait: they leave from 2 samples after the boundary (R32). -/
def Sap.takeSink (x : Sap) (m c : Nat) (f : Frame) : Sap :=
  { x with outBuf := x.outBuf ++ f.zipIdx.map (fun q => (8 * m + 4 + q.2, c, q.1)) }

def sapSinks (p : Fin 32) (m : Nat) (s : State) : State :=
  let s := s.onSap p fun x => { x with outBuf := x.outBuf.filter (fun o => 8 * m ≤ o.1 + 16) }
  each (s.sinksTo (fun r => r.body.isSap && r.unit == p.val)) (fun n s => s.onSap p fun x => x.takeSink m n.bodyA (s.sinkFrame n)) s

/-- A master's clocks run, from its first sample on, until it stops, while mclk_valid is set (R311, R329). -/
def sapClocks (p : Fin 32) (s : State) : State :=
  let x := s.sap p
  let mclk := ((s.domain? x.cfg.domain).map (fun d => (s.apll d.apll).mclk)).getD false
  s.onSap p fun y => { y with clocks := y.cfg.master && y.state != .stopped && mclk }

/-- A frame that waited for the boundary of its block leaves, with the bits that it had. -/
def sapEmitLate (p : Fin 32) (l : Nat × Option Nat) (s : State) : State :=
  let s := sapEmit p (some l.1) s
  match l.2 with
  | some n => s.onSap p fun y => match y.tx with
    | f :: t => { y with tx := { f with bits := some n } :: t }
    | [] => y
  | none => s

/-- The frames of block m leave a master, from its first sample on; those of a slave leave with its own frame starts. -/
def sapOutputs (p : Fin 32) (m : Nat) (s : State) : State :=
  let x := s.sap p
  if x.cfg.master then
    (if x.clocks then
      each (((List.range 8).map (8 * m + ·)).filter (fun k => decide (x.clkFirst ≤ k))) (fun k => sapEmit p (some k)) s
    else s)
  else each x.late (sapEmitLate p) (s.onSap p fun y => { y with late := [] })

/-- An accepted jump of k whole blocks moves the port's sample numbers with the counter (R22, R302). -/
def Sap.shift (x : Sap) (fs : Nat) (k : Int) : Sap :=
  let a (n : Nat) : Nat := ((n : Int) + 8 * k).toNat
  let b (n : Nat) : Nat := ((n : Int) + k).toNat
  { x with
    lastSample := x.lastSample.map a, cur := x.cur.map a, outFrom := x.outFrom.map a, zeroTo := a x.zeroTo,
    lastStart := x.lastStart.map (fun t => ((t : Int) + k * 8000000000000 / (max 1 fs : Nat)).toNat),
    zeroFrom := x.zeroFrom.map a, first := a x.first, clkFirst := a x.clkFirst, fadeIn := x.fadeIn.map b, fadeOut := x.fadeOut.map b,
    leadEnd := x.leadEnd.map b, stopEnd := x.stopEnd.map b, late := x.late.map (fun l => (a l.1, l.2)),
    zc := x.zc.map (fun z => { z with from_ := z.from_.map a }), rx := x.rx.map (fun r => (a r.1, r.2)),
    outBuf := x.outBuf.map (fun o => (a o.1, o.2)), ramps := x.ramps.map (fun r => { r with first := b r.first }) }

/-- The mask writes of one boundary take effect at a port (R26, R341). -/
def sapMasks (p : Fin 32) (m : Nat) (items : List StageItem) (s : State) : State :=
  let writes := items.filterMap (fun i => match i with
    | .sapMask q k w => if q = p then some (k, w) else none
    | _ => none)
  s.onSap p fun x => x.takeMasks m writes

/-- What comes to a port at boundary m before its received block is delivered: its schedule, its triggers, and the zero crossings of
the samples that have come in (R335 to R339). -/
def sapEnter (p : Fin 32) (m : Nat) (items : List StageItem) (s : State) : State :=
  let trig (b : Bool) : Bool := items.any (fun i => match i with
    | .sapTrig q c => q == p && c == b
    | _ => false)
  let s := s.onSap p fun x => { x with evGlitch := false, evUnder := false, evOver := false, clipRun := x.clipNow, clipNow := false }
  let s := sapTake p m (trig true) (trig false) (sapProgress p m s)
  s.onSap p fun x => x.seek false (m - 1)

/-- What boundary m does at one port after that: the SINK data come in, a cluster's start or stop may be complete, and frames
leave. -/
def sapBoundary (p : Fin 32) (m : Nat) (s : State) : State :=
  sapOutputs p m (sapClocks p (sapZero p m (sapSinks p m s)))

/-- The ports of a domain, in rising number. -/
def State.sapsOf (s : State) (d : Fin 4) : List (Fin 32) :=
  (List.finRange 32).filter (fun p => (s.sap p).present && (s.sap p).cfg.domain == d)

end Sys2Proof.Machine
end

