-- ==== Sys2Proof/Machine/Amps.lean ====
section
/-! DEFINITION. Amplifier modulators and load diagnostics (R462 to R487): triggers, signal path, carrier periods, protection,
retries, diagnostics. -/

namespace Sys2Proof.Machine

/-! ## Triggers (R474, R475) -/

def AmpState.code : AmpState → Nat
  | .off => 0 | .starting => 1 | .running => 2 | .stopping => 3 | .shutdown => 4 | .testing => 5 | .latched => 6 | .diag => 7

/-- The channel passes its SINK data to the bridge (R463). -/
def AmpState.drives : AmpState → Bool
  | .starting => true | .running => true | .stopping => true
  | .off => false | .shutdown => false | .testing => false | .latched => false | .diag => false

/-- A test runs on the channel (R478, R485). -/
def AmpState.tests : AmpState → Bool
  | .testing => true | .diag => true
  | .off => false | .starting => false | .running => false | .stopping => false | .shutdown => false | .latched => false

/-- Stage an item on the timebase of a channel's domain. -/
def ampStage (c : Fin 16) (i : StageItem) (s : State) : State :=
  if (s.amp c).present then stage (s.tbOf (s.amp c).domain) i s else s

def ampTrigger (c : Fin 16) (start : Bool) (s : State) : State := ampStage c (.ampTrig c start) s

def ampTriggers (mask : Nat) (start : Bool) (s : State) : State :=
  each (maskBits mask 16) (fun i s => ampTrigger (fin 16 i) start s) s

/-- AMP_CTL_START (R474). -/
def execAmpCtlStart (c : Fin 16) (s : State) : Host.Outcome State Fault Refusal := .next (ampTrigger c true s)

/-- AMP_CTL_STOP (R474). -/
def execAmpCtlStop (c : Fin 16) (s : State) : Host.Outcome State Fault Refusal := .next (ampTrigger c false s)

/-- AMP_GO (R474). -/
def execAmpGo (mask : BitVec 16) (s : State) : Host.Outcome State Fault Refusal := .next (ampTriggers mask.toNat true s)

/-- AMP_HALT (R474). -/
def execAmpHalt (mask : BitVec 16) (s : State) : Host.Outcome State Fault Refusal := .next (ampTriggers mask.toNat false s)

/-- A diag write in OFF is staged; in any other state it is refused (R485). -/
def ampDiagWrite (c : Fin 16) (quick : Bool) (s : State) : State :=
  if !(s.amp c).present then s
  else if (s.amp c).state = .off then ampStage c (.ampDiag c quick) s
  else s.onAmp c fun a => { a with flags := setFlag a.flags 6 }

/-- AMP_CTL_DIAG (R485): the kind is diag_kind's. -/
def execAmpCtlDiag (c : Fin 16) (s : State) : Host.Outcome State Fault Refusal := .next (ampDiagWrite c (s.amp c).diagQuick s)

def ampClearCounts (c : Fin 16) (s : State) : State :=
  s.onAmp c fun a => { a with ocCycles := 0, shutdowns := 0, clips := 0 }

/-- AMP_CTL_CLEAR_COUNTS (R468). -/
def execAmpCtlClearCounts (c : Fin 16) (s : State) : Host.Outcome State Fault Refusal := .next (ampClearCounts c s)

/-- High-impedance, in a state that does not drive (R463). -/
def Amp.rest (a : Amp) (st : AmpState) : Amp :=
  { a with state := st, en := false, words := [], limNow := false, limRun := 0, limWin := [], runFrom := none, lost := none, ends := false }

/-- abort_retry (R480). -/
def abortRetry (c : Fin 16) (s : State) : State :=
  s.onAmp c fun a =>
    if a.state = .shutdown ∨ a.state = .testing then
      { a.rest .off with retries := 0, waitFrom := none, retryDue := false, resumed := false }
    else a

/-- ABORT_RETRY (R480). -/
def execAbortRetry (c : Fin 16) (s : State) : Host.Outcome State Fault Refusal := .next (abortRetry c s)

/-- clear_latch (R479). -/
def clearLatch (c : Fin 16) (s : State) : State :=
  s.onAmp c fun a => if a.state = .latched then { a.rest .off with retries := 0, resumed := false } else a

/-- CLEAR_LATCH (R479). -/
def execClearLatch (c : Fin 16) (s : State) : Host.Outcome State Fault Refusal := .next (clearLatch c s)

/-- A run starts: every earlier result is cleared (R484). -/
def Amp.beginRun (a : Amp) (st : AmpState) (quick : Bool) : Amp :=
  { a with state := st, runQuick := quick, en := true, cls := 0, points := 0, cNf := 0, rmin := 0, z := Vector.replicate 10 0,
           k := 0, shaped := true, lost := none, ends := false, limNow := false, limRun := 0, limWin := [], waitFrom := none, retryDue := false }

/-! ## Signal path (R464, R475, R481) -/

/-- thr_amp (R464, R481). -/
def Amp.threshold (a : Amp) : Nat := if a.braced then (rne (a.limThr.toNat * 501187 : Nat) 1000000).toNat else a.limThr.toNat

/-- The start or stop factor of sample i of block m, out of 8 (R475). -/
def Amp.factor (a : Amp) (m i : Nat) : Nat :=
  let t := a.trigBlk.toNat
  match a.state with
  | .starting => 0
  | .running => if m = t then i + 1 else 8
  | .stopping => if a.muted then 0 else if m = t then 8 else if m = t + 1 then 7 - i else 0
  | .off => 0 | .shutdown => 0 | .testing => 0 | .latched => 0 | .diag => 0

/-- The AMP record of a channel. -/
def isAmp (c : Fin 16) (r : PortRec) : Bool :=
  match r.body with
  | .amp _ => r.unit == c.val
  | _ => false

/-- The SINK data of the interval pass the channel limiter and join the words to be modulated (R464); the words of a block
take their factors as it begins. A channel that does not drive discards them (R477). -/
def ampWords (c : Fin 16) (m : Nat) (s : State) : State :=
  let a := s.amp c
  if a.state.drives then
    let x := match s.sinksTo (isAmp c) with
      | n :: _ => s.sinkFrame n
      | [] => silence
    let r := limitBlock a.threshold (limitKq (s.fsOf a.domain) 50) x { LimitSt.fresh 0 with gLast := a.gLast }
    let carry := (a.words.drop 8) ++ List.replicate (4 - (a.words.drop 8).length) 0
    let raw := carry ++ r.1
    let cur := ((raw.take 8).zipIdx).map (fun p => scale p.1 (a.factor m p.2) 8)
    s.onAmp c fun y => { y with gLast := r.2.gLast, words := cur ++ raw.drop 8 }
  else s.onAmp c fun y => { y with words := [] }

/-! ## A boundary of the channel's domain -/

/-- A start or stop trigger at boundary m (R474, R475); outside RUN a start is ignored (R502). -/
def ampTake (c : Fin 16) (m : Nat) (start stop : Bool) (s : State) : State :=
  let a := s.amp c
  if stop then
    (if a.state = .starting ∨ a.state = .running then
      s.onAmp c fun y => { y with state := .stopping, muted := y.state == .starting, trigBlk := BitVec.ofNat 48 m }
    else s)
  else if start then
    (if a.state = .off ∧ s.power.state = 4 then
      let l := max 1 a.startBlocks.toNat
      s.onAmp c fun y => { y with
        state := .starting, en := false, trigBlk := BitVec.ofNat 48 (m + 1 + l), muted := false, k := 0, width := 0,
        shaped := false, limNow := false, limRun := 0, limWin := [], words := [], waitFrom := none, retryDue := false }
    else raise 0xA00B [v8 c.val, v8 a.state.code] (s.onAmp c fun y => { y with flags := setFlag y.flags 5 }))
  else s

/-- A start that has reached its block is RUNNING (R475). -/
def ampRuns (c : Fin 16) (m : Nat) (s : State) : State :=
  let a := s.amp c
  if a.state = .starting ∧ a.trigBlk.toNat ≤ m then
    raise 0xA001 [v8 c.val, v64 m] (s.onAmp c fun y => { y with
      state := .running, trigBlk := BitVec.ofNat 48 m, runFrom := some s.now })
  else s

/-- A diag write takes effect (R485). -/
def ampDiagTake (c : Fin 16) (quick : Bool) (s : State) : State :=
  s.onAmp c fun a => if a.state = .off then a.beginRun .diag quick else { a with flags := setFlag a.flags 6 }

/-- The staged fields of a channel take effect (R26). -/
def ampFields (c : Fin 16) (items : List StageItem) (s : State) : State :=
  each items (fun i s => match i with
    | .ampIndex d v => if d = c then s.onAmp c fun a => { a with fsIndex := v } else s
    | .ampLim d v => if d = c then s.onAmp c fun a => { a with limThr := v } else s
    | _ => s) s

/-- What boundary m does at one channel, given the items staged for it. -/
def ampBoundary (c : Fin 16) (m : Nat) (items : List StageItem) (s : State) : State :=
  let trig (b : Bool) : Bool := items.any (fun i => match i with
    | .ampTrig d x => d == c && x == b
    | _ => false)
  let s := s.onAmp c fun a => { a with ocRaised := false, clipRun := a.clipNow, clipNow := false }
  let s := each items (fun i s => match i with
    | .ampDiag d q => if d = c then ampDiagTake c q s else s
    | _ => s) s
  let s := ampWords c m (ampRuns c m s)
  ampTake c m (trig true) (trig false) s

/-- The channels of a domain, in rising number. -/
def State.ampsOf (s : State) (d : Fin 4) : List (Fin 16) :=
  (List.finRange 16).filter (fun c => (s.amp c).present && (s.amp c).domain == d)

/-- The media instant of sample 8(m + 1), 6 sample periods after boundary m: a channel that starts joins its grid, and the period in
progress is the last of a channel that has stopped (R475). -/
def Amp.instant (a : Amp) (m : Nat) : Amp :=
  match a.state with
  | .starting => { a with en := true }
  | .stopping => { a with ends := a.ends || decide (a.trigBlk.toNat + 2 ≤ m) }
  | .off => a | .running => a | .shutdown => a | .testing => a | .latched => a | .diag => a

/-- That instant in every channel of a domain. The send deadline, 7.2 samples after the boundary, is the first command to follow it. -/
def ampInstant (d : Fin 4) (s : State) : State :=
  each (s.ampsOf d) (fun c s => s.onAmp c (·.instant (s.tb (s.tbOf d)).blk.toNat)) s

/-! ## Protection (R476 to R479) -/

/-- A retry has failed: the channel waits again, or latches after the 8th in a row (R478, R479). -/
def retryFailed (c : Fin 16) (s : State) : State :=
  let n := (s.amp c).retries + 1
  let s := s.onAmp c fun a => { a with retries := n, resumed := false }
  if 8 ≤ n then
    raise 0xA007 [v8 c.val] (s.onAmp c fun a => { a.rest .latched with flags := setFlag a.flags 3, waitFrom := none })
  else s.onAmp c fun a => { a.rest .shutdown with waitFrom := some s.now }

/-- A protection shutdown (R477); one within 1 s of RUNNING after a retry is a failed retry (R478). -/
def ampShutdown (c : Fin 16) (cause : Nat) (s : State) : State :=
  let a := s.amp c
  let again := a.resumed && (match a.runFrom with
    | some t => decide (s.now < t + Config.tick)
    | none => false)
  let s := s.onAmp c fun y => { y.rest .shutdown with
    shutdowns := satInc32 y.shutdowns, waitFrom := some s.now, resumed := false,
    flags := if cause = 2 then setFlag (setFlag y.flags 1) 2 else setFlag y.flags 1 }
  let s := raise 0xA004 [v8 c.val, v8 cause] s
  if again then retryFailed c s else s

/-! ## Legs and gates (R467, R469, R476) -/

/-- The edges of leg A that R467 gives the period in progress, by count, and the early edges among them; an early edge follows a
scheduled one of the same count. -/
def Amp.allEdges (a : Amp) : List (Nat × Bool) :=
  let mid := a.period / 2
  let put (l : List (Nat × Bool)) (e : Nat × Bool) : List (Nat × Bool) :=
    l.filter (fun x => decide (x.1 ≤ e.1)) ++ e :: l.filter (fun x => decide (e.1 < x.1))
  a.early.foldl put [(mid - (a.width + 1) / 2, true), (mid + a.width / 2, false)]

/-- The edges that change the level: a leg that has switched early holds its level until the next edge that leaves it (R476). -/
def levelEdges : Bool → List (Nat × Bool) → List (Nat × Bool)
  | _, [] => []
  | l, e :: t => if e.2 = l then levelEdges l t else e :: levelEdges e.2 t

/-- The last edge of leg A up to a count of the period in progress. -/
def Amp.edgeBefore (a : Amp) (count : Nat) : Option (Nat × Bool) :=
  ((levelEdges a.startHigh a.allEdges).filter (fun e => decide (e.1 ≤ count))).getLast?

/-- Leg A is high at a count of the period in progress (R467, R476). -/
def Amp.legHigh (a : Amp) (count : Nat) : Bool := ((a.edgeBefore count).map (·.2)).getD a.startHigh

/-- HSCLK cycles since the last edge of leg A; none before the first. -/
def Amp.sinceEdge (a : Amp) (count : Nat) : Option Nat :=
  match a.edgeBefore count with
  | some e => some (count - e.1)
  | none => a.lastEdge.map (· + count)

/-- The four gate outputs of a channel: the upper and the lower switch of each leg. -/
structure Gates where
  aHigh : Bool
  aLow  : Bool
  bHigh : Bool
  bLow  : Bool
  deriving DecidableEq, Repr

/-- The gate outputs at a count of the period in progress (R469). The edges are the turn-off instants, and the other gate of a leg
turns on dead_counts later; leg B is the complement of leg A. High-impedance holds all four off. -/
def Amp.gates (a : Amp) (count : Nat) : Gates :=
  let on := a.en && match a.sinceEdge count with
    | some n => decide (a.dead.toNat ≤ n)
    | none => true
  let hi := a.legHigh count
  { aHigh := on && hi, aLow := on && !hi, bHigh := on && !hi, bLow := on && hi }

/-- The period in progress gives way to the next: what leg A's edges leave behind. -/
def Amp.turnPeriod (a : Amp) : Amp :=
  if a.k = 0 then { a with early := [], startHigh := false, lastEdge := none }
  else { a with early := [], startHigh := a.legHigh a.period, lastEdge := a.sinceEdge a.period }

/-! ## Carrier periods (R466 to R468, R477) -/

/-- HSCLK of a channel's domain in Hz (R308). -/
def State.hsclk (s : State) (d : Fin 4) : Nat :=
  match s.domain? d with
  | some r => if rate441 r.rate then 722534400 else 786432000
  | none => 786432000

/-- Periods in round(f_c × 1 ms) (R477). -/
def State.ampWindow (s : State) (a : Amp) : Nat := (roundHalfUp (s.hsclk a.domain) (1000 * max 1 a.period)).toNat

/-- The count of its group's grid at which period k of a channel's slot starts (R470). -/
def Amp.periodStart (a : Amp) (k : Nat) : Nat := k * a.period + a.slot * a.period / a.groupSize

/-- The modulation index of a limited signal word, in 2^-38 (R464). -/
def Amp.index (a : Amp) (w : Word) : Int := w.toInt * (a.fsIndex.toNat : Int)

/-- The target width u_k of an index, in 2^-39 counts (R467). -/
def Amp.target (a : Amp) (m : Int) : Int := a.period * (2 ^ 38 + m)

/-- W_k of the next period before its limit (R467): half a period, exactly, while the data have been zero since the start; else what
the shaper gives for the target of the interpolated index. -/
def ampNext (c : Fin 16) (s : State) : Nat × State :=
  let a := s.amp c
  let still := !a.shaped && a.period % 2 == 0 && a.words.all (· == 0)
  if still then (a.period / 2, s)
  else
    let r := s.fresh
    let m := Config.ampIndex r.1 (a.words.map a.index)
    ((Config.ampShaper r.1 (a.target m)).toNat, r.2.onAmp c fun y => { y with shaped := true })

/-- The next period's width is limited to [min_pulse, period_counts − min_pulse]; a limit counts as a clip (R468). -/
def placePulse (c : Fin 16) (s : State) : State :=
  let r := ampNext c s
  let s := r.2
  let a := s.amp c
  let lo := a.minPulse.toNat
  let w := clampNat lo (a.period - lo) r.1
  let s := s.onAmp c Amp.turnPeriod
  if w = r.1 then s.onAmp c fun y => { y with width := w, k := y.k + 1 }
  else
    let first := !a.clipNow && !a.clipRun
    let s := s.onAmp c fun y => { y with
      width := w, k := y.k + 1, clips := satInc32 y.clips, clipNow := true, flags := setFlag y.flags 4 }
    raiseIf first 0xA009 [v8 c.val] s

/-- A channel has lost its clock: high-impedance and OFF (R472). -/
def ampLost (c : Fin 16) (p : Fin 4) (s : State) : State :=
  raise 0xA00C [v8 c.val, v8 p.val] (s.onAmp c fun y => { y.rest .off with resumed := false })

/-- The period in progress ends: its limiting counts toward a shutdown, a stop may be complete, a lost clock ends the channel (R472,
R475 to R477). -/
def endPeriod (c : Fin 16) (s : State) : State :=
  let a := s.amp c
  let win := (if a.limNow then a.k :: a.limWin else a.limWin).filter (fun p => a.k < p + s.ampWindow a)
  let run := if a.limNow then a.limRun + 1 else 0
  let s := s.onAmp c fun y => { y with limNow := false, limRun := run, limWin := win }
  if 64 ≤ run then ampShutdown c 0 s
  else if 256 ≤ win.length then ampShutdown c 1 s
  else if a.ends then raise 0xA002 [v8 c.val] (s.onAmp c fun y => { y.rest .off with resumed := false })
  else match a.lost with
    | some p => ampLost c p s
    | none => s

/-- One carrier period of a channel's slot: the period in progress ends, and the next is placed while the channel switches (R467, R468,
R470). -/
def carrierPeriod (c : Fin 16) (s : State) : State :=
  let s := s.onAmp c fun a => { a with grid := a.grid + 1 }
  if !(s.amp c).en then s
  else
    let s := endPeriod c s
    if (s.amp c).en then placePulse c s else s

/-- CARRIER_PERIOD (R467). -/
def execCarrierPeriod (c : Fin 16) (s : State) : Host.Outcome State Fault Refusal := .next (carrierPeriod c s)

/-! ## Diagnostics (R482 to R485) -/

/-- Test frequencies in Hz (R482). -/
def testPoints (quick : Bool) : List Nat :=
  if quick then [1000, 5000, 20000] else [20, 50, 100, 200, 500, 1000, 2000, 5000, 10000, 20000]

/-- Peak modulation index of the test sine, in 2^-38: full scale scaled by test_level (R482). -/
def Amp.testPeak (a : Amp) : Nat := dbToLin (a.fsIndex.toNat * 2 ^ 23) a.diagLevel.toInt

/-- Microseconds that a point takes: 5 ms to settle, then the longer of 10 ms and 8 cycles (R482). -/
def pointUs (hz : Nat) : Nat := 5000 + max 10000 (8000000 / hz)

/-- Milliseconds that a run takes: 796 for a full one, 45 for a quick one (R482). -/
def runMs (quick : Bool) : Nat := ((testPoints quick).map pointUs).sum / 1000

def leastZ (ps : List DiagPoint) : Nat :=
  match ps with
  | [] => 0
  | p :: t => t.foldl (fun a q => min a q.zMohm) p.zMohm

/-- The class of a run that was not ended early (R483). -/
def classOf (short open_ : Nat) (ps : List DiagPoint) : Fin 6 :=
  match ps with
  | [] => 5
  | p :: _ =>
    if leastZ ps < short then 2
    else if ps.all (fun q => decide (open_ < q.zMohm)) then 3
    else if open_ < p.zMohm ∧ p.phase < -600 ∧
        ps.any (fun q => short ≤ q.zMohm && q.zMohm ≤ open_ && decide (q.phase.natAbs ≤ 600)) then 4
    else 1

/-- A point as AMPnn_DIAG_Zk holds it (R484). -/
def pointWord (p : DiagPoint) : Word :=
  packW [(min p.zMohm 1048575, 12), ((BitVec.ofInt 12 p.phase).toNat, 0)]

/-- rne(10^9 / (2π f |Im Z|)) with |Im Z| in mΩ; none where it does not exist or does not fit. -/
def capNf (f im : Nat) : Option Nat :=
  if im = 0 then none
  else
    let v := (rne (1000000000000 * fxOne : Nat) (4 * halfPiFx * f * im)).toNat
    if v < 2 ^ 24 then some v else none

/-- The results of a run (R484). -/
def ampResults (c : Fin 16) (ps : List DiagPoint) (s : State) : State :=
  let a := s.amp c
  let ps := ps.take (testPoints a.runQuick).length
  let cls := classOf a.shortM.toNat a.openM.toNat ps
  let put (r : Nat × State) : State := r.2.onAmp c fun y => { y with
    cls := cls, points := ps.length, rmin := BitVec.ofNat 32 (leastZ ps), cNf := BitVec.ofNat 24 r.1,
    z := ps.zipIdx.foldl (fun v p => putN v p.2 (pointWord p.1)) (Vector.replicate 10 0) }
  match cls, ps with
  | 4, p :: _ =>
    match capNf ((testPoints a.runQuick).headD 1) p.imMohm with
    | some v => put (v, s)
    | none => let r := s.fresh; put ((Config.ampCap r.1).toNat, r.2)
  | _, _ => put (0, s)

/-- The end of a run with the class held: DIAG goes OFF; a retry test starts the channel or has failed (R478, R485). -/
def endRun (c : Fin 16) (s : State) : State :=
  let a := s.amp c
  if a.state = .diag then
    raise 0xA008 [v8 c.val, v8 a.cls.val, v32 a.rmin.toNat] (s.onAmp c fun y => y.rest .off)
  else if a.state = .testing then
    if a.cls = 1 ∨ a.cls = 4 then
      let s := raise 0xA005 [v8 c.val, v8 a.cls.val, v8 a.retries] (s.onAmp c fun y => { y.rest .off with resumed := true })
      ampTrigger c true (raise 0xA006 [v8 c.val] s)
    else retryFailed c (raise 0xA005 [v8 c.val, v8 a.cls.val, v8 (a.retries + 1)] s)
  else s

/-- DIAG_RUN_DONE (R483). -/
def execDiagRunDone (c : Fin 16) (points : List DiagPoint) (s : State) : Host.Outcome State Fault Refusal :=
  .next (if (s.amp c).state.tests then endRun c (ampResults c points s) else s)

/-- A run ends early with class ABORTED (R483). -/
def abortRun (c : Fin 16) (s : State) : State :=
  if (s.amp c).state.tests then endRun c (s.onAmp c fun a => { a with cls := 5 }) else s

/-- The comparator is blanked after each edge of leg A (R476). -/
def Amp.blanked (a : Amp) (count : Nat) : Bool :=
  match a.sinceEdge count with
  | some n => decide (n < a.blank.toNat)
  | none => false

/-- The comparator reports over-current at a count of the period: leg A switches early, and the period is limited (R476). -/
def overCurrent (c : Fin 16) (positive : Bool) (count : Nat) (s : State) : State :=
  let a := s.amp c
  if a.state.tests then abortRun c s
  else if a.state.drives && a.en && !a.blanked count && (a.legHigh count == positive) then
    let s := s.onAmp c fun y => { y with early := y.early ++ [(count, !positive)] }
    if a.limNow then s
    else
      let first := a.limRun == 0 && !a.ocRaised
      let s := s.onAmp c fun y => { y with
        limNow := true, ocCycles := satInc32 y.ocCycles, flags := setFlag y.flags 0, ocRaised := y.ocRaised || first }
      raiseIf first 0xA003 [v8 c.val, v8 (Config.ampDirection positive).toNat] s
  else s

/-- OVER_CURRENT (R476). -/
def execOverCurrent (c : Fin 16) (positive : Bool) (count : Nat) (s : State) : Host.Outcome State Fault Refusal :=
  .next (overCurrent c positive count s)

/-- AMPnn_FLT has been active for 40 ns (R477, R483). -/
def driverFault (c : Fin 16) (s : State) : State :=
  let st := (s.amp c).state
  if st.drives then ampShutdown c 2 s else if st.tests then abortRun c s else s

/-- DRIVER_FAULT (R477). -/
def execDriverFault (c : Fin 16) (s : State) : Host.Outcome State Fault Refusal := .next (driverFault c s)

/-- retry_ms has passed in SHUTDOWN: the quick test starts, unless the LY9740 is braced (R478, R481). -/
def retryTimer (c : Fin 16) (s : State) : State :=
  s.onAmp c fun a =>
    if a.state = .shutdown then (if a.braced then { a with retryDue := true } else a.beginRun .testing true) else a

/-- RETRY_TIMER (R478). -/
def execRetryTimer (c : Fin 16) (s : State) : Host.Outcome State Fault Refusal := .next (retryTimer c s)

/-- RETRY_COUNT_RESET (R479). -/
def execRetryCountReset (c : Fin 16) (s : State) : Host.Outcome State Fault Refusal :=
  .next (s.onAmp c fun a => if a.state = .running then { a with retries := 0 } else a)

/-! ## Clocks and supply dips (R472, R481) -/

/-- The APLL of a channel's domain is disabled or re-acquires (R472): a channel with a carrier period in progress goes on to its end. -/
def ampClockLoss (p : Fin 4) (s : State) : State :=
  each (List.finRange 16) (fun c s =>
    let a := s.amp c
    let mine := ((s.domain? a.domain).map (fun d => d.apll == p)).getD false
    if a.present && mine && (a.state.drives || a.state.tests) then
      (if a.k = 0 then ampLost c p s else s.onAmp c fun y => { y with lost := some p })
    else s) s

/-- AMP_CLOCK_LOSS (R472). -/
def execAmpClockLoss (a : Fin 4) (s : State) : Host.Outcome State Fault Refusal := .next (ampClockLoss a s)

/-- A brace begins or ends for every channel of the image (R481, R483). -/
def ampBrace (on : Bool) (s : State) : State :=
  each (List.finRange 16) (fun c s =>
    let a := s.amp c
    if !a.present || a.braced == on then s
    else
      let s := raise 0xA00A [v8 c.val, v8 (b2n on)] (s.onAmp c fun y => { y with braced := on })
      if on then abortRun c s
      else if a.retryDue then s.onAmp c fun y => if y.state = .shutdown then y.beginRun .testing true else { y with retryDue := false }
      else s) s

end Sys2Proof.Machine
end

