-- ==== Sys2Proof/Machine/Net.lean ====
section
/-! DEFINITION. Network streams and network time (chapter 11): links, IGMP, PTP messages, streams received and sent. -/

namespace Sys2Proof.Machine

/-- Streams send and receive only in RUN (R502). -/
def State.inRun (s : State) : Bool := s.power.state == 4

def netOut (n : Fin 4) (o : NetOut) (s : State) : State := s.onEth n fun x => { x with sent := (o :: x.sent).take 64 }

def discard (n : Fin 4) (s : State) : State := s.onEth n fun x => { x with rxDiscard := satInc32 x.rxDiscard }

/-! ## Legs and multicast membership (R380, R382, R383) -/

def isMcast (ip : Word) : Bool := ip.toNat / 2 ^ 28 == 0xE

/-- The leg of a receive stream. -/
def RxRec.leg (r : RxRec) (b : Bool) : Option RxLeg := if b then r.legB else some r.legA

def RxLeg.sources (l : RxLeg) : List Word := [l.src0, l.src1].filter (· != 0)

def Srx.legUp (x : Srx) (b : Bool) : Bool := if b then x.legB else x.legA

def setLeg (u : Fin 256) (b up : Bool) (s : State) : State :=
  s.onSrx u fun x => if b then { x with legB := up } else { x with legA := up }

/-- A leg comes up, and the stream with it (R380). -/
def legUp (u : Fin 256) (b : Bool) (s : State) : State :=
  if (s.srx u).legUp b then s
  else
    let s := raise 0x300B [v16 u.val, v8 (b2n b)] (setLeg u b true s)
    if (s.srx u).state = 2 then s else raise 0x3009 [v16 u.val] (s.onSrx u fun x => { x with state := 2 })

/-- A leg goes down; the stream is LOST when every leg is down (R380). -/
def legDown (u : Fin 256) (b : Bool) (s : State) : State :=
  if !(s.srx u).legUp b then s
  else
    let s := raise 0x300C [v16 u.val, v8 (b2n b)] (setLeg u b false s)
    let x := s.srx u
    if x.legA || x.legB then s else raise 0x300A [v16 u.val] (s.onSrx u fun x => { x with state := 3 })

/-- LEG_TIMEOUT (R380). -/
def execLegTimeout (u : Fin 256) (legB : Bool) (s : State) : Host.Outcome State Fault Refusal := .next (legDown u legB s)

/-- The enabled legs of receive streams on a port: stream, which leg, leg. -/
def State.legsOn (s : State) (n : Fin 4) : List (Fin 256 × Bool × RxLeg) :=
  (List.finRange 256).flatMap fun u =>
    match (s.srx u).cfg with
    | some r =>
      if (s.srx u).enable then
        ([false, true].filterMap fun b => (r.leg b).bind fun l => if l.port = n then some (u, b, l) else none)
      else []
    | none => []

/-- A membership report, a join or a leave goes out on a leg's port while its link is up. -/
def igmp (l : RxLeg) (f : Word → List Word → Bool → NetOut) (s : State) : State :=
  let e := s.eth l.port
  if e.linkUp && isMcast l.group then netOut l.port (f l.group (if e.igmpV2 then [] else l.sources) e.igmpV2) s else s

def joinLeg (l : RxLeg) (s : State) : State := igmp l NetOut.igmpJoin s

def leaveLeg (l : RxLeg) (s : State) : State := igmp l (fun g _ v => .igmpLeave g v) s

def RxRec.legs (r : RxRec) : List RxLeg := r.legA :: r.legB.toList

/-- The second report of a join, 1 s after the first (R382). -/
def igmpRepeat (u : Fin 256) (b : Bool) (s : State) : State :=
  let x := s.srx u
  match x.cfg.bind (fun r => r.leg b) with
  | some l => if x.enable then joinLeg l s else s
  | none => s

/-- IGMP_REPORT_REPEAT (R382). -/
def execIgmpReportRepeat (u : Fin 256) (legB : Bool) (s : State) : Host.Outcome State Fault Refusal :=
  .next (igmpRepeat u legB s)

/-- A query is answered for every enabled multicast leg it concerns (R382); a version 2 query changes the mode (R383). -/
def igmpQuery (n : Fin 4) (v2 : Bool) (group : Word) (s : State) : State :=
  let was := (s.eth n).igmpV2
  let s := if v2 then raiseIf (!was) 0x300F [v8 n.val] (s.onEth n fun x => { x with igmpV2 := true }) else s
  each ((s.legsOn n).filter (fun q => group == 0 || q.2.2.group == group)) (fun q s => igmp q.2.2 NetOut.igmpReport s) s

/-- IGMP_QUERY (R382). -/
def execIgmpQuery (n : Fin 4) (v2 : Bool) (group : Word) (s : State) : Host.Outcome State Fault Refusal :=
  .next (if (s.eth n).linkUp then igmpQuery n v2 group s else s)

/-- OLDER_VERSION_QUERIER_TIMEOUT (R383). -/
def execOlderVersionQuerierTimeout (n : Fin 4) (s : State) : Host.Outcome State Fault Refusal :=
  .next (s.onEth n fun x => { x with igmpV2 := false })

/-! ## Links and frames (R354, R356) -/

/-- A received ARP request: answered for the port's own address, else discarded. -/
def arp (n : Fin 4) (target : Word) (s : State) : State :=
  let e := s.eth n
  if !e.linkUp then s else if e.cfg.ip = target then netOut n (.arpReply target) s else discard n s

/-- ARP_REQUEST (R354). -/
def execArpRequest (n : Fin 4) (target : Word) (s : State) : Host.Outcome State Fault Refusal := .next (arp n target s)

/-- ETH_FRAME_DISCARD (R354). -/
def execEthFrameDiscard (n : Fin 4) (badFcs : Bool) (s : State) : Host.Outcome State Fault Refusal :=
  .next (if badFcs then s.onEth n fun x => { x with fcsErr := satInc32 x.fcsErr } else discard n s)

/-- A port's PTP state changes (R389). -/
def setPtp (n : Fin 4) (new : Fin 7) (s : State) : State :=
  let old := (s.eth n).ptpState
  if old = new then s
  else raise 0x3003 [v8 n.val, v8 old.val, v8 new.val] (s.onEth n fun x => { x with ptpState := new })

/-- PTP is lost for the timebases whose source is this port (R372): once, until a measurement comes again. -/
def ptpLost (n : Fin 4) (cause : Nat) (s : State) : State :=
  let uses (x : Timebase) : Bool := x.source == 1 && x.index == n.val && x.sourceValid
  if s.clk.tbs.toList.any uses then
    raise 0x3004 [v8 n.val, v8 (Config.ptpCause cause).toNat] (loseSources uses s)
  else s

def linkDown (n : Fin 4) (s : State) : State :=
  if !(s.eth n).linkUp then s
  else
    let s := raise 0x3002 [v8 n.val] (s.onEth n fun x => { x with linkUp := false, flags := setFlag x.flags 0 })
    let s := each (s.legsOn n) (fun q s => legDown q.1 q.2.1 s) s
    ptpLost n 0 (setPtp n 0 s)

/-- ETH_LINK_DOWN (R356). -/
def execEthLinkDown (n : Fin 4) (s : State) : Host.Outcome State Fault Refusal := .next (linkDown n s)

def linkUp (n : Fin 4) (s : State) : State :=
  let e := s.eth n
  if e.linkUp || !e.present || e.cfg.mode == 0 then s
  else
    let s := raise 0x3001 [v8 n.val] (s.onEth n fun x => { x with linkUp := true })
    if e.cfg.ptpEn then setPtp n 1 s else s

/-- ETH_LINK_UP (R356). -/
def execEthLinkUp (n : Fin 4) (s : State) : Host.Outcome State Fault Refusal := .next (linkUp n s)

/-! ## PTP (R368 to R375) -/

/-- The profile measures the path delay peer to peer, and carries its messages in Ethernet frames (R368). -/
def Eth.peerToPeer (e : Eth) : Bool := e.cfg.profile == 3

/-- The majorSdoId of a profile: 1 for IEEE 802.1AS, 0 for the others (PRESUMED: the two standards). -/
def majorSdoOf (p : Fin 4) : BitVec 4 := if p = 3 then 1 else 0

/-- What makes any message malformed (R373). -/
def Eth.malformed (e : Eth) (m : PtpMsg) (type : BitVec 4) : Bool :=
  m.version != 2 || !m.lengthOk || m.msgType != type || m.majorSdo != majorSdoOf e.cfg.profile || m.domain != e.cfg.ptpDomain

def ptpBad (n : Fin 4) (m : PtpMsg) (s : State) : State :=
  let e := s.eth n
  let now := due e.malAt (msTicks 1000) s.now
  let s := s.onEth n fun x => { x with
    ptpBad := satInc32 x.ptpBad, flags := setFlag x.flags 2, malAt := if now then some s.now else x.malAt }
  raiseIf now 0x3006 [v8 n.val, v8 m.msgType.toNat] s

/-- A received message: to the PTP engine where the port has PTP with its transport (R354), dropped and counted where malformed. -/
def ptpIn (n : Fin 4) (m : PtpMsg) (type : BitVec 4) (f : State → State) (s : State) : State :=
  let e := s.eth n
  if !e.linkUp then s
  else if !e.cfg.ptpEn || m.ethernet != e.peerToPeer then discard n s
  else if e.malformed m type then ptpBad n m s
  else f s

/-- A message that the port sends enters the transmit timestamp queue (R374, R375); whether its timestamp was kept. -/
def queueTs (n : Fin 4) (t : TxTs) (s : State) : Bool × State :=
  let e := s.eth n
  if e.txts.length < 64 then (true, s.onEth n fun x => { x with txts := x.txts ++ [t] })
  else
    (false, raiseIf (!e.txtsRun) 0x3007 [v8 n.val]
      (s.onEth n fun x => { x with txtsDrops := satInc32 x.txtsDrops, txtsRun := true, flags := setFlag x.flags 1 }))

/-- Plinth takes the transmit timestamps (R374); the run of drops ends with the empty queue (R375). -/
def takeTimestamps (s : State) : State :=
  each (List.finRange 4) (fun n s => s.onEth n fun x => { x with txts := [], txtsRun := false }) s

/-- Nanoseconds as a timebase time. -/
def ptpTime (v : Int) : TbTime :=
  { sec := BitVec.ofNat 48 (v.toNat / 1000000000), ns := BitVec.ofNat 32 (v.toNat % 1000000000), frac := 0 }

/-- A PTP message leaves. -/
def ptpSend (n : Fin 4) (type : BitVec 4) (seq : BitVec 16) (cls : Byte) (s : State) : State :=
  let e := s.eth n
  netOut n (.ptp e.peerToPeer type seq cls e.prio1 e.prio2) s

def sendEvent (n : Fin 4) (m : PtpMsg) (type : BitVec 4) (s : State) : Bool × State :=
  queueTs n { msgType := type, domain := (s.eth n).cfg.ptpDomain, seqId := m.seqId, time := ptpTime m.rxOrTx }
    (ptpSend n type m.seqId 0 s)

/-- meanPathDelay: the mean of the latest 8 path-delay results (R371). -/
def Eth.pathDelay (e : Eth) : Int := if e.delays.isEmpty then 0 else rne e.delays.sum e.delays.length

def addDelay (n : Fin 4) (d : Int) (s : State) : State :=
  s.onEth n fun x => { x with delays := (d :: x.delays).take 8 }

/-- The measurement of R371 goes to the port's own timebase, where that takes this port as its source. -/
def ptpMeasure (n : Fin 4) (t1 t2 corr : Int) (s : State) : State :=
  let e := s.eth n
  let o := t1 + e.pathDelay + rne e.asym.toInt 1000 + corr - t2
  let s := s.onEth n fun x => { x with lastSync := some (t1 + corr, t2), syncWait := none }
  let x := s.tb e.cfg.ptpTb
  if x.source = 1 ∧ x.index = n.val then measure e.cfg.ptpTb o s else s

/-- The port is in UNCALIBRATED or SLAVE, where it accepts its parent's messages. -/
def Eth.listens (e : Eth) (m : PtpMsg) : Bool := (e.ptpState == 2 || e.ptpState == 3) && e.parentSrc == m.source

/-- SYNC (R371). -/
def execSync (n : Fin 4) (m : PtpMsg) (s : State) : Host.Outcome State Fault Refusal :=
  .next (ptpIn n m 0 (fun s =>
    if !(s.eth n).listens m then s
    else if m.twoStep then s.onEth n fun x => { x with syncWait := some (m.seqId, m.rxOrTx, m.corrNs) }
    else ptpMeasure n m.origin m.rxOrTx m.corrNs s) s)

/-- FOLLOW_UP (R371). -/
def execFollowUp (n : Fin 4) (m : PtpMsg) (s : State) : Host.Outcome State Fault Refusal :=
  .next (ptpIn n m 8 (fun s =>
    match (s.eth n).syncWait with
    | some w =>
      if w.1 = m.seqId then (if (s.eth n).listens m then ptpMeasure n m.origin w.2.1 (w.2.2 + m.corrNs) s else s)
      else ptpBad n m s
    | none => ptpBad n m s) s)

/-- A message of one delay mechanism has its effect only under a profile that uses that mechanism (R368). -/
def underProfile (p2p : Bool) (n : Fin 4) (f : State → State) (s : State) : State := s.when ((s.eth n).peerToPeer == p2p) f

/-- The port runs slave-only (R369). -/
def State.slaveOnly (s : State) (n : Fin 4) : Bool :=
  let e := s.eth n
  let t := s.tb e.cfg.ptpTb
  !e.cfg.master || (t.source == 1 && t.index == n.val)

/-- A port that acts as master. -/
def State.ptpMaster (s : State) (n : Fin 4) : Bool :=
  let e := s.eth n
  e.linkUp && e.cfg.ptpEn && e.ptpState == 4 && !s.slaveOnly n

/-- A master that has become slave-only (R369) listens again: PRESUMED, IEEE 1588 (assumption 218). -/
def demoteMasters (s : State) : State :=
  each ((List.finRange 4).filter (fun n => (s.eth n).ptpState == 4 && s.slaveOnly n)) (fun n s => setPtp n 1 s) s

/-- DELAY_REQ (R368): sent, with its timestamp queued, or received and answered by a master. -/
def execDelayReq (n : Fin 4) (m : PtpMsg) (s : State) : Host.Outcome State Fault Refusal :=
  .next (if m.sent then
      (if (s.eth n).linkUp && (s.eth n).cfg.ptpEn && !(s.eth n).peerToPeer then
        (sendEvent n m 1 s).2.onEth n fun x => { x with delayWait := some (m.seqId, m.rxOrTx) }
      else s)
    else ptpIn n m 1 (underProfile false n fun s => if s.ptpMaster n then ptpSend n 9 m.seqId 0 s else s) s)

/-- DELAY_RESP (R371): the end-to-end path delay. -/
def execDelayResp (n : Fin 4) (m : PtpMsg) (s : State) : Host.Outcome State Fault Refusal :=
  .next (ptpIn n m 9 (underProfile false n fun s =>
    match (s.eth n).delayWait with
    | some w =>
      if w.1 = m.seqId then
        let s' := s.onEth n fun x => { x with delayWait := none }
        match (s.eth n).lastSync with
        | some p => addDelay n (rne ((p.2 - p.1) + (m.origin - w.2) - m.corrNs) 2) s'
        | none => s'
      else ptpBad n m s
    | none => ptpBad n m s) s)

/-- PDELAY_REQ (R368). -/
def execPdelayReq (n : Fin 4) (m : PtpMsg) (s : State) : Host.Outcome State Fault Refusal :=
  .next (if m.sent then
      (if (s.eth n).linkUp && (s.eth n).cfg.ptpEn && (s.eth n).peerToPeer then
        (sendEvent n m 2 s).2.onEth n fun x => { x with delayWait := some (m.seqId, m.rxOrTx) }
      else s)
    else ptpIn n m 2 id s)

/-- PDELAY_RESP (R371): sent, with its follow-up unless its timestamp was dropped, or received. -/
def execPdelayResp (n : Fin 4) (m : PtpMsg) (s : State) : Host.Outcome State Fault Refusal :=
  .next (if m.sent then
      (if (s.eth n).linkUp && (s.eth n).cfg.ptpEn && (s.eth n).peerToPeer then
        let r := sendEvent n m 3 s
        if r.1 then ptpSend n 0xA m.seqId 0 r.2 else r.2
      else s)
    else ptpIn n m 3 (underProfile true n fun s =>
      match (s.eth n).delayWait with
      | some w =>
        if w.1 = m.seqId then
          (if m.twoStep then s.onEth n fun x => { x with pdelayWait := some (m.seqId, m.origin, m.rxOrTx, m.corrNs) }
           else addDelay n (rne ((m.rxOrTx - w.2) - m.corrNs) 2) (s.onEth n fun x => { x with delayWait := none }))
        else s
      | none => s) s)

/-- PDELAY_RESP_FOLLOW_UP (R371). -/
def execPdelayRespFollowUp (n : Fin 4) (m : PtpMsg) (s : State) : Host.Outcome State Fault Refusal :=
  .next (ptpIn n m 0xA (underProfile true n fun s =>
    match (s.eth n).delayWait, (s.eth n).pdelayWait with
    | some w, some q =>
      if w.1 = m.seqId ∧ q.1 = m.seqId then
        addDelay n (rne ((q.2.2.1 - w.2) - (m.origin - q.2.1) - q.2.2.2 - m.corrNs) 2)
          (s.onEth n fun x => { x with delayWait := none, pdelayWait := none })
      else s
    | _, _ => s) s)

/-- An Announce and what the best-master-clock algorithm, which runs in firmware, made of it (R368, R372). -/
def announced (n : Fin 4) (m : PtpMsg) (st : Fin 7) (parent : Bool) (s : State) : State :=
  let old := (s.eth n).ptpState
  let st : Fin 7 := if s.slaveOnly n ∧ st = 4 then (if old = 4 then 1 else old) else st
  let changed := parent && (s.eth n).parent != m.gmId
  let s := if parent then s.onEth n fun x => { x with parent := m.gmId, parentSrc := m.source } else s
  let s := raiseIf changed 0x3005 [v8 n.val, v64 m.gmId.toNat] s
  let s := setPtp n st s
  if old = 3 ∧ st ≠ 3 then ptpLost n 1 s else s

/-- ANNOUNCE (R372). -/
def execAnnounce (n : Fin 4) (m : PtpMsg) (ptpState : Fin 7) (parent : Bool) (s : State) :
    Host.Outcome State Fault Refusal := .next (ptpIn n m 0xB (announced n m ptpState parent) s)

/-- SYNC_TIMEOUT (R372). -/
def execSyncTimeout (n : Fin 4) (s : State) : Host.Outcome State Fault Refusal := .next (ptpLost n 2 s)

/-- ANNOUNCE_RECEIPT_TIMEOUT (R372): PTP is lost; the port listens again, or becomes master (PRESUMED: IEEE 1588). -/
def execAnnounceReceiptTimeout (n : Fin 4) (s : State) : Host.Outcome State Fault Refusal :=
  .next (let s := ptpLost n 3 s
    let st := (s.eth n).ptpState
    if st = 2 ∨ st = 3 ∨ st = 1 ∨ st = 5 then setPtp n (if s.slaveOnly n then 1 else 4) s else s)

/-- SYNC_INTERVAL (R368, R375): a Sync, its timestamp and, where that was kept, its Follow_Up. -/
def execSyncInterval (n : Fin 4) (txTime : TbTime) (s : State) : Host.Outcome State Fault Refusal :=
  .next (if s.ptpMaster n then
      let q := (s.eth n).seqId
      let r := queueTs n { msgType := 0, domain := (s.eth n).cfg.ptpDomain, seqId := q, time := txTime } (ptpSend n 0 q 0 s)
      let s := if r.1 then ptpSend n 8 q 0 r.2 else r.2
      s.onEth n fun x => { x with seqId := q + 1 }
    else s)

/-- The clockClass that a port announces (R369). -/
def State.clockClassOf (s : State) (n : Fin 4) : Byte :=
  let e := s.eth n
  match s.tbState e.cfg.ptpTb with
  | .holdover => e.holdClass
  | .refused => e.holdClass
  | _ => e.clockClass

/-- ANNOUNCE_INTERVAL (R369). -/
def execAnnounceInterval (n : Fin 4) (s : State) : Host.Outcome State Fault Refusal :=
  .next (if s.ptpMaster n then
      (ptpSend n 0xB (s.eth n).seqId (s.clockClassOf n) s).onEth n fun x => { x with seqId := x.seqId + 1 }
    else s)

/-! ## Receiving a stream (R359 to R363, R367, R376 to R379) -/

/-- A leg that a datagram is a candidate for (R376). -/
def legTakes (r : RxRec) (l : RxLeg) (k : RtpPkt) : Bool :=
  l.group == k.destIp && l.udp == k.destUdp && (l.sources.isEmpty || l.sources.contains k.srcIp) && r.pt == k.pt

def RxRec.sampleBytes (r : RxRec) : Nat := if r.format = 1 then 3 else 4

/-- Big-endian sample bytes as a signal word (R361). -/
def netWord (fmt : Nat) (bs : List Byte) : Word :=
  if fmt = 1 then BitVec.ofInt 32 (sext (BitVec.ofNat 32 (beNat bs)) 24) else BitVec.ofNat 32 (beNat bs)

/-- The samples of a payload: sample i, its words by channel. -/
def RxRec.samplesOf (r : RxRec) (payload : List Byte) : List (List Word) :=
  let b := r.sampleBytes
  let data := if r.format = 1 then payload else payload.drop 8
  (List.range r.samples).map fun i =>
    (List.range r.channels).map fun c => netWord r.format (slice data (b * (r.channels * i + c)) b)

/-- The index nearest to `cur` that is congruent to v modulo 2^32 (R367). -/
def nearestIndex (cur v : Nat) : Nat :=
  let base := cur / 2 ^ 32 * 2 ^ 32 + v % 2 ^ 32
  if base + 2 ^ 31 ≤ cur then base + 2 ^ 32 else if cur + 2 ^ 31 < base ∧ 2 ^ 32 ≤ base then base - 2 ^ 32 else base

/-- The current media index of a domain, `since` ns after its last boundary. -/
def State.mediaIndex (s : State) (d : Fin 4) (since : Nat) : Nat :=
  8 * (s.tb (s.tbOf d)).blk.toNat + 2 + since * s.fsOf d / 1000000000

/-- The data of a packet (R362): past the CSRC list and a header extension, without the padding, whose last byte gives its
length. None where they do not fit the packet. -/
def rtpData (k : RtpPkt) : Option (List Byte) :=
  let d := k.payload.drop (4 * k.csrcs.toNat)
  let ext := if k.extended then 4 + 4 * beNat (slice d 2 2) else 0
  let body := d.drop ext
  let pad := if k.padded then leAt body (body.length - 1) 1 else 0
  if k.payload.length < 4 * k.csrcs.toNat ∨ d.length < ext ∨ (k.extended && d.length < 4) ∨ body.length < pad ∨ (k.padded && pad == 0)
    then none
  else some (body.take (body.length - pad))

/-- The format rules that make a candidate malformed (R362, R363, R376); `r0` is the index of its first sample. -/
def RxRec.malformed (r : RxRec) (k : RtpPkt) (r0 : Nat) : Bool :=
  k.version != 2 || match rtpData k with
    | none => true
    | some data =>
      if r.format = 1 then data.length != r.channels * r.samples * 3
      else data.length != 8 + 32 * r.channels || leAt data 0 1 != 1 || leAt data 1 1 != r.channels
        || r0 % 8 != 4 || beNat (slice data 4 4) != r0 / 8 % 2 ^ 32

/-- What the record of sequence numbers says of a candidate, and the record after (R377). -/
def Srx.sequence (x : Srx) (q : BitVec 16) : Option Srx :=
  match x.newest with
  | none => some { x with newest := some q, marked := [q] }
  | some n =>
    let d := (q - n).toInt
    if 0 < d then
      some { x with newest := some q, marked := q :: x.marked.filter (fun m => (q - m).toNat < 1024) }
    else if d ≤ -1024 ∨ x.marked.contains q then none
    else some { x with marked := q :: x.marked }

/-- Whether the SOURCE block of a media index has closed. -/
def State.sourceClosed (s : State) (d : Fin 4) (idx : Nat) : Bool :=
  let x := s.tb (s.tbOf d)
  idx / 8 < x.blk.toNat || (idx / 8 == x.blk.toNat && x.srcClosed)

/-- The time in ns from `since` ns after the last boundary to the close of the block of a media index. -/
def State.margin (s : State) (d : Fin 4) (idx since : Nat) : Int :=
  let fs := max 1 (s.fsOf d)
  let blk := (s.tb (s.tbOf d)).blk.toNat
  rne (((idx / 8 + 1 : Nat) - (blk : Int)) * 8000000000) fs - 1000 - since

/-- The samples of an accepted packet are written, or are late or early (R378). -/
def writeSamples (u : Fin 256) (r : RxRec) (r0 since : Nat) (ws : List (List Word)) (s : State) : State :=
  let cur := s.mediaIndex r.domain since
  let lim := cur + r.rxDelay + 2 * r.samples + 16
  let at_ := ws.zipIdx.map (fun q => (r0 + r.rxDelay + q.2, q.1))
  let late := at_.any (fun q => s.sourceClosed r.domain q.1)
  let early := at_.any (fun q => lim < q.1)
  let good := at_.filter (fun q => !s.sourceClosed r.domain q.1 && decide (q.1 ≤ lim))
  let m := s.margin r.domain (r0 + r.rxDelay + r.samples - 1) since
  s.onSrx u fun x => { x with
    late := if late then satInc32 x.late else x.late, early := if early then satInc32 x.early else x.early,
    margin := satWord (min x.margin.toInt m), buf := good ++ x.buf }

/-- A datagram at one of a stream's legs. -/
def streamPacket (u : Fin 256) (b : Bool) (r : RxRec) (k : RtpPkt) (s : State) : State :=
  let cur := s.mediaIndex r.domain k.sinceNs
  let r0 := nearestIndex cur (k.ts - r.tsOffset).toNat
  if r.malformed k r0 then
    let raised := (s.srx u).malRaised
    raiseIf (!raised) 0x300E [v16 u.val]
      (s.onSrx u fun x => { x with malformed := satInc32 x.malformed, malRaised := true })
  else match (s.srx u).sequence k.seq with
    | none => legUp u b (s.onSrx u fun x => { x with dups := satInc32 x.dups })
    | some x =>
      legUp u b (writeSamples u r r0 k.sinceNs (r.samplesOf ((rtpData k).getD []))
        (s.onSrx u fun _ => { x with packets := satInc32 x.packets }))

/-- Bytes of a datagram's frame, its FCS included. -/
def frameBytes (k : RtpPkt) : Nat := 14 + (if k.tagged then 4 else 0) + 20 + 4 * k.options + 8 + 12 + k.payload.length + 4

/-- The frames that a port takes in: their length (R353), no fragment, no IPv4 options, no wrong checksum (R354). -/
def Eth.takesFrame (e : Eth) (k : RtpPkt) : Bool :=
  decide (frameBytes k ≤ (if e.cfg.jumbo then 9216 else if k.tagged then 1522 else 1518))
    && !k.fragment && k.options == 0 && k.ipSumOk && k.udpSumOk

/-- A datagram arrives at a port: every enabled stream it is a candidate for takes it, on its first matching leg (R376). -/
def rtpArrives (n : Fin 4) (k : RtpPkt) (s : State) : State :=
  if !(s.eth n).linkUp then s
  else if !(s.eth n).takesFrame k then discard n s
  else
    let hits := (List.finRange 256).filterMap fun u =>
      ((s.legsOn n).find? (fun q => q.1 == u && (((s.srx u).cfg.map (fun r => legTakes r q.2.2 k)).getD false))).bind
        (fun q => (s.srx u).cfg.map (fun r => (u, q.2.1, r)))
    if !s.inRun || hits.isEmpty then discard n s
    else each hits (fun q s => streamPacket q.1 q.2.1 q.2.2 k s) s

/-- RTP_PACKET (R377). -/
def execRtpPacket (n : Fin 4) (pkt : RtpPkt) (s : State) : Host.Outcome State Fault Refusal := .next (rtpArrives n pkt s)

/-- One sample of a stream as its block closes: the words received, or none where it is missing (R379). The samples
delivered, and whether a run begins here. -/
def GapSt.step (g : GapSt) (channels : Nat) (got : Option (List Word)) : List Word × Bool × GapSt :=
  match got with
  | some ws =>
    let since := if 0 < g.run then 0 else g.since
    let out := if since < 8 then ws.map (fun w => scale w (since + 1) 8) else ws
    (out, false, { run := 0, since := min 8 (since + 1), last := ws })
  | none =>
    let out := (List.range channels).map fun c => if g.run < 8 then scale (nth g.last c 0) ((7 : Int) - g.run) 8 else 0
    (out, g.run == 0, { g with run := g.run + 1 })

/-- A SOURCE block is formed from the samples received for it: its samples by index, and the first missing index of a run
that begins in it. -/
def formBlock (g : GapSt) (channels base : Nat) (at_ : Nat → Option (List Word)) : List (List Word) × Option Nat × GapSt × Nat :=
  (List.range 8).foldl (fun acc i =>
    let r := acc.2.2.1.step channels (at_ (base + i))
    (acc.1 ++ [r.1], acc.2.1.or (if r.2.1 then some (base + i) else none), r.2.2, acc.2.2.2 + b2n r.2.1)) ([], none, g, 0)

/-- Samples by index turned into frames by channel. -/
def toFrames (channels : Nat) (ss : List (List Word)) : List Frame :=
  (List.range channels).map fun c => ss.map fun ws => nth ws c 0

/-- The SOURCE block of a receive stream closes (R379). -/
def closeStream (u : Fin 256) (r : RxRec) (s : State) : State :=
  let x := s.srx u
  let base := 8 * (s.tb (s.tbOf r.domain)).blk.toNat
  let f := formBlock x.gap r.channels base (fun i => (x.buf.find? (fun q => q.1 == i)).map (·.2))
  let s := s.onSrx u fun y => { y with
    gap := f.2.2.1, formed := some (toFrames r.channels f.1), gaps := satInc32 y.gaps f.2.2.2,
    buf := y.buf.filter (fun q => base + 8 ≤ q.1), gapRaised := y.gapRaised || f.2.1.isSome }
  match f.2.1 with
  | some i => raiseIf (!x.gapRaised) 0x300D [v16 u.val, v64 i] s
  | none => s

/-- The receive streams of a domain that run. -/
def State.rxOf (s : State) (d : Fin 4) : List (Fin 256 × RxRec) :=
  (List.finRange 256).filterMap fun u => match (s.srx u).cfg with
    | some r => if r.domain = d ∧ (s.srx u).enable then some (u, r) else none
    | none => none

/-- The counters of a receive stream are zeroed. -/
def Srx.cleared (x : Srx) : Srx :=
  { x with packets := 0, dups := 0, late := 0, early := 0, gaps := 0, malformed := 0, margin := 0x7FFFFFFF }

/-- NET_SRX_CLEAR_COUNTS (R378). -/
def execNetSrxClearCounts (u : Fin 256) (s : State) : Host.Outcome State Fault Refusal :=
  .next (s.onSrx u Srx.cleared)

/-! ## Enables (R382, R386, R502) -/

/-- A staged enable of a receive stream takes effect: it joins or leaves its groups. -/
def srxSet (u : Fin 256) (en : Bool) (s : State) : State :=
  let x := s.srx u
  match x.cfg with
  | none => s
  | some r =>
    if x.enable = en then s
    else if en then
      each r.legs joinLeg (s.onSrx u fun y => { Srx.reset with
        cfg := y.cfg, enableReg := y.enableReg, enable := true, state := 1, packets := y.packets, dups := y.dups,
        late := y.late, early := y.early, gaps := y.gaps, malformed := y.malformed, margin := y.margin })
    else
      each r.legs leaveLeg (s.onSrx u fun y => { y with
        enable := false, state := 0, legA := false, legB := false, newest := none, marked := [], buf := [], formed := none })

/-- NET_SRX_ENABLE (R382): the enable is staged on the stream's domain. -/
def srxEnable (u : Fin 256) (en : Bool) (s : State) : State :=
  let d := ((s.srx u).cfg.map (·.domain)).getD 0
  stage (s.tbOf d) (.srxEnable u en) (s.onSrx u fun x => { x with enableReg := en })

def execNetSrxEnable (u : Fin 256) (enable : Bool) (s : State) : Host.Outcome State Fault Refusal := .next (srxEnable u enable s)

def stxEnable (u : Fin 256) (en : Bool) (s : State) : State :=
  let d := ((s.stx u).cfg.map (·.domain)).getD 0
  stage (s.tbOf d) (.stxEnable u en) (s.onStx u fun x => { x with enableReg := en })

/-- NET_STX_ENABLE (R386). -/
def execNetStxEnable (u : Fin 256) (enable : Bool) (s : State) : Host.Outcome State Fault Refusal := .next (stxEnable u enable s)

/-- NET_STX_CLEAR_COUNTS (R366). -/
def execNetStxClearCounts (u : Fin 256) (s : State) : Host.Outcome State Fault Refusal :=
  .next (s.onStx u fun x => { x with packets := 0, late := 0 })

/-- The enables of a domain's streams at a boundary: those written, and in RUN those that waited for it; in READY none. -/
def streamEnables (d : Fin 4) (s : State) : State :=
  let s := each (List.finRange 256) (fun u s =>
    match (s.srx u).cfg with
    | some r => if r.domain = d then srxSet u ((s.srx u).enableReg && s.inRun) s else s
    | none => s) s
  each (List.finRange 256) (fun u s =>
    match (s.stx u).cfg with
    | some r => if r.domain = d then s.onStx u fun x => { x with enable := x.enableReg && s.inRun } else s
    | none => s) s

/-! ## Sending a stream (R364 to R366, R385 to R387) -/

/-- A signal word as the bytes of a sample (R361). -/
def netBytes (fmt : Nat) (w : Word) : List Byte :=
  if fmt = 1 then beBytes 3 ((BitVec.ofInt 24 (clampInt (-8388608) 8388607 w.toInt)).toNat) else beBytes 4 w.toNat

/-- The packets due at boundary g: their numbers (R365). -/
def TxRec.dueAt (r : TxRec) (g : Nat) : List Nat :=
  if r.format = 1 then
    let k := max 1 r.samples
    let p0 := (8 * g + 4) / k - 2
    ((List.range 6).map (p0 + ·)).filter (fun p => 4 ≤ p * k + k - 1 && (p * k + k - 5) / 8 == g)
  else [g]

def TxRec.firstStamp (r : TxRec) (p : Nat) : Nat := if r.format = 1 then p * r.samples else 8 * p + 4

/-- The payload of packet p (R361 to R363); a stamp that no SINK drove is zero. -/
def Stx.payload (x : Stx) (r : TxRec) (p : Nat) : List Byte :=
  let st := r.firstStamp p
  let body := (List.range r.samples).flatMap fun i =>
    let ws := ((x.buf.find? (fun q => q.1 == st + i)).map (·.2)).getD []
    (List.range r.channels).flatMap fun c => netBytes r.format (nth ws c 0)
  if r.format = 1 then body
  else [1, BitVec.ofNat 8 r.channels, 0, 0] ++ beBytes 4 (p % 2 ^ 32) ++ body

/-- Bytes on the wire of a payload (R366). -/
def wireBytes (e : Eth) (payload : Nat) : Nat := payload + 78 + (if e.cfg.vlan then 4 else 0)

def Eth.rate (e : Eth) : Nat := if e.cfg.mode = 2 then 25000000000 else 10000000000

/-- The legs of a transmit stream. -/
def TxRec.legs (r : TxRec) : List (Bool × TxLeg) := (false, r.legA) :: (r.legB.map (fun l => (true, l))).toList

/-- The sum of R355's checksums: 16-bit words in ones' complement. -/
def onesSum (bs : List Byte) : Nat :=
  bs.zipIdx.foldl (fun acc p => let v := acc + (if p.2 % 2 = 0 then p.1.toNat * 256 else p.1.toNat); v % 65536 + v / 65536) 0

def checksum (bs : List Byte) : Nat := 65535 - onesSum bs

/-- The destination MAC address of a leg (R355): a multicast group's is mapped under RFC 1112. -/
def TxLeg.destMac (l : TxLeg) : List Byte :=
  if isMcast l.dest then [0x01, 0x00, 0x5E] ++ beBytes 3 (l.dest.toNat % 2 ^ 23) else l.mac

/-- The headers of a stream's packet (R355, R362, R385): Ethernet with the port's tag, IPv4 with Don't Fragment and no
options, UDP with its checksum, RTP version 2 without padding, extension and CSRC. -/
def streamHeaders (e : Eth) (u : Fin 256) (r : TxRec) (l : Bool × TxLeg) (p : Nat) (payload : List Byte) : List Byte :=
  let rtp := [0x80, BitVec.ofNat 8 (r.pt.toNat + 128 * b2n (Config.rtpMarker u.val p))]
    ++ beBytes 2 (BitVec.ofNat 16 p + r.seqOffset).toNat ++ beBytes 4 (BitVec.ofNat 32 (r.firstStamp p) + r.tsOffset).toNat
    ++ beBytes 4 r.ssrc.toNat
  let n := 8 + rtp.length + payload.length
  let udp := beBytes 2 l.2.udpSrc.toNat ++ beBytes 2 l.2.udpDst.toNat ++ beBytes 2 n
  let ends := beBytes 4 e.cfg.ip.toNat ++ beBytes 4 l.2.dest.toNat
  let sum := checksum (ends ++ [0, 17] ++ beBytes 2 n ++ udp ++ [0, 0] ++ rtp ++ payload)
  let ip := [0x45, BitVec.ofNat 8 (r.dscp.toNat * 4)] ++ beBytes 2 (20 + n) ++ beBytes 2 (Config.ipId u.val p l.1).toNat
    ++ [0x40, 0, r.ttl, 17]
  let tag := if e.cfg.vlan then [0x81, 0x00] ++ beBytes 2 e.cfg.vlanTag.toNat else []
  l.2.destMac ++ e.cfg.mac ++ tag ++ [0x08, 0x00] ++ ip ++ beBytes 2 (checksum (ip ++ ends)) ++ ends
    ++ udp ++ beBytes 2 (if sum = 0 then 65535 else sum) ++ rtp

/-- One copy of a packet: it leaves when the frames before it on its port leave time in the block, else it is still due at
the next boundary and is discarded then. `used` counts the bytes already on each port. -/
def sendCopy (u : Fin 256) (r : TxRec) (p g : Nat) (l : Bool × TxLeg) (acc : Vector Nat 4 × State) : Vector Nat 4 × State :=
  let s := acc.2
  let n := l.2.port
  let e := s.eth n
  if !e.linkUp then acc
  else
    let pay := (s.stx u).payload r p
    let used := acc.1.get n
    if used * 8 * s.fsOf r.domain < 8 * e.rate then
      let s := netOut n (.rtp u.val l.1 p (streamHeaders e u r l p pay) pay) (s.onStx u fun x => { x with packets := satInc32 x.packets })
      (upd acc.1 n (· + wireBytes e pay.length), s)
    else (acc.1, s.onStx u fun x => { x with due := x.due ++ [(p, g, l.1)] })

/-- The copies that had not started by this boundary are discarded, and the ports that they waited for are late (R366). -/
def discardLate (u : Fin 256) (r : TxRec) (s : State) : State :=
  let old := (s.stx u).due
  let s := s.onStx u fun x => { x with due := [], late := satInc32 x.late old.length }
  let ports := r.legs.filterMap (fun l => if old.any (fun x => x.2.2 == l.1) then some l.2.port else none)
  each ports (fun n s =>
    raiseIf (!(s.eth n).lateRaised) 0x3008 [v16 u.val] (s.onEth n fun e => { e with lateRaised := true, flags := setFlag e.flags 3 })) s

/-- The transmit streams of a domain. -/
def State.txOf (s : State) (d : Fin 4) : List (Fin 256 × TxRec) :=
  (List.finRange 256).filterMap fun u => match (s.stx u).cfg with
    | some r => if r.domain = d then some (u, r) else none
    | none => none

/-- The SINK data of a stream's channels join its samples: stamps 8g + 4 to 8g + 11 (R364). -/
def takeStream (u : Fin 256) (r : TxRec) (g : Nat) (s : State) : State :=
  let isTx (b : PortBody) : Bool := match b with
    | .tx _ => true
    | _ => false
  let sinks := s.sinksTo (fun q => isTx q.body && q.unit == u.val)
  let frameOf (c : Nat) : Frame := match sinks.find? (fun n => n.bodyA == c) with
    | some n => s.sinkFrame n
    | none => silence
  let fs := (List.range r.channels).map frameOf
  let new := (List.range 8).map fun i => (8 * g + 4 + i, fs.map (fun f => nth f i 0))
  s.onStx u fun x => { x with buf := x.buf.filter (fun q => 8 * g < q.1 + 128) ++ new }

/-- The streams of a domain at boundary g: late copies go, new samples come in, due packets leave in unit order (R365). -/
def streamsSend (d : Fin 4) (g : Nat) (s : State) : State :=
  let us := s.txOf d
  let s := each (List.finRange 4) (fun n s => s.onEth n fun e => { e with lateRaised := false }) s
  let s := each us (fun q s => discardLate q.1 q.2 s) s
  let s := each us (fun q s => takeStream q.1 q.2 g s) s
  let live := us.filter (fun q => (s.stx q.1).enable && !(s.stx q.1).held)
  (live.foldl (fun acc q => (q.2.dueAt g).foldl (fun acc p => q.2.legs.foldl (fun acc l => sendCopy q.1 q.2 p g l acc) acc) acc)
    (Vector.replicate 4 0, s)).2

end Sys2Proof.Machine
end

