-- ==== Sys2Proof/Machine/Links.lean ====
section
/-! DEFINITION. What lanes carry in service: link channels (R441), time transfer (R443), and the loss of a lane as a source
(R300). -/

namespace Sys2Proof.Machine

/-- Lanes that carry link channels: ring, chord and AUDIO (R441). -/
def LaneSt.carries (l : LaneSt) : Bool :=
  l.isUp && (l.cfg.role == 1 || l.cfg.role == 2 || l.cfg.role == 3 || l.cfg.role == 6)

/-- The PORTS record of a lane. -/
def isLane (l : Fin 4) (r : PortRec) : Bool :=
  match r.body with
  | .link _ => r.unit == l.val
  | _ => false

/-- The SOURCEs of a unit that a test on its record names. -/
def State.sourcesOf (s : State) (p : PortRec → Bool) : List NodeRec :=
  s.nodes.filter (fun n => n.type == .source && ((s.portOf n).map p).getD false)

/-- The SINK data that an interval finalises (R29, R449). -/
def State.finalFrame (s : State) (n : NodeRec) : Frame :=
  match n.inputs, workIdx (s.ivl n) n with
  | e :: _, some w => s.edgeFrame e w
  | _, _ => silence

/-- The SINK data of a lane's block leave as they complete (R441). -/
def sendLink (l : Fin 4) (s : State) : State :=
  let x := s.lane l
  if x.carries && decide (0 < x.cfg.txCh) then
    let sinks := s.sinksTo (isLane l)
    let ch (c : Nat) : Frame := match sinks.find? (fun n => n.bodyA == c) with
      | some n => s.finalFrame n
      | none => silence
    laneSend l (.audio (s.tb (s.tbOf x.cfg.domain)).blk ((List.range x.cfg.txCh).flatMap ch)) s
  else s

/-- The lanes of a domain. -/
def State.lanesOf (s : State) (d : Fin 4) : List (Fin 4) :=
  (List.finRange 4).filter (fun l => (s.lane l).cfg.role != 0 && (s.lane l).cfg.domain == d)

/-- An AUDIO frame of block m is kept for its SOURCE frame at boundary m + 1; one that comes after it is discarded. -/
def receiveAudio (l : Fin 4) (block : Nat) (samples : List Word) (s : State) : State :=
  let x := s.lane l
  if x.carries && decide (0 < x.cfg.rxCh) then
    let s := laneRx l s
    let now := (s.tb (s.tbOf x.cfg.domain)).blk.toNat
    if block + 1 < now ∨ (block + 1 = now ∧ x.published) then s
    else s.onLane l fun y => { y with rx := (block, samples) :: y.rx.filter (fun r => r.1 != block) }
  else s

/-- AUDIO (R441). -/
def execAudio (l : Fin 4) (block : BitVec 48) (samples : List Word) (s : State) : Host.Outcome State Fault Refusal :=
  .next (receiveAudio l block.toNat samples s)

/-- The link SOURCE frame of the block before the boundary is published; a block that has not come is missing (R379, R441). -/
def publishLink (l : Fin 4) (s : State) : State :=
  let x := s.lane l
  if x.published || x.cfg.rxCh == 0 then s
  else
    let t := s.tb (s.tbOf x.cfg.domain)
    let m := t.blk.toNat - 1
    let got := (x.rx.find? (fun r => r.1 + 1 == t.blk.toNat)).map (·.2)
    let at_ (i : Nat) : Option (List Word) := got.map fun ws => (List.range x.cfg.rxCh).map fun c => nth ws (8 * c + i % 8) 0
    let f := formBlock x.gap x.cfg.rxCh (8 * m) at_
    let fs := toFrames x.cfg.rxCh f.1
    let late := got.isNone && x.isUp && !x.lateRaised
    let s := s.onLane l fun y => { y with
      published := true, gap := f.2.2.1, formed := some fs, lateRaised := y.lateRaised || late,
      rx := y.rx.filter (fun r => decide (t.blk.toNat ≤ r.1)) }
    let s := raiseIf late 0x9009 [v8 l.val] s
    each (s.sourcesOf (isLane l)) (fun n s => publish n.id (t.ivl - 1) [nth fs n.bodyA silence] s) s

/-- LINK_SOURCE_PUBLISH (R441). -/
def execLinkSourcePublish (l : Fin 4) (s : State) : Host.Outcome State Fault Refusal := .next (publishLink l s)

/-- A TIME frame gives the timebases whose source is this lane a measurement, or a loss (R300, R443). -/
def receiveTime (l : Fin 4) (t1 t2 t3 t4 : Int) (locked : Bool) (s : State) : State :=
  let x := s.lane l
  if x.isUp && x.cfg.timeXfer then
    let s := laneRx l s
    let o := rne (500 * ((t2 - t1) - (t4 - t3)) + x.cfg.asym) 1000
    each (List.finRange 4) (fun t s =>
      if (s.tb t).source = 5 ∧ (s.tb t).index = l.val then (if locked then measure t o s else sourceLost t s) else s) s
  else s

/-- TIME (R443). -/
def execTime (l : Fin 4) (t1 t2 t3 t4 : Int) (partnerLocked : Bool) (s : State) : Host.Outcome State Fault Refusal :=
  .next (receiveTime l t1 t2 t3 t4 partnerLocked s)

/-- A lane that has gone down is lost to the timebases it served (R300). -/
def linkLosses (s : State) : State :=
  loseSources (fun x => x.source == 5 && x.sourceValid && !(s.lane (fin 4 x.index)).isUp) s

end Sys2Proof.Machine
end

