-- ==== Sys2Proof/Machine/Load.lean ====
section
/-! DEFINITION. What a plan puts on an engine: cycles, domain and programs (R87, R89, R144). -/

namespace Sys2Proof.Machine

/-- The node is a process: an engine node (chapter 03). -/
def NodeType.isProcess : NodeType → Bool
  | .gain => true | .mux => true | .delay => true | .proc => true | .meter => true | .detect => true | .split => true
  | .source => false | .sink => false | .send => false | .sum => false | .limit => false

def Image.processes (m : Image) : List NodeRec := m.nodes.filter (fun n => n.type.isProcess)

def Image.program? (m : Image) (n : NodeRec) : Option ProgRec := m.programs.find? (fun p => p.id == n.bodyRef)

/-- Cycles per block charged to a process (R62, R144). -/
def Image.cyclesOf (m : Image) (n : NodeRec) : Nat :=
  match n.type with
  | .gain => 12
  | .mux => 20
  | .delay => 28
  | .meter => 14
  | .detect => 12
  | .split => 6 + 2 * n.outputs
  | .proc => ((m.program? n).map (·.cycles)).getD 0
  | .source => 0 | .sink => 0 | .send => 0 | .sum => 0 | .limit => 0

def siteOn (t : Site) (e : Fin 24) : Bool := t.prim == e || t.sec == some e

def siteOf (p : Plan) (node : Nat) : Option Site := p.sites.find? (fun t => t.node == node)

/-- The processes that a plan runs on an engine. -/
def Image.on (m : Image) (p : Plan) (e : Fin 24) : List NodeRec :=
  m.processes.filter (fun n => ((siteOf p n.id).map (siteOn · e)).getD false)

def Image.cyclesOn (m : Image) (p : Plan) (e : Fin 24) : Nat := ((m.on p e).map m.cyclesOf).sum

/-- The domain of an engine's processes. -/
def Image.domainOn (m : Image) (p : Plan) (e : Fin 24) : Option (Fin 4) := ((m.on p e).head?).map (·.domain)

def Image.fsOf (m : Image) (d : Fin 4) : Nat := ((m.domains.find? (fun r => r.dom == d)).map (fun r => rateHz r.rate)).getD 96000

/-- P × f × commit_limit / 1000 in cycles, for a frequency in units of 25 MHz (R89). -/
def cycleBound (fs freq commit : Nat) : Nat := 200000000 * freq * commit / (1000 * fs)

/-- The committed load of an engine meets R89 at a frequency. -/
def State.fitsAt (s : State) (e : Fin 24) (freq : Nat) : Bool :=
  match s.img.loaded, s.placer.current with
  | some m, some p =>
    match m.domainOn p e with
    | some d => m.cyclesOn p e ≤ cycleBound (m.fsOf d) freq s.placer.commit
    | none => true
  | _, _ => true

/-- Samples that a trimmable DELAY's region is allocated for at a delay value: the delay and trim_margin blocks, up to the maximum
(R97, R129); any other DELAY's holds the maximum. -/
def Image.delayRoom (m : Image) (n : NodeRec) (dly : Nat) : Nat :=
  match m.hints.find? (fun h => h.node == n.id && h.trimmable) with
  | some h => min n.bodyA (delayReach dly + 8 * (if h.margin = 0 then 96 else h.margin))
  | none => n.bodyA

/-- Bytes of a trimmable region that holds so many samples: a word each, in units of 8 bytes, and no more than it declares. -/
def trimmedSize (r : RegionRec) (samples : Nat) : Nat := min r.size ((4 * samples + 7) / 8 * 8)

/-- The domain whose processes an engine runs: that of the copies on it, the new copies of an overlap included (R115, R116),
else that of the current plan. -/
def State.engineDomain (s : State) (e : Fin 24) : Option (Fin 4) :=
  match (s.procs.find? (fun p => p.engine == e)).bind (fun p => (s.node? p.node).map (·.domain)) with
  | some d => some d
  | none => match s.img.loaded, s.placer.current with
    | some m, some p => m.domainOn p e
    | _, _ => none

end Sys2Proof.Machine
end

