-- ==== Sys2Proof/Machine/EngineRows.lean ====
section
/-! DEFINITION. The rows of the signal engines: one meaning for each slot operation of a word (R179 to R201), the ends of
loop bodies (R161), shared-memory accesses (R604) and debug (R176). The sender of a row stands for the fetch: it gives
the whole word, of which the row names one slot (assumption 11). -/

namespace Sys2Proof.Machine

/-- NOP (R188). -/
def execSeNop (e : Fin 24) (m0 m1 : MoveOp) (s : State) :
    Host.Outcome State Fault Refusal :=
  .next (issueWord e (computeWord (.nop) m0 m1) s)

/-- DONE (R141). -/
def execSeDone (e : Fin 24) (m0 m1 : MoveOp) (s : State) :
    Host.Outcome State Fault Refusal :=
  .next (issueWord e (computeWord (.done) m0 m1) s)

/-- BR (R158). -/
def execSeBr (e : Fin 24) (target : BitVec 13) (m0 m1 : MoveOp) (s : State) :
    Host.Outcome State Fault Refusal :=
  .next (issueWord e (computeWord (.br target.toNat) m0 m1) s)

/-- BC (R158). -/
def execSeBc (e : Fin 24) (c : Cond) (target : BitVec 13) (m0 m1 : MoveOp) (s : State) :
    Host.Outcome State Fault Refusal :=
  .next (issueWord e (computeWord (.bc c target.toNat) m0 m1) s)

/-- CALL (R160). -/
def execSeCall (e : Fin 24) (target : BitVec 13) (m0 m1 : MoveOp) (s : State) :
    Host.Outcome State Fault Refusal :=
  .next (issueWord e (computeWord (.call target.toNat) m0 m1) s)

/-- RET (R160). -/
def execSeRet (e : Fin 24) (m0 m1 : MoveOp) (s : State) :
    Host.Outcome State Fault Refusal :=
  .next (issueWord e (computeWord (.ret) m0 m1) s)

/-- LOOP (R161). -/
def execSeLoop (e : Fin 24) (ctr : Fin 2) (target : BitVec 13) (m0 m1 : MoveOp) (s : State) :
    Host.Outcome State Fault Refusal :=
  .next (issueWord e (computeWord (.loop ctr target.toNat) m0 m1) s)

/-- MUL (R166). -/
def execSeMul (e : Fin 24) (a : Fin 8) (va : Fin 16) (src : MSrc) (m0 m1 : MoveOp) (s : State) :
    Host.Outcome State Fault Refusal :=
  .next (issueWord e (computeWord (.mul a va src) m0 m1) s)

/-- MAC (R167). -/
def execSeMac (e : Fin 24) (a : Fin 8) (va : Fin 16) (src : MSrc) (m0 m1 : MoveOp) (s : State) :
    Host.Outcome State Fault Refusal :=
  .next (issueWord e (computeWord (.mac a va src) m0 m1) s)

/-- MSU (R167). -/
def execSeMsu (e : Fin 24) (a : Fin 8) (va : Fin 16) (src : MSrc) (m0 m1 : MoveOp) (s : State) :
    Host.Outcome State Fault Refusal :=
  .next (issueWord e (computeWord (.msu a va src) m0 m1) s)

/-- CLR (R188). -/
def execSeClr (e : Fin 24) (ad : Fin 8) (m0 m1 : MoveOp) (s : State) :
    Host.Outcome State Fault Refusal :=
  .next (issueWord e (computeWord (.clr ad) m0 m1) s)

/-- AADD (R188). -/
def execSeAadd (e : Fin 24) (ad as : Fin 8) (m0 m1 : MoveOp) (s : State) :
    Host.Outcome State Fault Refusal :=
  .next (issueWord e (computeWord (.aadd ad as) m0 m1) s)

/-- ASUB (R188). -/
def execSeAsub (e : Fin 24) (ad as : Fin 8) (m0 m1 : MoveOp) (s : State) :
    Host.Outcome State Fault Refusal :=
  .next (issueWord e (computeWord (.asub ad as) m0 m1) s)

/-- VADD (R170). -/
def execSeVadd (e : Fin 24) (vd va vb : Fin 16) (m0 m1 : MoveOp) (s : State) :
    Host.Outcome State Fault Refusal :=
  .next (issueWord e (computeWord (.vadd vd va vb) m0 m1) s)

/-- VSUB (R170). -/
def execSeVsub (e : Fin 24) (vd va vb : Fin 16) (m0 m1 : MoveOp) (s : State) :
    Host.Outcome State Fault Refusal :=
  .next (issueWord e (computeWord (.vsub vd va vb) m0 m1) s)

/-- VABS (R188). -/
def execSeVabs (e : Fin 24) (vd va : Fin 16) (m0 m1 : MoveOp) (s : State) :
    Host.Outcome State Fault Refusal :=
  .next (issueWord e (computeWord (.vabs vd va) m0 m1) s)

/-- VNEG (R188). -/
def execSeVneg (e : Fin 24) (vd va : Fin 16) (m0 m1 : MoveOp) (s : State) :
    Host.Outcome State Fault Refusal :=
  .next (issueWord e (computeWord (.vneg vd va) m0 m1) s)

/-- VMIN (R188). -/
def execSeVmin (e : Fin 24) (vd va vb : Fin 16) (m0 m1 : MoveOp) (s : State) :
    Host.Outcome State Fault Refusal :=
  .next (issueWord e (computeWord (.vmin vd va vb) m0 m1) s)

/-- VMAX (R188). -/
def execSeVmax (e : Fin 24) (vd va vb : Fin 16) (m0 m1 : MoveOp) (s : State) :
    Host.Outcome State Fault Refusal :=
  .next (issueWord e (computeWord (.vmax vd va vb) m0 m1) s)

/-- VAND (R188). -/
def execSeVand (e : Fin 24) (vd va vb : Fin 16) (m0 m1 : MoveOp) (s : State) :
    Host.Outcome State Fault Refusal :=
  .next (issueWord e (computeWord (.vand vd va vb) m0 m1) s)

/-- VOR (R188). -/
def execSeVor (e : Fin 24) (vd va vb : Fin 16) (m0 m1 : MoveOp) (s : State) :
    Host.Outcome State Fault Refusal :=
  .next (issueWord e (computeWord (.vor vd va vb) m0 m1) s)

/-- VXOR (R188). -/
def execSeVxor (e : Fin 24) (vd va vb : Fin 16) (m0 m1 : MoveOp) (s : State) :
    Host.Outcome State Fault Refusal :=
  .next (issueWord e (computeWord (.vxor vd va vb) m0 m1) s)

/-- VSHL (R188). -/
def execSeVshl (e : Fin 24) (vd va : Fin 16) (n : Fin 32) (m0 m1 : MoveOp) (s : State) :
    Host.Outcome State Fault Refusal :=
  .next (issueWord e (computeWord (.vshl vd va n) m0 m1) s)

/-- VSRA (R188). -/
def execSeVsra (e : Fin 24) (vd va : Fin 16) (n : Fin 32) (m0 m1 : MoveOp) (s : State) :
    Host.Outcome State Fault Refusal :=
  .next (issueWord e (computeWord (.vsra vd va n) m0 m1) s)

/-- VSEL (R188). -/
def execSeVsel (e : Fin 24) (vd va vb : Fin 16) (m0 m1 : MoveOp) (s : State) :
    Host.Outcome State Fault Refusal :=
  .next (issueWord e (computeWord (.vsel vd va vb) m0 m1) s)

/-- VCMPEQ (R188). -/
def execSeVcmpeq (e : Fin 24) (va vb : Fin 16) (m0 m1 : MoveOp) (s : State) :
    Host.Outcome State Fault Refusal :=
  .next (issueWord e (computeWord (.vcmpeq va vb) m0 m1) s)

/-- VCMPLT (R188). -/
def execSeVcmplt (e : Fin 24) (va vb : Fin 16) (m0 m1 : MoveOp) (s : State) :
    Host.Outcome State Fault Refusal :=
  .next (issueWord e (computeWord (.vcmplt va vb) m0 m1) s)

/-- VCMPLE (R188). -/
def execSeVcmple (e : Fin 24) (va vb : Fin 16) (m0 m1 : MoveOp) (s : State) :
    Host.Outcome State Fault Refusal :=
  .next (issueWord e (computeWord (.vcmple va vb) m0 m1) s)

/-- MOVE_NOP (R180). -/
def execSeMoveNop (e : Fin 24) (w : MovePeers) (s : State) :
    Host.Outcome State Fault Refusal :=
  .next (issueWord e (moveWord (.nop) w) s)

/-- VLD (R192). -/
def execSeVld (e : Fin 24) (v : Fin 16) (a : Addr) (w : MovePeers) (s : State) :
    Host.Outcome State Fault Refusal :=
  .next (issueWord e (moveWord (.vld v a) w) s)

/-- VST (R192). -/
def execSeVst (e : Fin 24) (v : Fin 16) (a : Addr) (w : MovePeers) (s : State) :
    Host.Outcome State Fault Refusal :=
  .next (issueWord e (moveWord (.vst v a) w) s)

/-- VBC (R192). -/
def execSeVbc (e : Fin 24) (v : Fin 16) (a : Addr) (w : MovePeers) (s : State) :
    Host.Outcome State Fault Refusal :=
  .next (issueWord e (moveWord (.vbc v a) w) s)

/-- VLDL (R195). -/
def execSeVldl (e : Fin 24) (v lane : Fin 16) (a : Addr) (w : MovePeers) (s : State) :
    Host.Outcome State Fault Refusal :=
  .next (issueWord e (moveWord (.vldl v lane a) w) s)

/-- VSTL (R192). -/
def execSeVstl (e : Fin 24) (v lane : Fin 16) (a : Addr) (w : MovePeers) (s : State) :
    Host.Outcome State Fault Refusal :=
  .next (issueWord e (moveWord (.vstl v lane a) w) s)

/-- LD (R404). -/
def execSeLd (e : Fin 24) (r : SReg) (a : Addr) (w : MovePeers) (s : State) :
    Host.Outcome State Fault Refusal :=
  .next (issueWord e (moveWord (.ld r a) w) s)

/-- ST (R192). -/
def execSeSt (e : Fin 24) (r : SReg) (a : Addr) (w : MovePeers) (s : State) :
    Host.Outcome State Fault Refusal :=
  .next (issueWord e (moveWord (.st r a) w) s)

/-- MOVA (R169). -/
def execSeMova (e : Fin 24) (v : Fin 16) (a : Fin 8) (sh : Shift) (w : MovePeers) (s : State) :
    Host.Outcome State Fault Refusal :=
  .next (issueWord e (moveWord (.mova v a sh) w) s)

/-- LDI (R192). -/
def execSeLdi (e : Fin 24) (r : SReg) (k : Fin 8) (imm : BitVec 8) (w : MovePeers) (s : State) :
    Host.Outcome State Fault Refusal :=
  .next (issueWord e (moveWord (.ldi r k imm.toInt) w) s)

/-- LDA (R192). -/
def execSeLda (e : Fin 24) (r : SReg) (win : Fin 64) (ofs : Fin 32) (w : MovePeers) (s : State) :
    Host.Outcome State Fault Refusal :=
  .next (issueWord e (moveWord (.lda r win ofs) w) s)

/-- MOV (R192). -/
def execSeMov (e : Fin 24) (dst src : SReg) (w : MovePeers) (s : State) :
    Host.Outcome State Fault Refusal :=
  .next (issueWord e (moveWord (.mov dst src) w) s)

/-- VMOV (R192). -/
def execSeVmov (e : Fin 24) (vd vs : Fin 16) (w : MovePeers) (s : State) :
    Host.Outcome State Fault Refusal :=
  .next (issueWord e (moveWord (.vmov vd vs) w) s)

/-- MVTA (R192). -/
def execSeMvta (e : Fin 24) (a : Fin 8) (v : Fin 16) (sh : Fin 64) (w : MovePeers) (s : State) :
    Host.Outcome State Fault Refusal :=
  .next (issueWord e (moveWord (.mvta a v sh) w) s)

/-- LDC (R192). -/
def execSeLdc (e : Fin 24) (ctr : Fin 2) (imm : BitVec 15) (w : MovePeers) (s : State) :
    Host.Outcome State Fault Refusal :=
  .next (issueWord e (moveWord (.ldc ctr imm) w) s)

/-- ADV (R194). -/
def execSeAdv (e : Fin 24) (p : Fin 8) (amount : AdvBy) (w : MovePeers) (s : State) :
    Host.Outcome State Fault Refusal :=
  .next (issueWord e (moveWord (.adv p amount) w) s)

/-- LOOP_RETURN (R161): the end of a body that has issued returns to its start or ends the loop. -/
def execLoopReturn (e : Fin 24) (s : State) :
    Host.Outcome State Fault Refusal :=
  .next (s.onEngine e fun g => if g.fg.atEnd then { g with fg := g.fg.loopReturn } else g)

/-- The data of the oldest shared-bank or staged-page read return after `cycles` (R604). -/
def readReturn (e : Fin 24) (cycles : Nat) (s : State) : State :=
  let back (c : Ctx) : Ctx := { c with readWait := false, cycles := c.cycles + cycles }
  finishWork e (s.onEngine e fun g =>
    if g.bg.readWait then { g with bg := back g.bg } else if g.fg.readWait then { g with fg := back g.fg } else g)

/-- SHARED_READ_RETURN (R604). -/
def execSharedReadReturn (e : Fin 24) (cycles : Nat) (s : State) :
    Host.Outcome State Fault Refusal :=
  .next (readReturn e cycles s)

/-- The oldest entry of the write buffer is granted and leaves it; a write that waited enters (R153, R604). -/
def drainWrite (e : Fin 24) (cycles : Nat) (s : State) : State :=
  match (s.engine e).wbuf with
  | [] => s
  | (a, bs) :: rest' =>
    let s := each (a :: if bs.isEmpty then [] else s.mirrorOf a) (fun x s => { s with mem := s.mem.putN x bs }) s
    finishWork e (s.onEngine e fun g =>
      match g.wbufWait with
      | [] => { g with wbuf := rest' }
      | x :: more =>
        let stall (c : Ctx) : Ctx := { c with cycles := c.cycles + cycles }
        let rest (c : Ctx) : Ctx := { c with storeWait := c.storeWait && !more.isEmpty }
        let g := { g with wbuf := rest' ++ [x], wbufWait := more }
        let g := if g.bg.storeWait then { g with bg := stall g.bg } else { g with fg := stall g.fg }
        { g with fg := rest g.fg, bg := rest g.bg })

/-- WRITE_BUFFER_DRAIN (R604). -/
def execWriteBufferDrain (e : Fin 24) (cycles : Nat) (s : State) :
    Host.Outcome State Fault Refusal :=
  .next (drainWrite e cycles s)

/-- A debug halt is permitted (R176). -/
def State.debugPermitted (s : State) : Bool :=
  (s.lcState == .develop || s.lcState == .ret) && (s.img.loaded.map (·.debug)).getD false

def haltRequest (e : Fin 24) (req : Bool) (s : State) : State :=
  let halts := req && s.debugPermitted && !(s.engine e).halted
  raiseIf halts 0x6007 [] (s.onEngine e fun g => { g with haltReq := req, halted := g.halted || halts })

/-- SE_HALT_REQ (R176). -/
def execSeHaltReq (e : Fin 24) (req : Bool) (s : State) : Host.Outcome State Fault Refusal := .next (haltRequest e req s)

/-- The engine runs on; work that was given up while it was halted is discarded (R127, R176). -/
def resumeEngine (e : Fin 24) (s : State) : State :=
  s.onEngine e fun g =>
    let keep (c : Ctx) : Ctx := if c.stale then Ctx.reset else c
    { g with halted := false, fg := keep g.fg, bg := keep g.bg
             parked := if g.bg.stale then none else g.parked, stalled := if g.fg.stale then none else g.stalled }

/-- SE_RESUME (R176). -/
def execSeResume (e : Fin 24) (s : State) :
    Host.Outcome State Fault Refusal :=
  .next (resumeEngine e s)

/-- While halted, the instruction at the program counter issues (R176). -/
def stepEngine (e : Fin 24) (s : State) : State :=
  let g := s.engine e
  match s.fgNode e with
  | some n =>
    if g.halted && g.free then
      let code := ((s.progOf n).map (·.code)).getD []
      let i := (code[g.fg.settle.pc]?).bind readWord
      issue e n (i.getD { c := .nop, m0 := .nop, m1 := .nop }) s
    else s
  | none => s

/-- SE_STEP (R176). -/
def execSeStep (e : Fin 24) (s : State) : Host.Outcome State Fault Refusal := .next (stepEngine e s)

/-- SE_CLEAR_STATS (R142). -/
def execSeClearStats (e : Fin 24) (s : State) :
    Host.Outcome State Fault Refusal :=
  .next (s.onEngine e fun g => { g with cyclesMax := 0, faults := 0 })

end Sys2Proof.Machine
end

