-- ==== Sys2Proof/Machine/Meters.lean ====
section
/-! DEFINITION. Meter records and their ring (R249 to R251, R600), and the events of DETECT nodes (R255). -/

namespace Sys2Proof.Machine

/-! ## Producing a record (R249, R250) -/

/-- METER nodes of a domain with the periods that their copy has finished. -/
def State.meters (s : State) (d : Fin 4) : List (NodeRec × List MeterVal) :=
  (s.nodes.filter (fun n => n.type == .meter && n.domain == d)).map
    (fun n => (n, ((s.procs.find? (fun p => p.node == n.id)).map (·.mDone)).getD []))

/-- Insert an entry in ascending slot order. -/
def insertSlot (e : Nat × Int × Int × Nat) : List (Nat × Int × Int × Nat) → List (Nat × Int × Int × Nat)
  | [] => [e]
  | h :: t => if e.1 ≤ h.1 then e :: h :: t else h :: insertSlot e t

/-- The block that ended last for a domain without METER nodes, if it ends a period. -/
def State.periodBlock (s : State) (d : Fin 4) : Option (BitVec 48) :=
  let b := (s.tb (s.tbOf d)).blk
  if (s.domain? d).isSome ∧ b.toNat % s.evt.period = 0 then some (b - 1) else none

/-- The oldest period that every METER node of a domain has finished: its last block (R251). -/
def periodDone (ms : List (NodeRec × List MeterVal)) : Option (BitVec 48) :=
  (((ms.head?.map (·.2)).getD []).map (·.block)).find? (fun b => ms.all (fun m => m.2.any (fun v => v.block == b)))

/-- The blocks of a period of a domain without METER nodes: since its last record, or since the load. -/
def State.plainBlocks (s : State) (d : Fin 4) (b : BitVec 48) : Nat :=
  min (s.tb (s.tbOf d)).ivl (match aget s.evt.mLast d.val with
    | some k => b.toNat - k
    | none => s.evt.period)

/-- The record of a period that every METER node of the domain has processed; none is produced while the ring is
disabled. -/
def produceMeter (d : Fin 4) (s : State) : State :=
  let ms := s.meters d
  match (if ms.isEmpty then s.periodBlock d else periodDone ms) with
  | none => s
  | some b =>
    let vals := ms.filterMap (fun m => (m.2.find? (fun v => v.block == b)).map (fun v => (m.1.bodyRef, v)))
    let entries := vals.foldl (fun l v => insertSlot (v.1, v.2.peak, v.2.rms, v.2.flags) l) []
    let blocks := if ms.isEmpty then s.plainBlocks d b else vals.foldl (fun a v => max a v.2.blocks) 0
    let s' := (s.onProcs fun p =>
      if ms.any (fun m => m.1.id == p.node) then { p with mDone := p.mDone.filter (fun v => decide (b.toNat < v.block.toNat)) }
      else p).onEvt fun v => { v with mLast := aset v.mLast d.val b.toNat }
    let seen := s.evt.mRecs.any (fun r => r.dom == d && r.block == b) || (ms.isEmpty && aget s.evt.mLast d.val == some b.toNat)
    if s.evt.mEnable && !seen then
      let r : MeterRec := { dom := d, block := b, seq := s.evt.mSeq, samples := 8 * blocks, entries := entries }
      s'.onEvt fun v => { v with mRecs := v.mRecs ++ [r], mSeq := v.mSeq + 1 }
    else s'

/-- METER_PERIOD_END (R249). -/
def execMeterPeriodEnd (dom : Fin 4) (s : State) : Host.Outcome State Fault Refusal := .next (produceMeter dom s)

/-! ## Writing a record (R250, R251) -/

def padTo64 (bs : List Byte) : List Byte := bs ++ zeroBytes (63 - (bs.length + 63) % 64)

/-- The bytes of a meter record. -/
def MeterRec.bytes (r : MeterRec) : List Byte :=
  let entry (e : Nat × Int × Int × Nat) : List Byte :=
    leBytes 2 e.1 ++ leBytes 2 (BitVec.ofInt 16 e.2.1).toNat ++ leBytes 2 (BitVec.ofInt 16 e.2.2.1).toNat
      ++ [BitVec.ofNat 8 e.2.2.2, 0]
  let len := (32 + 8 * r.entries.length + 63) / 64 * 64
  padTo64 (leBytes 4 len ++ [BitVec.ofNat 8 r.dom.val, 0] ++ leBytes 2 r.entries.length ++ leBytes 8 r.block.toNat
    ++ leBytes 4 r.seq.toNat ++ leBytes 4 r.samples ++ zeroBytes 8 ++ r.entries.flatMap entry)

/-- A pad record that fills the ring to its end. -/
def padRecord (n : Nat) : List Byte := leBytes 4 n ++ [0xFF] ++ zeroBytes (n - 5)

/-- Write one record and signal vector 1, or drop it (R251, R553). -/
def writeMeter (r : MeterRec) (s : State) : State :=
  let v := s.evt
  let bs := r.bytes
  let size := 2 ^ v.mLog2
  let wr := v.mWr.toNat % size
  let pad := if size < wr + bs.length then size - wr else 0
  if pad + bs.length ≤ ringFree v.mLog2 wr v.mRd.toNat then
    let m := if pad = 0 then s.hostMem else s.hostMem.store (v.mBase.toNat + wr) (padRecord pad)
    let at' := (wr + pad) % size
    let s' := { s with hostMem := m.store (v.mBase.toNat + at') bs }.onEvt fun x =>
      { x with mWr := BitVec.ofNat 32 ((at' + bs.length) % size), mDropRun := false }
    msixSignal 1 s'
  else
    let s' := s.onEvt fun x => { x with mDrops := satInc32 x.mDrops, mDropRun := true }
    raiseIf (!v.mDropRun) 0x7007 [v8 r.dom.val, v32 r.seq.toNat] s'

/-- The oldest record of a domain that waits. -/
def flushMeter (d : Fin 4) (s : State) : State :=
  match s.evt.mRecs.find? (fun r => r.dom == d) with
  | none => s
  | some r =>
    let s := s.onEvt fun v => { v with mRecs := v.mRecs.filter (fun x => !(x.dom == d && x.block == r.block)) }
    if s.evt.mEnable then writeMeter r s else s

/-- METER_RECORD_WRITE (R251). -/
def execMeterRecordWrite (dom : Fin 4) (s : State) : Host.Outcome State Fault Refusal := .next (flushMeter dom s)

/-! ## The ring's control (R600) -/

def meterReset (s : State) : State :=
  if s.evt.mEnable then s else s.onEvt fun v => { v with mWr := 0, mRd := 0, mSeq := 0, mDrops := 0 }

/-- METER_RING_RESET (R600): without effect while the ring is enabled. -/
def execMeterRingReset (s : State) : Host.Outcome State Fault Refusal := .next (meterReset s)

/-- METER_RING_ENABLE (R600). -/
def execMeterRingEnable (enable : Bool) (s : State) : Host.Outcome State Fault Refusal :=
  .next (s.onEvt fun v => { v with mEnable := enable })

/-- A write of EVT_METER_CTL (R600). -/
def meterCtlWrite (w : Word) (s : State) : State :=
  let before := s.evt.mEnable
  let after := flag w 0
  let s := s.onEvt fun v => { v with mPeriod := BitVec.ofNat 12 (fld w 27 16) }
  if before && after then s
  else
    let s := s.onEvt fun v => { v with mEnable := false }
    (if flag w 1 then meterReset s else s).onEvt fun v => { v with mEnable := after }

/-! ## DETECT events (R255) -/

/-- Insert a change in ascending node id. -/
def insertChange (e : Nat × Bool) : List (Nat × Bool) → List (Nat × Bool)
  | [] => [e]
  | h :: t => if e.1 < h.1 then e :: h :: t else h :: insertChange e t

/-- The changes of a pacing interval raise their events in ascending node id, 32 at most; the rest are counted. -/
def reportDetects (s : State) : State :=
  let cs := s.evt.detChanges.foldl (fun l e => insertChange e l) []
  let s := each (cs.take 32) (fun c t => raise (if c.2 then 0x7005 else 0x7006) [v32 c.1] t) s
  s.onEvt fun v => { v with detChanges := [], detCount := 0, detLost := satInc32 v.detLost (cs.length - 32) }

end Sys2Proof.Machine
end

