-- ==== Sys2Proof/Machine/MemSys.lean ====
section
/-! DEFINITION. Shared banks, DRAM controllers and the secure partition (chapter 12), and the release of an image (R80). -/

namespace Sys2Proof.Machine

/-! ## Shared banks (R405 to R411) -/

def BankState.code : BankState → Nat
  | .off => 0 | .retain => 1 | .on => 2 | .failed => 3

def bankStateOf (n : Nat) : BankState := if n = 0 then .off else if n = 1 then .retain else .on

def State.bank (s : State) (b : Fin 256) : BankState := s.xbar.bank.get b

/-- The request field of a bank. -/
def setReq (b : Fin 256) (v : BitVec 2) (s : State) : State :=
  s.onXbar fun x => { x with bankReq := upd x.bankReq b (fun _ => v) }

/-- Memory loses what it holds from `lo` up to `hi`, and the errors that stood there go with it. -/
def memLost (lo hi : Nat) (s : State) : State :=
  let stays (w : Nat) : Bool := decide (8 * w < lo) || decide (hi ≤ 8 * w)
  { s with mem := s.mem.clear lo hi }.onXbar fun x => { x with badCe := x.badCe.filter stays, badUe := x.badUe.filter stays }

/-- A bank enters a state; OFF loses its contents (R405, R407). -/
def bankEnter (b : Fin 256) (st : BankState) (s : State) : State :=
  let s := s.onXbar fun x => { x with bank := upd x.bank b (fun _ => st) }
  let s := if st = .off then memLost (bankBytes * b.val) (bankBytes * (b.val + 1)) s else s
  raise 0x4006 [v8 b.val, v8 st.code] s

/-- A request refused (R406): the field is set back. -/
def bankRefused (b : Fin 256) (reason : Nat) (s : State) : State :=
  raise 0x4007 [v8 b.val, v8 reason] (setReq b (BitVec.ofNat 2 (s.bank b).code) s)

/-- One bank's request (R406 to R408); it takes the place of one that still waits for the bank to be empty. -/
def bankRequest (b : Fin 256) (v : BitVec 2) (s : State) : State :=
  let st := s.bank b
  let s := if st = .failed ∨ v = 3 then s
    else ((setReq b v s).onXbar fun x => { x with bankWait := x.bankWait.filter (fun w => w.1 != b) }).onPlacer fun p =>
      { p with bankDue := p.bankDue.filter (fun w => w.1 != b) }
  if st = .failed ∨ v = 3 ∨ v.toNat = st.code ∨ v = 2 then s
  else if st = .on then
    if s.xbar.fixed.contains b.val then bankRefused b 0 s
    else if s.img.loaded.isNone then bankEnter b (bankStateOf v.toNat) s
    else queueTrigger .memory (s.onXbar fun x => { x with bankWait := x.bankWait ++ [(b, bankStateOf v.toNat)] })
  else bankEnter b (bankStateOf v.toNat) s

/-- A write of MEM_BANK_REQ_n: banks 16n to 16n + 15. -/
def bankReqWrite (n : Fin 16) (value : Word) (s : State) : State :=
  each (List.range 16) (fun i s => bankRequest (fin 256 (16 * n.val + i)) (BitVec.ofNat 2 (fld value (2 * i + 1) (2 * i))) s) s

/-- MEM_BANK_REQ_WRITE (R406). -/
def execMemBankReqWrite (n : Fin 16) (value : Word) (s : State) : Host.Outcome State Fault Refusal :=
  .next (bankReqWrite n value s)

/-- BANK_ON (R407): a bank asked to return to ON is on. -/
def execBankOn (b : Fin 256) (s : State) : Host.Outcome State Fault Refusal :=
  .next (match s.bank b with
    | .off => if s.xbar.bankReq.get b = 2 then bankEnter b .on s else s
    | .retain => if s.xbar.bankReq.get b = 2 then bankEnter b .on s else s
    | .on => s
    | .failed => s)

/-- SCRUB_PASS (R411): an ON bank is read and corrected in full while scrubbing is enabled. -/
def execScrubPass (b : Fin 256) (s : State) : Host.Outcome State Fault Refusal :=
  .next (if s.xbar.scrub && s.bank b == .on then
      let mine (w : Nat) : Bool := bankBytes * b.val ≤ 8 * w && decide (8 * w < bankBytes * (b.val + 1))
      let s1 := each (s.xbar.badCe.filter mine) (fun w s => bankCorrected b.val w s) s
      each (s.xbar.badUe.filter mine) (fun w s => bankUncorrectable (8 * w) s) s1
    else s)

/-! ## DRAM controllers (R414 to R419) -/

def State.dram (s : State) (c : Fin 2) : Dram := s.drams.get c

/-- Bytes of a DRAM controller that can be addressed (R415). -/
def Dram.bytes (d : Dram) : Nat := d.usable * 2 ^ 24

/-- The controller of a DRAM address is READY. -/
def State.dramReady (s : State) (a : Nat) : Bool := (s.dram (if a < dramBase 1 then 0 else 1)).state == .ready

/-- A controller that FAILED or is DOWN trains again (R419). -/
def dramRetrain (c : Fin 2) (s : State) : State :=
  let d := s.dram c
  if (d.state == .failed || d.state == .down) && (s.power.state == 3 || s.power.state == 4) then
    s.onDram c fun x => { x with state := .training, failStep := 0 }
  else s

/-- DRAM_RETRAIN (R419). -/
def execDramRetrain (c : Fin 2) (s : State) : Host.Outcome State Fault Refusal := .next (dramRetrain c s)

def dramClear (c : Fin 2) (s : State) : State := s.onDram c fun x => { x with ce := 0, ue := 0 }

/-- DRAM_CLEAR_COUNTS (R415). -/
def execDramClearCounts (c : Fin 2) (s : State) : Host.Outcome State Fault Refusal := .next (dramClear c s)

/-- Training ends (R416). -/
def trainingDone (c : Fin 2) (failStep : Nat) (s : State) : State :=
  let d := s.dram c
  if d.state != .training then s
  else if failStep = 0 then raise 0x400C [v8 c.val, v8 d.rate.toNat] (s.onDram c fun x => { x with state := .ready, failStep := 0 })
  else raise 0x400D [v8 c.val, v8 failStep] (s.onDram c fun x => { x with state := .failed, failStep := failStep })

/-- DRAM_TRAINING_DONE (R416). -/
def execDramTrainingDone (c : Fin 2) (failStep : Fin 6) (s : State) : Host.Outcome State Fault Refusal :=
  .next (trainingDone c failStep.val s)

/-- A READY controller goes DOWN (R418): a MEMORY trigger. -/
def dramDown (c : Fin 2) (cause : Nat) (s : State) : State :=
  if (s.dram c).state = .ready then
    queueTrigger .memory (raise 0x400E [v8 c.val, v8 cause] (s.onDram c fun x => { x with state := .down, ueAt := [] }))
  else s

/-- DRAM_DOWN (R418). -/
def execDramDown (c : Fin 2) (cause : Fin 3) (s : State) : Host.Outcome State Fault Refusal := .next (dramDown c cause.val s)

/-- MR4_READ (R417). -/
def execMr4Read (c : Fin 2) (mr4 : BitVec 16) (tempC : Int) (overLimit : Bool) (s : State) :
    Host.Outcome State Fault Refusal :=
  .next (if (s.dram c).state = .ready then
      let s := s.onDram c fun x => { x with mr4 := mr4 }
      let s := raiseIf (decide (85 < tempC)) 0x4010 [v8 c.val, v16 mr4.toNat] s
      if overLimit then dramDown c 1 s else s
    else s)

/-- WCK_RETRACK (R417). -/
def execWckRetrack (c : Fin 2) (s : State) : Host.Outcome State Fault Refusal :=
  .next (s.onDram c fun x => if x.state = .ready then { x with retracks := x.retracks + 1 } else x)

/-- An uncorrectable DRAM error (R415); the fourth in a second takes the controller down (R418). -/
def dramUncorrectable (c : Fin 2) (addr : Nat) (s : State) : State :=
  let at_ := s.now :: (s.dram c).ueAt.filter (fun t => s.now < t + Config.tick)
  let s := raise 0x400F [v8 c.val, v64 addr]
    (s.onDram c fun x => { x with ue := satInc32 x.ue, errAddr := BitVec.ofNat 40 addr, ueAt := at_ })
  if 4 ≤ at_.length then dramDown c 2 s else s

/-! ## Fences (R412) -/

/-- The transactions of a master that are outstanding, oldest first. -/
def State.mine (s : State) (m : Fin 37) : List XOut := s.xbar.outstanding.filter (fun o => o.master == m)

/-- A master's fence lifts once it has left reset and the drain is complete. -/
def liftFence (m : Fin 37) (s : State) : State :=
  if s.xbar.inReset.getLsbD m.val || s.xbar.fences.any (fun f => f.1 == m) then s
  else s.onXbar fun x => { x with fenced := putBit x.fenced m.val false }

/-- When the last outstanding transaction of a fenced master has completed, the fence is logged (step 5 of R412). -/
def endDrain (m : Fin 37) (s : State) : State :=
  match s.xbar.fences.find? (fun f => f.1 == m) with
  | none => s
  | some f =>
    if s.mine m = [] then
      let s := s.onXbar fun x => { x with
        fences := x.fences.filter (fun g => g.1 != m), fDrained := BitVec.ofNat 8 (min 255 f.2.2.2), fId := f.2.1, fMaster := m
        fAddr := f.2.2.1 }
      liftFence m (raise 0x4001 [v8 m.val, v8 f.2.1.val, v64 f.2.2.1.toNat] s)
    else s

/-- A master enters reset (R412): it is fenced, and the rest of a write burst is delivered with strobes off. -/
def masterReset (m : Fin 37) (s : State) : State :=
  if s.xbar.inReset.getLsbD m.val then s
  else
    let mine := s.mine m
    let first := (mine.find? (fun o => o.beats != 0)).or mine.head?
    let (id, addr, s) : Fin 16 × BitVec 40 × State := match first with
      | some o => (o.id, o.addr, s)
      | none => let f := s.fresh; let v := (Config.fenceIdle f.1).toNat; (fin 16 v, BitVec.ofNat 40 (v / 16), f.2)
    let s := s.onXbar fun x => { x with
      inReset := putBit x.inReset m.val true, fenced := putBit x.fenced m.val true
      outstanding := mapIf (fun o => o.master == m && o.beats != 0) (fun o => { o with beats := 0, resp := some (.okay []) }) x.outstanding
      fences := x.fences.filter (fun g => g.1 != m) ++ [(m, id, addr, 0)] }
    endDrain m s

/-- MASTER_RESET (R412). -/
def execMasterReset (m : Fin 37) (s : State) : Host.Outcome State Fault Refusal := .next (masterReset m s)

/-- FENCE_LIFT (R412): the master has left reset; its fence lifts now or with the end of the drain. -/
def execFenceLift (m : Fin 37) (s : State) : Host.Outcome State Fault Refusal :=
  .next (liftFence m (s.onXbar fun x => { x with inReset := putBit x.inReset m.val false }))

/-! ## The release of an image (R80, R267, R575, access type LK) -/

/-- A pair-state change (R452). -/
def PairState.code : PairState → Nat
  | .off => 0 | .alone => 1 | .joining => 2 | .verifying => 3 | .paired => 4 | .isolated => 5 | .held => 6

def setPair (new : PairState) (s : State) : State :=
  let old := s.red.pair
  if old = new then s else raise 0x900A [v8 old.code, v8 new.code] (s.onRed fun r => { r with pair := new })

def Sap.release (x : Sap) : Sap :=
  { Sap.reset with
    zcTimeout := x.zcTimeout, leadBlocks := x.leadBlocks, rampBlocks := x.rampBlocks, arm := x.arm, flags := x.flags,
    maskReg := x.maskReg, underruns := x.underruns, overruns := x.overruns, glitches := x.glitches, clips := x.clips,
    startBlk := x.startBlk, phase := x.phase, period := x.period }

def Amp.release (x : Amp) : Amp :=
  { x with present := false, fltHigh := false, domain := 0, blank := 0, dead := 0, period := 2048, autoStart := false,
           minPulse := 40, state := .off, en := false, groupSize := 0, slot := 0, words := [], waitFrom := none, runFrom := none,
           grid := 0, lost := none, ends := false }

/-- A staged item that outlives the image: those of the clock island and the placement limit. -/
def StageItem.outlives : StageItem → Bool
  | .tbSource _ _ => true | .tbAccept => true | .tbFirst _ => true | .tbSet _ => true | .tbStep _ => true | .commit _ => true | .clkOut _ _ _ _ => true
  | .param _ _ => false | .peerParam _ _ => false | .sapMask _ _ _ => false | .sapTrig _ _ => false | .ampTrig _ _ => false | .ampDiag _ _ => false
  | .ampIndex _ _ => false | .ampLim _ _ => false | .srxEnable _ _ => false | .stxEnable _ _ => false | .stopAll => false
  | .enterRun => false

/-- The engines lose every context; their flags and counts stay. -/
def Engine.release (g : Engine) : Engine :=
  { g with fg := Ctx.reset, bg := Ctx.reset, parked := none, stalled := none, orphan := none, wbuf := [],
           wbufWait := [],
           begun := [], spare := false }

def Placer.release (p : Placer) : Placer :=
  { p with state := .idle, trigger := none, queued := [], merged := [], reduced := false, arenaKib := 0, current := none,
           pending := none, table := [], next := [], slots := Vector.replicate 64 CopySlot.reset, moves := [], waiting := [],
           freeing := [], bankDue := [], pages := [],
           resizes := [] }

/-- A wipe of the secure partition starts (R421): the full one, or S2 to S7. -/
def secureErase (full : Bool) (s : State) : State :=
  let lo := if full then secureBase else secureBase + 0x20000
  (memLost lo (secureBase + 0x80000) s).onXbar fun x =>
    { x with secState := 1, secFull := full || (x.secState == 1 && x.secFull) }

/-- A load of boot steps S7 and S8 has failed at a load step: the next source follows, if any is left; a safe start has the
golden image only (R508, R510, R511). -/
def bootNext (step : Nat) (s : State) : State :=
  let x := s.power.start
  let s := s.onStart fun y => { y with failStep := if y.failStep = 0 then step else y.failStep }
  if x.safe ∨ x.source = 2 then s
  else
    let src : Fin 3 := x.source + 1
    let s := s.onStart fun y => { y with source := src, step := 7 }
    let s := writeStep 7 (stepWord 0 src.val (wordForm ((s.ledgerAt s.ao.newest).steps.get 7)) 1) s
    s.onImg fun m => { m with
      state := 1, step := 1,
      req := some { verify := false, source := fin 4 src.val, addr := 0, step := 1, image := none, boot := true, placed := none } }

/-- A load or verify ends in failure (R79, R82). -/
def failLoad (step code detail : Nat) (s : State) : State :=
  match s.img.req with
  | none => s
  | some q =>
    let s := s.onImg fun m => { m with
      result := BitVec.ofNat 16 code, step := BitVec.ofNat 4 step, detail := BitVec.ofNat 32 detail, req := none,
      state := if q.verify then 6 else 3 }
    if q.boot then bootNext step s else s

/-- The result code that a load step is named by first (R79). -/
def stepCode (step : Nat) : Nat :=
  getN #v[0, 0x0101, 0x0102, 0x0201, 0x0202, 0x0203, 0x0301, 0x0303, 0x0401, 0x0501, 0x0601, 0x0801, 0x0901] step 0

/-- A wipe: a full one that starts during a load fails the load at its step (R422). -/
def secureWipe (full : Bool) (s : State) : State :=
  let s := secureErase full s
  match s.img.req with
  | some q => if full && !q.verify then failLoad q.step (stepCode q.step) 0 s else s
  | none => s

/-- The loaded image is released (R80): its slots empty (R267), its routing and its LK fields return to reset (R575), what it
placed is gone, a plan that has not switched is given up (R136), and an image wipe starts (R421). -/
def releaseImage (s : State) : State :=
  if s.img.loaded.isNone then s
  else
    let s := raiseIf s.placer.pending.isSome 0x5002 [] (releaseScenes s)
    let s := each (List.finRange 4) (fun n s => linkDown n s) s
    let s := setPair .off s
    let s := s.onImg fun m => { m with loaded := none }
    let s := s.onEvt fun v => { v with classVec := Evt.reset.classVec, ovr := Evt.reset.ovr, detChanges := [] }
    let emptied := s.xbar.bankWait ++ s.placer.bankDue
    let s := s.onPlacer Placer.release
    let s := each emptied (fun w s => bankEnter w.1 w.2 s) (s.onXbar fun x => { x with bankWait := [] })
    let s := s.onEngines Engine.release
    let s := s.onFabric fun f => { Fabric.reset with
      overruns := f.overruns, sumSat := f.sumSat, finishMax := f.finishMax, grAlarm := f.grAlarm,
      satNow := f.satNow }
    let s := s.onScene fun c => { c with params := [] }
    let s := s.onClk fun c => { c with
      tbs := c.tbs.map (fun t => { t with staged := t.staged.filter (fun i => i.item.outlives), numbered := [] }) }
    let s := s.onXbar fun x => { x with fixed := [], lateWin := [], outstanding := x.outstanding.map (fun o => { o with lane := none }) }
    let s := s.onRed fun r => { r with
      pairs := [], digest := 0, digests := [], healths := [], duetBad := none, due := none, reconnect := none, seedPhase := 0,
      seedParams := [], seedEpoch := none, seedWritten := [], lastBreath := none, seedDone := [], seedGains := [], seedSends := [], seedLimits := [], seedSrc := 0, reseed := false, paramEpoch := 0,
      partnerTx := false, partnerState := 0, matches_ := 0, missed := 0, heard := 0, seedFails := 0, clusterBad := [], healthSeen := [],
      lanes := r.lanes.map (fun l => { LaneSt.reset with failures := l.failures, retx := l.retx }) }
    let net (x : Net) : Net := { x with
      eths := x.eths.map (fun e => { e with cfg := EthRec.reset, present := false, igmpV2 := false }),
      rx := x.rx.map (fun u => { Srx.reset with
        enableReg := u.enableReg, packets := u.packets, dups := u.dups, late := u.late, early := u.early, gaps := u.gaps, malformed := u.malformed,
        margin := u.margin }),
      tx := x.tx.map (fun u => { Stx.reset with enableReg := u.enableReg, packets := u.packets, late := u.late }), spillKib := 0, poolKib := 0 }
    let s := { s with procs := [], outs := [], saps := s.saps.map Sap.release, amps := s.amps.map Amp.release, net := net s.net }
    secureErase false s

/-! ## Wipes (R421, R422) -/

/-- MEM_SEC_WIPE (R421). -/
def execMemSecWipe (s : State) : Host.Outcome State Fault Refusal := .next (secureWipe true s)

/-- The read-back of a wipe (R421, R422): the partition opens, or is CLOSED until the next power-on reset. -/
def wipeDone (bad : Byte) (s : State) : State :=
  if s.xbar.secState != 1 then s
  else
    let full := s.xbar.secFull
    let shut := s.xbar.secClosed || bad != 0
    let s := s.onXbar fun x => { x with secBad := bad, secClosed := shut, secFull := false, secState := if shut then 2 else 0 }
    if bad = 0 then raise 0x4012 [v8 (b2n full)] s else raise 0x4013 [v8 bad.toNat] s

end Sys2Proof.Machine
end

