-- ==== Sys2Proof/Machine/LifeCycle.lean ====
section
/-! DEFINITION. The Patina monitor, the life cycle and the tamper sensors (chapter 16). -/

namespace Sys2Proof.Machine

/-! ## Non-volatile writes (R520, R540) -/

/-- A copy of the life-cycle transition's remaining steps: the items of R539 are erased and the new state is written. -/
def lcErase (new : LcState) (s : State) : State :=
  let key := new == .ret || new == .ended
  let s := if key then nvAsk (.cfg (.imageKey none)) s else s
  let s := if new = .ended then each (List.finRange 4) (fun i s => nvAsk (.cfg (.keySlot i none)) s) s else s
  nvAsk (.cfg (.lcState new)) s

/-- The number of a life-cycle state (R537). -/
def LcState.code : LcState → Nat
  | .blank => 0 | .develop => 1 | .production => 2 | .ret => 3 | .ended => 4

/-- A configuration write has completed: the new life-cycle state ends the transition (R540). -/
def lcWritten (w : Option NvWrite) (old : LcState) (s : State) : State :=
  match w, s.lc.running with
  | some (.cfg (.lcState v)), some r =>
    if v = r then raise 0xD001 [v8 old.code, v8 v.code] (s.onLc fun l => { l with running := none, result := stOk }) else s
  | _, _ => s

/-- NV_WRITE_DONE (R520). -/
def execNvWriteDone (s : State) : Host.Outcome State Fault Refusal :=
  .next (lcWritten s.ao.nvBusy s.lcState (nvDone s))

/-- A write of SYS_BOOT_CFG, which is in the configuration. -/
def bootCfg (target powerOn : Bool) (s : State) : State := nvAsk (.cfg (.bootCfg target powerOn)) s

/-- BOOT_CFG_WRITE (R492). -/
def execBootCfgWrite (value : BitVec 2) (s : State) : Host.Outcome State Fault Refusal :=
  .next (bootCfg (value.getLsbD 1) (value.getLsbD 0) s)

/-! ## The secure wipe completes (R421, R422, R540) -/

/-- SECURE_WIPE_DONE (R422): a life-cycle transition that waited for a full wipe goes on. -/
def execSecureWipeDone (badBanks : Byte) (s : State) : Host.Outcome State Fault Refusal :=
  .next (let full := s.xbar.secState == 1 && s.xbar.secFull
    let s := wipeDone badBanks s
    match s.lc.running with
    | some v => if full then lcErase v s else s
    | none => s)

/-! ## Patina (R531 to R536) -/

/-- The thresholds, 0 steps taken as 1 and more than 8 as 8. -/
def State.stepDown (s : State) : Nat := clampNat 1 8 s.cfg.stepDown.toNat

/-- The nominal clock of an island that is not an engine, in kHz: the table of the architecture chapter, by the indices of R530. -/
def nominalKhz (i : Nat) : Nat :=
  if i < 42 then 1000000
  else if i < 44 then 533300
  else if i < 48 then 800000
  else if i < 50 then 250000
  else match i with
    | 50 => 100000 | 51 => 400000 | 52 => 400000 | 53 => 402830 | 54 => 402830 | 55 => 786432 | 56 => 1000000 | 57 => 500000
    | _ => 33

/-- The clock of an island in 25 MHz units (R318, R536): an engine's actual, or the nominal clock, to the nearest unit. -/
def State.islandFreq (s : State) (i : Nat) : Nat :=
  if h : i < 24 then (s.engine ⟨i, h⟩).actual.toNat else (rne (nominalKhz i : Nat) 25000).toNat

/-- A history record (R536), with the clock at the measurement in 25 MHz units. -/
def historyRecord (i : Fin 59) (reason : Fin 3) (freq : Nat) (slack : BitVec 16) (s : State) : State :=
  let allow : Byte := if h : i.val < 24 then (s.engine ⟨i.val, h⟩).allow else 0
  nvAsk (.history { startCount := s.ao.startCount, hours := s.cfg.hours, island := i, reason := reason,
                    freq := BitVec.ofNat 8 freq, temp := s.power.temp, slack := slack, allow := allow }) s

/-- An engine is to be declared out with cause 5 at the next boundary (R428, R533, R534). -/
def patinaOut (e : Fin 24) (s : State) : State :=
  s.onEngine e fun g => if g.out then g else { g with outDue := some (g.outDue.getD 5) }

/-- An engine's allowed frequency falls (R533): a PATINA trigger where its load does not fit the new one (R319, R133). -/
def patinaLower (e : Fin 24) (slack : BitVec 16) (s : State) : State :=
  let old := (s.engine e).actual.toNat
  let new := max 24 (old - s.stepDown)
  let s := s.onEngine e fun g => { g with allow := BitVec.ofNat 8 new }
  let s := nvAsk (.cfg (.lastAllow e (BitVec.ofNat 8 new))) s
  let s := raise 0x1011 [v8 e.val, v16 (25 * old), v16 (25 * new), v16 slack.toNat] s
  let i : Fin 59 := fin 59 e.val
  let s := historyRecord i 2 old slack s
  let s := s.onPat i fun x => { x with request := some s.now, lowering := true, below := true, run := 0 }
  let f := min new (s.engine e).cap.toNat
  let s := s.onEngine e fun g => { g with freqDue := some (BitVec.ofNat 8 f) }
  if s.fitsAt e f then s else queueTrigger .patina s

/-- The 8th measurement below the floor (R533, R535). -/
def patinaAct (i : Fin 59) (slack : BitVec 16) (run : Nat) (s : State) : State :=
  if h : i.val < 24 then
    let e : Fin 24 := ⟨i.val, h⟩
    let ready := due (s.patina.get i).request (msTicks 1024) s.now
    if (s.engine e).out || run < 8 then s
    else if (s.engine e).actual.toNat ≤ 24 then patinaOut e s
    else if ready then patinaLower e slack s
    else s
  else raiseIf (run == 8) 0x1013 [v8 i.val, v16 slack.toNat] s

/-- One measurement of an island (R531 to R535). -/
def patinaMeasure (i : Fin 59) (slack : BitVec 16) (s : State) : State :=
  if i = 58 then s
  else
    let c := s.cfg
    let x := s.patina.get i
    let low := slack.toNat < c.floorPs.toNat
    let run := if low then x.run + 1 else 0
    let s := s.onPat i fun y => { y with
      slack := slack, least := if slack.toNat < y.least.toNat then slack else y.least,
      period := if slack.toNat < y.period.toNat then slack else y.period, run := run, below := y.below && low }
    if low then patinaAct i slack run s
    else if slack.toNat ≤ c.warnPs.toNat ∧ due x.lowAt (msTicks 3600000) s.now then
      raise 0x1012 [v8 i.val, v16 slack.toNat] (s.onPat i fun y => { y with lowAt := some s.now })
    else s

/-- PATINA_MEASUREMENT (R533). -/
def execPatinaMeasurement (i : Fin 59) (slackPs : BitVec 16) (s : State) : Host.Outcome State Fault Refusal :=
  .next (patinaMeasure i slackPs s)

/-- PATINA_REQUEST_TIMEOUT (R534): the slack stayed below the floor and the lowering has not taken effect. -/
def execPatinaRequestTimeout (e : Fin 24) (s : State) : Host.Outcome State Fault Refusal :=
  .next (let x := s.patina.get (fin 59 e.val)
    if x.lowering && x.below then patinaOut e s else s)

/-- PATINA_HISTORY_PERIOD (R536): the least slack of the period of each measured island. -/
def execPatinaHistoryPeriod (s : State) : Host.Outcome State Fault Refusal :=
  .next (let s := each ((List.finRange 59).filter (· != 58)) (fun i s => historyRecord i 0 (s.islandFreq i.val) (s.patina.get i).period s) s
    { s with patina := s.patina.map (fun x => { x with period := 0xFFFF }) })

/-- A write of PATINA_CTL: ignored where floor < warn < start margin does not hold. -/
def patinaCtl (w : Word) (s : State) : State :=
  let f := fld w 7 0
  let wn := fld w 15 8
  let m := fld w 23 16
  if f < wn ∧ wn < m then
    nvAsk (.cfg (.patina (BitVec.ofNat 4 (fld w 27 24)) (BitVec.ofNat 8 m) (BitVec.ofNat 8 wn) (BitVec.ofNat 8 f))) s
  else s

/-- PATINA_CTL_WRITE (R533). -/
def execPatinaCtlWrite (value : Word) (s : State) : Host.Outcome State Fault Refusal := .next (patinaCtl value s)

/-- Every least field returns to reset. -/
def patinaClear (s : State) : State := { s with patina := s.patina.map (fun x => { x with least := 0xFFFF }) }

/-- PATINA_CLEAR (R531). -/
def execPatinaClear (s : State) : Host.Outcome State Fault Refusal := .next (patinaClear s)

/-- POWERED_HOURS (R536): the powered-hours count of the configuration advances, in READY and RUN. -/
def execPoweredHours (s : State) : Host.Outcome State Fault Refusal :=
  .next (if s.power.state == 3 || s.power.state == 4 then nvAsk (.cfg (.hours (s.cfg.hours + 1))) s else s)

/-! ## Provisioning and transitions (R538 to R541) -/

/-- The answer of a request (LC_STATUS.result). -/
def lcAnswer (st : Byte) (s : State) : State := s.onLc fun l => { l with result := st }

/-- A fresh nonce (R541). -/
def newNonce (s : State) : State :=
  s.onAo fun a => { a with nonce := Config.nonce a.nonceCount, nonceCount := a.nonceCount + 1 }

/-- A provisioning request (R538). -/
def provision (s : State) : State :=
  let i := s.lc.item.toNat
  let mayProvision : Bool := match s.lcState with
    | .blank => true
    | .develop => true
    | .production => false
    | .ret => false
    | .ended => false
  let store (v : CfgItem) : State := raise 0xD004 [v8 i] (lcAnswer stOk (nvAsk (.cfg v) s))
  if s.img.req.isSome then lcAnswer stBusy s
  else if s.power.state != 3 || !mayProvision then lcAnswer stNotPermitted s
  else if i < 4 then
    match s.hostMem.readAll s.lc.addr.toNat 96 with
    | none => lcAnswer stBadArg s
    | some bs => if onCurve (beNat (bs.take 48)) (beNat (bs.drop 48)) then store (.keySlot (fin 4 i) (some bs)) else lcAnswer stBadArg s
  else if i = 4 then
    match s.hostMem.readAll s.lc.addr.toNat 32 with
    | none => lcAnswer stBadArg s
    | some bs => store (.imageKey (some bs))
  else lcAnswer stBadArg s

/-- LC_PROV_CTL_GO (R538). -/
def execLcProvCtlGo (s : State) : Host.Outcome State Fault Refusal := .next (provision s)

/-- The 16-byte message of a return authorisation (R541). -/
def returnMessage (nonce : Word) (target : Nat) : List Byte :=
  leBytes 8 Config.deviceId.toNat ++ leBytes 4 nonce.toNat ++ [BitVec.ofNat 8 target] ++ zeroBytes 3

/-- The outcome of a return authorisation: its status, and the state after, with a new nonce (R541). -/
def authorise (target : Nat) (s : State) : Byte × State :=
  if 8 ≤ s.ao.authFails then (stNotPermitted, newNonce s)
  else
    let sig := bytesOfWords s.lc.auth.toList
    let ok := match s.cfg.keySlots.get 3 with
      | some k => ecdsaVerify k sig (sha384 (returnMessage s.ao.nonce target))
      | none => false
    let s := newNonce s
    if ok then (stOk, s.onAo fun a => { a with authFails := 0 })
    else
      let n := s.ao.authFails + 1
      (stBadArg, raise 0xD003 [v8 n] (s.onAo fun a => { a with authFails := n }))

def lcStateOf (n : Nat) : Option LcState :=
  if n = 0 then some .blank else if n = 1 then some .develop else if n = 2 then some .production
  else if n = 3 then some .ret else if n = 4 then some .ended else none

/-- The condition of a transition (R539): its status, and the state after an authorisation. -/
def lcCondition (new : Nat) (s : State) : Byte × State :=
  let c := s.cfg
  let keys := c.imageKey.isSome && (c.keySlots.toList.take 3).any (·.isSome)
  match c.lcState, new with
  | .blank, 1 => (if keys then stOk else stNotPermitted, s)
  | .develop, 2 => (if keys then stOk else stNotPermitted, s)
  | .production, 3 => authorise new s
  | .blank, 4 => (stOk, s)
  | .develop, 4 => (stOk, s)
  | .production, 4 => (stOk, s)
  | .ret, 4 => (stOk, s)
  | _, _ => (stNotPermitted, s)

def lcRefuse (target : Nat) (st : Byte) (s : State) : State := raise 0xD002 [v8 target, v8 st.toNat] (lcAnswer st s)

/-- A request for a life-cycle transition (R539, R540): accepted, it releases the image and starts a full wipe; the rest
follows the wipe. -/
def lcRequest (target : Nat) (s : State) : State :=
  if s.lc.running.isSome || s.power.braced then lcRefuse target stBusy s
  else if s.power.state != 3 then lcRefuse target stNotPermitted s
  else
    let r := lcCondition target s
    match lcStateOf target with
    | some v =>
      if r.1 = stOk then secureWipe true (releaseImage (r.2.onLc fun l => { l with running := some v, result := stOk }))
      else lcRefuse target r.1 r.2
    | none => lcRefuse target stNotPermitted s

/-- LC_CTL_GO (R540): without the key the write sets only the target field. -/
def execLcCtlGo (key : BitVec 16) (target : BitVec 3) (s : State) : Host.Outcome State Fault Refusal :=
  .next (let s := s.onLc fun l => { l with target := target }
    if key = 0xA5A5 then lcRequest target.toNat s else s)

/-! ## Tamper sensors (R542, R543) -/

/-- The action of a sensor. -/
def State.tamperAction (s : State) (i : Nat) : Nat :=
  match s.lcState with
  | .blank => 0
  | .ended => 0
  | .develop => s.cfg.tamperAct.toNat / 4 ^ i % 4
  | .production => s.cfg.tamperAct.toNat / 4 ^ i % 4
  | .ret => s.cfg.tamperAct.toNat / 4 ^ i % 4

/-- A sensor trips: it is latched and reported, and it acts once until it has been clear for a second. -/
def tamperTrip (i : Fin 5) (s : State) : State :=
  if s.power.state = 0 then s
  else
    let act := s.tamperAction i.val
    let armed := s.ao.tamperArmed.getLsbD i.val
    let s := s.onAo fun a => { a with tamperActive := setFlag a.tamperActive i.val }
    if !armed then s
    else
      let s := s.onAo fun a => { a with tamperTripped := setFlag a.tamperTripped i.val, tamperArmed := putBit a.tamperArmed i.val false }
      let s := raise 0xD005 [v8 i.val, v8 act] s
      let s := if 1 ≤ act ∧ s.power.state ≠ 1 then secureWipe true s else s
      if 2 ≤ act then nvAsk .tamperErase s else s

/-- TAMPER (R542). -/
def execTamper (i : Fin 5) (s : State) : Host.Outcome State Fault Refusal := .next (tamperTrip i s)

/-- TAMPER_REARM (R542): the sensor has been clear for a second. -/
def execTamperRearm (i : Fin 5) (s : State) : Host.Outcome State Fault Refusal :=
  .next (s.onAo fun a => { a with tamperActive := putBit a.tamperActive i.val false, tamperArmed := setFlag a.tamperArmed i.val })

/-- A write of TAMPER_CFG: ignored outside DEVELOP (R542). -/
def tamperCfg (v : BitVec 10) (s : State) : State :=
  match s.lcState with
  | .develop => nvAsk (.cfg (.tamperAct v)) s
  | .blank => s
  | .production => s
  | .ret => s
  | .ended => s

/-- TAMPER_CFG_WRITE (R542). -/
def execTamperCfgWrite (value : BitVec 10) (s : State) : Host.Outcome State Fault Refusal := .next (tamperCfg value s)

/-- An access to the secure partition is denied (R420): 16 in a second trip sensor 4. -/
def secureDenied (m : Nat) (s : State) : State :=
  let at_ := s.now :: s.ao.denials.filter (fun t => s.now < t + Config.tick)
  let s := raise 0x4011 [v8 m] (s.onAo fun a => { a with denials := if 16 ≤ at_.length then [] else at_ })
  if 16 ≤ at_.length then tamperTrip 4 s else s

/-- The image key can open a section: an erase that waits has already wiped the working key (R543). -/
def State.usableKey (s : State) : Option (List Byte) :=
  if s.ao.nvQueue.contains .tamperErase || s.ao.nvBusy == some .tamperErase then none else s.cfg.imageKey

end Sys2Proof.Machine
end

