-- ==== Sys2Proof/Machine/PlanCheck.lean ====
section
/-! DEFINITION. What a plan guarantees (R87 to R93, R132, R133) and what load step 12 requires of an image (R205, R215, R262,
R366). The placement search is not specified: a plan comes from the sender and is checked here. -/

namespace Sys2Proof.Machine

/-- What a candidate plan is checked against. -/
structure PlanEnv where
  m       : Image
  allowed : Fin 24 → Bool
  freq    : Fin 24 → Nat
  commit  : Nat
  /-- A CRITICAL process may run as one copy, and processes may be shed (R124). -/
  single  : Bool
  bankOk  : Nat → Bool
  /-- Usable bytes of each DRAM channel. -/
  dram    : Nat → Nat
  /-- Bytes that the plan allocates for each region, by index: less than it declares where it is trimmable (R97, R129). -/
  size    : Nat → Nat

/-! ## Process items and engine memories (R89, R151) -/

def round64 (n : Nat) : Nat := (n + 63) / 64 * 64

/-- Bytes of X, Y and C. -/
def localSize (mem : Nat) : Nat := if mem = 2 then 131072 else 262144

/-- Bytes of a process's items in X, Y or C: output buffers, instance state, parameter block. -/
def Image.itemBytes (m : Image) (n : NodeRec) (mem : Nat) : Nat :=
  match mem with
  | 0 => 512 * groups16 n.outputs
  | 1 => if n.type = .proc then round64 n.bodyB else 0
  | _ =>
    let top := ((m.params.filter (fun q => paddrNode q.paddr == n.id)).map (fun q => paddrIndex q.paddr)).foldl max 0
    round64 (8 * (top + 1))

def homeOf (p : Plan) (r : Nat) : Option RegionHome := p.homes.find? (fun h => h.region == r)

/-- The regions of the image with their index and owner. -/
def Image.owned (m : Image) : List (Nat × RegionRec × NodeRec) :=
  m.regions.zipIdx.filterMap fun q => (m.nodes.find? (fun n => n.id == q.1.owner)).map (fun n => (q.2, q.1, n))

/-- Bytes that a plan puts into a memory of an engine. -/
def PlanEnv.localBytes (v : PlanEnv) (p : Plan) (e : Fin 24) (mem : Nat) : Nat :=
  let m := v.m
  let ns := m.on p e
  let items := (ns.map (fun n => m.itemBytes n mem)).sum
  let regs := m.owned.filter (fun o => ns.any (fun n => n.id == o.2.2.id) &&
    ((homeOf p o.1).map (fun h => h.kind == .engineLocal && h.unit / 2 % 4 == mem)).getD false)
  items + (regs.map (fun o => round64 (v.size o.1))).sum

/-- R89 for one engine. -/
def PlanEnv.engineOk (v : PlanEnv) (p : Plan) (e : Fin 24) : Bool :=
  let ns := v.m.on p e
  match ns with
  | [] => true
  | n :: _ =>
    let progs := (ns.filterMap v.m.program?).eraseDups
    v.allowed e && ns.all (fun k => k.domain == n.domain)
      && decide (v.m.cyclesOn p e ≤ cycleBound (v.m.fsOf n.domain) (v.freq e) v.commit)
      && decide ((progs.map (fun q => 8 * q.code.length)).sum ≤ 65536)
      && (List.range 3).all (fun k => decide (v.localBytes p e k ≤ localSize k))

/-- MAC/s that a plan charges: each copy's mac_per_sample at its domain's rate, a CRITICAL process's twice (R36, R38). -/
def Image.engineMacs (m : Image) (p : Plan) : Nat :=
  (m.processes.map (fun n => match siteOf p n.id, m.program? n with
    | some t, some q => q.mac * m.fsOf n.domain * (if t.sec.isSome then 2 else 1)
    | _, _ => 0)).sum

/-- The engine budget of R36, over the engines that a plan may use. -/
def PlanEnv.budget (v : PlanEnv) : Nat :=
  16 * 9 * 2500000 * (((List.finRange 24).filter v.allowed).map v.freq).sum

/-- R87 for one process. -/
def PlanEnv.siteOk (v : PlanEnv) (p : Plan) (n : NodeRec) : Bool :=
  match p.sites.filter (fun t => t.node == n.id) with
  | [] => v.single && p.shed.contains n.id
  | [t] => !p.shed.contains n.id && (match t.sec with
      | some b => n.critical && b != t.prim
      | none => !n.critical || v.single)
  | _ => false

/-- R90, R92, R93 for one region, and its alignment (R64). -/
def PlanEnv.homeOk (v : PlanEnv) (p : Plan) (o : Nat × RegionRec × NodeRec) : Bool :=
  match p.homes.filter (fun h => h.region == o.1) with
  | [] => (siteOf p o.2.2.id).isNone
  | [h] =>
    let lo := 64 * h.base
    let cls := o.2.1.cls.val
    let size := v.size o.1
    decide (lo % 2 ^ o.2.1.align = 0) && (match h.kind with
      | .engineLocal =>
        let mem := h.unit / 2 % 4
        cls != 2 && (cls ≤ 1 || !o.2.2.critical) && ((siteOf p o.2.2.id).map (fun t => t.prim.val == h.unit / 8)).getD false && h.unit % 2 == 0
          && decide (mem < 3) && decide (lo + size ≤ localSize mem)
      | .shared =>
        let a := bankBytes * h.unit + lo
        1 ≤ cls && !o.2.2.critical && decide (lo < bankBytes)
          && (List.range ((lo + size + bankBytes - 1) / bankBytes)).all (fun k => v.bankOk (h.unit + k))
          && decide (a + size ≤ 256 * bankBytes)
      | .dram => cls == 3 && !o.2.2.critical && decide (h.unit < 2) && decide (lo + size ≤ v.dram h.unit))
  | _ => false

def RegEntry.ofHome (h : RegionHome) (size : Nat) : RegEntry :=
  { state := if h.kind = .dram then 4 else 1, kind := h.kind, unit := h.unit, base := h.base, size := size, slot := 0 }

/-- A stretch of memory that a plan holds: what holds it (a region's index and instance, or a pool), where it starts, its bytes. -/
structure Extent where
  holder : Nat × Nat
  start  : Nat
  bytes  : Nat
  deriving DecidableEq, Repr

/-- What a plan holds in memory: an extent for each instance of a region, and the staging pools (R92, R109). -/
def PlanEnv.extents (v : PlanEnv) (p : Plan) : List Extent :=
  (v.m.owned.flatMap fun o =>
    match homeOf p o.1 with
    | none => []
    | some h =>
      let en := RegEntry.ofHome h (v.size o.1)
      let one (w : Option (Fin 24)) : Extent := { holder := (o.1, (w.map (·.val + 1)).getD 0), start := en.addr w 0, bytes := round64 (v.size o.1) }
      match h.kind, (siteOf p o.2.2.id).bind (·.sec) with
      | .engineLocal, some b => [one none, one (some b)]
      | _, _ => [one none])
  ++ p.pools.map (fun q =>
    { holder := (v.m.regions.length, q.engine.val), start := bankBytes * q.unit + 64 * q.base, bytes := 4096 * q.pages })

def Extent.apart (a b : Extent) : Bool := a.start + a.bytes ≤ b.start || b.start + b.bytes ≤ a.start

def allApart : List Extent → Bool
  | [] => true
  | x :: t => t.all x.apart && allApart t

/-- What a plan holds anew lies apart from all that the plan in force holds, so that no copy overwrites what is still read
(R113, R114). -/
def PlanEnv.freshApart (v : PlanEnv) (cur new : Plan) (freeing : List Extent) : Bool :=
  let old := v.extents cur
  ((v.extents new).filter (fun x => !old.any (fun y => y.start == x.start && y.holder.1 == x.holder.1))).all (fun x =>
    (old ++ freeing).all x.apart)

/-- An engine runs owners of STAGED regions. -/
def Image.stagesOn (m : Image) (p : Plan) (e : Fin 24) : Bool :=
  m.owned.any (fun o => ((homeOf p o.1).map (fun h => h.kind == .dram)).getD false && ((siteOf p o.2.2.id).map (siteOn · e)).getD false)

/-- R109 for one engine: it has a pool of at least 64 pages in banks that are ON where it stages, and none otherwise. -/
def PlanEnv.poolOk (v : PlanEnv) (p : Plan) (e : Fin 24) : Bool :=
  match p.pools.filter (fun q => q.engine == e) with
  | [] => !v.m.stagesOn p e
  | [q] =>
    let lo := 64 * q.base
    let n := (lo + 4096 * q.pages + bankBytes - 1) / bankBytes
    v.m.stagesOn p e && decide (64 ≤ q.pages) && decide (lo < bankBytes) && decide (q.unit + n ≤ 256)
      && (List.range n).all (fun k => v.bankOk (q.unit + k))
  | _ => false

/-- A candidate satisfies R36, R38, R87 to R93 and R109. -/
def PlanEnv.planOk (v : PlanEnv) (p : Plan) : Bool :=
  v.m.processes.all (v.siteOk p)
    && p.sites.all (fun t => v.m.processes.any (fun n => n.id == t.node))
    && p.shed.all (fun k => v.m.processes.any (fun n => n.id == k))
    && (List.finRange 24).all (v.engineOk p)
    && v.m.owned.all (v.homeOk p)
    && p.homes.all (fun h => decide (h.region < v.m.regions.length))
    && (List.finRange 24).all (v.poolOk p)
    && decide (v.m.engineMacs p ≤ v.budget)
    && allApart (v.extents p)

/-! ## What step 12 requires of an image -/

/-- Bytes of the receive buffers (R381). -/
def Image.rxBytes (m : Image) : Nat :=
  (m.ports.map (fun q => match q.body with
    | .rx r => r.channels * 4 * (r.rxDelay + 2 * r.samples + 16)
    | _ => 0)).sum

/-- Bytes of receive buffers beyond the pool of 1,536 KiB. -/
def Image.rxSpill (m : Image) : Nat := m.rxBytes - 1572864

/-- Bytes of the fixed allocations in shared banks (R217, R262, R381). -/
def Image.fixedBytes (m : Image) : Nat := 12583168 + (fabricTableBytes m - fabricSize) + m.rxSpill

/-- The banks of the fixed allocations: their places are not specified; the model takes the highest-numbered banks that are
ON (DESIGN CHOICE, assumption 101). None where too few are ON. -/
def State.fixedBanks (s : State) (m : Image) : Option (List Nat) :=
  let n := (m.fixedBytes + bankBytes - 1) / bankBytes
  let on := ((List.finRange 256).filter (fun b => s.bank b == .on)).map (·.val)
  if n ≤ on.length then some (on.drop (on.length - n)) else none

/-- Transmit legs of an image on one port: samples per packet, wire bytes of a packet, rate. -/
def Image.legsTo (m : Image) (n : Fin 4) : List (Nat × Nat × Nat) :=
  let vlan := m.ports.any (fun q => q.unit == n.val && (match q.body with
    | .eth r => r.vlan
    | _ => false))
  m.ports.flatMap fun q => match q.body with
    | .tx r =>
      let pay := if r.format = 1 then 3 * r.channels * r.samples else 8 + 32 * r.channels
      let leg : Nat × Nat × Nat := (max 1 r.samples, pay + 78 + 4 * b2n vlan, m.fsOf r.domain)
      let b := match r.legB with
        | some l => l.port == n
        | none => false
      (if r.legA.port = n then [leg] else []) ++ (if b then [leg] else [])
    | _ => []

/-- R366: the transmit legs of a port take at most 90% of its line rate. -/
def Image.lineOk (m : Image) (n : Fin 4) : Bool :=
  let ls := m.legsTo n
  let k := ls.foldl (fun a l => Nat.lcm a l.1) 1
  let rate := if m.ports.any (fun q => q.unit == n.val && (match q.body with
    | .eth r => r.mode == 2
    | _ => false)) then 25000000000 else 10000000000
  decide (10 * (ls.map (fun l => l.2.1 * 8 * l.2.2 * (k / l.1))).sum ≤ 9 * rate * k)

/-- What step 12 requires beside a plan. -/
def State.placeable (s : State) (m : Image) : Bool :=
  decide (fabricUnits m ≤ 4096) && decide (fabricMacs m ≤ 86400000000) && (s.fixedBanks m).isSome
    && (List.finRange 4).all m.lineOk

/-- The spares of a load (R132): the highest-numbered engines that pass self-test. -/
def State.loadSpares (s : State) (m : Image) : List (Fin 24) :=
  let ok := (List.finRange 24).filter (fun e => !(s.engine e).out && !(s.engine e).passFail)
  ok.drop (ok.length - m.cap.spares)

/-- The frequency that an engine may run at, in units of 25 MHz (R89, R318). -/
def Engine.allowed (g : Engine) : Nat := min g.cap.toNat g.allow.toNat

/-- Bytes of each region at load: a trimmable DELAY's for its initial delay. -/
def Image.loadSize (m : Image) (r : Nat) : Nat :=
  match m.owned.find? (fun o => o.1 == r) with
  | some o =>
    if m.hints.any (fun h => h.node == o.2.2.id && h.trimmable) then
      let dly := ((m.params.find? (fun q => q.paddr == paddrOf o.2.2.id 1)).map (fun q => q.init.toNat)).getD 0
      trimmedSize o.2.1 (m.delayRoom o.2.2 dly)
    else o.2.1.size
  | none => 0

/-- Bytes of each region under a new plan: as it stands, as a resize asks (R129), or as the plan shortens it (R131). -/
def State.planSize (s : State) (m : Image) (p : Plan) (r : Nat) : Nat :=
  match m.owned.find? (fun o => o.1 == r) with
  | some o =>
    let samples := ((homeOf p r).map (·.samples)).getD 0
    if samples ≠ 0 then trimmedSize o.2.1 samples
    else match s.placer.resizes.find? (fun z => z.node == o.2.2.id && !z.done && z.cap == 0) with
      | some z => trimmedSize o.2.1 (m.delayRoom o.2.2 z.dly.toNat)
      | none => (s.entry r).size
  | none => 0

/-- A plan shortens only trimmable regions, only under a MEMORY or HOST trigger, and not below the current delay and its margin
(R131). -/
def State.shortenOk (s : State) (m : Image) (p : Plan) (ts : List Trigger) : Bool :=
  p.homes.all fun h => h.samples == 0 ||
    ((ts.contains .memory || ts.contains .host) && (match m.owned.find? (fun o => o.1 == h.region) with
      | some o => s.trimmable o.2.2.id && decide (m.delayRoom o.2.2 (s.pval o.2.2 1).toNat ≤ h.samples)
          && decide (h.samples ≤ s.delayCap o.2.2.id)
      | none => false))

/-- The environment of a plan, with the banks that it may not use. -/
def State.planEnv (s : State) (m : Image) (closed : List Nat) (single : Bool) (allowed : Fin 24 → Bool) (freq : Fin 24 → Nat)
    (size : Nat → Nat) : PlanEnv :=
  { m := m, allowed := allowed, freq := freq, commit := s.placer.commit, single := single, size := size,
    bankOk := fun b => (getN s.xbar.bank b .off) == .on && !closed.contains b
    dram := fun c => if (s.dram (fin 2 c)).state = .ready then (s.dram (fin 2 c)).bytes else 0 }

/-- Banks that a plan has emptied and that leave ON at the next boundary (R406). -/
def State.banksDue (s : State) : List Nat := s.placer.bankDue.map (fun w => w.1.val)

/-- Shared-bank space that placement holds, in KiB: the staging pools and the retention logs (R109, R432). -/
def arenaOf (m : Image) (p : Plan) : BitVec 24 :=
  BitVec.ofNat 24 ((p.pools.map (fun q => 4 * q.pages)).sum + (if m.processes.any (·.critical) then Config.retentionKib.toNat else 0))

/-! ## The processes that a Patina plan moves (R133) -/

/-- One choice: the smallest process of at least the excess, else the largest; ties to the lower node id. -/
def pickMove (excess : Nat) (l : List (Nat × Nat)) : Option (Nat × Nat) :=
  let big := l.filter (fun c => excess ≤ c.1)
  let better (small : Bool) (a b : Nat × Nat) : Bool :=
    if a.1 = b.1 then decide (a.2 < b.2) else if small then decide (a.1 < b.1) else decide (b.1 < a.1)
  let best (small : Bool) (l : List (Nat × Nat)) : Option (Nat × Nat) :=
    l.foldl (fun a c => match a with
      | none => some c
      | some b => if better small c b then some c else some b) none
  if big.isEmpty then best false l else best true big

def movesOff (bound : Nat) : Nat → Nat → List (Nat × Nat) → List Nat
  | 0, _, _ => []
  | k + 1, load, l =>
    if load ≤ bound then []
    else match pickMove (load - bound) l with
      | none => []
      | some c => c.2 :: movesOff bound k (load - c.1) (l.filter (· != c))

/-- The nodes that must leave an engine for a frequency. -/
def State.patinaNodes (s : State) (m : Image) (p : Plan) (e : Fin 24) (freq : Nat) : List Nat :=
  let l := (m.on p e).map (fun n => (m.cyclesOf n, n.id))
  match m.domainOn p e with
  | some d => movesOff (cycleBound (m.fsOf d) freq s.placer.commit) l.length (m.cyclesOn p e) l
  | none => []

end Sys2Proof.Machine
end

