-- ==== Sys2Proof/Machine/Placer.lean ====
section
/-! DEFINITION. The placement engine (chapter 03): plans and epochs, copy slots, moves and seedings, engines lost and
re-admitted, region faults, DELAY resizes, frequencies (R318 to R320). -/

namespace Sys2Proof.Machine

/-! ## Copies of processes -/

/-- Samples of history that a DELAY's region is allocated for (R97, R129, R246). -/
def State.delayRoom (s : State) (n : NodeRec) (dly : Nat) : Nat :=
  match s.img.loaded with
  | some m => m.delayRoom n dly
  | none => n.bodyA

/-- Initial instance state of a PROC (R54). -/
def State.initialInst (s : State) (n : NodeRec) : Mem :=
  match s.progOf n with
  | some p => Mem.putN [] 0 (slice p.data n.bodyA n.bodyB)
  | none => []

/-- A copy of a process as a load or a restart leaves it (R81, R122, R240). -/
def State.newProc (s : State) (n : NodeRec) (e : Fin 24) : ProcSt :=
  let f := s.factors n true
  let v := (s.pval n 1).toNat
  { node := n.id, engine := e, gStart := BitVec.ofInt 32 (gainOf f.1 f.2), sel := v, fade := none, hist := [],
    histCap := if n.type = .delay then s.delayRoom n v else 0, mPeak := 0, mSum := 0, mCount := 0, mBlocks := 0, mOver := false,
    mFull := false, mDone := [], silentRun := 0, silent := false, inst := s.initialInst n, ringCount := 0, ring := [],
    out := none, digest := 0, heldOut := none, last := List.replicate n.outputs 0, misses := 0, missedNow := false,
    unresolved := false, overrun := false, rampIn := 0, rampLen := 0, isNew := false, stopped := false,
    raw := [], restore := { missed := false, rampIn := 0, rampLen := 0 } }

/-- The order of an engine's list: tier, then node id (DEDUCED, assumption 29). -/
def State.procBefore (s : State) (a b : ProcSt) : Bool :=
  let t (p : ProcSt) : Nat := ((s.node? p.node).map (·.tier)).getD 0
  t a < t b || (t a == t b && a.node ≤ b.node)

def State.insertProc (s : State) (p : ProcSt) : List ProcSt → List ProcSt
  | [] => [p]
  | q :: t => if s.procBefore p q && p != q then p :: q :: t else q :: s.insertProc p t

def addProc (p : ProcSt) (s : State) : State := { s with procs := s.insertProc p s.procs }

/-- A copy stops: the engine loses its contexts of it. -/
def dropProc (node : Nat) (e : Fin 24) (s : State) : State :=
  let s := { s with procs := s.procs.filter (fun p => !(p.node == node && p.engine == e)) }
  s.onEngine e fun g => { g with
    fg := if g.fg.node = some node then Ctx.reset else g.fg
    bg := if g.bg.node = some node then Ctx.reset else g.bg
    parked := if g.bg.node = some node then none else g.parked
    stalled := if g.fg.node = some node then none else g.stalled }

def State.onPair (s : State) (node : Nat) (f : PairSt → PairSt) : State :=
  s.onRed fun r => { r with pairs := mapIf (fun q => q.node == node) f r.pairs }

/-- Change the site of a process in the current plan. -/
def onSite (node : Nat) (f : Site → Site) (s : State) : State :=
  s.onPlacer fun p => { p with
    current := p.current.map (fun c => { c with sites := mapIf (fun t => t.node == node) f c.sites }) }

/-! ## The region table (R105 to R108) -/

def setEntry (r : Nat) (f : RegEntry → RegEntry) (s : State) : State :=
  s.onPlacer fun p => { p with table := aset p.table r (f (agetD p.table r RegEntry.reset)) }

/-- An entry of the next table (R106). -/
def setNext (r : Nat) (en : RegEntry) (s : State) : State := s.onPlacer fun p => { p with next := aset p.next r en }

/-- An entry is taken from the next table (R107). -/
def takeEntry (r : Nat) (s : State) : State := setEntry r (fun e => agetD s.placer.next r e) s

/-- The next table is brought level with the current one (R107). -/
def levelTables (s : State) : State := s.onPlacer fun p => { p with next := p.table }

/-- Initial contents of a region at a location (R64): its initial data, the rest zero. -/
def initRegion (rec : RegionRec) (a : Nat) (s : State) : State :=
  { s with mem := (s.mem.clear a (a + rec.size)).putN a rec.init }

/-- The engines that hold an instance of a region of a node. -/
def instanceSites (t : Site) : List (Option (Fin 24)) := none :: (t.sec.map some).toList

/-- A region takes its home in the table, with its initial contents in every instance. -/
def placeRegion (size : Nat → Nat) (p : Plan) (o : Nat × RegionRec × NodeRec) (s : State) : State :=
  match homeOf p o.1 with
  | none => s
  | some h =>
    let en := RegEntry.ofHome h (size o.1)
    let s := setEntry o.1 (fun _ => en) s
    match siteOf p o.2.2.id, h.kind with
    | some t, .engineLocal => each (instanceSites t) (fun w s => initRegion o.2.1 (en.addr w 0) s) s
    | _, _ => initRegion o.2.1 (en.addr none 0) s

/-! ## Copy slots (R111 to R114) -/

def State.slot (s : State) (k : Fin 64) : CopySlot := s.placer.slots.get k

/-- Bytes that a copy carries: a region that changes its size keeps what fits (R129, R131). -/
def CopySlot.bytes (c : CopySlot) : Nat := min c.old.size c.new.size

def CopySlot.units (c : CopySlot) : Nat := (c.bytes + 63) / 64

def CopySlot.full (c : CopySlot) : Bool := c.units ≤ c.mark

/-- The owner of a region. -/
def State.ownerOf (s : State) (r : Nat) : Nat := ((s.region? r).map (·.owner)).getD 0

def State.ownerDomain (s : State) (r : Nat) : Fin 4 := ((s.node? (s.ownerOf r)).map (·.domain)).getD 0

/-- Where a page goes back to in DRAM, with the bytes of it that the region holds (R109). -/
def State.pageHome (s : State) (p : Page) : Option (Nat × Nat) :=
  let node := s.ownerOf p.region
  let size := ((s.region? p.region).map (·.size)).getD 0
  ((s.route node p.region (4096 * p.page) (some p.engine)).home).map (fun h => (h, min 4096 (size - 4096 * p.page)))

/-- A dirty page is written back, its engine's buffered stores first (R109). -/
def writeBack (p : Page) (s : State) : State :=
  let a := s.pageAddr p
  let s := settleStores a 4096 p.engine s
  match s.pageHome p with
  | some (h, n) => if p.dirty && s.dramReady h then { s with mem := s.mem.putN h (s.mem.getN a n) } else s
  | none => s

/-- Pages leave the pools without being written back. -/
def dropPages (f : Page → Bool) (s : State) : State :=
  let s := each (s.placer.pages.filter f) (fun p s => settleStores (s.pageAddr p) 4096 p.engine s) s
  s.onPlacer fun q => { q with pages := q.pages.filter (fun p => !f p) }

/-- Pages leave the pools, dirty ones written back (R109). -/
def flushWhere (f : Page → Bool) (s : State) : State := dropPages f (each (s.placer.pages.filter f) writeBack s)

def flushPages (r : Nat) (s : State) : State := flushWhere (fun p => p.region == r) s

/-- A copy takes a slot: its entry passes from RESIDENT to COPYING; a STAGED one stays as it is (R108). -/
def startCopy (k : Fin 64) (c : CopySlot) (s : State) : State :=
  let s := s.onPlacer fun p => { p with slots := upd p.slots k (fun _ => c) }
  if (s.entry c.region).state = 4 then s else setEntry c.region (fun e => { e with state := 2, slot := k.val }) s

/-- Copies that wait take the slots that are idle, in order. -/
def startCopies (s : State) : State :=
  each (List.finRange 64) (fun k s =>
    match s.placer.waiting with
    | [] => s
    | c :: rest => if (s.slot k).kind = 0 then startCopy k c (s.onPlacer fun p => { p with waiting := rest }) else s) s

/-- The slots of a move's regions. -/
def State.moveSlots (s : State) (v : Move) : List (Fin 64) :=
  (List.finRange 64).filter fun k =>
    let c := s.slot k
    c.kind == 2 && c.siteA == v.a && c.siteB == v.b && s.ownerOf c.region == v.node

/-- Every copy of a move is complete. -/
def State.moveCopied (s : State) (v : Move) : Bool :=
  (s.moveSlots v).all (fun k => (s.slot k).full)
    && !s.placer.waiting.any (fun c => c.kind == 2 && c.siteA == v.a && c.siteB == v.b && s.ownerOf c.region == v.node)

/-- At the last copy's completion the entries of a process pass from COPYING to TWIN (R116). -/
def twinEntries (v : Move) (s : State) : State :=
  if s.moveCopied v then
    each (s.moveSlots v) (fun k s => setEntry (s.slot k).region (fun e => if e.state = 2 then { e with state := 3 } else e) s) s
  else s

/-- Bytes written by placement DMA at a region's new location: in DRAM through the pages that hold them (R110). -/
def putCopy (c : CopySlot) (ofs : Nat) (bs : List Byte) (s : State) : State :=
  let t : Route := match c.new.kind with
    | .dram => { rd := none, wr := [], home := some (c.new.addr none ofs), staged := false, shared := true }
    | _ => { rd := none, wr := [c.new.addr none ofs], home := none, staged := false, shared := true }
  let as := if (s.entry c.region).state = 4 then [c.new.addr none ofs] else s.writeAddrs none c.region ofs t
  each as (fun a s => soil a { s with mem := s.mem.putN a bs }) s

/-- Placement DMA copies one 64-byte unit and the watermark advances (R111). -/
def copyUnit (k : Fin 64) (s : State) : State :=
  let c := s.slot k
  if c.kind = 0 ∨ c.full then s
  else
    let n := min 64 (c.bytes - 64 * c.mark)
    let s := putCopy c (64 * c.mark) (s.mem.getN (c.old.addr none (64 * c.mark)) n) s
    let s := s.onPlacer fun p => { p with slots := upd p.slots k (fun x => { x with mark := x.mark + 1 }) }
    each (s.placer.moves.filter (fun v => v.phase == 0 && v.a == c.siteA && v.b == c.siteB)) twinEntries s

/-- COPY_UNIT_WRITTEN (R111). -/
def execCopyUnitWritten (slot : Fin 64) (s : State) : Host.Outcome State Fault Refusal := .next (copyUnit slot s)

/-- A slot is idle again. -/
def freeSlot (k : Fin 64) (s : State) : State :=
  s.onPlacer fun p => { p with slots := upd p.slots k (fun _ => CopySlot.reset) }

/-- A copy is given up: its entry returns to RESIDENT at the old location, or stays STAGED there (R108). -/
def abandonCopy (k : Fin 64) (s : State) : State :=
  let c := s.slot k
  let en := s.entry c.region
  let s := if en.state = 4 then s
    else setEntry c.region (fun e => if s.critical (s.ownerOf c.region) then { e with state := 1, slot := 0 } else { c.old with slot := 0 })
      (dropPages (fun p => p.region == c.region) s)
  setNext c.region (s.entry c.region) (freeSlot k s)

/-- The copies of a move are abandoned (R118). -/
def abandonCopies (v : Move) (s : State) : State :=
  let s := each (s.moveSlots v) abandonCopy s
  s.onPlacer fun p => { p with waiting := p.waiting.filter (fun c =>
    !(c.kind == 2 && c.siteA == v.a && c.siteB == v.b && s.ownerOf c.region == v.node)) }

/-- A move is dropped: the new copy stops, with the pages that its engine holds for it. -/
def dropMove (v : Move) (s : State) : State :=
  let s := abandonCopies v s
  let s := s.onPlacer fun p => { p with moves := p.moves.filter (fun x => x != v) }
  if v.phase = 0 then s
  else dropProc v.node v.b (dropPages (fun p => p.engine == v.b && s.ownerOf p.region == v.node) s)

/-- A pending plan is abandoned (R121): its triggers wait again. -/
def abandonPlan (s : State) : State :=
  let given := s.placer.pending.isSome
  match s.placer.state with
  | .idle => s
  | .evacuating =>
    raiseIf given 0x5002 [] (levelTables (s.onPlacer fun p => { p with pending := none }))
  | _ =>
    if s.placer.trigger = some .load then s
    else
      let ts := s.placer.trigger.toList ++ s.placer.merged
      let s := each (s.placer.moves.filter (fun v => !v.seed)) dropMove s
      let s := each ((List.finRange 64).filter (fun k => (s.slot k).kind == 1 || (s.slot k).kind == 3)) abandonCopy s
      let s := s.onPlacer fun p => { p with
        pending := none, state := .idle, trigger := none, merged := [], queued := (p.queued ++ ts).eraseDups
        waiting := p.waiting.filter (fun c => c.kind == 2)
        resizes := p.resizes.foldl (fun l r => if l.any (fun x => x.node == r.node) then l else l ++ [{ r with cap := 0 }]) [] }
      raiseIf given 0x5002 [] (levelTables s)

/-- An evacuation plan is wanted at once (R100, R101, R121). -/
def startEvacuation (s : State) : State :=
  if s.img.loaded.isNone then s
  else (abandonPlan s).onPlacer fun p => { p with state := .evacuating, trigger := some .engineOut, merged := [] }

/-! ## Triggers and failures (R98 to R102, R130, R134, R135) -/

/-- Building starts for the triggers that are queued and not held by the freeze (R100, R101). -/
def nextPlan (s : State) : State :=
  let p := s.placer
  let go := p.queued.filter (fun t => !(p.freeze && triggerHeld t))
  match p.state, go with
  | .idle, t :: rest =>
    if s.power.state = 2 ∨ s.img.loaded.isNone then s
    else s.onPlacer fun p => { p with state := .building, trigger := some t, merged := rest,
                                      queued := p.queued.filter (fun x => !go.contains x) }
  | _, _ => s

/-- A trigger arrives (R98): LOAD belongs to load step 12, and ENGINE_OUT is acted on at once (R100). -/
def planTrigger (t : Trigger) (s : State) : State :=
  match t with
  | .load =>
    match s.img.req with
    | some q => if q.step = 12 ∧ q.verify = false ∧ q.placed = none then queueTrigger .load s else s
    | none => s
  | .engineOut => if s.placer.state = .evacuating then s else startEvacuation s
  | .patina => queueTrigger .patina s
  | .memory => queueTrigger .memory s
  | .delay => queueTrigger .delay s
  | .host => queueTrigger .host s

/-- PLAN_TRIGGER (R98). -/
def execPlanTrigger (t : Trigger) (s : State) : Host.Outcome State Fault Refusal := .next (planTrigger t s)

/-- A HOST re-plan: OK, or DEFERRED while a plan is pending or freeze is 1 (R135). -/
def hostReplan (s : State) : Byte × State :=
  let waits := s.placer.freeze || s.placer.state != .idle
  (if waits then stDeferred else stOk, queueTrigger .host s)

/-- PLACER_REPLAN (R135). -/
def execPlacerReplan (s : State) : Host.Outcome State Fault Refusal := .next (hostReplan s).2

/-- PLACER_CLEAR_COUNTS (R128). -/
def execPlacerClearCounts (s : State) : Host.Outcome State Fault Refusal :=
  .next (s.onPlacer fun p => { p with faults := 0, misses := 0 })

def setFreeze (b : Bool) (s : State) : State := nextPlan (s.onPlacer fun p => { p with freeze := b })

/-- PLACER_FREEZE_WRITE (R101). -/
def execPlacerFreezeWrite (freeze : Bool) (s : State) : Host.Outcome State Fault Refusal := .next (setFreeze freeze s)

/-- A write of PLACER_COMMIT is clamped and staged (R89). -/
def commitWrite (limit : Nat) (s : State) : State :=
  let v := BitVec.ofNat 10 (clampNat 500 900 limit)
  stagePacing (.commit v) (s.onPlacer fun p => { p with commitReg := v })

/-- PLACER_COMMIT_WRITE (R89). -/
def execPlacerCommitWrite (limit : BitVec 10) (s : State) : Host.Outcome State Fault Refusal := .next (commitWrite limit.toNat s)

/-- commit_limit takes effect: below a committed load it is a HOST trigger (R98). -/
def commitTakes (v : BitVec 10) (s : State) : State :=
  let s := s.onPlacer fun p => { p with commit := v.toNat }
  if (List.finRange 24).all (fun e => s.fitsAt e (s.engine e).actual.toNat) then s else queueTrigger .host s

/-- A longer DELAY region is refused: the tap moves to the greatest delay that the present region holds (R130, R248). -/
def resizeRefused (r : Resize) (s : State) : State :=
  match s.node? r.node with
  | none => s
  | some n =>
    match s.param? (paddrOf n.id 1) with
    | none => s
    | some q =>
      let v : Word := BitVec.ofNat 32 (256 * s.delayCap n.id)
      let w : PWrite := match r.ov with
        | some o => { paddr := q.decl.paddr, value := v, cls := o.cls, dbLaw := o.dbLaw, time := o.time, ovr := true }
        | none => q.decl.write v
      raise 0x500B [] (tapMove n q.decl.time w s)

/-- A plan for a trigger is not built (R102, R130, R134, R319, R406). -/
def planFailed (s : State) : State :=
  let ts := s.placer.trigger.toList ++ s.placer.merged
  let s := raise 0x5003 [] (s.onPlacer fun p => { p with state := .idle, trigger := none, merged := [] })
  let s := if ts.contains .patina then
      each (List.finRange 24) (fun e s =>
        let g := s.engine e
        if g.freqDue.isSome && (s.patina.get (fin 59 e.val)).lowering && !s.fitsAt e (g.freqDue.getD 0).toNat then
          patinaOut e (s.onEngine e fun g => { g with freqDue := none })
        else s) s
    else s
  let s := if ts.contains .host then
      each (List.finRange 24) (fun e s =>
        let g := s.engine e
        if g.freqDue.isSome && !(s.patina.get (fin 59 e.val)).lowering && !s.fitsAt e (g.freqDue.getD 0).toNat then
          s.onEngine e fun g => { g with freqDue := none }
        else s) s
    else s
  let s := if ts.contains .memory then
      each s.xbar.bankWait (fun w s => bankRefused w.1 1 s) s |>.onXbar fun x => { x with bankWait := [] }
    else s
  let s := if ts.contains .delay then
      each (s.placer.resizes.filter (fun r => r.cap == 0)) resizeRefused
        (s.onPlacer fun p => { p with resizes := p.resizes.filter (fun r => r.cap != 0) })
    else s
  nextPlan s

/-! ## Building a plan (R94, R98, R102, R116, R121, R122) -/

/-- The moves of one process from the current plan to a new one; none where the plan may not make them. -/
def movesFor (cur new : Plan) (n : NodeRec) : Option (List Move) :=
  match siteOf cur n.id, siteOf new n.id with
  | some a, some b =>
    if a = b then some []
    else match a.sec, b.sec with
      | none, none => some [{ node := n.id, a := a.prim, b := b.prim, seed := false, phase := 0 }]
      | none, some y => if a.prim = b.prim then some [{ node := n.id, a := a.prim, b := y, seed := true, phase := 0 }] else none
      | some x, some y =>
        if a.prim = b.prim then some [{ node := n.id, a := x, b := y, seed := false, phase := 0 }]
        else if x = y then some [{ node := n.id, a := a.prim, b := b.prim, seed := false, phase := 0 }]
        else none
      | some _, none => none
  | some _, none => none
  | none, _ => some []

def allSome {α : Type} : List (Option (List α)) → Option (List α)
  | [] => some []
  | none :: _ => none
  | some l :: t => (allSome t).map (l ++ ·)

/-- The moves of a plan. -/
def Image.planMoves (m : Image) (cur new : Plan) : Option (List Move) := allSome (m.processes.map (movesFor cur new))

def siteUnit (e : Fin 24) (unit : Nat) : Nat := 8 * e.val + unit % 8

/-- The copies that a plan makes: of the regions of moved processes, and of regions that change their home or are shortened. -/
def State.planCopies (s : State) (m : Image) (p : Plan) (ms : List Move) : List CopySlot :=
  m.owned.flatMap fun o =>
    let e0 := s.entry o.1
    let mine := ms.filter (fun v => v.node == o.2.2.id)
    match homeOf p o.1 with
    | none => []
    | some h =>
      let e1 := RegEntry.ofHome h (s.planSize m p o.1)
      let sameHome := e0.kind == e1.kind && e0.unit == e1.unit && e0.base == e1.base && e0.size == e1.size
      match mine with
      | [] =>
        if sameHome || o.2.2.critical then []
        else [{ kind := 1, region := o.1, old := e0, new := e1, mark := 0, siteA := 0, siteB := 0 }]
      | v :: _ =>
        if o.2.2.critical then
          (if e0.kind = .engineLocal then
            [{ kind := 2, region := o.1, old := { e0 with unit := siteUnit v.a e0.unit },
               new := { e0 with unit := siteUnit v.b e0.unit }, mark := 0, siteA := v.a, siteB := v.b }]
          else [])
        else if sameHome then []
        else [{ kind := 2, region := o.1, old := e0, new := e1, mark := 0, siteA := v.a, siteB := v.b }]

/-- The copies of CRITICAL regions keep their memory and base, which only their engines change (R92). -/
def State.criticalStays (s : State) (m : Image) (p : Plan) : Bool :=
  m.owned.all fun o =>
    let e0 := s.entry o.1
    !o.2.2.critical || (match homeOf p o.1 with
      | some h => h.kind == e0.kind && h.base == e0.base && h.unit % 8 == e0.unit % 8
      | none => true)

/-- The resizes that a plan carries out: those with no copy under way, each with the copy of its region (R129). -/
def State.resizeCopies (s : State) (m : Image) (p : Plan) : List (Resize × CopySlot) :=
  let zs := s.placer.resizes
  (zs.filter (fun r => !r.done && r.cap == 0 && !zs.any (fun x => x.node == r.node && x.cap != 0))).filterMap fun r =>
    match s.node? r.node, m.owned.find? (fun o => o.2.2.id == r.node) with
    | some n, some o =>
      (homeOf p o.1).map fun h =>
        ({ r with cap := s.delayRoom n r.dly.toNat },
         { kind := 3, region := o.1, old := s.entry o.1, new := RegEntry.ofHome h (s.planSize m p o.1), mark := 0, siteA := 0, siteB := 0 })
    | _, _ => none

/-- Domains that a plan touches, rising; the pacing domain where it moves nothing. -/
def State.touched (s : State) (ms : List Move) (cs : List CopySlot) (restored : List Nat) : List (Fin 4) :=
  let ofNode (k : Nat) : Option (Fin 4) := (s.node? k).map (·.domain)
  let ds := ms.filterMap (fun v => ofNode v.node) ++ cs.map (fun c => s.ownerDomain c.region) ++ restored.filterMap ofNode
  let l := (List.finRange 4).filter (fun d => ds.contains d)
  if l.isEmpty then (s.pacing.map (·.dom)).toList else l

/-- What a plan may change under its triggers: a PATINA trigger moves the processes that R133 names off the engine, and alone
nothing else. -/
def State.triggersAllow (s : State) (m : Image) (cur new : Plan) (ms : List Move) : Bool :=
  let ts := s.placer.trigger.toList ++ s.placer.merged
  let want := (List.finRange 24).flatMap fun e =>
    let g := s.engine e
    match g.freqDue with
    | some f => if g.out || !(s.patina.get (fin 59 e.val)).lowering then [] else (s.patinaNodes m cur e f.toNat).map (fun k => (k, e))
    | none => []
  let moved := want.all (fun w => ms.any (fun v => v.node == w.1 && v.a == w.2))
  let only := ms.all (fun v => v.seed || want.contains (v.node, v.a))
  new.shed.all (fun k => cur.shed.contains k) && s.shortenOk m new ts && s.criticalStays m new
    && (!ts.contains .patina || moved) && (only || ts.any (· != .patina))

/-- STAGED regions whose controller is not READY get homes in shared banks (R418). -/
def State.leavesDown (s : State) (m : Image) (new : Plan) : Bool :=
  m.owned.all fun o =>
    let e0 := s.entry o.1
    e0.state != 4 || s.dramReady (e0.addr none 0) || ((homeOf new o.1).map (fun h => h.kind == .shared)).getD true

/-- Locations that are still to be freed. -/
def State.freeing (s : State) : List Extent :=
  s.placer.freeing.map (fun f => { holder := (0, 0), start := f.2.addr none 0, bytes := round64 f.2.size })

/-- The domain of a set that is the slowest: the lowest sample rate, the lower number at equal rates (R103). -/
def State.slowest (s : State) (ds : List (Fin 4)) : Option (Fin 4) :=
  ds.foldl (fun a d => match a with
    | none => some d
    | some b => if s.fsOf d < s.fsOf b then some d else some b) none

/-- A plan that is to become current in the domains it touches. -/
def Pending.of (p : Plan) (t : Trigger) (ds : List (Fin 4)) (evac moving : Bool) (banks : List (Fin 256)) : Pending :=
  { plan := p, trigger := t, domains := ds, lead := ds.headD 0, leadBlk := 0, evac := evac, moving := moving, begun := false, counts := []
    slow := none, banks := banks }

/-- The next table as a plan writes it: every home of the plan; a region whose copy is being seeded keeps its entry (R106). -/
def writeNext (m : Image) (p : Plan) (s : State) : State :=
  let busy (r : Nat) : Bool := (s.entry r).state == 2 || (s.entry r).state == 3
  each m.owned (fun o s => match homeOf p o.1 with
    | some h => if busy o.1 then s else setNext o.1 (RegEntry.ofHome h (s.planSize m p o.1)) s
    | none => s) (levelTables s)

/-- A plan that passes becomes pending: the next table is written, and its copies start (R99, R106, R115). -/
def planAccepted (m : Image) (cur new : Plan) (ms : List Move) (s : State) : State :=
  let rs := s.resizeCopies m new
  let cs := (s.planCopies m new ms).filter (fun c => !rs.any (fun r => r.2.region == c.region)) ++ rs.map (·.2)
  let restored := cur.shed.filter (fun k => !new.shed.contains k)
  let go := ms.filter (fun v => !v.seed)
  let pend := Pending.of new (s.placer.trigger.getD .host) (s.touched go cs restored) false (!go.isEmpty) (s.xbar.bankWait.map (·.1))
  let s := writeNext m new s
  startCopies (s.onPlacer fun p => { p with
    state := .copying, pending := some pend, moves := p.moves ++ ms, waiting := p.waiting ++ cs
    resizes := p.resizes.map (fun r => ((rs.find? (fun x => x.1.node == r.node && r.cap == 0)).map (·.1)).getD r) })

/-- The processes that an evacuation must place anew: their copies are stopped. -/
def State.lostNodes (s : State) : List Nat := ((s.procs.filter (·.stopped)).map (·.node)).eraseDups

def Image.shedRank (m : Image) (node : Nat) : Nat := ((m.hints.find? (fun h => h.node == node)).map (·.shedRank)).getD 8

/-- Processes in the order of R124: ascending shed rank, then descending node id. -/
def Image.shedOrder (m : Image) : List Nat :=
  let key (k : Nat) : Nat × Nat := (m.shedRank k, k)
  let before (a b : Nat) : Bool := (key a).1 < (key b).1 || ((key a).1 == (key b).1 && decide ((key b).2 < (key a).2))
  let rec ins (x : Nat) : List Nat → List Nat
    | [] => [x]
    | y :: t => if before x y then x :: y :: t else y :: ins x t
  m.processes.foldl (fun l n => ins n.id l) []

/-- Every node of `order` that satisfies the test precedes every one that does not. -/
def prefixOf (order : List Nat) (p : Nat → Bool) : Bool := (order.dropWhile p).all (fun k => !p k)

/-- An engine has room for one more copy of a process beside what a plan gives it: cycles, programs, local memory and budget
(R36, R89). -/
def PlanEnv.roomOn (v : PlanEnv) (p : Plan) (n : NodeRec) (e : Fin 24) : Bool :=
  let site : Site := match siteOf p n.id with
    | some t => { t with sec := some e }
    | none => { node := n.id, prim := e, sec := none }
  let p1 : Plan := { p with sites := site :: p.sites.filter (fun t => t.node != n.id) }
  let own := v.m.owned.filter (fun o => o.2.2.id == n.id && o.2.1.cls == 0 && (homeOf p o.1).isNone)
  let free := ((List.range 3).map (fun k => localSize k - v.localBytes p1 e k)).sum
  v.allowed e && v.engineOk p1 e && decide (v.m.engineMacs p1 ≤ v.budget) && decide ((own.map (fun o => round64 o.2.1.size)).sum ≤ free)

/-- What a plan leaves out is what capacity forces (R124): the last process in the order that it sheds, and the last CRITICAL
one that it runs as one copy, have no room on any engine; nothing is shed while a CRITICAL process has two copies; and both go
in the order. -/
def PlanEnv.shortOk (v : PlanEnv) (p : Plan) (held : Nat → Bool) : Bool :=
  let order := v.m.shedOrder
  let one (k : Nat) : Bool := match siteOf p k with
    | some t => t.sec.isNone
    | none => true
  let crit := order.filter (fun k => v.m.processes.any (fun n => n.id == k && n.critical))
  let full (k : Nat) : Bool := match v.m.processes.find? (fun n => n.id == k) with
    | some n => (List.finRange 24).all (fun e => (siteOf p k).any (fun t => t.prim == e) || !v.roomOn p n e)
    | none => true
  let last (l : List Nat) : Bool := ((l.filter (fun k => !held k)).getLast?).all full
  let shed := order.filter p.shed.contains
  prefixOf crit one && (shed.isEmpty || (crit.all one && prefixOf order p.shed.contains)) && last shed
    && last (crit.filter (fun k => one k && !p.shed.contains k))

/-- What an evacuation plan may do (R122 to R124): other processes and their regions stay, and spares are used first. -/
def State.evacOk (s : State) (m : Image) (v : PlanEnv) (cur new : Plan) : Bool :=
  let lost := s.lostNodes
  let anew (k : Nat) : Bool := lost.contains k || new.shed.contains k || cur.shed.contains k
  let stays := m.processes.all fun n =>
    anew n.id || (match siteOf cur n.id, siteOf new n.id with
      | some a, some b => b.prim == a.prim && (a.sec.isNone || b.sec.isNone || a.sec == b.sec)
      | none, some _ => false
      | _, none => false)
  let homes := m.owned.all fun o => if anew o.2.2.id then
      ((homeOf new o.1).map (fun h => h.kind != .dram || (s.dram (fin 2 h.unit)).state == .ready)).getD true
    else (match homeOf new o.1 with
      | some h =>
        let e0 := s.entry o.1
        h.kind == e0.kind && h.base == e0.base && h.samples == 0 && (h.unit == e0.unit || (o.2.2.critical && h.unit % 8 == e0.unit % 8))
      | none => false)
  let spares := (List.finRange 24).filter (fun e => (s.engine e).spare && !(s.engine e).out)
  let sparesFirst := m.processes.all fun n =>
    if !lost.contains n.id || n.critical then true
    else match siteOf new n.id with
      | some t => (s.engine t.prim).spare
          || spares.all (fun e => !v.roomOn { new with sites := new.sites.filter (fun x => x.node != n.id) } n e)
      | none => true
  stays && homes && sparesFirst && v.shortOk new (fun _ => false)

/-- PLAN_BUILT for load step 12 (R94, R132). -/
def loadPlan (q : ImgReq) (m : Image) (cand : Option Plan) (s : State) : State :=
  let spares := s.loadSpares m
  let allowed (e : Fin 24) : Bool := !(s.engine e).out && !(s.engine e).passFail && !spares.contains e
  let freq (e : Fin 24) : Nat := (s.engine e).allowed
  let key : PlanKey :=
    { image := m, allowed := (List.finRange 24).map allowed, freq := (List.finRange 24).map freq
      banksOn := ((List.finRange 256).filter (fun b => s.bank b == .on)).map (·.val)
      dram := ((List.finRange 2).map (fun c => if (s.dram c).state = .ready then (s.dram c).usable else 0)).foldl (fun a x => 65536 * a + x) 0
      commit := s.placer.commit }
  let memo := (s.placer.firstPlans.find? (fun x => x.1 == key)).map (·.2)
  let pick := match memo with
    | some p => some p
    | none => cand
  let env := s.planEnv m ((s.fixedBanks m).getD []) false allowed freq m.loadSize
  let ordered (p : Plan) : Bool := p.sites.all (fun t => match t.sec with
    | some b => decide (t.prim.val < b.val)
    | none => true)
  let done (ok : Bool) (s : State) : State := s.onImg fun i => { i with req := some { q with placed := some ok } }
  match pick with
  | some p =>
    if s.placeable m && env.planOk p && ordered p && p.shed.isEmpty && p.homes.all (fun h => h.samples == 0) then
      let pend := Pending.of p .load [] false false []
      done true (s.onPlacer fun x => { x with
        pending := some pend, firstPlans := if memo.isSome then x.firstPlans else (key, p) :: x.firstPlans })
    else done false (s.onPlacer fun x => { x with state := .idle, trigger := none })
  | none => done false (s.onPlacer fun x => { x with state := .idle, trigger := none })

/-- Engines that a plan may use. -/
def State.planEngines (s : State) (evac : Bool) (e : Fin 24) : Bool :=
  let g := s.engine e
  !g.out && (evac || !g.spare)

/-- What a plan for a PATINA, MEMORY, DELAY or HOST trigger is checked against: the frequencies that are allowed (R89). -/
def State.hostEnv (s : State) (m : Image) (p : Plan) : PlanEnv :=
  s.planEnv m (s.xbar.fixed ++ s.banksDue ++ s.xbar.bankWait.map (·.1.val)) true (s.planEngines false) (fun e => (s.engine e).allowed) (s.planSize m p)

/-- What an evacuation plan is checked against: spares serve, engines run at the frequencies they have, and what stays may stay in a
bank that is to leave ON and in a controller that is not READY. -/
def State.evacEnv (s : State) (m : Image) (p : Plan) : PlanEnv :=
  { s.planEnv m (s.xbar.fixed ++ s.banksDue) true (s.planEngines true) (fun e => (s.engine e).actual.toNat) (s.planSize m p) with
    dram := fun c => (s.dram (fin 2 c)).bytes }

/-- The second copy of a process is being seeded. -/
def State.stillSeeding (s : State) (node : Nat) : Bool := s.placer.moves.any (fun v => v.seed && v.node == node)

/-- A plan is built, or not, for the triggers under way (R98, R102). An evacuation goes on until it has a plan (R121). -/
def planBuilt (cand : Option Plan) (s : State) : State :=
  match s.placer.state, s.placer.pending with
  | .building, none =>
    if s.placer.trigger = some .load then
      match s.img.req with
      | some q => match q.image with
        | some m => loadPlan q m cand s
        | none => s
      | none => s
    else match s.img.loaded, s.placer.current with
      | some m, some cur =>
        let env := s.hostEnv m (cand.getD cur)
        match cand with
        | none => planFailed s
        | some new =>
          match m.planMoves cur new with
          | none => planFailed s
          | some ms =>
            if env.planOk new && s.triggersAllow m cur new ms && s.leavesDown m new && env.shortOk new s.stillSeeding
                && env.freshApart cur new s.freeing then planAccepted m cur new ms s
            else planFailed s
      | _, _ => s
  | .evacuating, none =>
    match s.img.loaded, s.placer.current, cand with
    | some m, some cur, some new =>
      let env := s.evacEnv m new
      if env.planOk new && s.evacOk m env cur new && env.freshApart cur new s.freeing then
        let lost := s.lostNodes ++ new.shed.filter (fun k => !cur.shed.contains k) ++ cur.shed.filter (fun k => !new.shed.contains k)
        let pend := Pending.of new .engineOut (s.touched [] [] lost) true false []
        writeNext m new (s.onPlacer fun p => { p with pending := some pend })
      else s
    | _, _, _ => s
  | _, _ => s

/-- PLAN_BUILT (R102). -/
def execPlanBuilt (cand : Option Plan) (s : State) : Host.Outcome State Fault Refusal := .next (planBuilt cand s)

/-! ## Switching (R103, R107, R114, R116) -/

/-- Stores that an engine issued before the first overlap boundary and still buffers reach the instance of the new site (R116). -/
def mirrorBuffered (v : Move) (s : State) : State :=
  let g := s.engine v.a
  each (g.wbuf ++ g.wbufWait) (fun p s =>
    if p.2.isEmpty then s else each (s.mirrorOf p.1) (fun x s => { s with mem := s.mem.putN x p.2 }) s) s

/-- The new copy starts with the state of the old one: its stores and pages have reached memory (R116). -/
def startOverlap (v : Move) (s : State) : State :=
  let s := flushWhere (fun p => p.engine == v.a && s.ownerOf p.region == v.node) (mirrorBuffered v s)
  let s := s.onPlacer fun p => { p with moves := mapIf (fun x => x == v) (fun x => { x with phase := 1 }) p.moves }
  match s.proc? v.node v.a with
  | some p => addProc { p with engine := v.b, isNew := true, out := none, missedNow := false, stopped := false } s
  | none => s

/-- A STAGED region leaves a controller that is not READY: the pages that pools hold are copied, every other byte is zero, and that
is reported (R418). -/
def leaveDown (c : CopySlot) (s : State) : State :=
  let pages := s.placer.pages.filter (fun p => p.region == c.region)
  let s := each pages (fun p s => settleStores (s.pageAddr p) 4096 p.engine s) s
  let s := putCopy c 0 (zeroBytes c.bytes) s
  let part (p : Page) : Nat := min 4096 (c.bytes - 4096 * p.page)
  let s := each pages (fun p s => putCopy c (4096 * p.page) (s.mem.getN (s.pageAddr p) (part p)) s) s
  let whole := (List.range (ceilDiv c.bytes 4096)).all (fun k => pages.any (fun p => p.page == k))
  raiseIf (!whole) 0x500D [] (dropPages (fun p => p.region == c.region) s)

/-- A copy's region takes its new location from the next table; the old one waits to be freed (R107, R114, R116). The contents
of a STAGED region, which engines changed in DRAM while it was copied, go over whole. -/
def takeNew (d : Fin 4) (k : Fin 64) (s : State) : State :=
  let c := s.slot k
  let s := if (s.entry c.region).state != 4 then s
    else if s.dramReady (c.old.addr none 0) then
      let s := flushPages c.region s
      putCopy c 0 (s.mem.getN (c.old.addr none 0) c.bytes) s
    else leaveDown c s
  freeSlot k (takeEntry c.region (s.onPlacer fun p => { p with freeing := (d, c.old) :: p.freeing }))

/-- A seeded copy becomes the pair's second (R123). -/
def finishSeed (v : Move) (s : State) : State :=
  let s := s.onPlacer fun p => { p with moves := p.moves.filter (fun x => x != v) }
  let s := s.onProc v.node v.b fun p => { p with isNew := false }
  let s := each (s.moveSlots v) (fun k s =>
    let r := (s.slot k).region
    let en := { s.entry r with state := 1, slot := 0 }
    freeSlot k (takeEntry r (setNext r en s))) s
  onSite v.node (fun t => { t with sec := some v.b })
    (s.onPair v.node fun q => { q with sec := some v.b, alone := false, single := false })

/-- The entries of a CRITICAL process whose copy has moved: the primary's instance is the one that they name (R92). -/
def movedEntry (v : Move) (c : CopySlot) (s : State) : State :=
  let isPrim := ((siteOf s.plan v.node).map (fun t => t.prim == v.a)).getD true
  let en := s.entry c.region
  setNext c.region { en with state := 1, slot := 0, unit := if isPrim then c.new.unit else en.unit } s

/-- At boundary n + 2 the copy on A stops and readers take the copy on B (R116). -/
def finishMove (d : Fin 4) (v : Move) (s : State) : State :=
  let s := s.onPlacer fun p => { p with moves := p.moves.filter (fun x => x != v) }
  let s := flushWhere (fun p => p.engine == v.a && s.ownerOf p.region == v.node) s
  let swap (e : Fin 24) : Fin 24 := if e = v.a then v.b else e
  let s := each (s.moveSlots v) (fun k s => takeNew d k (if s.critical v.node then movedEntry v (s.slot k) s else s)) s
  let s := s.onPair v.node fun q => { q with prim := swap q.prim, sec := q.sec.map swap }
  let s := onSite v.node (fun t => { t with prim := swap t.prim, sec := t.sec.map swap }) s
  (dropProc v.node v.a s).onProc v.node v.b fun p => { p with isNew := false }

/-- A restarted process (R122): its regions at the homes that the next table gives, kept where they persist and read back
cleanly. -/
def restartRegion (p : Plan) (oldSite : Option (Fin 24)) (o : Nat × RegionRec × NodeRec) (s : State) : Bool × State :=
  match homeOf p o.1 with
  | none => (false, s)
  | some _ =>
    let s := flushPages o.1 s
    let e0 := s.entry o.1
    let e1 := agetD s.placer.next o.1 e0
    let src := e0.addr none 0
    let dst := e1.addr none 0
    let clean := e0.state != 0 && (e0.state != 4 || s.dramReady src) && !s.xbar.badUe.any (fun w => decide (src / 8 ≤ w) && decide (8 * w < src + o.2.1.size))
    let keep := o.2.1.persist && clean && (oldSite.isSome || e0.kind != .engineLocal)
    let bytes := s.mem.getN src o.2.1.size
    let fill (a : Nat) (s : State) : State :=
      if keep then { s with mem := (s.mem.clear a (a + o.2.1.size)).putN a bytes } else initRegion o.2.1 a s
    let s := fill dst s
    let s := match e1.kind, (siteOf p o.2.2.id).bind (·.sec) with
      | .engineLocal, some b => fill (e1.addr (some b) 0) s
      | _, _ => s
    (!keep, takeEntry o.1 s)

/-- A copy as a restart leaves it: as a load does, but a DELAY keeps its history where its region is kept and its region's
size, and a bridge's count goes on (R122, R131, R149). -/
def State.restarted (s : State) (n : NodeRec) (old : Option ProcSt) (kept : Bool) (e : Fin 24) : ProcSt :=
  let len := samplesOfMs (s.fsOf n.domain) 20
  let p : ProcSt := { s.newProc n e with rampIn := len, rampLen := len }
  match old with
  | some q => { p with hist := if kept then q.hist else [], histCap := q.histCap, ringCount := q.ringCount }
  | none => p

/-- Restart a process at its site in a plan (R122); a CRITICAL one that runs as one copy is reported (R124). -/
def restartProc (p : Plan) (n : NodeRec) (s : State) : State :=
  match siteOf p n.id with
  | none => s
  | some t =>
    let old := s.procs.find? (fun q => q.node == n.id)
    let owned := ((s.img.loaded.map Image.owned).getD []).filter (fun o => o.2.2.id == n.id)
    let r := owned.foldl (fun (acc : Bool × State) o =>
      let x := restartRegion p (old.map (·.engine)) o acc.2
      (acc.1 || x.1, x.2)) (false, s)
    let s := raiseIf r.1 0x500D [] r.2
    let s := each ((s.procs.filter (fun q => q.node == n.id)).map (·.engine)) (fun e s => dropProc n.id e s) s
    let fresh := s.restarted n old (!r.1)
    let s := addProc (fresh t.prim) s
    let known := ((s.pair? n.id).map (·.single)).getD false
    match t.sec with
    | some b =>
      (addProc (fresh b) s).onPair n.id fun q => { q with prim := t.prim, sec := some b, mismatch := none, alone := false, single := false }
    | none =>
      raiseIf (n.critical && !known) 0x5007 []
        (s.onPair n.id fun q => { q with prim := t.prim, sec := none, mismatch := none, alone := true, single := true })

/-- A process is shed: silent, and reported (R124). -/
def shedProc (node : Nat) (s : State) : State :=
  raise 0x5007 [] ((s.onNode node fun p => { p with stopped := true }).onPlacer fun p =>
    { p with moves := p.moves.filter (fun v => v.node != node) })

/-- A CRITICAL process runs as a single copy, reported once (R124). -/
def singleCopy (node : Nat) (s : State) : State :=
  match s.pair? node with
  | some q =>
    let s := match q.sec with
      | some b => dropProc node b s
      | none => s
    raiseIf (!q.single) 0x5007 [] (s.onPair node fun x => { x with sec := none, mismatch := none, alone := true, single := true })
  | none => s

/-- In an evacuation the regions of processes that go on take the plan's entries: those of a pair whose primary was lost name the
instance that is left (R92, R107). -/
def takeEntries (ns : List NodeRec) (s : State) : State :=
  each ns (fun n s => each (s.ownedRegions n.id) (fun o s =>
    if (s.entry o.1).state = 1 then takeEntry o.1 s else s) s) s

/-- The processes of a domain as a plan that is current there leaves them: shed, single, restored, seeded. -/
def applySites (d : Fin 4) (cur new : Plan) (s : State) : State :=
  let ns := ((s.img.loaded.map Image.processes).getD []).filter (fun n => n.domain == d)
  let order := ((s.img.loaded.map Image.shedOrder).getD []).filter (fun k => ns.any (fun n => n.id == k))
  let s := each (order.filter (fun k => match siteOf cur k, siteOf new k with
    | some _, some b => s.critical k && b.sec.isNone && !s.lostNodes.contains k && !s.stillSeeding k
    | _, _ => false)) singleCopy s
  let s := each (order.filter (fun k => new.shed.contains k && !cur.shed.contains k)) shedProc s
  let s := if s.placer.state = .evacuating then takeEntries (ns.filter (fun n => !s.lostNodes.contains n.id)) s else s
  each ns (fun n s =>
    if new.shed.contains n.id then s
    else if s.lostNodes.contains n.id || cur.shed.contains n.id then restartProc new n s
    else match s.pair? n.id, (siteOf new n.id).bind (·.sec) with
      | some q, some b =>
        if q.sec.isSome ∨ s.placer.moves.any (fun v => v.node == n.id) then s
        else
          let v : Move := { node := n.id, a := q.prim, b := b, seed := true, phase := 0 }
          let s := s.onPlacer fun p => { p with moves := p.moves ++ [v] }
          match s.img.loaded with
          | some m =>
            let cs := (s.planCopies m new [v]).filter (fun c => c.kind == 2 && s.ownerOf c.region == n.id)
            startCopies (s.onPlacer fun p => { p with waiting := p.waiting ++ cs })
          | none => s
      | _, _ => s) s

/-- The banks that a current plan has emptied enter their states once its locations are released (R406). -/
def banksLeave (s : State) : State :=
  if s.placer.freeing.isEmpty then
    each s.placer.bankDue (fun b s => bankEnter b.1 b.2 s) (s.onPlacer fun p => { p with bankDue := [] })
  else s

/-- The pages of a pool that the new plan places elsewhere, or no more, leave it (R109). -/
def poolsMove (new : Plan) (s : State) : State :=
  flushWhere (fun p => s.poolOf p.engine != new.pools.find? (fun q => q.engine == p.engine)) s

/-- A plan is current in every domain that it touches (R28, R103, R121, R125). -/
def planCurrent (c : Pending) (s : State) : State :=
  let noDram := c.plan.homes.all (fun h => h.kind != .dram)
  let e := s.placer.epoch + 1
  let emptied := s.xbar.bankWait.filter (fun w => c.banks.contains w.1)
  let s := poolsMove c.plan s
  let s := s.onPlacer fun p => { p with
    current := some c.plan, pending := none, state := .idle, trigger := none, merged := [], epoch := e, epochBlk := c.leadBlk,
    reduced := noDram, bankDue := p.bankDue ++ emptied, resizes := p.resizes.filter (fun r => !r.done)
    arenaKib := ((s.img.loaded.map (fun m => arenaOf m c.plan)).getD 0) }
  let s := s.onXbar fun x => { x with bankWait := x.bankWait.filter (fun w => !c.banks.contains w.1) }
  let s := raise 0x5001 [v32 e.toNat, v8 (triggerCode c.trigger)] s
  let s := if c.evac then
      let free := (List.finRange 24).any (fun e => (s.engine e).spare && !(s.engine e).out)
      let s := raiseIf (!free) 0x5006 [] (raise 0x5005 [] s)
      each (List.finRange 24) (fun e s =>
        if (s.engine e).spare && c.plan.sites.any (siteOn · e) then s.onEngine e fun g => { g with spare := false } else s) s
    else s
  nextPlan (levelTables s)

/-- A resized DELAY switches to its new region and its tap moves (R129, R248), unless a later write has moved it since. -/
def finishResize (c : CopySlot) (s : State) : State :=
  match s.placer.resizes.find? (fun r => r.node == s.ownerOf c.region && r.cap != 0), s.node? (s.ownerOf c.region) with
  | some r, some n =>
    let s := s.onPlacer fun p => { p with resizes := p.resizes.filter (fun x => x != r) }
    let s := raise 0x500A [] (s.onNode n.id fun p => { p with histCap := r.cap })
    match s.param? (paddrOf n.id 1) with
    | some q =>
      let w : PWrite := match r.ov with
        | some o => { paddr := q.decl.paddr, value := r.dly, cls := o.cls, dbLaw := o.dbLaw, time := o.time, ovr := true }
        | none => q.decl.write r.dly
      if r.moves then tapMove n q.decl.time w s else s
    | none => s
  | _, _ => s

/-- A shortened region holds so many samples from its switch on (R131). -/
def finishShorten (c : CopySlot) (s : State) : State :=
  match ((s.placer.pending.bind (fun q => homeOf q.plan c.region)).map (·.samples)).getD 0 with
  | 0 => s
  | k => s.onNode (s.ownerOf c.region) fun p => { p with histCap := k, hist := p.hist.take k }

/-- Copies without their process take their new locations as the plan becomes current in their owner's domain (R107, R114). -/
def finishCopies (d : Fin 4) (s : State) : State :=
  each (List.finRange 64) (fun k s =>
    let c := s.slot k
    if (c.kind == 1 || c.kind == 3) && c.full && s.ownerDomain c.region == d then
      let s := takeNew d k s
      if c.kind = 3 then finishResize c s else finishShorten c s
    else s) s

/-- The pending plan switches in a domain. -/
def switchDomain (d : Fin 4) (s : State) : State :=
  match s.placer.pending with
  | none => s
  | some c =>
    if !c.domains.contains d || c.trigger == .load then s
    else
      let blk := (s.tb (s.tbOf d)).blk
      let c := { c with domains := c.domains.filter (· != d), leadBlk := if c.lead = d then blk else c.leadBlk }
      let s := s.onPlacer fun p => { p with pending := some c }
      let cur := s.plan
      let s := applySites d cur c.plan (finishCopies d s)
      if c.domains.isEmpty then planCurrent c s else s

/-- Every copy of the pending plan is made. -/
def State.planCopied (s : State) : Bool :=
  s.placer.waiting.all (fun c => s.placer.moves.any (fun v => v.seed && v.node == s.ownerOf c.region))
    && (s.placer.moves.filter (fun v => !v.seed)).all s.moveCopied
    && (List.finRange 64).all (fun k => let c := s.slot k; c.kind == 0 || c.kind == 2 || c.full)

/-- The boundary of a domain, counted from the first one of the slowest domain with every copy made, at which its overlap
begins, so that the domains switch within one block of the slowest (R103, R116): the slowest one's own, and for any other the
one that lies two of its own blocks before the slowest one's switch. -/
def State.overlapStart (s : State) (slow d : Fin 4) : Nat :=
  if d = slow then 0 else max 1 ((4 * s.fsOf d + s.fsOf slow) / (2 * s.fsOf slow) - 1)

/-- The boundary, counted so, at which the plan becomes current in a domain. -/
def State.switchAt (s : State) (c : Pending) (slow d : Fin 4) : Nat :=
  if c.moving then s.overlapStart slow d + 2 else if d = slow then 0 else 1

/-- A plan counts a boundary of a domain, and at the right ones starts its overlaps and switches. -/
def countPlan (d : Fin 4) (ready : Bool) (s : State) : State :=
  match s.placer.pending, s.slowest ((s.placer.pending.map (·.domains)).getD []) with
  | some c, some slow =>
    let starts := !c.begun && d == slow && (c.evac || ready)
    if c.trigger == .load || (!c.begun && !starts) then s
    else
      let k := if starts then 0 else agetD c.counts d.val 0 + 1
      let slow := c.slow.getD slow
      let s := s.onPlacer fun p => { p with pending := some { c with begun := true, slow := some slow, counts := aset c.counts d.val k } }
      let s := if c.moving && k == s.overlapStart slow d then
          let mine := s.placer.moves.filter (fun v => !v.seed && v.phase == 0 && ((s.node? v.node).map (fun n => n.domain == d)).getD false)
          (each mine startOverlap s).onPlacer fun p => { p with state := if p.state = .copying then .overlap else p.state }
        else s
      if k == s.switchAt c slow d then switchDomain d s else s
  | _, _ => s

/-- The plans' part of a boundary of a domain (R26 step 2, R107, R114, R116). -/
def planBoundary (d : Fin 4) (s : State) : State :=
  let s := banksLeave s
  let s := s.onPlacer fun p => { p with freeing := p.freeing.filter (fun f => f.1 != d) }
  let ready := s.planCopied
  let moves := s.placer.moves.filter (fun v => ((s.node? v.node).map (fun n => n.domain == d)).getD false)
  let s := startCopies s
  let s := each moves (fun v s =>
    if v.phase = 0 then (if v.seed && s.moveCopied v then startOverlap v s else s)
    else if v.phase = 1 then s.onPlacer fun p => { p with moves := mapIf (fun x => x == v) (fun x => { x with phase := 2 }) p.moves }
    else if v.seed then finishSeed v s
    else finishMove d v s) s
  countPlan d ready s

/-! ## Overlap comparison (R117 to R120) -/

/-- A plan without one move: its process and its regions stay where they are. -/
def planWithout (p cur : Plan) (v : Move) (mine : Nat → Bool) : Plan :=
  { p with
    sites := mapIf (fun t => t.node == v.node) (fun t =>
      if v.seed then { t with sec := none }
      else { t with prim := if t.prim = v.b then v.a else t.prim, sec := t.sec.map (fun x => if x = v.b then v.a else x) }) p.sites
    homes := p.homes.map (fun h => if mine h.region then (homeOf cur h.region).getD h else h) }

/-- A move is abandoned at the send deadline. -/
def abortMove (v : Move) (suspect : Bool) (s : State) : State :=
  let s := raise 0x5004 [] (dropMove v s)
  let s := s.onPlacer fun p => { p with pending := p.pending.map (fun c => { c with
    plan := planWithout c.plan s.plan v (fun r => s.ownerOf r == v.node) }) }
  let s := if v.seed then onSite v.node (fun t => { t with sec := none }) s else s
  if suspect then markSuspect v.b s else s

/-- The overlaps of a domain at its send deadline. -/
def compareOverlaps (d : Fin 4) (s : State) : State :=
  each (s.placer.moves.filter (fun v => 0 < v.phase && ((s.node? v.node).map (fun n => n.domain == d)).getD false)) (fun v s =>
    match s.proc? v.node v.a, s.proc? v.node v.b with
    | some a, some b =>
      if b.missedNow then abortMove v false s
      else if s.placer.overlapCompare && !a.missedNow && a.digest != b.digest then abortMove v true s
      else s
    | _, _ => s) s

/-! ## Losing an engine (R121, R428) -/

/-- One copy on a lost engine. -/
def loseCopy (e : Fin 24) (p : ProcSt) (s : State) : State :=
  match s.pair? p.node with
  | some q =>
    let other : Option (Fin 24) := if q.prim = e then q.sec else if q.sec = some e then some q.prim else none
    match other with
    | some x =>
      let s := onSite p.node (fun t => { t with prim := x, sec := none }) (dropProc p.node e s)
      s.onPair p.node fun y => { y with prim := x, sec := none, mismatch := none, spare := none, replay := none, alone := true }
    | none => s.onProc p.node e fun y => { y with stopped := true }
  | none => s.onProc p.node e fun y => { y with stopped := true }

/-- What follows for the processes of an engine that is declared out: a process in overlap from it goes on at its new site,
every other move that it takes part in ends, and the rest are to be placed anew (R121). -/
def evacuate (e : Fin 24) (s : State) : State :=
  if s.img.loaded.isNone then s
  else
    let saved := s.placer.moves.filter (fun v => v.a == e && 0 < v.phase)
    let s := each saved (fun v s =>
      finishMove (((s.node? v.node).map (·.domain)).getD 0) v s) s
    let s := each (s.placer.moves.filter (fun v => v.seed && (v.a == e || v.b == e))) dropMove s
    let s := abandonPlan s
    let s := each (s.procs.filter (fun p => p.engine == e)) (loseCopy e) s
    s.onPlacer fun p => { p with state := .evacuating, trigger := some .engineOut, merged := [] }

/-- An engine is declared out (R121, R428). -/
def declareOut (e : Fin 24) (cause : Fin 7) (s : State) : State :=
  if (s.engine e).out then s.onEngine e fun g => { g with outDue := none }
  else
    let s := s.onEngine e fun g => { g with
      out := true, outCause := cause, outDue := none, spare := false, causeCleared := false, freqDue := none,
      fg := Ctx.reset, bg := Ctx.reset, parked := none, stalled := none, orphan := none, wbuf := [],
      wbufWait := [] }
    let s := s.onPat (fin 59 e.val) fun x => { x with lowering := false }
    evacuate e (masterReset (fin 37 e.val) (raise 0x9001 [v8 e.val, v8 cause.val] s))

/-- Declarations that wait take effect at a block boundary, or at a pacing tick with no image loaded (R425, R428). -/
def declareOuts (s : State) : State :=
  each (List.finRange 24) (fun e s =>
    let g := s.engine e
    match g.outDue with
    | some c => declareOut e c s
    | none => s) s

/-- The outputs of stopped processes of a domain (R121, R124): the substitute of R127 once, then silence. -/
def silentWork (d : Fin 4) (s : State) : State :=
  each (s.procs.filter (·.stopped)) (fun p s =>
    match s.node? p.node with
    | some n =>
      match workIdx (s.ivl n) n with
      | some w =>
        if n.domain = d ∧ !p.isNew then
          let fs := (List.range n.outputs).map (fun k => substitute p.misses (nth p.last k 0))
          let s := s.onProc p.node p.engine fun q => { q with out := some fs, misses := q.misses + 1, last := fs.map (fun _ => 0) }
          let s := if n.type = .delay then s.onProc p.node p.engine (·.record silence) else s
          let s := if n.type = .meter then s.onProc p.node p.engine (fun q => meterClose n q s) else s
          publish n.id w fs s
        else s
      | none => s
    | none => s) s

/-- Spares in service. -/
def State.sparesFree (s : State) : List (Fin 24) := (List.finRange 24).filter (fun e => (s.engine e).spare && !(s.engine e).out)

/-- Re-admit one engine: NOT_PERMITTED unless it is out, its last full self-test pass passed, and a cause 2, 3 or 4 has been
cleared (R125, R135, R430). -/
def admitEngine (e : Fin 24) (s : State) : Byte × State :=
  let g := s.engine e
  let held := 2 ≤ g.outCause.val && g.outCause.val ≤ 4 && !g.causeCleared
  if !g.out || g.passFail || held then (stNotPermitted, s)
  else
    let want := (s.img.loaded.map (fun m => m.cap.spares)).getD 0
    let spare := decide (s.sparesFree.length < want)
    (stOk, s.onEngine e fun x => { x with out := false, outCause := 0, causeCleared := false, spare := spare })

/-- PLACER_ENG_ADMIT (R125). -/
def execPlacerEngAdmit (mask : BitVec 24) (s : State) : Host.Outcome State Fault Refusal :=
  .next (each (maskBits mask.toNat 24) (fun k s => (admitEngine (fin 24 k) s).2) s)

/-! ## Region faults (R126) -/

/-- A page comes into an engine's pool; where every slot is taken the least recently used one gives way (R109). -/
def bringPage (e : Fin 24) (r pg : Nat) (s : State) : State :=
  match s.poolOf e with
  | none => s
  | some q =>
    let mine := s.placer.pages.filter (fun p => p.engine == e)
    let free := (List.range q.pages).find? (fun k => !mine.any (fun p => p.slot == k))
    let s := match free, mine.getLast? with
      | none, some v => flushWhere (fun p => p == v) s
      | _, _ => s
    let slot := free.getD ((mine.getLast?.map (·.slot)).getD 0)
    let p : Page := { engine := e, region := r, page := pg, dirty := false, slot := slot }
    match s.pageHome p with
    | some (h, n) =>
      { s with mem := s.mem.putN (s.pageAddr p) (s.mem.getN h n) }.onPlacer fun x => { x with pages := p :: x.pages }
    | none => s

/-- An engine's access needs a page that is not in its pool. -/
def State.pageMissing (s : State) (e : Fin 24) (f : FaultSt) : Bool :=
  (s.route (s.ownerOf f.region) f.region f.offset (some e)).staged && (s.page? e f.region (pageOf f.offset)).isNone

/-- The fault can be resolved: a page whose DRAM channel is ready and whose engine has a pool, or a region that is mapped (R126). -/
def State.resolvable (s : State) (e : Fin 24) (f : FaultSt) : Bool :=
  let t := s.route (s.ownerOf f.region) f.region f.offset (some e)
  match t.rd with
  | none => false
  | some a => !t.staged || (s.poolOf e).isSome && s.dramReady a

def resolveFault (e : Fin 24) (f : FaultSt) (s : State) : State :=
  let s := s.onPlacer fun p => { p with faults := satInc32 p.faults }
  if s.pageMissing e f then bringPage e f.region (pageOf f.offset) s else s

/-- The placement engine has served an engine's oldest fault that can be resolved: the banks are exchanged and the process
that faulted resumes by replaying the instruction; one whose process has given up its block work only comes in (R126). -/
def faultServed (e : Fin 24) (s : State) : State :=
  let g := s.engine e
  let can (f : Option FaultSt) : Option FaultSt := f.filter (s.resolvable e)
  match can g.orphan, can g.parked, can g.stalled with
  | some f, _, _ => resolveFault e f (s.onEngine e fun g => { g with orphan := none })
  | none, some f, _ => resolveFault e f (s.onEngine e fun g => { g with parked := none, stalled := none, fg := g.bg, bg := g.fg })
  | none, none, some f => resolveFault e f (s.onEngine e fun g => { g with stalled := none })
  | none, none, none => s

/-- FAULT_SERVICE_DONE (R126). -/
def execFaultServiceDone (e : Fin 24) (s : State) : Host.Outcome State Fault Refusal := .next (faultServed e s)

/-! ## Engine clocks (R133, R318 to R320) -/

/-- A change of actual takes effect where the engine's load allows it. -/
def freqTakes (e : Fin 24) (s : State) : State :=
  let g := s.engine e
  match g.freqDue with
  | none => s
  | some f =>
    if g.actual.toNat ≤ f.toNat ∨ s.fitsAt e f.toNat then
      (s.onEngine e fun g => { g with actual := f, freqDue := none }).onPat (fin 59 e.val) fun x => { x with lowering := false }
    else s

/-- The engines of a domain at its boundary, or those without processes at a pacing tick. -/
def freqBoundary (d : Option (Fin 4)) (s : State) : State :=
  each (List.finRange 24) (fun e s => if s.engineDomain e = d then freqTakes e s else s) s

/-- A write of cap: 600 MHz to 1,250 MHz in units of 25 MHz (R318, R319). -/
def capWrite (e : Fin 24) (cap : Nat) (s : State) : State :=
  let g := s.engine e
  let c := clampNat 24 50 cap
  let f := min c g.allow.toNat
  let s := s.onEngine e fun g => { g with cap := BitVec.ofNat 8 c, freqDue := if f = g.actual.toNat then none else some (BitVec.ofNat 8 f) }
  if f < g.actual.toNat ∧ !s.fitsAt e f then queueTrigger .host s else s

/-- ENGINE_CAP_WRITE (R319). -/
def execEngineCapWrite (e : Fin 24) (cap : Byte) (s : State) : Host.Outcome State Fault Refusal := .next (capWrite e cap.toNat s)

/-- An island generator loses lock (R320): an engine is declared out with cause 4. -/
def clockLoss (i : Fin 59) (s : State) : State :=
  let s := raise 0x100C [v8 i.val] s
  if h : i.val < 24 then
    s.onEngine ⟨i.val, h⟩ fun g => { g with clockFault := true, outDue := if g.out then g.outDue else some (g.outDue.getD 4) }
  else s.onClk fun c => { c with clockFaults := setFlag c.clockFaults i.val }

/-- ISLAND_CLOCK_LOSS (R320). -/
def execIslandClockLoss (i : Fin 59) (s : State) : Host.Outcome State Fault Refusal := .next (clockLoss i s)

end Sys2Proof.Machine
end

