-- ==== Sys2Proof/Machine/Pairs.lean ====
section
/-! DEFINITION. Engine health and self-test (R425 to R430), and the comparison of CRITICAL pairs (R431 to R435). -/

namespace Sys2Proof.Machine

/-! ## Engine health (R425 to R430) -/

/-- The engine health word (R426) of the errors met so far. -/
def Engine.healthNow (g : Engine) : Word :=
  packW [(g.passes.toNat, 16), (g.sequence.toNat, 8), (b2n g.out, 4), (b2n g.clockFault, 3),
    (b2n (g.eccNow || g.eccPrev), 2), (b2n (g.residueNow || g.residuePrev), 1), (b2n g.stFail, 0)]

/-- An engine health word fails when any of bits [3:0] is 1. -/
def healthFails (w : Word) : Bool := fld w 3 0 != 0

/-- An engine is to be declared out at the next boundary, unless it is out; the first cause stands (R428). -/
def Engine.condemn (g : Engine) (cause : Fin 7) : Engine :=
  if g.out then g else { g with outDue := some (g.outDue.getD cause) }

/-- The pacing tick updates every engine health word (R425); a residue error declares its engine out (R428). -/
def healthTick (s : State) : State :=
  s.onEngines fun g =>
    let g := if g.residueNow then g.condemn 2 else g
    { g with health := g.healthNow, eccPrev := g.eccNow, eccNow := false, residuePrev := g.residueNow, residueNow := false }

/-- Self-test sequences passed in a row since sequence 0 of a pass, with the one that has just run (R429). -/
def Engine.cleanNext (g : Engine) (failed : Bool) : Nat :=
  if failed then 0
  else if g.seqNext = 0 then 1
  else if g.cleanRun = g.seqNext.toNat then g.cleanRun + 1
  else 0

/-- A self-test sequence ends (R426 to R430). -/
def selftestDone (e : Fin 24) (failed : Bool) (s : State) : State :=
  s.onEngine e fun g =>
    let last := g.seqNext == 63
    let bad := g.passBad || failed
    let clean := g.cleanNext failed
    let g' : Engine := { g with
      sequence := g.seqNext.setWidth 8, seqNext := g.seqNext + 1, stFail := failed, cleanRun := clean,
      suspect := g.suspect && clean != 64, passes := if last then g.passes + 1 else g.passes,
      passFail := if last then bad else g.passFail, passBad := !last && bad }
    if failed then g'.condemn 0 else g'

/-- SELFTEST_SEQUENCE_DONE (R427). -/
def execSelftestSequenceDone (e : Fin 24) (failed : Bool) (s : State) : Host.Outcome State Fault Refusal :=
  .next (selftestDone e failed s)

/-- Engines named by the mask are declared out with cause 6 (R428). -/
def forceOut (mask : Nat) (s : State) : State :=
  each (maskBits mask 24) (fun k s => s.onEngine (fin 24 k) fun g => g.condemn 6) s

/-- RED_ENG_FORCE_OUT (R428). -/
def execRedEngForceOut (mask : BitVec 24) (s : State) : Host.Outcome State Fault Refusal := .next (forceOut mask.toNat s)

/-- A cause 2, 3 or 4 of the engines named by the mask is cleared (R430). -/
def clearCause (mask : Nat) (s : State) : State :=
  each (maskBits mask 24) (fun k s => s.onEngine (fin 24 k) fun g =>
    if g.out && 2 ≤ g.outCause.val && g.outCause.val ≤ 4 then { g with causeCleared := true, clockFault := false } else g) s

/-- RED_ENG_CLEAR (R430). -/
def execRedEngClear (mask : BitVec 24) (s : State) : Host.Outcome State Fault Refusal := .next (clearCause mask.toNat s)

def clearPairCounts (s : State) : State := s.onRed fun r => { r with replays := 0, mismatches := 0 }

/-- RED_CLEAR_COUNTS (R433). -/
def execRedClearCounts (s : State) : Host.Outcome State Fault Refusal := .next (clearPairCounts s)

/-! ## Replay (R432, R433) -/

/-- Run the foreground program of an engine, as far as the fuel goes: shared accesses are answered at once. -/
def runProgram (e : Fin 24) (n : NodeRec) : Nat → State → State
  | 0, s => s
  | k + 1, s =>
    let g := s.engine e
    if g.fg.node.isNone then s
    else
      let s := { s with mem := (g.wbuf ++ g.wbufWait).foldl (fun (m : Mem) (w : Nat × List Byte) => m.putN w.1 w.2) s.mem }
      let s := s.onEngine e fun g => { g with wbuf := [], wbufWait := [] }
      let i := ((((s.progOf n).map (·.code)).getD [])[g.fg.settle.pc]?).bind readWord
      runProgram e n k (issue e n (i.getD { c := .nop, m0 := .nop, m1 := .nop }) s)

/-- The machine as it stood for one block of a pair: the retained process, parameters and regions (R432). -/
def replayState (q : PairSt) (n : NodeRec) (r : Retain) (s : State) : State :=
  let now := s.regionCells n.id r.proc.engine
  let mem := r.cells.foldl (fun m c => m.put c.1 c.2) (now.foldl (fun m c => m.put c.1 0) s.mem)
  let ps := s.scene.params.map (fun x => (r.params.find? (fun y => y.decl.paddr == x.decl.paddr)).getD x)
  let s := { s with mem := mem, procs := [{ r.proc with out := none }] }
  let s := s.onScene fun c => { c with params := ps }
  let s := s.onRed fun d => { d with pairs := d.pairs.filter (fun x => x.node != q.node) }
  let s := s.onTb (s.tbOf n.domain) fun t => { t with ivl := r.ivl }
  s.onEngine r.proc.engine fun _ => Engine.reset

/-- The digest that a spare gets for interval k of a pair; none where the block does not complete. -/
def State.replayDigest (s : State) (q : PairSt) (k : Nat) : Option Word :=
  match q.retained.find? (fun r => r.ivl == k), s.node? q.node with
  | some r, some n =>
    match workIdx k n with
    | some w =>
      let t := beginWork n { r.proc with out := none } w (replayState q n r s)
      let t := if n.type = .proc then runProgram r.proc.engine n (2 * ((s.progOf n).map (·.cycles)).getD 0 + 64) t else t
      match t.proc? n.id r.proc.engine with
      | some p => if p.out.isSome && !p.missedNow then some p.digest else none
      | none => none
    | none => none
  | _, _ => none

/-- The lowest-numbered spare in service that is not replaying. -/
def State.replaySpare (s : State) : Option (Fin 24) :=
  s.sparesFree.find? (fun e => !s.red.pairs.any (fun q => q.spare == some e) && !s.procs.any (fun p => p.engine == e))

/-! ## Comparing a pair (R431 to R435) -/

/-- A resolution ends. -/
def PairSt.settle (q : PairSt) : PairSt :=
  { q with mismatch := none, spare := none, replay := none, failPrim := false, failSec := false }

/-- A mismatch starts a resolution (R433 step 1). -/
def startResolution (n : NodeRec) (a b : Word) (s : State) : State :=
  let t := s.tb (s.tbOf n.domain)
  let s := s.onPair n.id fun q => { q.settle with mismatch := some t.ivl, digPrim := a, digSec := b }
  raise 0x9003 [v32 n.id, v64 t.blk.toNat] (s.onRed fun r => { r with mismatches := satInc16 r.mismatches })

/-- The substitute that replaces a mismatched block for every reader, formed from the last sample released (R435). -/
def State.replaceFrames (s : State) (n : NodeRec) (q : PairSt) : List Frame :=
  let last := ((s.outs.find? (fun o => o.node == n.id)).map (·.last)).getD []
  (List.range n.outputs).map (fun k => substitute q.replaced (nth last k 0))

/-- What readers get from a pair: the primary's output if it completed, else the secondary's; the primary's substitute
when both copies miss (R434). -/
def pairOutput (a : ProcSt) (b : Option ProcSt) : List Frame :=
  match b with
  | some b => if a.missedNow && !b.missedNow then b.out.getD [] else a.out.getD []
  | none => a.out.getD []

/-- The copy that readers take where one has completed: the primary, else the secondary. -/
def pairSource (a : ProcSt) (b : Option ProcSt) : Option ProcSt := if !a.missedNow then some a else b.filter (!·.missedNow)

/-- A compare-before pair holds its output for the next boundary (R435): a block whose digests differ, or which no copy
completes, is replaced; the first one after a run of replaced blocks fades in, together with what its copy's own factors are
(R127, R597). -/
def holdOutput (n : NodeRec) (q : PairSt) (a : ProcSt) (b : Option ProcSt) (differs : Bool) (s : State) : State :=
  let r : List Frame × Nat := match pairSource a b with
    | some p =>
      if differs then (s.replaceFrames n q, q.replaced + 1)
      else (restoreFrames { p.restore with missed := p.restore.missed || decide (0 < q.replaced) } p.raw, 0)
    | none => (s.replaceFrames n q, q.replaced + 1)
  (s.onProc n.id a.engine fun p => { p with heldOut := some r.1 }).onPair n.id fun q => { q with replaced := r.2 }

/-- One pair at the send deadline of its domain (R431, R434, R435). -/
def comparePair (d : Fin 4) (node : Nat) (s : State) : State :=
  match s.pair? node, s.node? node with
  | some q, some n =>
    match s.proc? node q.prim, workIdx (s.ivl n) n with
    | some a, some w =>
      if n.domain ≠ d then s
      else
        let b := q.sec.bind (s.proc? node)
        let digSec := match b with
          | some x => if a.missedNow || x.missedNow || q.alone then none else some x.digest
          | none => none
        let differs := digSec.any (· != a.digest)
        let s := if differs && q.mismatch.isNone then startResolution n a.digest (digSec.getD 0) s else s
        if n.before then holdOutput n q a b differs s
        else if a.missedNow && b.isSome then publish n.id w (pairOutput a b) s
        else s
    | _, _ => s
  | _, _ => s

/-- The pairs of a domain at its send deadline. -/
def comparePairs (d : Fin 4) (s : State) : State := each (s.red.pairs.map (·.node)) (comparePair d) s

/-- Held outputs are published at the boundary after their interval (R435). -/
def releaseHeld (d : Fin 4) (s : State) : State :=
  each (s.procs.filter (fun p => p.heldOut.isSome)) (fun p s =>
    match s.node? p.node with
    | some n =>
      if n.domain = d then
        let s := s.onProc p.node p.engine fun x => { x with heldOut := none }
        match workIdx (s.ivl n - 1) n with
        | some w => publish n.id w (p.heldOut.getD []) s
        | none => s
      else s
    | none => s) s

/-- The faulty engine of a pair is declared out with cause 1; the other copy goes on (R121, R433). -/
def resolvePair (node : Nat) (faulty : Fin 24) (replay : Bool) (s : State) : State :=
  let s := s.onPair node PairSt.settle
  raise 0x9004 [v32 node, v8 faulty.val, v8 (b2n replay)] (declareOut faulty 1 s)

/-- No copy can be told faulty: both engines become suspect (R433 step 5). -/
def unresolvedPair (q : PairSt) (sec : Fin 24) (s : State) : State :=
  raise 0x9005 [v32 q.node] (markSuspect sec (markSuspect q.prim (s.onPair q.node PairSt.settle)))

/-- Boundary n + 2: the health words decide, or a spare replays the block (R433 steps 2 and 3). -/
def judgePair (q : PairSt) (sec : Fin 24) (k : Nat) (s : State) : State :=
  let fp := q.failPrim || healthFails (s.engine q.prim).healthNow
  let fs := q.failSec || healthFails (s.engine sec).healthNow
  if fp && !fs then resolvePair q.node q.prim false s
  else if fs && !fp then resolvePair q.node sec false s
  else match s.replaySpare with
    | some e =>
      (s.onPair q.node fun x => { x with spare := some e, replay := s.replayDigest q k }).onRed fun r =>
        { r with replays := satInc16 r.replays }
    | none => s

/-- Boundary n + 3: the spare's digest decides (R433 steps 4 and 5). -/
def endReplay (q : PairSt) (sec : Fin 24) (s : State) : State :=
  let alive := q.spare.any (fun e => !(s.engine e).out)
  if alive && q.replay == some q.digPrim then resolvePair q.node sec true s
  else if alive && q.replay == some q.digSec then resolvePair q.node q.prim true s
  else unresolvedPair q sec s

/-- One pair under resolution at a boundary of its domain (R433). -/
def pairBoundary (d : Fin 4) (node : Nat) (s : State) : State :=
  match s.pair? node, s.node? node with
  | some q, some n =>
    match q.mismatch, q.sec with
    | some k, some sec =>
      let i := s.ivl n
      if n.domain ≠ d then s
      else if i = k + 1 then
        let fp := healthFails (s.engine q.prim).healthNow
        let fs := healthFails (s.engine sec).healthNow
        s.onPair node fun x => { x with failPrim := fp, failSec := fs }
      else if i = k + 2 then judgePair q sec k s
      else endReplay q sec s
    | _, _ => s
  | _, _ => s

/-- The pairs of a domain at its boundary. -/
def pairsBoundary (d : Fin 4) (s : State) : State := each (s.red.pairs.map (·.node)) (pairBoundary d) s

end Sys2Proof.Machine
end

