-- ==== Sys2Proof/Machine/Duet.lean ====
section
/-! DEFINITION. Duets and mirrored pairs (R446 to R460): unit digest and health, mirrored parameter writes, breaths, pair
states, seeding. -/

namespace Sys2Proof.Machine

/-! ## The pair (R446, R447, R452, R453) -/

/-- The LINK record of the pair's lane: DUET or MIRROR. -/
def State.pairCfg (s : State) : Option LinkRec :=
  (s.red.lanes.toList.find? (fun l => l.cfg.role == 4 || l.cfg.role == 5)).map (·.cfg)

/-- The duet domain (R442). -/
def State.duetDom (s : State) : Option (Fin 4) := s.pairCfg.map (·.domain)

/-- The block counter of the duet domain. -/
def State.duetBlk (s : State) : BitVec 48 := ((s.duetDom.map (fun d => (s.tb (s.tbOf d)).blk)).getD 0)

/-- The states in which a member transmits (R452). -/
def PairState.transmits : PairState → Bool
  | .off => true | .alone => true | .paired => true | .isolated => true
  | .joining => false | .verifying => false | .held => false

/-- A pair-state change with the holds of R453: every transmit leg of a member that does not transmit is held. -/
def enterPair (new : PairState) (s : State) : State :=
  let s := setPair new s
  let h := !new.transmits
  { s with net := { s.net with tx := s.net.tx.map (fun x => if x.held = h then x else { x with held := h }) } }

/-- The level of the active_gpio pin, where it overrides the pin's set-up (R453). -/
def State.activePin (s : State) : Option (Nat × Bool) :=
  if s.red.gpioEn then some (s.red.activeGpio.val, s.red.pair.transmits) else none

/-- A pair is JOINING, VERIFYING or PAIRED: its parameter writes are mirrored (R447). -/
def State.mirrors (s : State) : Bool :=
  let own := match s.red.pair with
    | .joining => true | .verifying => true | .paired => true
    | .off => false | .alone => false | .isolated => false | .held => false
  let p := s.red.partnerState.val
  s.pairCfg.isSome && (own || (2 ≤ p && p ≤ 4 && s.red.missed < 4 && s.red.pair != .off))

/-- A write is scheduled for a block number of a timebase (R23, R447). -/
def schedule (t : Fin 4) (block : BitVec 48) (i : StageItem) (s : State) : State :=
  s.onTb t fun x => { x with numbered := x.numbered ++ [(block, i)] }

/-- An accepted parameter write: staged on the timebase of its node for the next open boundary (R27), or, where the pair's
writes are mirrored, scheduled for the block 2 after that one and sent to the partner with that number (R447). -/
def acceptParam (p : PAddr) (v : Word) (s : State) : State :=
  match s.node? (paddrNode p) with
  | none => s
  | some n =>
    let t := s.tbOf n.domain
    if s.mirrors then
      let x := s.tb t
      let blk := x.blk + 3 + BitVec.ofNat 48 (b2n (!x.open_))
      let s := schedule t blk (.param p v) s
      match s.pairLanes with
      | l :: _ => laneSend l (.param p v blk) s
      | [] => s
    else stage t (.param p v) s

/-- A write of the partner is scheduled for the block that its frame names; one whose number the counter has already passed takes
effect at the next boundary (R23, R447). -/
def receiveParam (p : PAddr) (v : Word) (block : BitVec 48) (s : State) : State :=
  match s.pairCfg, s.node? (paddrNode p) with
  | some _, some n => schedule (s.tbOf n.domain) block (.peerParam p v) (laneRxFirst s.pairLanes s)
  | _, _ => s

/-- PARAM (R447). -/
def execParam (paddr : PAddr) (value : Word) (block : BitVec 48) (s : State) : Host.Outcome State Fault Refusal :=
  .next (receiveParam paddr value block s)

/-- The individual writes of one boundary: of two writes of one PADDR the higher-rank member's comes last, and prevails
(R278, R447). -/
def State.paramWrites (s : State) (items : List StageItem) : List PWrite :=
  let write (p : PAddr) (v : Word) : Option PWrite := (s.param? p).map (fun q => q.decl.write v)
  let own := items.filterMap (fun i => match i with
    | .param p v => write p v
    | _ => none)
  let peer := items.filterMap (fun i => match i with
    | .peerParam p v => write p v
    | _ => none)
  if s.red.rank then peer ++ own else own ++ peer

/-! ## Unit digest and unit health (R449, R450) -/

/-- The unit health word (R450). -/
def State.unitHealth (s : State) : Word :=
  let engines := s.engines.toList.any (fun g => !g.out && healthFails g.health)
  let apll := match s.duetDom.bind s.domain? with
    | some d => !((s.apll d.apll).state == .locked)
    | none => false
  let tb := match s.duetDom with
    | some d => let x := s.tbState (s.tbOf d); x == .holdover || x == .refused
    | none => false
  packW [(b2n engines, 0), (b2n (s.xbar.ueNow || s.xbar.uePrev), 1), (b2n (s.drams.toList.any (fun c => c.state == .down)), 2),
    (b2n s.power.braced, 3), (b2n apll, 4), (b2n tb, 5), (b2n (s.fabric.overNow || s.fabric.overPrev), 6),
    (b2n (s.mirrored && !s.red.clusterBad.isEmpty), 7)]

/-- The domain whose intervals the unit's digest and health count: the duet domain, or with no pair the pacing domain. -/
def State.unitDom (s : State) : Option (Fin 4) := s.duetDom.or (s.pacing.map (·.dom))

/-- The intervals that the health bits 1 and 6 remember pass on at a boundary of the unit's domain. -/
def rollUnit (d : Fin 4) (s : State) : State :=
  if s.unitDom = some d then
    (s.onXbar fun x => { x with uePrev := x.ueNow, ueNow := false }).onFabric fun f =>
      { f with overPrev := f.overNow, overNow := false }
  else s

/-- The unit digest of the interval that ends (R449). -/
def State.unitDigest (s : State) (d : Fin 4) : Word :=
  digestOf ((s.nodes.filter (fun n => n.type == .sink && n.domain == d)).map s.finalFrame)

/-- As the source of a seed: the values that the nodes will start the next block with (R458 phase 2). -/
def seedGains (s : State) : State :=
  if s.red.seedSrc = 3 then
    let gains := s.nodes.filterMap (fun n => if n.type = .gain then
      let f := s.factors n true
      some (n.id, BitVec.ofInt 32 (gainOf f.1 f.2)) else none)
    let sends := s.fabric.sends.map (fun p => (p.1, p.2.cEnd))
    let limits := s.fabric.limits.map (fun l => (l.node, BitVec.ofNat 32 l.gLast))
    seedSend (.fabricState gains sends limits) s
  else s

/-- When an interval's SINK data are final: unit digest and health, the HEALTH frame of a mirrored cluster, link channels. -/
def unitFinal (d : Fin 4) (s : State) : State :=
  let s := each (s.lanesOf d) sendLink s
  let s := if s.unitDom = some d then s.onRed fun r => { r with unitHealth := s.unitHealth } else s
  if s.duetDom = some d then
    let g := s.unitDigest d
    let b := s.duetBlk
    let s := s.onRed fun r => { r with digest := g, digests := ((b, g) :: r.digests).take 16 }
    let s := if s.mirrored then lanesSend s.groupLanes (.health s.red.unitHealth b) s else s
    seedGains s
  else s

/-- HEALTH frames that a chip remembers as passed on: 64 of each other chip (R445 gives no number; DESIGN CHOICE, assumption 248). -/
def healthKept : Nat := 448

/-- A HEALTH frame of another chip of the same cluster: passed on once, and noted unless a later one has come (R445, R450). -/
def receiveHealth (position : Fin 8) (word : Word) (block : BitVec 48) (s : State) : State :=
  if s.mirrored = false ∨ position.val = s.clusterPos ∨ s.red.healthSeen.contains (position, block) then s
  else
    let s := laneRxFirst s.groupLanes s
    let newer := s.red.healthSeen.any (fun x => x.1 == position && 0 < (x.2 - block).toInt)
    let s := s.onRed fun r => { r with
      healthSeen := ((position, block) :: r.healthSeen).take healthKept
      clusterBad := if newer then r.clusterBad
                    else if word = 0 then r.clusterBad.filter (· != position.val)
                    else if r.clusterBad.contains position.val then r.clusterBad else position.val :: r.clusterBad }
    lanesSend s.groupLanes (.health word block) s

/-- HEALTH_FRAME (R450). -/
def execHealthFrame (position : Fin 8) (word : Word) (block : BitVec 48) (s : State) : Host.Outcome State Fault Refusal :=
  .next (receiveHealth position word block s)

/-! ## Breath (R451 to R456) -/

/-- At 0.96 P a member of a pair sends its breath on every pair lane in service (R451). -/
def sendBreath (s : State) : State :=
  if s.pairCfg.isNone || s.red.pair == .off then s
  else
    let w := s.unitHealth
    let r := s.red
    let m : BreathMsg :=
      { block := s.duetBlk, rank := r.rank, pairState := fin 8 r.pair.code, lost := decide (4 ≤ r.missed),
        transmitting := r.pair.transmits, buildId := (s.img.loaded.map (·.buildId)).getD 0, digest := r.digest, health := w,
        paramEpoch := r.paramEpoch, lastBlock := r.lastPartner }
    let s := s.onRed fun r => { r with unitHealth := w, healths := ((m.block, w) :: r.healths).take 16 }
    lanesSend s.pairLanes (.breath m) s

/-- BREATH_SEND (R451). -/
def execBreathSend (s : State) : Host.Outcome State Fault Refusal := .next (sendBreath s)

/-- A value of an interval still remembered. -/
def atBlock {α : Type} (l : List (BitVec 48 × α)) (b : BitVec 48) : Option α := (l.find? (fun p => p.1 == b)).map (·.2)

/-- A pair state waits for a boundary of the duet domain. -/
def pairDue (b : BitVec 48) (st : PairState) (s : State) : State := s.onRed fun r => { r with due := some (b, st) }

/-- The next boundary of the duet domain. -/
def State.nextDuet (s : State) : BitVec 48 := s.duetBlk + 1

/-- Breath failure (R455, R459). -/
def breathFailure (s : State) : State :=
  let lose (st : PairState) (s : State) : State := raise 0x900C [v64 s.red.lastPartner.toNat] (pairDue s.nextDuet st
    (s.onRed fun r => { r with duetBad := none, reconnect := none, heard := 0 }))
  let held : Bool := match s.red.due with
    | some (_, st) => st == .isolated
    | none => false
  if held then s
  else match s.red.pair with
  | .paired => lose .isolated s
  | .alone => lose .isolated s
  | .verifying => lose .isolated s
  | .held => lose .isolated s
  | .joining => if 2 ≤ s.red.seedPhase.val then lose .isolated s else lose .held s
  | .isolated => s
  | .off => s

/-- BREATH_MISSING (R455). -/
def breathMissing (s : State) : State :=
  if s.pairCfg.isNone || s.red.pair == .off then s
  else
    let s := s.onRed fun r => { r with missed := r.missed + 1, heard := 0 }
    if s.red.missed = 4 then breathFailure s else s

def execBreathMissing (s : State) : Host.Outcome State Fault Refusal := .next (breathMissing s)

/-- The digests of interval m agree; none where this unit has none for it. -/
def State.digestMatch (s : State) (b : BreathMsg) : Option Bool := (atBlock s.red.digests b.block).map (· == b.digest)

/-- RED_MATCHES counts consecutive matching digests. -/
def countMatch (ok : Bool) (s : State) : State :=
  s.onRed fun r => { r with matches_ := if ok then satInc32 r.matches_ else 0 }

/-- A reconnection by agreement needs 16 matches in a row; a difference holds the rank 0 member (R456). -/
def reconnecting (b : BreathMsg) (s : State) : State :=
  let refuse (s : State) : State :=
    let s := raise 0x900D [v8 1] (s.onRed fun r => { r with reconnect := none, heard := 0 })
    if s.red.rank then s else pairDue s.nextDuet .held s
  match s.red.reconnect with
  | some k =>
    match s.digestMatch b with
    | some true =>
      let s := countMatch true s
      if k + 1 = 16 then
        raise 0x900D [v8 0] (pairDue s.nextDuet .paired (s.onRed fun r => { r with reconnect := none, heard := 0 }))
      else s.onRed fun r => { r with reconnect := some (k + 1) }
    | some false => refuse (countMatch false s)
    | none => s
  | none =>
    let s := s.onRed fun r => { r with heard := r.heard + 1 }
    if s.red.heard < 2 then s
    else if b.paramEpoch = s.red.paramEpoch then s.onRed fun r => { r with reconnect := some 0 }
    else refuse s

/-- A PAIRED member reads a breath (R454). -/
def pairedBreath (b : BreathMsg) (s : State) : State :=
  let own (m : BitVec 48) : Bool := ((atBlock s.red.healths m).getD 0) != 0
  let ok := s.digestMatch b
  let s := match ok with
    | some x => countMatch x s
    | none => s
  match s.red.duetBad with
  | some (m, o, p) =>
    if b.block = m + 1 then
      let o := o || own m || own b.block
      let p := p || b.health != 0
      let stop := if o != p then o else !s.red.rank
      let s := s.onRed fun r => { r with duetBad := none }
      pairDue (m + 3) (if stop then .held else .paired) s
    else s
  | none =>
    if ok = some false ∧ b.pairState = 4 ∧ s.red.due.isNone then
      raise 0x900B [v64 b.block.toNat] (s.onRed fun r => { r with
        flags := setFlag r.flags 0, duetBad := some (b.block, own b.block, b.health != 0) })
    else s

/-- A VERIFYING member reads a breath (R458 phase 3). -/
def verifyBreath (b : BreathMsg) (s : State) : State :=
  match s.digestMatch b with
  | some true =>
    let s := countMatch true s
    let k := s.red.reconnect.getD 0 + 1
    let s := s.onRed fun r => { r with reconnect := some k }
    if k = 16 then pairDue s.nextDuet .paired s else s
  | some false =>
    if s.red.due.isSome then s
    else
      let s := countMatch false (s.onRed fun r => { r with seedFails := r.seedFails + 1, reconnect := none })
      pairDue s.nextDuet (if 3 ≤ s.red.seedFails then .held else .joining) s
  | none => s

/-- A received breath (R451 to R458); one that arrives on both lanes counts once. The source of a seed, and a member that compares
after a reconnection, is PAIRED with its partner. -/
def receiveBreath (b : BreathMsg) (s : State) : State :=
  if s.pairCfg.isNone || b.rank == s.red.rank then s
  else if s.red.lastBreath = some b.block then laneRxFirst s.pairLanes s
  else
    let s := laneRxFirst s.pairLanes s
    let was := s.red.partnerState
    let follows := s.red.seedSrc != 0 || s.red.reconnect.isSome
    let s := s.onRed fun r => { r with
      lastPartner := b.block, lastBreath := some b.block, partnerState := b.pairState, partnerRank := b.rank
      partnerTx := b.transmitting, partnerDigest := b.digest, missed := 0
      heard := if b.pairState = 1 ∨ b.pairState = 5 then r.heard else 0 }
    let paired (s : State) : State :=
      if b.pairState = 4 ∧ follows = true ∧ s.red.due.isNone then
        pairDue s.nextDuet .paired (s.onRed fun r => { r with reconnect := none, heard := 0 })
      else s
    -- the source of a seed follows the joiner's state (R458)
    let s := s.onRed fun r => { r with
      seedSrc := if b.pairState = 2 ∧ was = 3 then 2 else if b.pairState = 2 ∨ b.pairState = 3 then r.seedSrc else 0 }
    if b.lost then breathFailure s
    else match s.red.pair with
    | .off => s
    | .alone => if b.pairState = 1 ∨ b.pairState = 5 then reconnecting b s else paired s
    | .isolated => if b.pairState = 1 ∨ b.pairState = 5 then reconnecting b s else paired s
    | .paired => pairedBreath b s
    | .verifying => verifyBreath b s
    | .joining => s
    | .held => match s.digestMatch b with
      | some x => countMatch x s
      | none => s

/-- BREATH (R454). -/
def execBreath (b : BreathMsg) (s : State) : Host.Outcome State Fault Refusal := .next (receiveBreath b s)

/-! ## Seeding (R457 to R459) -/

/-- RED_RESEED (R457): a write of reseed acts in HELD. -/
def reseed (s : State) : State := if s.red.pair = .held then s.onRed fun r => { r with reseed := true } else s

def execRedReseed (s : State) : Host.Outcome State Fault Refusal := .next (reseed s)

/-- The joiner asks for a seed as it enters JOINING (R457, R458). -/
def startSeed (s : State) : State :=
  let s := enterPair .joining (s.onRed fun r => { r with
    seedPhase := 1, seedFails := 0, seedParams := [], seedEpoch := none, seedWritten := [], seedDone := [], reseed := false
    due := none })
  seedSend .request s

/-- Every copy of every process waits for its items (R458 phase 2). -/
def stopProcesses (s : State) : State :=
  (s.onProcs fun p => { p with stopped := true }).onRed fun r => { r with seedDone := [], seedPhase := 2 }

/-- Writes have taken effect at a boundary of a domain (R448). A member that waits for the parameter record notes them, with the next
block of the duet domain where they come between two of its boundaries (R458). -/
def noteWrites (d : Fin 4) (ps : List PAddr) (s : State) : State :=
  let b := s.duetBlk + BitVec.ofNat 48 (b2n (s.duetDom != some d))
  s.onRed fun x => { x with
    paramEpoch := x.paramEpoch + 1
    seedWritten := if x.pair = .joining ∧ x.seedPhase = 1 then x.seedWritten ++ [(b, ps)] else [] }

/-- The joiner commits the parameter record of block `at_` in one step (R458 phase 1): writes that have taken effect after that block
stand, and count in its param epoch as in the source's. -/
def commitSeed (epoch : Word) (at_ : BitVec 48) (s : State) : State :=
  let later := s.red.seedWritten.filter (fun w => 0 < (w.1 - at_).toInt)
  let seeded := s.red.seedParams.filter (fun x => !later.any (fun w => w.2.contains x.paddr))
  let s := s.onScene fun c => { c with
    params := c.params.map fun q => match seeded.find? (fun x => x.paddr == q.decl.paddr) with
      | some x => { q with target := x.target, start := x.value, value := x.value, trans := x.trans }
      | none => q }
  let s := each s.nodes (fun n s => match n.type with
    | .mux => s.onNode n.id fun p => { p with sel := (s.pval n 1).toNat, fade := none }
    | .delay => s.onNode n.id fun p => { p with sel := (s.pval n 1).toNat, fade := none }
    | .send => s.onFabric fun f => { f with sends := f.sends.map (fun p =>
        if p.1 = n.id then
          let v := s.sendTarget n
          (p.1, { p.2 with cEnd := v, target := v, trans := .steady })
        else p) }
    | _ => s) s
  let s := s.onRed fun r => { r with
    paramEpoch := epoch + BitVec.ofNat 32 later.length, seedParams := [], seedEpoch := none, seedWritten := [] }
  stopProcesses (raise 0x900E [v32 s.red.paramEpoch.toNat] s)

/-- Processes whose items are complete start at the boundary; with the last of them the joiner takes the source's gains and
enters VERIFYING (R458). -/
def startSeeded (s : State) : State :=
  let done := s.red.seedDone
  let s := s.onProcs fun p => if done.contains p.node then { p with stopped := false, misses := 0 } else p
  if s.procs.all (fun p => !p.stopped) then
    let r := s.red
    let s := s.onProcs fun p => match aget r.seedGains p.node with
      | some g => { p with gStart := g }
      | none => p
    let s := s.onFabric fun f => { f with
      sends := f.sends.map (fun p => match aget r.seedSends p.1 with
        | some c => (p.1, { p.2 with cStart := c })
        | none => p)
      limits := f.limits.map (fun l => match aget r.seedLimits l.node with
        | some g => { l with gLast := g.toNat }
        | none => l) }
    enterPair .verifying (s.onRed fun r => { r with seedPhase := 3, reconnect := some 0, matches_ := 0 })
  else s

/-- A joiner that has lost its source takes over: complete processes run on, the others restart (R459). -/
def takeOver (s : State) : State :=
  let done := s.red.seedDone
  let plan := s.plan
  let owned := (s.img.loaded.map Image.owned).getD []
  let lost := ((s.procs.filter (fun p => p.stopped && !done.contains p.node)).map (·.node)).eraseDups
  let s := s.onProcs fun p => if done.contains p.node then { p with stopped := false } else p
  let s := each lost (fun k s => match s.node? k with
    | some n => each (owned.filter (fun o => o.2.2.id == k)) (placeRegion (fun r => (s.entry r).size) plan) (restartProc plan n s)
    | none => s) s
  raise 0x9012 [v16 lost.length] (s.onRed fun r => { r with flags := setFlag r.flags 3 })

/-- The pair state that waited for this boundary takes effect (R454 to R459). -/
def enterDue (new : PairState) (s : State) : State :=
  let old := s.red.pair
  let seed := old == .joining || old == .verifying
  let s := s.onRed fun r => { r with due := none }
  let s := if new = .isolated then s.onRed fun r => { r with flags := setFlag r.flags 1 } else s
  let s := enterPair new s
  match new with
  | .isolated => if seed then (takeOver s).onRed fun r => { r with seedPhase := 0 } else s
  | .held =>
    if old = .joining then raise 0x9011 [] (s.onRed fun r => { r with flags := setFlag r.flags 4, seedPhase := 0 })
    else if old = .verifying then raise 0x9010 [] (s.onRed fun r => { r with flags := setFlag r.flags 5, seedPhase := 0 })
    else s
  | .paired => if old = .verifying then raise 0x900F [] (s.onRed fun r => { r with seedPhase := 0, reconnect := none }) else s
  | .joining => stopProcesses s
  | _ => s

/-- The bytes of a region as its processes see it: home, with the pages that a pool holds. -/
def State.regionBytes (s : State) (o : Nat × RegionRec × NodeRec) : List Byte :=
  let e := (siteOf s.plan o.2.2.id).map (·.prim)
  match (s.route o.2.2.id o.1 0 e).rd with
  | none => []
  | some a =>
    (s.placer.pages.filter (fun p => p.region == o.1)).foldl
      (fun bs p => (putAt bs (4096 * p.page) (s.mem.getN (s.pageAddr p) 4096)).take o.2.1.size) (s.mem.getN a o.2.1.size)

/-- One process as the source sends it: its regions, instance state and output buffer, and the end of its items (R458). -/
def sendItems (n : NodeRec) (s : State) : State :=
  let owned := ((s.img.loaded.map Image.owned).getD []).filter (fun o => o.2.2.id == n.id)
  let proc := s.procs.find? (fun p => p.node == n.id)
  let s := each owned (fun o s =>
    let bs := if n.type = .delay then bytesOfWords ((proc.map (·.hist)).getD []) else s.regionBytes o
    each (pieces (bs.length / 960 + 1) 0 bs) (fun p s => seedSend (.region o.1 p.1 p.2) s) s) s
  let inst := (proc.map (fun p => p.inst.getN 0 n.bodyB)).getD []
  let s := if n.type = .proc then
      each (pieces (inst.length / 960 + 1) 0 inst) (fun p s => seedSend (.instState n.id p.1 p.2) s) s
    else s
  let out := ((s.outs.find? (fun o => o.node == n.id)).bind (fun o => (o.frames.getLast?).map (·.2))).getD []
  seedSend (.itemsEnd n.id) (seedSend (.outputs n.id out) s)

/-- As the source, what a boundary sends: the parameter record, then the state (R458). -/
def seedSource (s : State) : State :=
  match s.red.seedSrc.val with
  | 1 =>
    let ps := s.scene.params.map (fun q => { paddr := q.decl.paddr, target := q.target, value := q.value, trans := q.trans : SeedParam })
    let s := seedSend (.paramsEnd s.red.paramEpoch s.duetBlk) (seedSend (.params ps) s)
    s.onRed fun r => { r with seedSrc := 2 }
  | 2 =>
    let s := each ((s.img.loaded.map Image.processes).getD []) sendItems s
    s.onRed fun r => { r with seedSrc := 3 }
  | _ => s

/-- Bytes arrive for a region: at every instance of it, or in a DELAY's history. -/
def seedRegion (r ofs : Nat) (bs : List Byte) (s : State) : State :=
  let node := s.ownerOf r
  match s.node? node with
  | none => s
  | some n =>
    if n.type = .delay then
      s.onNode node fun p => { p with hist := (wordsOf (putAt (bytesOfWords p.hist) ofs bs)).take p.histCap }
    else
      let s := flushPages r s
      let sites := (s.procs.filter (fun p => p.node == node)).map (·.engine)
      let addrs := (sites.flatMap (fun e => s.writeAddrs (some e) r ofs (s.route node r ofs (some e)))).eraseDups
      each addrs (fun a s => { s with mem := s.mem.putN a bs }) s

/-- A received SEED frame (R458). -/
def receiveSeed (m : SeedMsg) (s : State) : State :=
  if s.pairCfg.isNone then s
  else
    let s := laneRxFirst s.pairLanes s
    let joiner := s.red.pair == .joining
    let state := joiner && s.red.seedPhase == 2
    match m with
    | .request => if s.red.pair.transmits && s.red.pair != .off then s.onRed fun r => { r with seedSrc := 1 } else s
    | .params ps =>
      if joiner && s.red.seedPhase == 1 then s.onRed fun r => { r with seedParams := r.seedParams ++ ps } else s
    | .paramsEnd e b => if joiner && s.red.seedPhase == 1 then s.onRed fun r => { r with seedEpoch := some (e, b) } else s
    | .region r ofs bs => if state then seedRegion r ofs bs s else s
    | .forward r ofs bs => if state then seedRegion r ofs bs s else s
    | .instState node ofs bs => if state then s.onNode node fun p => { p with inst := p.inst.putN ofs bs } else s
    | .outputs node fs =>
      match state, s.node? node with
      | true, some n => match workIdx (s.ivl n) n with
        | some w => publish node w fs s
        | none => s
      | _, _ => s
    | .fabricState g c l => if state then s.onRed fun r => { r with seedGains := g, seedSends := c, seedLimits := l } else s
    | .itemsEnd node => if state then s.onRed fun r => { r with seedDone := node :: r.seedDone } else s

/-- SEED (R458). -/
def execSeed (m : SeedMsg) (s : State) : Host.Outcome State Fault Refusal := .next (receiveSeed m s)

/-! ## A boundary of the duet domain -/

/-- Ports have started: a SAP runs, or the power state is RUN (R335, R457). -/
def State.portsStarted (s : State) : Bool := s.inRun || s.saps.toList.any (fun x => x.present && x.state != .stopped)

/-- Leaving OFF as the ports start (R452, R457). -/
def joinPair (s : State) : State :=
  if s.red.pair = .off ∧ s.portsStarted = true then (if s.red.partnerTx then startSeed s else enterPair .alone s) else s

/-- A HELD member asks for a seed where it may (R457). -/
def heldReseed (s : State) : State :=
  let r := s.red
  if r.pair = .held ∧ r.partnerTx = true ∧ r.missed = 0 ∧ s.pairLanes ≠ [] ∧
      (r.reseed = true ∨ (r.autoReseed = true ∧ s.unitHealth = 0)) then startSeed s
  else s

/-- A joiner's part of a boundary (R458). -/
def joinerBoundary (s : State) : State :=
  if s.red.pair = .joining then
    match s.red.seedPhase.val, s.red.seedEpoch with
    | 1, some e => commitSeed e.1 e.2 s
    | 2, _ => startSeeded s
    | _, _ => s
  else s

/-- The pair's part of a boundary of the duet domain, after the writes of the boundary. -/
def duetBoundary (d : Fin 4) (s : State) : State :=
  if s.duetDom = some d then
    let s := match s.red.due with
      | some (b, st) => if s.reached (s.tbOf d) b.toNat s.duetBlk.toNat then enterDue st s else s
      | none => s
    let s := joinerBoundary s
    let s := heldReseed (joinPair s)
    seedSource s
  else s

end Sys2Proof.Machine
end

