-- ==== Sys2Proof/Machine/Power.lean ====
section
/-! DEFINITION. Resets, the start and its ledger, the brace, the power states, and the junction temperature (chapters 15
and 18). -/

namespace Sys2Proof.Machine

/-! ## What a reset leaves (R495, R8) -/

/-- The always-on domain after a reset that leaves it as it was, with the events that it still holds (R512): the time of the new start
runs from 0. -/
def Ao.restart (a : Ao) : Ao :=
  { a with now := 0, denials := [], bbWins := a.bbWins.map (fun w => { w with start := 0 }) }

/-- The always-on domain after a POWER_ON reset: only the non-volatile record stays. -/
def Ao.powerOn (a : Ao) : Ao :=
  { Ao.reset with
    cfgA := a.cfgA, cfgB := a.cfgB, ledger := a.ledger, newest := a.newest, startCount := a.startCount,
    repairMap := a.repairMap, history := a.history, histNext := a.histNext, bbSlots := a.bbSlots, bbHead := a.bbHead,
    bbOldest := a.bbOldest, nonceCount := a.nonceCount }

/-- The fields of access RWS hold through a reset (R8). -/
def keepSticky (old new : State) : State :=
  { new with
    engines := Vector.ofFn fun e : Fin 24 => { new.engine e with flags := (old.engine e).flags }
    fabric := { new.fabric with sumSat := old.fabric.sumSat }
    clk := { new.clk with
      tbs := Vector.ofFn fun t : Fin 4 => { new.tb t with refused := (old.tb t).refused }
      cmps := Vector.ofFn fun u : Fin 16 => { new.clk.cmps.get u with late := (old.clk.cmps.get u).late } }
    saps := Vector.ofFn fun p : Fin 32 => { new.sap p with flags := (old.sap p).flags }
    net := { new.net with eths := Vector.ofFn fun n : Fin 4 => { new.eth n with flags := (old.eth n).flags } }
    red := { new.red with flags := old.red.flags, rank := old.red.rank }
    amps := Vector.ofFn fun c : Fin 16 => { new.amp c with flags := (old.amp c).flags } }

/-- Everything but the always-on domain returns to its reset value. What lies outside the part stays: host memory, the boot
flash, the levels on the pins, the commands that wait; so do the model's own records. A word of the secure partition that has
read back non-zero keeps it CLOSED until the next power-on reset (R422). -/
def State.lose (powerOn : Bool) (s : State) : State :=
  let shut := s.xbar.secClosed && !powerOn
  let new : State := { State.reset with
    ao := s.ao, hostMem := s.hostMem, flash := { s.flash with quad := false, mhz := 25 }, free := s.free, pending := s.pending
    placer := { Placer.reset with firstPlans := s.placer.firstPlans }
    evt := { Evt.reset with gpioExt := s.evt.gpioExt }
    xbar := { Xbar.reset with secClosed := shut, secState := if shut then 2 else 0 } }
  let new := if powerOn then new else keepSticky s new
  { new with power := { Power.reset with
      rstKind := s.power.rstKind, rstRail := s.power.rstRail, rstStep := s.power.rstStep, enables := s.power.enables,
      offNotTaken := s.power.offNotTaken } }

/-- A loss of VDD_AO ends the write in progress: it has taken effect or it has not (R516, R521). An append of the front of the queue
may have begun: then it is complete, or its slot is left invalid (R526). -/
def tornWrite (s : State) : State :=
  match s.ao.nvBusy, s.ao.bbQueue with
  | some w, _ =>
    let f := s.fresh
    if Config.nvTorn f.1 then nvApply w f.2 else f.2
  | none, (e, queued) :: _ =>
    let f := s.fresh
    if s.power.braced && !(s.power.nvLifted && decide (0 < s.power.nvAllowed)) then s
    else match Config.bbCut f.1 with
      | 0 => f.2
      | 1 => f.2.onAo (·.bbPut e queued false)
      | 2 => bbAppendEvent e queued f.2
  | none, [] => s

/-- A reset of a kind of R495. -/
def resetTo (kind rail step : Nat) (s : State) : State :=
  let on := kind = 0
  let s := if on then tornWrite s else s
  let s := s.lose on
  let s := s.onAo fun a => if on then a.powerOn else a.restart
  let s := s.onPower fun p => { p with
    rstKind := BitVec.ofNat 4 kind, rstRail := BitVec.ofNat 4 rail, rstStep := BitVec.ofNat 8 step,
    enables := if on then 0 else p.enables, offNotTaken := p.offNotTaken && !on }
  newNonce s

/-! ## The end of a start (R509, R514) -/

/-- The start ends in a halt at a step. -/
def haltStart (k detail elapsed : Nat) (s : State) : State :=
  let form := wordForm (getN (s.ledgerAt s.ao.newest).steps k 0)
  let s := writeStart (fun r => { r with halted := true, steps := putN r.steps k (stepWord elapsed detail form 3) }) s
  let s := s.onPower fun p => { p with faultN := true, start := { p.start with result := 2, step := 15 } }
  raise 0xC006 [v8 k] (raise 0xC001 [v8 k, v16 detail] s)

/-- The start ends in READY or RUN. -/
def finishStart (s : State) : State :=
  raise 0xC005 [v8 s.power.state.val, v8 s.power.start.source.val] (s.onStart fun x => { x with result := 1, step := 15 })

/-! ## Port starts at S9 (R513) -/

/-- The boundary b of each domain: the first at least 16 blocks from now. -/
def s9Choose (ds : List DomainRec) (s : State) : State :=
  s.onStart fun x => { x with s9Set := true, s9At := ds.map (fun d => (d.tb, (s.tb d.tb).blk + 17)) }

/-- Every APLL of the image has set mclk_valid: the boundaries are chosen. -/
def s9Check (s : State) : State :=
  let x := s.power.start
  if x.result = 0 ∧ x.step = 9 ∧ s.power.state = 4 ∧ !x.s9Set ∧ s.domains.all (fun d => (s.apll d.apll).mclk) then
    s9Choose s.domains s
  else s

/-- 100 ms have passed: the ports of a domain whose APLL has not locked are not started. -/
def s9TimesOut (s : State) : State :=
  let x := s.power.start
  if x.result = 0 ∧ x.step = 9 ∧ s.power.state = 4 ∧ !x.s9Set then
    let bad := s.domains.find? (fun d => !(s.apll d.apll).mclk)
    (s9Choose (s.domains.filter (fun d => (s.apll d.apll).mclk)) s).onStart fun y => { y with s9Fail := bad.map (·.apll.val) }
  else s

/-- S9_APLL_TIMEOUT (R513). -/
def execS9ApllTimeout (s : State) : Host.Outcome State Fault Refusal := .next (s9TimesOut s)

/-- Boundary b of a domain has come: its ports are armed and triggered, its streams enabled, its channels triggered. The
items join those of the boundary. -/
def s9Boundary (d : Fin 4) (s : State) : List StageItem × State :=
  let t := s.tbOf d
  let b := (s.tb t).blk
  if s.power.start.s9At.any (fun p => p.1 == t && decide (p.2.toNat ≤ b.toNat)) then
    let s := s.onStart fun x => { x with s9At := x.s9At.filter (fun p => p.1 != t) }
    let ports := (List.finRange 32).filter (fun p => (s.sap p).present && (s.sap p).cfg.domain == d)
    let s := each ports (fun p s => s.onSap p fun x => { x with arm := true }) s
    let rx := (List.finRange 256).filter (fun u => ((s.srx u).cfg.map (fun r => r.enabled && r.domain == d)).getD false)
    let tx := (List.finRange 256).filter (fun u => ((s.stx u).cfg.map (fun r => r.enabled && r.domain == d)).getD false)
    let s := each rx (fun u s => s.onSrx u fun x => { x with enableReg := true }) s
    let s := each tx (fun u s => s.onStx u fun x => { x with enableReg := true }) s
    let amps := (List.finRange 16).filter (fun c => (s.amp c).present && (s.amp c).autoStart && (s.amp c).domain == d)
    (ports.map (fun p => .sapTrig p true) ++ rx.map (fun u => .srxEnable u true) ++ tx.map (fun u => .stxEnable u true)
      ++ amps.map (fun c => .ampTrig c true), s)
  else ([], s)

/-! ## Steps of the start (R508 to R510) -/

/-- The form in which a step runs at this start: 0 normal, 1 alternative, 2 skipped. -/
def State.stepForm (s : State) (k : Nat) : Nat :=
  if s.power.start.alternate.contains k then (if k = 5 ∨ k = 9 then 2 else 1) else 0

/-- The part reads a block of the boot flash: the copy where the primary does not pass. -/
def pickBlock (ok : List Byte → Bool) (v : Vector (List Byte) 2) : Option (List Byte) :=
  if ok (v.get 0) then some (v.get 0) else if ok (v.get 1) then some (v.get 1) else none

/-- A flash header passes (R570). -/
def headerOk (bs : List Byte) : Bool :=
  16 ≤ bs.length && slice bs 0 4 == [0x48, 0x46, 0x4C, 0x53] && leAt bs 4 1 ≤ 1 && 25 ≤ leAt bs 5 1 && leAt bs 5 1 ≤ 100
  && leAt bs 12 4 == crc32 (slice bs 0 12)

/-- A DRAM configuration block passes (R571, R414). -/
def dramBlockOk (bs : List Byte) : Bool :=
  let ty := leAt bs 5 1
  let rate := leAt bs 6 1
  let den (c : Nat) : Bool := leAt bs 4 1 / 2 ^ c % 2 == 0 || (2 ≤ leAt bs (8 + c) 1 && leAt bs (8 + c) 1 ≤ 16)
  32 ≤ bs.length && slice bs 0 4 == [0x44, 0x52, 0x41, 0x4D] && leAt bs 4 1 < 4 && leAt bs 28 4 == crc32 (slice bs 0 28)
  && ((ty == 0 && rate ≤ 1) || (ty == 1 && 1 ≤ rate && rate ≤ 3)) && 1 ≤ leAt bs 7 1 && leAt bs 7 1 ≤ 2 && den 0 && den 1
  && allZero (slice bs 10 18)

def dramFailed (d : Dram) : Dram := { d with state := .failed, failStep := 0, usable := 0 }

/-- S5 begins: the flash header selects how the rest is read, and each fitted controller trains (R570, R571, R416). -/
def startDram (s : State) : State :=
  let h := pickBlock headerOk s.flash.headers
  let fl (f : Flash) : Flash := match h with
    | some bs => { f with quad := leAt bs 4 1 == 1, mhz := leAt bs 5 1 }
    | none => { f with quad := false, mhz := 25 }
  let s := { s with flash := fl s.flash }
  match pickBlock dramBlockOk s.flash.dram with
  | none => { s with drams := s.drams.map dramFailed }
  | some bs =>
    each (List.finRange 2) (fun c s => s.onDram c fun d =>
      if leAt bs 4 1 / 2 ^ c.val % 2 = 1 then
        { d with state := .training, failStep := 0, usable := 60 * leAt bs (8 + c.val) 1
                 rate := getN #v[55, 64, 75, 85] (leAt bs 6 1) 0, ranks := leAt bs 7 1 == 2, lp5x := leAt bs 5 1 == 1 }
      else dramFailed d) s

/-- The image source of S7 in use: its load begins (R508). -/
def startLoad (s : State) : State :=
  let src := s.power.start.firstSource
  let s := s.onStart fun x => { x with source := src, failStep := 0, passed := false }
  s.onImg fun m => { m with
    state := 1, step := 1
    req := some { verify := false, source := fin 4 src.val, addr := 0, step := 1, image := none, boot := true, placed := none } }

/-- S9 enters RUN where the host set it and an image is loaded. -/
def startRun (s : State) : State :=
  if s.cfg.bootTarget && s.img.loaded.isSome && s.power.state == 3 then
    s9Check (raise 0xB004 [v8 3, v8 4] (s.onPower fun p => { p with state := 4 }))
  else s

/-- A step begins in its normal or alternative form. -/
def enterStep (k : Nat) (s : State) : State :=
  let form := s.stepForm k
  let s := s.onStart fun x => { x with step := k, waiting := false }
  let src := s.power.start.firstSource.val
  let s := writeStep k (stepWord 0 (if k = 7 then src else if k = 8 then s.power.start.source.val else 0) form 1) s
  let s := raiseIf (form != 0) 0xC003 [v8 k, v8 form] s
  if k = 1 then s.onPower fun p => { p with enables := p.enables ||| 1 }
  else if k = 5 then startDram s
  else if k = 7 then startLoad s
  else if k = 8 then
    let s := s.onClk fun c => { c with aplls := c.aplls.map (fun a => { a with bandMode := 1 }) }
    match s.img.req with
    | some q => if q.boot && q.step == 12 then queueTrigger .load s else s
    | none => s
  else if k = 9 then startRun s
  else s

/-- A step begins, or is skipped. -/
def beginStep (k : Nat) (s : State) : State :=
  if s.stepForm k = 2 then
    let s := raise 0xC003 [v8 k, v8 2] (writeStep k (stepWord 0 0 2 2) (s.onStart fun x => { x with step := k, waiting := false }))
    if k = 5 then
      let s := { s with drams := s.drams.map dramFailed }.onPlacer fun p => { p with reduced := true }
      if s.power.braced then s.onStart fun x => { x with waiting := true } else enterStep 6 s
    else finishStart s
  else enterStep k s

/-- A step has ended: the next begins, at once or when the brace ends (R492); after S9 the start ends. -/
def nextStep (k : Nat) (s : State) : State :=
  if 9 ≤ k then finishStart s
  else if s.power.braced then s.onStart fun x => { x with waiting := true }
  else beginStep (k + 1) s

/-- A step that goes on records its outcome and detail. -/
def closeStep (k : Nat) (ok : Bool) (detail elapsed : Nat) (s : State) : State :=
  let s := writeStep k (stepWord elapsed detail (s.stepForm k) (if ok then 2 else 3)) s
  raiseIf (!ok) 0xC001 [v8 k, v16 detail] s

/-! ### What each step found -/

/-- S2: crystal and system reference; in the alternative form the crystal is not started. -/
def endClocks (r : StepEnd) (s : State) : State :=
  let alt := s.stepForm 2 == 1
  let xtal := !r.units.contains 0 && !alt
  let s := s.onClk fun c => { c with
    xtalOk := xtal, sysrefOk := !r.units.contains 1, onSysref := !xtal, openLoop := r.units.contains 1 }
  if r.units.contains 1 then raise 0x100B [] s else raiseIf (r.units.contains 0 && !alt) 0x100A [] s

/-- S3: an engine whose generator fails is out, an APLL that fails is FAILED. -/
def endBands (r : StepEnd) (s : State) : State :=
  let s := each ((List.finRange 24).filter (fun e => r.units.contains e.val)) (fun e s => declareOut e 4 s) s
  each ((List.finRange 4).filter (fun a => r.units.contains (64 + a.val))) (fun a s =>
    raise 0x1003 [v8 a.val] (s.onApll a fun x => { x with state := .failed })) s

/-- S4: the banks are ON but for those that repair cannot save; engines and the secure partition under R508. The alternative
form applies the stored map. -/
def endSram (r : StepEnd) (s : State) : State :=
  let map := if s.stepForm 4 = 1 then s.ao.repairMap else r.repairs
  let bad (b : Nat) : Bool := r.units.contains (64 + b) || map.any (fun p => p.1 == b && decide (8 < p.2))
  let failed := (List.range 256).filter bad
  let s := s.onAo fun a => { a with repairMap := map }
  let s := s.onXbar fun x => { x with
    bank := Vector.ofFn (fun b : Fin 256 => if bad b.val then .failed else .on)
    repFailed := failed.length, repRows := min 4095 ((map.map (fun p => min 8 p.2)).sum) }
  let s := each failed (fun b s => raise 0x4009 [v8 b] s) s
  let s := each ((List.finRange 24).filter (fun e => r.units.contains e.val)) (fun e s => declareOut e 0 s) s
  let s := if r.units.contains 24 then s.onXbar fun x => { x with secClosed := true, secState := 2 } else s
  { s with evt := { s.evt with offered := s.ao.held ++ s.evt.offered } }.onAo fun a => { a with held := [] }

/-- The scan of R532 sets what the Patina monitor allows an engine before placement. -/
def scanEngine (e : Fin 24) (slacks : List Nat) (s : State) : State :=
  if (s.engine e).out then s
  else
    let margin := s.cfg.startMargin.toNat
    let found := (slacks.zipIdx.take 27).find? (fun p => margin ≤ p.1)
    let allow := match found with
      | some p => 50 - p.2
      | none => 24
    let slack := match found with
      | some p => p.1
      | none => nth slacks 26 0
    let last := (s.cfg.lastAllow.get e).toNat
    let s := s.onEngine e fun g => { g with allow := BitVec.ofNat 8 allow, actual := BitVec.ofNat 8 (min allow g.cap.toNat) }
    let s := if allow < last then
        historyRecord (fin 59 e.val) 1 allow (BitVec.ofNat 16 slack) (raise 0x1014 [v8 e.val, v16 (25 * allow), v16 slack] s)
      else s
    let s := if allow ≠ last then nvAsk (.cfg (.lastAllow e (BitVec.ofNat 8 allow))) s else s
    if found.isNone ∧ slack < s.cfg.floorPs.toNat then declareOut e 5 s else s

/-- S8 begins with the scan of every engine that is not out and one measurement of each other island (R532). -/
def patinaScan (scan : List (Nat × List Nat)) (s : State) : State :=
  each scan (fun p s =>
    if h : p.1 < 24 then scanEngine ⟨p.1, h⟩ p.2 s
    else if p.1 < 58 then
      let slack := p.2.headD 65535
      let w := BitVec.ofNat 16 slack
      let s := s.onPat (fin 59 p.1) fun x => { x with slack := w, least := if slack < x.least.toNat then w else x.least }
      if slack < s.cfg.warnPs.toNat then
        raise 0x1012 [v8 p.1, v16 slack] (s.onPat (fin 59 p.1) fun x => { x with lowAt := some s.now })
      else s
    else s) s

/-- A step has ended (R508 to R510): S1 with every enable asserted, S9 in RUN with the boundaries of R513 chosen. -/
def stepEnds (r : StepEnd) (s : State) : State :=
  let x := s.power.start
  let k := x.step
  let first := (r.units.headD 0) % 4096
  let plain (ok : Bool) : State := if ok then nextStep k (closeStep k true 0 r.elapsed s) else haltStart k 0 r.elapsed s
  let source (ok : Bool) (s : State) : State := closeStep k ok (s.power.start.source.val + 4 * s.power.start.failStep) r.elapsed s
  match k with
  | 0 =>
    if !r.ok then haltStart 0 0 r.elapsed s
    else
      let s := closeStep 0 true 0 r.elapsed s
      if s.power.rstKind = 0 ∧ !s.cfg.powerOnStart ∧ !x.wakeLow then
        s.onPower fun p => { p with state := 1, start := { p.start with result := 1, step := 15 } }
      else nextStep 0 s
  | 1 => if r.ok then nextStep 1 ((closeStep 1 true 0 r.elapsed s).onPower fun p => { p with enables := 15 }) else haltStart 1 0 r.elapsed s
  | 2 =>
    let s := endClocks r s
    if r.units.contains 1 then haltStart 2 1 r.elapsed s
    else nextStep 2 (closeStep 2 (!r.units.contains 0) 0 r.elapsed s)
  | 3 =>
    let s := endBands r s
    match r.units.find? (fun u => decide (24 ≤ u) && decide (u < 64)) with
    | some u => haltStart 3 u r.elapsed s
    | none => nextStep 3 (closeStep 3 r.units.isEmpty first r.elapsed s)
  | 4 =>
    let s := endSram r s
    if r.units.contains 25 then haltStart 4 25 r.elapsed s
    else nextStep 4 (closeStep 4 (r.units.isEmpty && s.xbar.repFailed == 0) first r.elapsed s)
  | 5 =>
    let ready (c : Fin 2) : Bool := (s.dram c).state == .ready
    let fit (c : Fin 2) : Bool := (s.dram c).usable != 0
    let known := (pickBlock dramBlockOk s.flash.dram).isSome
    let ok := known && (List.finRange 2).all (fun c => !fit c || ready c)
    nextStep 5 (closeStep 5 ok (b2n (ready 0) + 2 * b2n (ready 1)) r.elapsed s)
  | 6 => plain r.ok
  | 7 =>
    let running := match s.img.req with
      | some q => q.step != 12
      | none => false
    if running then s else nextStep 7 (patinaScan r.scan (source s.power.start.passed s))
  | 8 => if s.img.req.isSome then s else nextStep 8 (source s.img.loaded.isSome s)
  | _ =>
    let bad := s.power.start.s9Fail
    if s.power.state = 4 ∧ !s.power.start.s9Set then s
    else nextStep 9 (closeStep 9 bad.isNone (bad.getD 0) r.elapsed s)

/-- START_STEP_COMPLETE (R508). -/
def execStartStepComplete (r : StepEnd) (s : State) : Host.Outcome State Fault Refusal :=
  .next (let x := s.power.start
    if x.result = 0 ∧ !x.waiting ∧ !x.pinHeld ∧ x.step ≤ 9 then stepEnds r s else s)

/-! ## The beginning of a start (R507, R509, R511, R515) -/

/-- The newest record of the ledger: no other is a later start. -/
def State.newestRec (s : State) : Fin 16 :=
  (List.finRange 16).foldl (fun b i =>
    if 0 < ((s.ledgerAt i).startCount - (s.ledgerAt b).startCount).toInt then i else b) 0

/-- The start of a record ended by a reset, not in START_COMPLETE, a halt or the STANDBY of R507 (R511). -/
def StartRec.unfinished (r : StartRec) : Bool :=
  let o (k : Nat) : Nat := wordOutcome (getN r.steps k 0)
  r.startCount != 0 && !r.halted && decide (o 9 < 2) && !(r.resetKind == 0 && o 0 == 2 && o 1 == 0)

/-- A step of a record was interrupted, or it failed. -/
def StartRec.broke (r : StartRec) (k : Nat) : Bool := wordOutcome (getN r.steps k 0) % 2 == 1

/-- The source in use when S7 or S8 of a record failed or was interrupted. -/
def StartRec.sourceAt (r : StartRec) (k : Nat) : Nat := wordDetail (getN r.steps k 0) % 4

/-- A step of the next start runs its alternative form: the step broke in its normal form; S7 and S8 need a later source
(R509, R510). -/
def StartRec.wantsAlternate (r : StartRec) (k : Nat) : Bool :=
  r.broke k && wordForm (getN r.steps k 0) == 0
  && (k < 7 || k == 9 || (decide (r.sourceAt k < 2) && !(k == 7 && wordOutcome (getN r.steps 7 0) == 3)))

/-- The two configuration copies agree after S0 (R521); in its alternative form the redundant copy counts (R508). -/
def Ao.reconcile (a : Ao) (redundant : Bool) : Ao :=
  if !a.cfgA.valid then { a with cfgA := a.cfgB }
  else if !a.cfgB.valid then { a with cfgB := a.cfgA }
  else
    let later := if redundant ∨ a.cfgA.writeCount < a.cfgB.writeCount then a.cfgB else a.cfgA
    let lc := if a.cfgA.lcState.code < a.cfgB.lcState.code then a.cfgB.lcState else a.cfgA.lcState
    { a with cfgA := { later with lcState := lc }, cfgB := { later with lcState := lc } }

/-- Invalid slots between the oldest and the newest record (R526). -/
def Ao.torn (a : Ao) : Nat :=
  if a.bbSlots.any (fun p => p.2.valid) then
    let n := (a.bbHead + bbModulo - a.bbOldest) % bbModulo
    let good := a.bbSlots.countP (fun p => p.2.valid)
    n - good
  else 0

/-- A start begins at S0. -/
def beginStart (s : State) : State :=
  let s := s.onAo (·.reconcile ((s.ledgerAt s.newestRec).wantsAlternate 0))
  let k := s.newestRec
  let prev := s.ledgerAt k
  let open_ := prev.unfinished
  let count := if open_ then prev.incomplete + 1 else 0
  let halts := prev.safe && open_
  let safe := decide (4 ≤ count) && !halts
  let alt := (List.range 10).filter prev.wantsAlternate
  let alt := if safe then (alt.filter (fun j => j != 7 && j != 8)) ++ ([3, 5, 9].filter (fun j => !alt.contains j)) else alt
  let src := if safe then 2 else if alt.contains 7 then prev.sourceAt 7 + 1 else if alt.contains 8 then prev.sourceAt 8 + 1 else 0
  let kind := s.power.rstKind
  let r : StartRec := { StartRec.reset with
    startCount := prev.startCount + 1, resetKind := kind, safe := safe, bootTarget := s.cfg.bootTarget, incomplete := count
    rail := if kind = 1 then s.power.rstRail.zeroExtend 8 else 0xFF
    steps := putN StartRec.reset.steps 0 (stepWord 0 0 (b2n (alt.contains 0)) 1) }
  let s := s.onAo fun a => { a with newest := k + 1, startCount := prev.startCount + 1 }
  let s := writeStart (fun _ => r) s
  let s := s.onStart fun x => { x with
    step := 0, result := 0, safe := safe, alternate := alt, incomplete := count, firstSource := fin 3 src, source := fin 3 src
    waiting := false, pinHeld := false }
  let s := raise 0xD00A [v16 s.ao.torn] s
  let s := raise 0xB005 [v8 kind.toNat] s
  let s := raiseIf (kind == 1) 0xB003 [v8 s.power.rstRail.toNat] s
  let s := raiseIf (kind == 5) 0xC004 [v8 s.power.rstStep.toNat] s
  let s := raiseIf s.power.offNotTaken 0xB006 [] s
  let s := s.onPower fun p => { p with offNotTaken := false }
  let cut := if open_ then (List.range 10).filter (fun j => wordOutcome (getN prev.steps j 0) == 1) else []
  let s := each cut (fun j s => raise 0xC002 [v8 j] s) s
  let s := raiseIf safe 0xC007 [v8 count] s
  let s := raiseIf (alt.contains 0) 0xC003 [v8 0, v8 1] s
  if halts then haltStart 0 0 0 s else s

/-! ## Causes of reset (R491, R495, R504, R508) -/

/-- The part is powered and not halted: a reset of a kind other than POWER_ON and PIN can take place. -/
def State.resettable (s : State) : Bool := 2 ≤ s.power.state.val && s.power.start.result != 2 && !s.power.start.pinHeld

def resetAndStart (kind rail step : Nat) (s : State) : State := beginStart (resetTo kind rail step s)

/-- SUPPLY (R491): VDD_AO takes the part down, another rail resets it. -/
def execSupply (rail : Fin 9) (s : State) : Host.Outcome State Fault Refusal :=
  .next (if rail = 0 then (resetTo 0 0 0 s).onPower fun p => { p with state := 0, start := { p.start with result := 1, step := 15 } }
    else if s.resettable then resetAndStart 1 rail.val 0 s else s)

/-- POWER_ON (R507): VDD_AO has risen; the rank and WAKE_N are sampled. -/
def execPowerOn (rank wakeLow : Bool) (s : State) : Host.Outcome State Fault Refusal :=
  .next (beginStart (((resetTo 0 0 0 s).onRed fun r => { r with rank := rank }).onStart fun x => { x with wakeLow := wakeLow }))

/-- PIN (R495): RESET_N is low; the start waits for it to return high. -/
def execPin (s : State) : Host.Outcome State Fault Refusal :=
  .next (if s.power.state = 0 then s else (resetTo 2 0 0 s).onStart fun x => { x with pinHeld := true })

/-- RESET_N_RETURNS_HIGH (R495). -/
def execResetNReturnsHigh (s : State) : Host.Outcome State Fault Refusal :=
  .next (if s.power.start.pinHeld then beginStart s else s)

/-- A HOST reset. -/
def hostReset (s : State) : State := if s.resettable then resetAndStart 3 0 0 s else s

/-- SYS_RST_CTL_RESET (R495). -/
def execSysRstCtlReset (key : BitVec 16) (s : State) : Host.Outcome State Fault Refusal :=
  .next (if key = 0xA5A5 then hostReset s else s)

/-- LOCKSTEP (R495). -/
def execLockstep (s : State) : Host.Outcome State Fault Refusal :=
  .next (if s.resettable then resetAndStart 4 0 0 s else s)

/-- WATCHDOG (R508): the step in progress has exceeded its limit. -/
def execWatchdog (s : State) : Host.Outcome State Fault Refusal :=
  .next (let x := s.power.start
    if s.resettable && x.result == 0 && !x.waiting then resetAndStart 5 0 x.step s else s)

/-- WAKE (R504): WAKE_N in STANDBY. -/
def execWake (s : State) : Host.Outcome State Fault Refusal :=
  .next (if s.power.state = 1 ∧ s.power.start.result ≠ 2 then resetAndStart 6 0 0 s else s)

/-! ## Rails (R488, R489) -/

/-- A monitored rail: nominal voltage in mV, warning and reset thresholds in percent below it, enable group (0 external). -/
structure Rail where
  nominal : Nat
  warn    : Nat
  reset   : Nat
  group   : Nat
  deriving DecidableEq, Repr

/-- The rails of R488. -/
def rails : Vector Rail 9 :=
  #v[⟨800, 5, 10, 0⟩, ⟨750, 4, 8, 1⟩, ⟨850, 4, 8, 1⟩, ⟨850, 4, 8, 2⟩, ⟨1050, 4, 8, 2⟩, ⟨1200, 4, 8, 3⟩, ⟨500, 4, 8, 3⟩, ⟨1800, 4, 8, 3⟩,
     ⟨1800, 4, 8, 4⟩]

/-- The warning threshold of a rail, in µV. -/
def Rail.warnUv (r : Rail) : Nat := 10 * r.nominal * (100 - r.warn)

/-- The reset threshold of a rail, in µV. -/
def Rail.resetUv (r : Rail) : Nat := 10 * r.nominal * (100 - r.reset)

/-- The level that ends a brace, in µV: the warning threshold plus a hysteresis of 1% of nominal. -/
def Rail.clearUv (r : Rail) : Nat := r.warnUv + 10 * r.nominal

/-- RAIL_GROUP_READY (R489): the next enable is asserted. -/
def execRailGroupReady (g : Fin 4) (s : State) : Host.Outcome State Fault Refusal :=
  .next (if s.power.start.result = 0 ∧ s.power.start.step = 1 ∧ s.power.enables.getLsbD g.val then
      s.onPower fun p => { p with enables := p.enables ||| BitVec.ofNat 4 (2 ^ (g.val + 1)) }
    else s)

/-- RAIL_GROUP_TIMEOUT (R489): S1 fails, which halts the start (R508). -/
def execRailGroupTimeout (g : Fin 4) (s : State) : Host.Outcome State Fault Refusal :=
  .next (if s.power.start.result = 0 ∧ s.power.start.step = 1 ∧ s.power.enables.getLsbD g.val then
      haltStart 1 0 ((if s.stepForm 1 = 1 then 80 else 20) * (g.val + 1)) s
    else s)

/-! ## Power states (R498 to R506) -/

/-- A power state can be entered from another by command (R499). -/
def pwrAllowed (old : Fin 5) (new : Nat) : Bool :=
  match old.val with
  | 4 => new == 3
  | 3 => new == 4 || new == 2 || new == 1 || new == 0
  | 2 => new == 3 || new == 1 || new == 0
  | _ => false

/-- SLEEP is refused while a lane serves a cluster, or a pair that is not OFF or ALONE (R503). -/
def State.sleepBlocked (s : State) : Bool :=
  (s.isCluster && !s.lanesUp.isEmpty) || !(s.red.pair == .off || s.red.pair == .alone)

/-- Stage an item at the next boundary of every domain whose staging is open, or at the next boundary whatever it is. -/
def stageAll (i : StageItem) (s : State) : State := each s.domains (fun d s => stage d.tb i s) s

/-- A transition starts (R501 to R506). -/
def beginMove (t : Fin 5) (s : State) : State :=
  let s := s.onPower fun p => { p with moving := some t }
  if t = 3 ∧ s.power.state = 4 then stageAll .stopAll s
  else if t.val ≤ 1 then
    let s := secureWipe true (stageAll .stopAll s)
    if s.power.braced then
      nvBegin (s.onPower fun p => { p with nvLifted := true, nvAllowed := s.ao.nvQueue.length + s.ao.bbQueue.length })
    else s
  else s

/-- A command for a power state: its status code (R500). -/
def pwrCommand (t : Nat) (s : State) : Byte × State :=
  if s.power.moving.isSome then (stBusy, s)
  else if !pwrAllowed s.power.state t then (stNotPermitted, s)
  else if t = 2 ∧ s.sleepBlocked then (stNotPermitted, s)
  else if s.power.braced ∧ 2 ≤ t then (stDeferred, s.onPower fun p => { p with deferred := some (fin 5 t) })
  else (stOk, beginMove (fin 5 t) s)

def pwrTarget (t : Nat) (s : State) : Byte × State :=
  let r := pwrCommand t s
  (r.1, r.2.onPower fun p => { p with lastStatus := r.1 })

/-- PWR_GO (R499). -/
def execPwrGo (target : BitVec 3) (s : State) : Host.Outcome State Fault Refusal :=
  .next (pwrTarget target.toNat (s.onPower fun p => { p with target := target })).2

/-- Every port is STOPPED and every channel is OFF or LATCHED (R501). -/
def State.portsQuiet (s : State) : Bool :=
  s.saps.toList.all (fun x => x.state == .stopped) && s.amps.toList.all (fun a => a.state == .off || a.state == .latched)
  && s.clk.tbs.toList.all (fun t => t.staged.all (fun i => i.item != .stopAll))

/-- The engines hold no block work until the next boundary: each process resumes at its entry point, and its first block is
faded in (R503, R127). -/
def restContexts (s : State) : State :=
  (s.onEngines fun g => { g with
    fg := Ctx.reset, bg := Ctx.reset, parked := none, stalled := none, orphan := none, wbuf := [], wbufWait := [],
    begun := [] }).onProcs fun p => { p with misses := max 1 p.misses, out := some [] }

/-- The supplies of everything but the always-on domain are removed (R504, R505). -/
def powerDown (t : Fin 5) (s : State) : State :=
  let s := s.lose false
  let off := t == 0
  s.onPower fun p => { p with
    state := t, enables := 0, pwrHold := !off, offWait := off, start := { p.start with result := 1, step := 15 } }

/-- A transition has completed (R500). -/
def endMove (t : Fin 5) (s : State) : State :=
  let old := s.power.state
  let done (s : State) : State :=
    raise 0xB004 [v8 old.val, v8 t.val] (s.onPower fun p => { p with state := t, moving := none, nvLifted := false, nvAllowed := 0 })
  match t.val with
  | 4 => each s.domains (fun d s => s.onTb d.tb fun x => { x with staged := x.staged ++ [{ wait := 0, item := .enterRun }] }) (done s)
  | 3 =>
    if old = 2 then
      let wake (x : Xbar) : Xbar := { x with bank := Vector.ofFn (fun b : Fin 256 =>
        if x.bank.get b = .retain ∧ x.bankReq.get b = 2 then .on else x.bank.get b) }
      let s := { (s.onXbar wake) with drams := s.drams.map (fun d => { d with selfRefresh := false }) }
      nextPlan (done (restContexts s))
    else if s.portsQuiet then done s else s
  | 2 =>
    let rest (x : Xbar) : Xbar := { x with bank := x.bank.map (fun b => if b = .on then .retain else b) }
    done { (restContexts (s.onXbar rest)) with drams := s.drams.map (fun d => { d with selfRefresh := d.state == .ready }) }
  | _ =>
    let drained := s.ao.nvBusy.isNone && (if s.power.braced then s.power.nvAllowed == 0 else s.ao.nvQueue.isEmpty && s.ao.bbQueue.isEmpty)
    if s.portsQuiet && s.xbar.secState != 1 && drained then powerDown t (done s) else s

/-- PWR_TRANSITION_COMPLETE (R500): without effect while what the transition needs has not come about. -/
def execPwrTransitionComplete (s : State) : Host.Outcome State Fault Refusal :=
  .next (match s.power.moving with
    | some t => endMove t s
    | none => s)

/-- OFF_TIMEOUT (R505): VDD_AO is still present. -/
def execOffTimeout (s : State) : Host.Outcome State Fault Refusal :=
  .next (if s.power.offWait then s.onPower fun p => { p with state := 1, offWait := false, offNotTaken := true } else s)

/-- The stop of a domain at the boundary at which a transition leaves RUN: its streams stop, and channels that wait to retry
are OFF (R501). The stop triggers join the boundary's items. -/
def stopDomain (d : Fin 4) (s : State) : List StageItem × State :=
  let chans := (List.finRange 16).filter (fun c => (s.amp c).present && (s.amp c).domain == d)
  let s := each chans (fun c s => abortRetry c s) s
  let s := each (List.finRange 256) (fun u s => if ((s.srx u).cfg.map (·.domain)) == some d then srxSet u false s else s) s
  let s := each (List.finRange 256) (fun u s =>
    if ((s.stx u).cfg.map (·.domain)) == some d then s.onStx u fun x => { x with enable := false } else s) s
  let ports := (List.finRange 32).filter (fun p => (s.sap p).present && (s.sap p).cfg.domain == d)
  (ports.map (fun p => .sapTrig p false) ++ chans.map (fun c => .ampTrig c false), s)

/-! ## The brace (R492, R493) -/

/-- A rail falls below its warning threshold. -/
def railLow (rail : Fin 9) (mv : Nat) (s : State) : State :=
  if s.power.state.val < 2 ∧ rail ≠ 0 ∨ s.power.state = 0 then s
  else
    let was := s.power.braced
    let low := min mv 65535
    let s := s.onPower fun p => { p with
      belowWarn := setFlag p.belowWarn rail.val, dipMask := if was then setFlag p.dipMask rail.val else BitVec.ofNat 9 (2 ^ rail.val)
      present := upd p.present rail (fun _ => BitVec.ofNat 16 low)
      lowest := upd p.lowest rail (fun x => if low < x.toNat then BitVec.ofNat 16 low else x)
      dipLow := if was then min p.dipLow low else low, braced := true, braceAt := if was then p.braceAt else s.now
      nvLifted := was && p.nvLifted, nvAllowed := if was then p.nvAllowed else 0 }
    if was then s else ampBrace true (raise 0xB001 [v8 rail.val] s)

/-- RAIL_BELOW_WARNING (R492). -/
def execRailBelowWarning (rail : Fin 9) (mv : Nat) (s : State) : Host.Outcome State Fault Refusal := .next (railLow rail mv s)

/-- A rail that fell below its warning threshold has stood at the level that ends the brace: it reads at least that, in mV (R491). -/
def railBack (rail : Fin 9) (s : State) : State :=
  let r := s.fresh
  r.2.onPower fun p => { p with
    present := upd p.present rail (fun _ => BitVec.ofNat 16 (max (Config.railMv r.1).toNat ((rails.get rail).clearUv / 1000))) }

/-- The brace ends: writes, a deferred command and the next boot step go on (R492, R493, R500). -/
def braceEnds (s : State) : State :=
  if !s.power.braced then s
  else
    let p := s.power
    let us := (s.now - p.braceAt) * 1000 / Config.ms
    let s := each ((List.finRange 9).filter (fun k => p.belowWarn.getLsbD k.val)) railBack s
    let s := s.onPower fun q => { q with braced := false, belowWarn := 0, nvLifted := false, nvAllowed := 0, deferred := none }
    let s := ampBrace false (raise 0xB002 [v16 p.dipMask.toNat, v16 p.dipLow, v32 us] s)
    let s := nvBegin s
    let s := match p.deferred with
      | some t => (pwrTarget t.val s).2
      | none => s
    if p.start.waiting then beginStep (p.start.step + 1) (s.onStart fun x => { x with waiting := false }) else s

/-- BRACE_END (R493). -/
def execBraceEnd (s : State) : Host.Outcome State Fault Refusal := .next (braceEnds s)

/-- SYS_PWR_CLEAR_MIN (R491). -/
def execSysPwrClearMin (s : State) : Host.Outcome State Fault Refusal :=
  .next (s.onPower fun p => { p with lowest := Vector.replicate 9 0xFFFF })

/-! ## Junction temperature (R584 to R586) -/

/-- A measurement of the junction temperature. -/
def tempReading (c : BitVec 8) (s : State) : State :=
  let p := s.power
  let rises := decide (p.temp.toInt < p.hotThr.toInt) && decide (p.hotThr.toInt ≤ c.toInt)
  let hot := rises && p.hotArmed && due p.hotLast (msTicks 60000) s.now
  let s := s.onPower fun p => { p with
    temp := c, tempMax := if p.tempMax.toInt < c.toInt then c else p.tempMax
    hotArmed := if hot then false else p.hotArmed || decide (c.toInt ≤ p.hotThr.toInt - 5)
    hotLast := if hot then some s.now else p.hotLast }
  raiseIf hot 0xB007 [v8 c.toNat] s

/-- TEMP_MEASUREMENT (R585). -/
def execTempMeasurement (celsius : BitVec 8) (s : State) : Host.Outcome State Fault Refusal := .next (tempReading celsius s)

/-- SYS_TEMP_CLEAR_MAX (R584). -/
def execSysTempClearMax (s : State) : Host.Outcome State Fault Refusal :=
  .next (s.onPower fun p => { p with tempMax := p.temp })

end Sys2Proof.Machine
end

