-- ==== Sys2Proof/Machine/ImageLoad.lean ====
section
/-! DEFINITION. Loading and verifying an image (R77 to R82): requests, validation steps, and what a completed load sets. -/

namespace Sys2Proof.Machine

/-! ## Requests (R77, R78) -/

/-- A load or verify request from the host: its status, and the state after. A load is accepted in READY, a verify in READY
and RUN; one while another runs is BUSY. -/
def imgRequest (verify : Bool) (source : Fin 4) (addr : BitVec 64) (s : State) : Byte × State :=
  let p := s.power.state.val
  if (if verify then p < 3 else p != 3) then (stNotPermitted, s)
  else if s.img.req.isSome then (stBusy, s)
  else (stOk, s.onImg fun m => { m with
    state := if verify then 4 else 1, step := 1, result := 0, detail := 0
    req := some { verify := verify, source := source, addr := addr, step := 1, image := none, boot := false, placed := none } })

/-- A write of start in SYS_IMG_CTL. -/
def imgStart (verify : Bool) (source : Fin 4) (s : State) : State :=
  let s := s.onImg fun m => { m with ctlSource := BitVec.ofNat 2 source.val, ctlVerify := verify }
  (imgRequest verify source s.img.hostAddr s).2

/-- SYS_IMG_CTL_LOAD (R77). -/
def execSysImgCtlLoad (source : Fin 4) (s : State) : Host.Outcome State Fault Refusal := .next (imgStart false source s)

/-- SYS_IMG_CTL_VERIFY (R78). -/
def execSysImgCtlVerify (source : Fin 4) (s : State) : Host.Outcome State Fault Refusal := .next (imgStart true source s)

/-! ## Validation steps (R79, R80, R603) -/

/-- What a source holds, up to image_size. -/
def State.sourceBytes (s : State) (q : ImgReq) : List Byte :=
  if h : q.source.val < 3 then
    let bs := s.flash.images.get ⟨q.source.val, h⟩
    if bs.length < 128 then bs else bs.take (max 128 (hdrSize bs))
  else
    let head := s.hostMem.readRun q.addr.toNat 128
    if head.length < 128 then head else s.hostMem.readRun q.addr.toNat (max 128 (hdrSize head))

/-- Bytes of DRAM that training found (R48, R416). -/
def State.dramFound (s : State) : Nat :=
  ((List.finRange 2).map (fun c => if (s.dram c).state = .ready then (s.dram c).usable * 16777216 else 0)).sum

/-- What the checks consult; the image key lies in the secure partition (R75, R422). -/
def State.chkEnv (s : State) : ChkEnv :=
  { cfg := s.cfg, key := if s.xbar.secState = 0 then s.usableKey else none, dram := s.dramFound }

/-- A request has passed step 11: a verify ends; a load goes on to step 12 with the first plan to be built, at boot once
S8 begins. -/
def checksPass (q : ImgReq) (bs : List Byte) (s : State) : State :=
  if q.verify then s.onImg fun m => { m with state := 5, result := 0, detail := 0, req := none }
  else
    let q : ImgReq := { q with step := 12, image := some (imageOf s.chkEnv bs) }
    let s := s.onImg fun m => { m with step := 12, req := some q }
    if q.boot then s.onStart fun x => { x with passed := true } else queueTrigger .load s

/-- The image that a step judges: the source is read at step 1, to authenticate the image, and again at step 6, to check it; the
steps between judge what the last read gave (R78; for a load DEDUCED, assumption 168). -/
def State.imageBytes (s : State) (q : ImgReq) : List Byte := if q.step = 1 ∨ q.step = 6 then s.sourceBytes q else q.copy

/-- One validation step of a load or verify. From step 6 of a load the previous image is released; a step from 6 on waits for
the wipe of that release. -/
def validate (q : ImgReq) (s : State) : State :=
  if 12 ≤ q.step then (if q.placed = some false then failLoad 12 0x0901 0 s else s)
  else if 7 ≤ q.step ∧ s.xbar.secState = 1 then s
  else
    let s := if q.step = 6 ∧ !q.verify then releaseImage s else s
    let bs := s.imageBytes q
    let bad : Option (Nat × Nat) :=
      if 2 ≤ q.step ∧ bs.length < max 128 (hdrSize bs) then some (0x0A01, bs.length)
      else match checkStep s.chkEnv bs q.step with
        | .error e => some e
        | .ok _ => none
    match bad with
    | some e => failLoad q.step e.1 e.2 s
    | none =>
      if q.step = 11 then checksPass q bs s
      else s.onImg fun m => { m with step := BitVec.ofNat 4 (q.step + 1), req := some { q with step := q.step + 1, copy := bs } }

/-- VALIDATION_STEP (R79). -/
def execValidationStep (s : State) : Host.Outcome State Fault Refusal :=
  .next (match s.img.req with
    | some q => validate q s
    | none => s)

/-! ## What a load sets (R8, R69, R81, R307, R349, R357, R384 to R386, R442, R470, R486, R575, R602) -/

/-- A parameter at its initial value (R69). -/
def initialParam (d : ParamRec) : ParamSt := { decl := d, target := d.init, start := d.init, value := d.init, trans := .steady }

/-- The clock registers of a timebase: those of its record, else their reset values (R307). A REF record's input carries 10 MHz, and
with input_mode 2 the other REF input carries 1 PPS. -/
def loadClock (m : Image) (t : Fin 4) (s : State) : State :=
  let rec? := m.ports.findSome? (fun p => match p.body with
    | .clock r => if p.unit = t.val then some r else none
    | _ => none)
  let seedOf (r : ClockRec) (s : State) : State :=
    match m.domains.find? (fun d => d.tb == t) with
    | some d => s.onApll d.apll fun a => { a with seed := r.apllSeed.truncate 31 }
    | none => s
  match rec? with
  | some r =>
    let s := s.onTb t fun x => { x with
      source := r.source, index := r.index, slewPpm := r.slewPpm, holdWindow := r.holdWindow, servoBw := r.servoBw, jumpThr := r.jumpThr }
    let s := stage t (.tbSource r.source r.index) (seedOf r s)
    let i : Fin 2 := fin 2 r.index
    if r.source = 2 then s.onClk fun c => { c with wckRatio := upd c.wckRatio i (fun _ => BitVec.ofNat 2 r.inputMode) }
    else if r.source = 3 then
      s.onClk fun c => { c with refMode :=
        let modes := upd c.refMode i (fun _ => 1)
        if r.inputMode = 2 then upd modes (1 - i) (fun _ => 2) else modes }
    else s
  | none =>
    stage t (.tbSource 0 0) (s.onTb t fun x => { x with
      source := 0, index := 0, slewPpm := Timebase.reset.slewPpm, holdWindow := Timebase.reset.holdWindow,
      servoBw := Timebase.reset.servoBw, jumpThr := Timebase.reset.jumpThr, rate := Timebase.reset.rate, setS := Timebase.reset.setS,
      setNs := Timebase.reset.setNs, snap := Timebase.reset.snap, snapBlk := Timebase.reset.snapBlk,
      outliers := Timebase.reset.outliers, offset := Timebase.reset.offset, refused := Timebase.reset.refused })

/-- A port takes its record (R349, R357, R384, R385, R442, R486). -/
def loadPort (p : PortRec) (s : State) : State :=
  match p.body with
  | .sap r => s.onSap (fin 32 p.unit) fun x => { x with
      cfg := r, present := true, zcTimeout := BitVec.ofNat 8 r.zcTimeout, leadBlocks := BitVec.ofNat 8 r.leadBlocks
      rampBlocks := BitVec.ofNat 8 r.rampBlocks, enable := r.enable, maskReg := r.mask, mask := r.mask }
  | .eth r => s.onEth (fin 4 p.unit) fun x => { x with
      cfg := r, present := true, delays := [], syncWait := none, delayWait := none, pdelayWait := none, lastSync := none
      asym := BitVec.ofInt 32 r.asym, prio1 := r.priority1, prio2 := r.priority2 }
  | .rx r => s.onSrx (fin 256 p.unit) fun x => { x with cfg := some r, enableReg := r.enabled }
  | .tx r => s.onStx (fin 256 p.unit) fun x => { x with cfg := some r, enableReg := r.enabled }
  | .link r => s.onLane (fin 4 p.unit) fun x => { x with cfg := r, state := if r.role = 0 then .off else .training }
  | .amp r => s.onAmp (fin 16 p.unit) fun x => { x with
      present := true, fltHigh := r.fltHigh, domain := r.domain, blank := BitVec.ofNat 8 r.blank, dead := BitVec.ofNat 8 r.dead
      period := r.period, autoStart := r.autoStart, minPulse := BitVec.ofNat 8 r.minPulse, fsReg := r.fsIndex, fsIndex := r.fsIndex
      limReg := BitVec.ofNat 32 r.limThr, limThr := BitVec.ofNat 32 r.limThr, startBlocks := BitVec.ofNat 8 r.startBlocks
      retryMs := r.retryMs, ocThr := BitVec.ofNat 8 r.ocThr, diagLevel := BitVec.ofInt 16 r.testLevel
      shortM := BitVec.ofNat 32 r.shortM, openM := BitVec.ofNat 32 r.openM, iFs := r.iFs, vFs := r.vFs }
  | .clock _ => s

/-- Locked fields that the image gives no record for stand at reset, whatever the host wrote before (R8). -/
def lockFields (s : State) : State :=
  { s with
    saps := s.saps.map (fun x => { x with cfg := SapRec.reset, enable := Vector.replicate 4 0 })
    net := { s.net with eths := s.net.eths.map (fun e => { e with cfg := EthRec.reset }) }
    amps := s.amps.map (fun a => { a with
      fltHigh := false, domain := 0, blank := 0, dead := 0, period := 2048, autoStart := false, minPulse := 40 }) }

/-- The stagger groups of the modulators: channels of one domain and one period, in rising number (R470). -/
def setupAmps (s : State) : State :=
  let same (a b : Amp) : Bool := b.present && a.domain == b.domain && a.period == b.period
  let groupOf (c : Fin 16) : List (Fin 16) := (List.finRange 16).filter (fun d => same (s.amp c) (s.amp d))
  each ((List.finRange 16).filter (fun c => (s.amp c).present)) (fun c x =>
    x.onAmp c fun a => { a with groupSize := (groupOf c).length, slot := ((groupOf c).filter (· < c)).length, braced := s.power.braced }) s

/-- The image's EVENTS_MAP on top of the reset routing (R575): a code whose low bits are zero sets its class's vector. -/
def loadRouting (m : Image) (s : State) : State :=
  let cls := m.evMap.filter (fun r => r.code.toNat % 4096 == 0)
  let ovr := m.evMap.filter (fun r => r.code.toNat % 4096 != 0)
  let s := s.onEvt fun v => { v with classVec := cls.foldl (fun x r => putN x (r.code.toNat / 4096) r.vector) Evt.reset.classVec }
  s.onEvt fun v => { v with ovr := ovr.zipIdx.foldl (fun x p =>
    putN x p.2 (packW [(p.1.code.toNat, 0), (p.1.vector.toNat, 16), (b2n p.1.notQueued, 24), (1, 31)])) Evt.reset.ovr }

/-- The processes of the plan at their initial state, and the pairs of the CRITICAL ones. -/
def loadProcs (m : Image) (p : Plan) (s : State) : State :=
  let s := each m.processes (fun n s =>
    match siteOf p n.id with
    | some t => each (t.prim :: t.sec.toList) (fun e s => addProc (s.newProc n e) s) s
    | none => s) s
  let pairs := m.processes.filterMap (fun n =>
    match n.critical, siteOf p n.id with
    | true, some t => some { node := n.id, prim := t.prim, sec := t.sec, single := false, mismatch := none, spare := none, replay := none, digPrim := 0,
                             digSec := 0, failPrim := false, failSec := false, replaced := 0, retained := [],
                             alone := t.sec.isNone : PairSt }
    | _, _ => none)
  s.onRed fun r => { r with pairs := pairs }

/-- A load completes (R81). -/
def completeLoad (m : Image) (p : Plan) (s : State) : State :=
  let fixed := (s.fixedBanks m).getD []
  let spares := s.loadSpares m
  let s := s.onImg fun i => { i with loaded := some m, req := none, state := 2, result := 0, detail := 0 }
  let s := s.onPlacer fun x => { x with
    current := some p, pending := none, state := .idle, trigger := none, merged := [], epoch := x.epoch + 1
    reduced := p.homes.all (fun h => h.kind != .dram), arenaKib := arenaOf m p }
  let s := s.onXbar fun x => { x with fixed := fixed }
  let s := { s with engines := Vector.ofFn fun e : Fin 24 => { s.engine e with spare := spares.contains e, passes := 0 } }
  let s := s.onScene fun c => { c with params := m.params.map initialParam }
  let s := { s with clk := { s.clk with tbs := s.clk.tbs.map (fun t : Timebase => { t with ivl := 0, srcClosed := false, jumped := none }) } }
  let s := each m.domains (fun (d : DomainRec) s => s.onTb d.tb fun x => { x with blk := blockOfTime (rateHz d.rate) x.time }) s
  let s := s.onPlacer fun x => { x with epochBlk := (s.pacing.map (fun d => (s.tb d.tb).blk)).getD 0 }
  let s := each m.ports loadPort (lockFields s)
  let s := each (List.finRange 4) (loadClock m) s
  let s := setupAmps s
  let s := { s with net := { s.net with poolKib := ceilDiv (min m.rxBytes 1572864) 1024, spillKib := ceilDiv m.rxSpill 1024 } }
  let s := loadRouting m (s.onEvt fun v => { v with mLast := [] })
  let s := levelTables (each m.owned (placeRegion m.loadSize p) s)
  let s := setupFabric (loadProcs m p s)
  let s := each m.maquettes (fun q s => slotValid q.slot q s) s
  let s := each m.domains (fun d s => apllEnable d.apll s) s
  nextPlan (raise 0x5001 [v32 s.placer.epoch.toNat, v8 (triggerCode .load)] s)

/-- LOAD_COMPLETE (R81): step 12 has placed the first plan. -/
def execLoadComplete (s : State) : Host.Outcome State Fault Refusal :=
  .next (match s.img.req, s.placer.pending with
    | some q, some c =>
      match q.image, q.placed with
      | some m, some true => completeLoad m c.plan s
      | _, _ => s
    | _, _ => s)

end Sys2Proof.Machine
end

