-- ==== Sys2Proof/Machine/RegRead.lean ====
section
/-! DEFINITION. The register map as it reads (R8, R549, R577 and the register tables of every chapter). -/

namespace Sys2Proof.Machine

/-! ## Offsets -/

/-- The index of a word at `base + stride × i` among `n`. -/
def regIdx (o base stride n : Nat) : Option Nat :=
  if base ≤ o ∧ o < base + stride * n ∧ (o - base) % stride = 0 then some ((o - base) / stride) else none

/-- Which of `n` equal windows an offset lies in, and the offset there. -/
def regWin (o base size n : Nat) : Option (Nat × Nat) :=
  if base ≤ o ∧ o < base + size * n then some ((o - base) / size, (o - base) % size) else none

def w32 (n : Nat) : Word := BitVec.ofNat 32 n
def wI32 (n : Int) : Word := BitVec.ofInt 32 n
/-- The low and the high word of a 64-bit value. -/
def loW (n : Nat) : Word := w32 n
def hiW (n : Nat) : Word := w32 (n / 2 ^ 32)
/-- A word of a byte string. -/
def wordAt (bs : List Byte) (ofs : Nat) : Word := w32 (leAt bs ofs 4)
/-- A word whose bit k is the k-th of a list of truth values. -/
def bitsW (bs : List Bool) : Word := packW (bs.zipIdx.map (fun p => (b2n p.1, p.2)))

/-! ## Islands (R15, R498, R530) -/

/-- The island of a crossbar master (R391, R530). -/
def islandOf (m : Nat) : Nat :=
  if m < 25 then m else if m < 27 then 53 else if m < 29 then 54 else if m < 31 then 44 else if m = 31 then 45
  else if m = 32 then 46 else if m = 33 then 48 else if m = 34 then 47 else if m = 35 then 49 else 57

/-- Islands that run in SLEEP (R498). -/
def sleeps (i : Nat) : Bool := !([47, 48, 49, 50, 53, 58].contains i)

/-- An island is powered down or held in reset, so that its channels are fenced (R15). -/
def State.islandDown (s : State) (i : Nat) : Bool :=
  (decide (s.power.state.val < 2) && i != 58) || (s.power.state == 2 && sleeps i)
    || (List.range 37).any (fun m => islandOf m == i && s.xbar.inReset.getLsbD m)

/-- The island that holds the registers of a BAR0 block; none for SYS and the reserved blocks. -/
def blockIsland (o : Nat) : Option Nat :=
  let b := o / 0x100000
  if b = 1 then some 50
  else if b = 2 then some (if o % 0x100000 < 0x10000 then 51 else 52)
  else if b = 3 then some 53
  else if b = 4 then some 55
  else if b = 5 then some 25
  else if b = 6 then some (if o % 0x100000 < 0x1000 then 42 else 43)
  else if b = 7 then some 44
  else if b = 8 then some 24
  else if b = 9 then some 45
  else if b = 10 then some 46
  else if b = 11 then some 49
  else if 16 ≤ b ∧ b < 40 then some (b - 16)
  else none

def State.blockDown (s : State) (o : Nat) : Bool := ((blockIsland o).map s.islandDown).getD false

/-! ## SYS -/

/-- Target of a transition in progress or deferred (SYS_PWR_STATUS.pending). -/
def Power.pendingTarget (p : Power) : Nat := ((p.moving.or p.deferred).map (·.val)).getD 0

def State.pwrStatus (s : State) : Word :=
  let p := s.power
  packW [(p.belowWarn.toNat, 16), (p.lastStatus.toNat % 16, 12), (b2n p.braced, 11), (p.pendingTarget, 8), (b2n p.moving.isSome, 3),
    (p.state.val, 0)]

def State.imgStatus (s : State) : Word :=
  packW [(s.img.result.toNat, 16), (s.img.step.toNat, 12), (b2n s.img.loaded.isSome, 3), (s.img.state.val, 0)]

def State.buildId (s : State) : Nat := (s.img.loaded.map (fun m => m.buildId.toNat)).getD 0

def State.lcStatus (s : State) : Word :=
  packW [(s.lc.result.toNat, 24), (b2n s.lc.running.isSome, 8), (b2n s.cfg.imageKey.isSome, 7),
    ((bitsW (s.cfg.keySlots.toList.map (·.isSome))).toNat, 3), (s.lcState.code, 0)]

/-- A start record as its 64 bytes (R515). -/
def StartRec.bytes (r : StartRec) : List Byte :=
  leBytes 4 r.startCount.toNat ++ [BitVec.ofNat 8 r.resetKind.toNat, BitVec.ofNat 8 (b2n r.safe + 2 * b2n r.bootTarget + 4 * b2n r.halted),
    BitVec.ofNat 8 r.incomplete, r.rail] ++ zeroBytes 8 ++ bytesOfWords r.steps.toList ++ zeroBytes 8

def regSysLow (o : Nat) (s : State) : Word :=
  let p := s.power
  match regIdx o 0x220 4 9 with
  | some k => packW [((getN p.present k 0).toNat, 16), ((getN p.lowest k 0).toNat, 0)]
  | none =>
    if o = 0x200 then w32 p.target.toNat
    else if o = 0x204 then s.pwrStatus
    else if o = 0x280 then packW [(p.tempMax.toNat, 8), (p.temp.toNat, 0)]
    else if o = 0x284 then w32 p.hotThr.toNat
    else if o = 0x304 then packW [(p.rstStep.toNat, 8), (p.rstRail.toNat, 4), (p.rstKind.toNat, 0)]
    else if o = 0x310 then packW [(b2n s.cfgWritten.bootTarget, 1), (b2n s.cfgWritten.powerOnStart, 0)]
    else if o = 0x320 then
      packW [(s.ao.heldLost.toNat, 24), (s.ao.newest.val, 12), (b2n p.start.safe, 6), (p.start.result.val, 4), (p.start.step, 0)]
    else if o = 0x324 then s.ao.startCount
    else 0

def regImg (o : Nat) (s : State) : Word :=
  if o = 0x1000 then packW [(b2n s.img.ctlVerify, 3), (s.img.ctlSource.toNat, 1)]
  else if o = 0x1004 then loW s.img.hostAddr.toNat
  else if o = 0x1008 then hiW s.img.hostAddr.toNat
  else if o = 0x100C then s.imgStatus
  else if o = 0x1010 then s.img.detail
  else if o = 0x1014 then loW s.buildId
  else if o = 0x1018 then hiW s.buildId
  else if o = 0x101C then (s.img.loaded.map (·.serial)).getD 0
  else 0

def regLc (o : Nat) (s : State) : Word :=
  match regIdx o 0x4040 4 24 with
  | some k => getN s.lc.auth k 0
  | none =>
    if o = 0x4000 then s.lcStatus
    else if o = 0x4004 then loW Config.deviceId.toNat
    else if o = 0x4008 then hiW Config.deviceId.toNat
    else if o = 0x400C then s.ao.nonce
    else if o = 0x4010 then w32 s.lc.target.toNat
    else if o = 0x4014 then w32 s.lc.item.toNat
    else if o = 0x4018 then loW s.lc.addr.toNat
    else if o = 0x401C then hiW s.lc.addr.toNat
    else if o = 0x4100 then w32 s.cfgWritten.tamperAct.toNat
    else if o = 0x4104 then packW [(s.ao.tamperActive.toNat, 8), (s.ao.tamperTripped.toNat, 0)]
    else 0

/-- How far the update in progress has come: 2 erasing, 3 programming, 4 reading back. -/
def State.flashPhase (s : State) : Nat := 2 + (Config.flashPhase s.free).val

/-- FLASH_STATUS.state: an update pauses while braced (R572). -/
def State.flashState (s : State) : Nat :=
  if s.host.flUpd.isNone then s.host.flState.val else if s.power.braced then 5 else s.flashPhase

def regHostIf (o : Nat) (s : State) : Word :=
  let h := s.host
  match regIdx o 0x8000 4 64 with
  | some k => getN h.wins k 0
  | none =>
    if o = 0x8100 then packW [(b2n h.linkUp, 8), (h.width.toNat, 4), (h.speed.toNat, 0)]
    else if o = 0x8104 then h.refused
    else if o = 0x8108 then packW [(h.refReason.toNat, 8), (h.refAnswer.toNat, 4), (h.refBar.toNat, 0)]
    else if o = 0x810C then h.refAddr
    else if o = 0x8200 then packW [(h.lastNak.toNat, 16), (h.spiRefused.toNat, 0)]
    else if o = 0x8300 then packW [(h.flResult.toNat, 8), (h.flTarget.val, 4), (s.flashState, 0)]
    else 0

def regSys (o : Nat) (s : State) : Word :=
  if o < 0x1000 then regSysLow o s
  else if o < 0x2000 then regImg o s
  else if o < 0x2400 then wordAt (getN s.ao.ledger ((o - 0x2000) / 64) StartRec.reset).bytes (o % 64)
  else if o < 0x4000 then
    if o = 0x3000 then packW [(s.ao.bbTb.val, 1)]
    else if o = 0x3004 then w32 s.ao.bbHead
    else if o = 0x3008 then w32 s.ao.bbOldest
    else if o = 0x300C then packW [(s.ao.bbLost.toNat, 16), (s.ao.bbSuppressed.toNat, 0)]
    else 0
  else if o < 0x8000 then regLc o s
  else if o < 0x40000 then regHostIf o s
  else if o < 0xA0000 then wordAt (s.bbSlot ((o - 0x40000) / 64)) (o % 64)
  else 0

/-! ## CLK and Patina -/

def ApllState.code : ApllState → Nat
  | .off => 0 | .searching => 1 | .acquiring => 2 | .locked => 3 | .freeze => 4 | .failed => 5

def TbState.code : TbState → Nat
  | .free => 0 | .acquiring => 1 | .locked => 2 | .holdover => 3 | .refused => 4 | .syntonised => 5

def State.tbStatus (s : State) (t : Fin 4) : Word :=
  let x := s.tb t
  packW [(x.outliers.toNat, 16), (b2n x.refused, 5), (b2n (x.slew != 0), 4), (b2n x.sourceValid, 3), ((s.tbState t).code, 0)]

/-- The offset that TBn_OFFSET gives: the kept one in SYNTONISED, otherwise the latest measured. -/
def Timebase.offsetShown (x : Timebase) : Nat :=
  (BitVec.ofInt 64 (if x.state = .syntonised then x.kept.getD 0 else x.offset)).toNat

def regTb (t : Fin 4) (o : Nat) (s : State) : Word :=
  let x := s.tb t
  if o = 0 then packW [(x.slewPpm, 17), (x.holdWindow, 10), (x.servoBw, 8), (x.index, 3), (x.source, 0)]
  else if o = 0x4 then s.tbStatus t
  else if o = 0x8 then w32 x.jumpThr
  else if o = 0xC then if x.state = .free then x.rate else wI32 (s.rateOf t)
  else if o = 0x14 then loW x.offsetShown
  else if o = 0x18 then hiW x.offsetShown
  else if o = 0x1C then loW x.setS.toNat
  else if o = 0x20 then hiW x.setS.toNat
  else if o = 0x24 then x.setNs
  else if o = 0x28 then loW x.snap.sec.toNat
  else if o = 0x2C then hiW x.snap.sec.toNat
  else if o = 0x30 then x.snap.ns
  else if o = 0x34 then w32 x.snap.frac.toNat
  else if o = 0x38 then loW x.snapBlk.toNat
  else if o = 0x3C then hiW x.snapBlk.toNat
  else if o = 0x40 then loW x.blk.toNat
  else if o = 0x44 then w32 x.blkHi.toNat
  else 0

def regCmp (c : Cmp) (o : Nat) : Word :=
  if o = 0 then packW [(c.fires.toNat, 16), (c.action.toNat, 8), (c.tb.val, 4), (b2n c.late, 1), (b2n c.arm, 0)]
  else if o = 0x4 then loW c.blk.toNat
  else if o = 0x8 then hiW c.blk.toNat
  else if o = 0xC then c.mask
  else if o = 0x10 then w32 c.period.toNat
  else 0

def regCapture (c : Option Capture) (o : Nat) : Word :=
  match c with
  | none => 0
  | some c =>
    if o = 0 then packW [(1, 31), (b2n c.rising, 30), (c.tb.val, 28), (c.pin.val, 16), (c.time.sec.toNat / 2 ^ 32, 0)]
    else if o = 4 then loW c.time.sec.toNat
    else if o = 8 then c.time.ns
    else w32 c.time.frac.toNat

/-- A Patina history record as its 16 bytes (R536). -/
def HistRec.bytes (r : HistRec) : List Byte :=
  let b := leBytes 4 r.startCount.toNat ++ leBytes 4 r.hours.toNat ++ [BitVec.ofNat 8 r.island.val, BitVec.ofNat 8 r.reason.val,
    r.freq, r.temp] ++ leBytes 2 r.slack.toNat ++ [r.allow]
  b ++ [b.foldl (fun a x => a ^^^ x) 0]

def State.histBytes (s : State) (i : Nat) : List Byte := ((aget s.ao.history i).map HistRec.bytes).getD (zeroBytes 16)

def regPatina (o : Nat) (s : State) : Word :=
  match regIdx o 0x5100 4 59 with
  | some i => let x := getN s.patina i PatIsland.reset; packW [(x.least.toNat, 16), (x.slack.toNat, 0)]
  | none =>
    if o = 0x5000 then
      let c := s.cfgWritten
      packW [(c.stepDown.toNat, 24), (c.startMargin.toNat, 16), (c.warnPs.toNat, 8), (c.floorPs.toNat, 0)]
    else if o = 0x5008 then s.cfg.hours
    else if o = 0x500C then w32 s.ao.histNext
    else 0

def regClkTop (o : Nat) (s : State) : Word :=
  let c := s.clk
  if o = 0 then
    packW [((c.wckRate.get 1).toNat, 12), ((c.wckRate.get 0).toNat, 8), (b2n (c.refValid.get 1), 5), (b2n (c.refValid.get 0), 4),
      (b2n (c.wckValid.get 1), 3), (b2n (c.wckValid.get 0), 2), (b2n c.sysrefOk, 1), (b2n c.xtalOk, 0)]
  else if o = 4 then
    packW [((c.wckRatio.get 1).toNat, 6), ((c.wckRatio.get 0).toNat, 4), ((c.refMode.get 1).toNat, 2), ((c.refMode.get 0).toNat, 0)]
  else
    match regIdx o 0x10 4 2 with
    | some n => let x := c.outs.get (fin 2 n); packW [(x.regDiv.toNat, 8), (x.regIdx.toNat, 4), (x.regSrc.toNat, 0)]
    | none => 0

def regApll (a : Apll) (o : Nat) : Word :=
  if o = 0 then packW [(a.bandField.toNat, 3), (a.bandMode.toNat, 1), (b2n a.enable, 0)]
  else if o = 4 then w32 a.seed.toNat
  else if o = 8 then packW [(a.band.toNat, 4), (b2n a.mclk, 3), (a.state.code, 0)]
  else if o = 0xC then a.err
  else 0

def regGpioCap (o : Nat) (s : State) : Word :=
  if o = 0x3000 then w32 s.clk.capTb.val
  else if o = 0x3004 then s.clk.capRise
  else if o = 0x3008 then s.clk.capFall
  else if 0x3010 ≤ o ∧ o < 0x3020 then regCapture s.clk.caps.head? (o - 0x3010)
  else if o = 0x3020 then s.clk.capDrops
  else 0

def regClk (o : Nat) (s : State) : Word :=
  if o < 0x100 then regClkTop o s
  else if o < 0x1000 then
    match regWin o 0x100 0x20 4 with
    | some (n, r) => regApll (s.apll (fin 4 n)) r
    | none => 0
  else if o < 0x2000 then
    match regWin o 0x1000 0x100 4 with
    | some (n, r) => regTb (fin 4 n) r s
    | none => 0
  else if o < 0x3000 then
    match regWin o 0x2000 0x20 16 with
    | some (n, r) => regCmp (s.clk.cmps.get (fin 16 n)) r
    | none => 0
  else if o < 0x4000 then regGpioCap o s
  else if o < 0x5000 then
    match regIdx o 0x4000 4 24 with
    | some n => let g := s.engine (fin 24 n); packW [(g.actual.toNat, 16), (g.allow.toNat, 8), (g.cap.toNat, 0)]
    | none => 0
  else if o < 0x20000 then regPatina o s
  else if o < 0x38000 then wordAt (s.histBytes ((o - 0x20000) / 16)) (o % 16)
  else 0

/-! ## SAP, NET, AMP -/

/-- A width of 16, 24 or 32 as its code; reset 0. -/
def widthCode (w : Nat) : Nat := (w - 16) / 8

def SapRec.cfgWord (r : SapRec) : Word :=
  packW [(r.domain.val, 28), (r.lineDir.toNat, 24), (b2n r.hizMasked, 23), (b2n r.native32, 22), (b2n r.bclkInvert, 21),
    (b2n r.fsInvert, 20), (r.fsWidth % 4, 18), (b2n r.fsDelay, 17), (b2n r.master, 16), (widthCode r.dataWidth % 4, 14),
    (widthCode r.slotWidth % 4, 12), (r.slots % 64, 4), (r.format % 4, 0)]

def regSapPort (x : Sap) (o : Nat) : Word :=
  if o = 0 then x.cfg.cfgWord
  else if o = 4 then
    packW [(x.zcTimeout.toNat, 24), (x.leadBlocks.toNat, 16), (x.rampBlocks.toNat, 8), (b2n x.arm, 0)]
  else if o = 8 then packW [(b2n x.maskBusy, 7), (b2n x.mismatch, 6), (x.missing % 4, 4), (x.state.code, 0)]
  else if o = 0xC then w32 x.flags.toNat
  else if 0x10 ≤ o ∧ o < 0x20 then getN x.enable ((o - 0x10) / 4) 0
  else if 0x20 ≤ o ∧ o < 0x30 then getN x.maskReg ((o - 0x20) / 4) 0
  else if o = 0x30 then if x.cfg.master then 0 else x.phase
  else if o = 0x34 then x.period
  else if o = 0x38 then x.underruns
  else if o = 0x3C then x.overruns
  else if o = 0x40 then x.glitches
  else if o = 0x44 then x.clips
  else if o = 0x48 then loW x.startBlk.toNat
  else if o = 0x4C then hiW x.startBlk.toNat
  else 0

def regSap (o : Nat) (s : State) : Word :=
  match regWin o 0 0x1000 32 with
  | some (p, r) => regSapPort (s.sap (fin 32 p)) r
  | none =>
    if o = 0x20008 then bitsW (s.saps.toList.map (fun x => x.state == .running))
    else if o = 0x2000C then bitsW (s.saps.toList.map (fun x => x.state == .noClock || x.state == .rateMismatch))
    else 0

def EthRec.cfgWord (r : EthRec) : Word :=
  packW [(r.ptpTb.val, 14), (b2n r.master, 13), (b2n r.ptpEn, 12), (r.profile.val, 10), (b2n r.jumbo, 6), (b2n r.vlan, 5),
    (r.fec % 4, 3), (r.mode % 4, 0)]

def regEth (x : Eth) (o : Nat) : Word :=
  let t := x.txts.head?
  let ts (f : TxTs → Word) : Word := (t.map f).getD 0
  if o = 0 then x.cfg.cfgWord
  else if o = 4 then packW [((x.txts.length + 3) / 4, 8), (b2n x.igmpV2, 7), (x.ptpState.val, 4), (b2n x.linkUp, 0)]
  else if o = 8 then w32 x.flags.toNat
  else if o = 0xC then x.asym
  else if o = 0x10 then packW [(x.holdClass.toNat, 24), (x.clockClass.toNat, 16), (x.prio2.toNat, 8), (x.prio1.toNat, 0)]
  else if o = 0x14 then x.ptpBad
  else if o = 0x18 then x.txtsDrops
  else if o = 0x1C then x.rxDiscard
  else if o = 0x20 then x.fcsErr
  else if o = 0x30 then ts (fun q => packW [(1, 31), (q.msgType.toNat, 24), (q.domain.toNat, 16), (q.seqId.toNat, 0)])
  else if o = 0x34 then ts (fun q => loW q.time.sec.toNat)
  else if o = 0x38 then ts (fun q => q.time.ns)
  else if o = 0x3C then ts (fun q => packW [(q.time.sec.toNat / 2 ^ 32, 16), (q.time.frac.toNat, 0)])
  else if o = 0x40 then wI32 x.pathDelay
  else if o = 0x44 then loW x.parent.toNat
  else if o = 0x48 then hiW x.parent.toNat
  else 0

def regSrx (x : Srx) (o : Nat) : Word :=
  if o = 0 then w32 (b2n x.enableReg)
  else if o = 4 then packW [(b2n x.legB, 3), (b2n x.legA, 2), (x.state.val, 0)]
  else if o = 8 then x.packets
  else if o = 0xC then x.dups
  else if o = 0x10 then x.late
  else if o = 0x14 then x.early
  else if o = 0x18 then x.gaps
  else if o = 0x1C then x.malformed
  else if o = 0x20 then x.margin
  else 0

def regStx (x : Stx) (o : Nat) : Word :=
  if o = 0 then packW [(b2n x.held, 2), (b2n x.enableReg, 0)]
  else if o = 4 then x.packets
  else if o = 8 then x.late
  else 0

def regNet (o : Nat) (s : State) : Word :=
  match regWin o 0 0x1000 4, regWin o 0x10000 0x40 256, regWin o 0x20000 0x40 256 with
  | some (n, r), _, _ => regEth (s.eth (fin 4 n)) r
  | none, some (u, r), _ => regSrx (s.srx (fin 256 u)) r
  | none, none, some (u, r) => regStx (s.stx (fin 256 u)) r
  | none, none, none => if o = 0x30000 then packW [(s.net.spillKib, 16), (s.net.poolKib, 0)] else 0

/-- AMPnn_DIAG_RESULT. -/
def Amp.diagResult (x : Amp) : Word := packW [(x.cNf.toNat, 8), (x.points, 4), (x.cls.val, 0)]

def regAmpChan (x : Amp) (o : Nat) : Word :=
  if o = 0 then
    packW [(b2n x.fltHigh, 30), (x.domain.val, 28), (x.blank.toNat, 20), (x.dead.toNat, 12), (x.period % 4096, 0)]
  else if o = 4 then packW [(b2n x.diagQuick, 7), (b2n x.autoStart, 0)]
  else if o = 8 then packW [(x.minPulse.toNat, 16), (x.fsReg.toNat, 0)]
  else if o = 0xC then x.limReg
  else if o = 0x10 then packW [(x.startBlocks.toNat, 24), (x.retryMs, 8), (x.ocThr.toNat, 0)]
  else if o = 0x14 then packW [(b2n x.braced, 17), (x.groupSize % 32, 12), (x.slot % 16, 8), (x.retries % 16, 4), (x.state.code, 0)]
  else if o = 0x18 then w32 x.flags.toNat
  else if o = 0x1C then x.ocCycles
  else if o = 0x20 then x.shutdowns
  else if o = 0x24 then x.clips
  else if o = 0x30 then w32 x.diagLevel.toNat
  else if o = 0x34 then x.shortM
  else if o = 0x38 then x.openM
  else if o = 0x3C then x.iFs
  else if o = 0x40 then x.vFs
  else if o = 0x44 then x.diagResult
  else if o = 0x48 then x.rmin
  else if 0x50 ≤ o ∧ o < 0x78 then getN x.z ((o - 0x50) / 4) 0
  else 0

def regAmp (o : Nat) (s : State) : Word :=
  if s.isCluster then 0
  else
    match regWin o 0 0x400 16 with
    | some (c, r) => regAmpChan (s.amp (fin 16 c)) r
    | none =>
      if o = 0x4008 then bitsW (s.amps.toList.map (fun x => x.state == .running))
      else if o = 0x400C then
        bitsW (s.amps.toList.map (fun x => x.state == .shutdown || x.state == .testing || x.state == .latched))
      else 0

/-! ## XBAR, MEM, DRAM -/

def DramState.code : DramState → Nat
  | .off => 0 | .training => 1 | .ready => 2 | .failed => 3 | .down => 4

/-- Sixteen 2-bit fields of banks 16n to 16n + 15. -/
def bankWord (n : Nat) (f : Fin 256 → Nat) : Word := packW ((List.range 16).map (fun i => (f (fin 256 (16 * n + i)), 2 * i)))

/-- XBAR_PRIOmm_A, _B or _C: eight nibbles, five in _C. -/
def prioWord (v : Vector (BitVec 4) 21) (k : Nat) : Word :=
  packW ((List.range (if k = 2 then 5 else 8)).map (fun i => ((getN v (8 * k + i) 0).toNat, 4 * i)))

def regXbar (o : Nat) (s : State) : Word :=
  let x := s.xbar
  match regWin o 0x1000 0x10 37, regIdx o 0x2000 4 16, regIdx o 0x2040 4 16 with
  | some (m, r), _, _ => if r < 12 then prioWord (getN x.prio m (Vector.replicate 21 0)) (r / 4) else 0
  | none, some n, _ => bankWord n (fun b => (x.bankReq.get b).toNat)
  | none, none, some n => bankWord n (fun b => (x.bank.get b).code)
  | none, none, none =>
    if o = 0 then w32 x.ageStep.toNat
    else if o = 0x4 then loW x.fenced.toNat
    else if o = 0x8 then hiW x.fenced.toNat
    else if o = 0x10 then packW [(x.fDrained.toNat, 16), (x.fId.val, 12), (x.fMaster.val, 0)]
    else if o = 0x14 then loW x.fAddr.toNat
    else if o = 0x18 then hiW x.fAddr.toNat
    else if o = 0x20 then packW [(x.eCause, 16), (x.eTarget.val, 8), (x.eMaster.val, 0)]
    else if o = 0x24 then loW x.eAddr.toNat
    else if o = 0x28 then hiW x.eAddr.toNat
    else if o = 0x2C then x.errors
    else if o = 0x2100 then packW [(x.repFailed, 16), (x.repRows, 0)]
    else if o = 0x2104 then x.ce
    else if o = 0x2108 then x.ue
    else if o = 0x210C then w32 x.eccLog.toNat
    else if o = 0x2110 then w32 (b2n x.scrub)
    else if o = 0x2204 then packW [(x.secBad.toNat, 2), (x.secState.val, 0)]
    else 0

def regDramCtl (d : Dram) (o : Nat) : Word :=
  if o = 4 then packW [(d.mr4.toNat, 16), (d.failStep, 8), (d.state.code, 0)]
  else if o = 8 then packW [(d.usable, 16), (d.rate.toNat, 8), (b2n d.ranks, 1), (b2n d.lp5x, 0)]
  else if o = 0xC then d.ce
  else if o = 0x10 then d.ue
  else if o = 0x14 then loW d.errAddr.toNat
  else if o = 0x18 then hiW d.errAddr.toNat
  else 0

def regDram (o : Nat) (s : State) : Word :=
  match regWin o 0 0x1000 2 with
  | some (c, r) => regDramCtl (s.dram (fin 2 c)) r
  | none => 0

/-! ## PLACER, FABRIC, SCENE -/

def PlacerState.code : PlacerState → Nat
  | .idle => 0 | .building => 1 | .copying => 2 | .overlap => 3 | .evacuating => 4

def State.placerStatus (s : State) : Word :=
  let p := s.placer
  packW [(s.sparesFree.length, 21), (b2n p.reduced, 20),
    ((bitsW ((List.range 6).map (fun i => p.queued.any (fun t => triggerCode t == i + 1)))).toNat, 8),
    ((p.trigger.map triggerCode).getD 0, 4), (p.state.code, 0)]

def State.engOut (s : State) : Word := bitsW (s.engines.toList.map (·.out))

/-- A committed load in per-mille of P × f; the spec does not say how it is rounded (assumption 13). -/
def State.loadPermille (s : State) (e : Fin 24) : Nat :=
  match s.img.loaded, s.placer.current with
  | some m, some p =>
    match m.domainOn p e with
    | none => 0
    | some d =>
      let num := m.cyclesOn p e * m.fsOf d * 1000
      let den := 200000000 * (s.engine e).actual.toNat
      num / den + (if num % den = 0 then 0 else b2n (Config.loadRoundsUp num))
  | _, _ => 0

def State.engineLoadWord (s : State) (e : Fin 24) : Word :=
  let g := s.engine e
  let role := if g.out then 2 else if g.suspect then 3 else if g.spare then 1 else 0
  let procs := match s.img.loaded, s.placer.current with
    | some m, some p => (m.on p e).length
    | _, _ => 0
  packW [(role, 28), (procs % 4096, 16), (min 1023 (s.loadPermille e), 0)]

def State.tableWord (s : State) (o : Nat) : Word :=
  let t := if s.placer.rtView then s.placer.next else s.placer.table
  let b := (agetD t (o / 8) RegEntry.reset).bits
  if o % 8 = 0 then loW b else hiW b

def regPlacer (o : Nat) (s : State) : Word :=
  let p := s.placer
  match regIdx o 0x100 4 24 with
  | some e => s.engineLoadWord (fin 24 e)
  | none =>
    if o = 0 then packW [(b2n p.rtView, 3), (b2n p.overlapCompare, 2), (b2n p.freeze, 1)]
    else if o = 4 then s.placerStatus
    else if o = 8 then p.epoch
    else if o = 0xC then loW p.epochBlk.toNat
    else if o = 0x10 then hiW p.epochBlk.toNat
    else if o = 0x14 then w32 p.commitReg.toNat
    else if o = 0x18 then s.engOut
    else if o = 0x20 then p.faults
    else if o = 0x24 then p.misses
    else if o = 0x28 then packW [(p.lastCause.val, 24), (p.lastNode.toNat, 0)]
    else if o = 0x2C then w32 p.arenaKib.toNat
    else if 0x80000 ≤ o then s.tableWord (o - 0x80000)
    else 0

def regFabric (o : Nat) (s : State) : Word :=
  let f := s.fabric
  match regIdx o 0x100 4 32, regIdx o 0x10000 4 2048 with
  | some n, _ => getN f.sumSat n 0
  | none, some k =>
    match f.limits[k]? with
    | some l => packW [(l.hold, 16), (l.gr, 0)]
    | none => 0
  | none, none =>
    if o = 4 then w32 f.units
    else if o = 8 then packW [(f.limits.length, 16), (f.sums.length, 0)]
    else if o = 0xC then w32 f.load
    else if o = 0x10 then packW [(f.finishMax, 16), (f.finish, 0)]
    else if o = 0x14 then packW [(f.spillKib, 16), (f.onchipKib, 0)]
    else if o = 0x18 then f.overruns
    else if o = 0x1C then w32 f.grAlarm.toNat
    else 0

def SlotState.code : SlotState → Nat
  | .empty => 0 | .loading => 1 | .valid => 2

/-- SCENE_LAST. -/
def State.sceneLast (s : State) : Word := packW [(s.scene.lastId.toNat, 16), (s.scene.lastOutcome.val, 3), (s.scene.lastDefer.val, 0)]

def State.slotId (s : State) (k : Fin 4) : Word :=
  let x := s.slotSt k
  if x.state = .empty then 0 else (x.mq.map (·.id)).getD 0

def regScene (o : Nat) (s : State) : Word :=
  let c := s.scene
  match regWin o 0x20 8 4 with
  | some (k, r) =>
    let x := s.slotSt (fin 4 k)
    if r = 0 then s.slotId (fin 4 k)
    else packW [(x.state.code, 30), ((x.mq.map (fun m => m.entries.length)).getD 0, 0)]
  | none =>
    if o = 0 then packW [(c.ctlOp.toNat, 5), (c.ctlSlot.val, 3)]
    else if o = 0x4 then loW c.addr.toNat
    else if o = 0x8 then hiW c.addr.toNat
    else if o = 0xC then c.arg
    else if o = 0x10 then c.capFirst
    else if o = 0x14 then c.capLast
    else if o = 0x18 then packW [(c.stResult.val, 28), (c.stState.val, 26), (c.stSlot.val, 18), (c.stEntry.toNat, 0)]
    else if o = 0x40 then packW [(b2n c.castNext, 7), (c.castTb.val, 5), (c.castSlot.val, 3)]
    else if o = 0x44 then c.castMq
    else if o = 0x48 then loW c.castBlk.toNat
    else if o = 0x4C then hiW c.castBlk.toNat
    else if o = 0x50 then packW [(c.resId.toNat, 16), (c.resStatus.toNat, 8), (s.castCount, 4)]
    else if o = 0x58 then s.sceneLast
    else if o = 0x5C then loW c.lastBlk.toNat
    else if o = 0x60 then hiW c.lastBlk.toNat
    else if o = 0x64 then c.range
    else 0

/-! ## RED and EVT -/

def LaneState.code : LaneState → Nat
  | .off => 0 | .training => 1 | .hello => 2 | .up => 3 | .down => 4 | .refused => 5

def State.pairStatus (s : State) : Word :=
  let r := s.red
  packW [((bitsW (r.lanes.toList.map (fun l => l.state == .up))).toNat, 16), (b2n r.partnerRank, 12), (b2n r.rank, 11),
    (r.partnerState.val, 8), (r.seedPhase.val, 6), (r.pair.code, 0)]

def State.pairInfo (s : State) : Word :=
  match s.red.pairs[s.red.pairSel.toNat]? with
  | none => 0
  | some q =>
    let before := ((s.node? q.node).map (·.before)).getD false
    packW [(q.prim.val, 27), ((q.sec.map (·.val)).getD 31, 22), (b2n before, 21), (b2n q.mismatch.isSome, 20), (q.node, 0)]

def regRed (o : Nat) (s : State) : Word :=
  let r := s.red
  match regIdx o 0x100 4 24, regWin o 0x1000 0x40 4 with
  | some e, _ => (s.engine (fin 24 e)).health
  | none, some (l, x) =>
    let a := s.lane (fin 4 l)
    if x = 0 then packW [(a.failures.toNat, 16), (a.refusedField.val, 12), (a.peerPos.toNat, 8), (a.cfg.role.val, 4), (a.state.code, 0)]
    else if x = 4 then a.retx
    else 0
  | none, none =>
    if o = 0 then packW [(r.activeGpio.val, 5), (b2n r.gpioEn, 4), (b2n r.autoReseed, 3)]
    else if o = 4 then s.pairStatus
    else if o = 8 then w32 r.flags.toNat
    else if o = 0xC then r.paramEpoch
    else if o = 0x10 then r.digest
    else if o = 0x14 then r.partnerDigest
    else if o = 0x18 then r.unitHealth
    else if o = 0x1C then r.matches_
    else if o = 0x20 then packW [(r.replays.toNat, 16), (r.mismatches.toNat, 0)]
    else if o = 0x180 then bitsW (s.engines.toList.map (·.suspect))
    else if o = 0x200 then w32 r.pairSel.toNat
    else if o = 0x204 then s.pairInfo
    else 0

/-- A pin's level in the order of R576. An input pin has the level that the board drives. -/
def State.pinLevel (s : State) (p : Nat) : Bool :=
  match s.activePin with
  | some (q, v) => if q = p then v else low p
  | none => low p
where
  low (p : Nat) : Bool :=
    if flag s.evt.gpioDir p then s.evt.gpioPulse.toList.any (fun m => flag m p) || flag s.evt.gpioOut p
    else flag s.evt.gpioExt p

/-- DETECT nodes in ascending id: whether each is SILENT, as its first copy in service has it. -/
def State.silentBits (s : State) : List Bool :=
  (s.nodes.filter (fun n => n.type == .detect)).map (fun n =>
    ((s.procs.find? (fun p => p.node == n.id && !p.stopped)).map (·.silent)).getD false)

def regEvt (o : Nat) (s : State) : Word :=
  let v := s.evt
  match regIdx o 0x100 4 16, regIdx o 0x200 4 64, regIdx o 0x1000 4 128 with
  | some n, _, _ => w32 (getN v.classVec n 0).toNat
  | none, some k, _ => getN v.ovr k 0
  | none, none, some n => bitsW ((s.silentBits.drop (32 * n)).take 32)
  | none, none, none =>
    if o = 0 then packW [(v.qLog2, 8), (b2n v.qEnable, 0)]
    else if o = 4 then loW v.qBase.toNat
    else if o = 8 then hiW v.qBase.toNat
    else if o = 0xC then v.qWr
    else if o = 0x10 then v.qRd
    else if o = 0x14 then v.qDrops
    else if o = 0x400 then v.gpioDir
    else if o = 0x404 then v.gpioOut
    else if o = 0x408 then bitsW ((List.range 32).map s.pinLevel)
    else if o = 0x800 then packW [(v.mPeriod.toNat, 16), (b2n v.mEnable, 0)]
    else if o = 0x804 then loW v.mBase.toNat
    else if o = 0x808 then hiW v.mBase.toNat
    else if o = 0x80C then w32 v.mLog2
    else if o = 0x810 then v.mWr
    else if o = 0x814 then v.mRd
    else if o = 0x818 then v.mDrops
    else if o = 0x1200 then v.detLost
    else 0

/-! ## SEnn (R176, R177) -/

/-- The views read as zero (R177). -/
def State.viewsClosed (s : State) : Bool :=
  (s.img.loaded.map (·.encrypted)).getD false || (match s.lcState with
    | .production => true
    | .blank => false | .develop => false | .ret => false | .ended => false)

/-- SEnn_STATUS.state; whether an idle active engine runs a self-test sequence at the instant of a read is left open (R427). -/
def Engine.statusCode (g : Engine) (testing : Bool) : Nat :=
  if g.out then 6
  else if g.halted then 4
  else if g.stalled.isSome then 3
  else if g.parked.isSome then 2
  else if g.fg.node.isSome then 1
  else if g.spare || testing then 5
  else 0

def regEngine (e : Fin 24) (o : Nat) (s : State) : Word :=
  let g := s.engine e
  if o = 0 then w32 (2 * b2n g.haltReq)
  else if o = 4 then packW [(g.statusCode (Config.selfTesting s.free), 24), (g.fg.node.getD 0, 0)]
  else if o = 8 then w32 g.flags.toNat
  else if o = 0xC then g.cycles
  else if o = 0x10 then g.cyclesMax
  else if o = 0x14 then g.faults
  else if o = 0x18 then packW [(g.lastKind.val, 28), (g.lastWindow.toNat, 20), (g.lastNode.toNat, 0)]
  else if o = 0x1C then w32 g.lastOfs.toNat
  else if o = 0x20 then if g.halted then w32 (g.fg.pc % 8192) else 0
  else if s.viewsClosed then 0
  else if 0x10000 ≤ o ∧ o < 0x20000 then if g.halted then Config.bankView s.free else 0
  else if 0x40000 ≤ o ∧ o < 0xE0000 then s.mem.word (engineBase e.val + (o - 0x40000))
  else if 0xE0000 ≤ o ∧ o < 0xF0000 then Config.bankView s.free
  else 0

/-! ## The whole of BAR0 -/

/-- The value of a word of the register map, whatever island holds it. -/
def regValue (ofs : Nat) (s : State) : Word :=
  let o := ofs % 0x100000
  let b := ofs / 0x100000
  if b = 0 then regSys o s
  else if b = 1 then regClk o s
  else if b = 2 then regSap o s
  else if b = 3 then regNet o s
  else if b = 4 then regAmp o s
  else if b = 5 then regXbar o s
  else if b = 6 then regDram o s
  else if b = 7 then regPlacer o s
  else if b = 8 then regFabric o s
  else if b = 9 then regScene o s
  else if b = 10 then regRed o s
  else if b = 11 then regEvt o s
  else if 16 ≤ b ∧ b < 40 then regEngine (fin 24 (b - 16)) o s
  else 0

/-- What a read does beside giving its value: TBn_BLK_LO latches _HI, and GPIO_CAP_W3 removes the capture (R21, R317). -/
def regReadEffect (ofs : Nat) (s : State) : State :=
  if ofs = 0x10301C then popCapture s
  else
    match regWin ofs 0x101000 0x100 4 with
    | some (n, 0x40) => latchBlock (fin 4 n) s
    | _ => if 0x1000000 ≤ ofs || ofs == 0x8300 then { s with free := s.free + 1 } else s

/-- A read of a word of BAR0: zero where the island is fenced (R549). -/
def readReg (ofs : Nat) (s : State) : Word × State :=
  if s.blockDown ofs then (0, s) else (regValue ofs s, regReadEffect ofs s)

/-- Reads of consecutive words. -/
def readRegs (ofs : Nat) : Nat → State → List Word × State
  | 0, s => ([], s)
  | n + 1, s =>
    let r := readReg ofs s
    let t := readRegs (ofs + 4) n r.2
    (r.1 :: t.1, t.2)

end Sys2Proof.Machine
end

