-- ==== Sys2Proof/Machine/RegWrite.lean ====
section
/-! DEFINITION. The register map as it is written: each field by its access code (R8), each action by the operation
that its own row performs. -/

namespace Sys2Proof.Machine

/-- The low word of a 64-bit value replaced, its bits below `lo` zero. -/
def putLo (old : BitVec 64) (w : Word) (lo : Nat) : BitVec 64 :=
  BitVec.ofNat 64 (old.toNat / 2 ^ 32 * 2 ^ 32 + w.toNat / 2 ^ lo * 2 ^ lo)

/-- The high word of a 64-bit value replaced. -/
def putHi (old : BitVec 64) (w : Word) : BitVec 64 := BitVec.ofNat 64 (w.toNat * 2 ^ 32 + old.toNat % 2 ^ 32)

def putLo48 (old : BitVec 48) (w : Word) : BitVec 48 := BitVec.ofNat 48 (old.toNat / 2 ^ 32 * 2 ^ 32 + w.toNat)

def putHi48 (old : BitVec 48) (w : Word) : BitVec 48 := BitVec.ofNat 48 (w.toNat % 65536 * 2 ^ 32 + old.toNat % 2 ^ 32)

/-- LK fields are writable while no image is loaded (R8). -/
def State.unlocked (s : State) : Bool := s.img.loaded.isNone

def bv8 (n : Nat) : Byte := BitVec.ofNat 8 n

/-! ## SYS -/

def setSysLow (o : Nat) (w : Word) (s : State) : State :=
  if o = 0x200 then
    let s := s.onPower fun p => { p with target := BitVec.ofNat 3 (fld w 2 0) }
    let s := if flag w 4 then s.onPower fun p => { p with lowest := Vector.replicate 9 0xFFFF } else s
    if flag w 3 then (pwrTarget (fld w 2 0) s).2 else s
  else if o = 0x280 then if flag w 16 then s.onPower fun p => { p with tempMax := p.temp } else s
  else if o = 0x284 then s.onPower fun p => { p with hotThr := bv8 (fld w 7 0) }
  else if o = 0x300 then if flag w 0 && fld w 31 16 == 0xA5A5 then hostReset s else s
  else if o = 0x310 then bootCfg (flag w 1) (flag w 0) s
  else s

def setImg (o : Nat) (w : Word) (s : State) : State :=
  if o = 0x1000 then
    if flag w 0 then imgStart (flag w 3) (fin 4 (fld w 2 1)) s
    else s.onImg fun m => { m with ctlSource := BitVec.ofNat 2 (fld w 2 1), ctlVerify := flag w 3 }
  else if o = 0x1004 then s.onImg fun m => { m with hostAddr := putLo m.hostAddr w 3 }
  else if o = 0x1008 then s.onImg fun m => { m with hostAddr := putHi m.hostAddr w }
  else s

def setLc (o : Nat) (w : Word) (s : State) : State :=
  match regIdx o 0x4040 4 24 with
  | some k => s.onLc fun l => { l with auth := putN l.auth k w }
  | none =>
    if o = 0x4010 then
      let s := s.onLc fun l => { l with target := BitVec.ofNat 3 (fld w 2 0) }
      if flag w 3 && fld w 31 16 == 0xA5A5 then lcRequest (fld w 2 0) s else s
    else if o = 0x4014 then
      let s := s.onLc fun l => { l with item := BitVec.ofNat 3 (fld w 2 0) }
      if flag w 3 then provision s else s
    else if o = 0x4018 then s.onLc fun l => { l with addr := putLo l.addr w 3 }
    else if o = 0x401C then s.onLc fun l => { l with addr := putHi l.addr w }
    else if o = 0x4100 then tamperCfg (BitVec.ofNat 10 (fld w 9 0)) s
    else if o = 0x4104 then s.onAo fun a => { a with tamperTripped := w1c a.tamperTripped w.toNat }
    else s

def setSys (o : Nat) (w : Word) (s : State) : State :=
  if o < 0x1000 then setSysLow o w s
  else if o < 0x2000 then setImg o w s
  else if o = 0x3000 then
    let s := s.onAo fun a => { a with bbTb := fin 4 (fld w 2 1) }
    if flag w 0 && fld w 31 16 == 0xA5A5 then bbClear s else s
  else if 0x4000 ≤ o ∧ o < 0x8000 then setLc o w s
  else
    match regIdx o 0x8000 4 64 with
    | some k => s.onHost fun h => { h with wins := putN h.wins k (w &&& 0x8001FFFF) }
    | none => s

/-! ## CLK and Patina -/

/-- A write of TBn_CTL: the read-write fields, a new source where the write gives another, then set, snap, and accept or
reject, of which reject prevails (R298, R302 to R306). -/
def setTbCtl (t : Fin 4) (w : Word) (s : State) : State :=
  let x := s.tb t
  let s := s.onTb t fun x => { x with
    slewPpm := clampNat 1 100 (fld w 23 17), holdWindow := fld w 12 10, servoBw := fld w 9 8 }
  let s := if fld w 2 0 = x.source ∧ fld w 7 3 = x.index then s else selectSource t (fld w 2 0) (fld w 7 3) s
  let s := if flag w 16 then setTime t s else s
  let s := if flag w 15 then let f := s.fresh; snapTime t ((Config.snapCycles f.1).toNat % s.intervalCycles t) f.2 else s
  if flag w 14 then rejectJump t s else if flag w 13 then acceptJump t s else s

def setTb (t : Fin 4) (o : Nat) (w : Word) (s : State) : State :=
  if o = 0 then setTbCtl t w s
  else if o = 0x4 then if flag w 5 then s.onTb t fun x => { x with refused := false } else s
  else if o = 0x8 then s.onTb t fun x => { x with jumpThr := clampNat 100 10000000 (fld w 23 0) }
  else if o = 0xC then if (s.tb t).state = .free then s.onTb t fun x => { x with rate := w } else s
  else if o = 0x10 then adjTime t w.toInt s
  else if o = 0x1C then s.onTb t fun x => { x with setS := putLo48 x.setS w }
  else if o = 0x20 then s.onTb t fun x => { x with setS := putHi48 x.setS w }
  else if o = 0x24 then s.onTb t fun x => { x with setNs := w }
  else s

def setApll (a : Fin 4) (o : Nat) (w : Word) (s : State) : State :=
  if o = 0 then
    let s := s.onApll a fun x => { x with bandField := BitVec.ofNat 6 (fld w 8 3), bandMode := BitVec.ofNat 2 (fld w 2 1) }
    let s := apllWriteEnable a (flag w 0) s
    if flag w 9 then apllRestart a s else s
  else if o = 4 then s.onApll a fun x => { x with seed := BitVec.ofNat 31 w.toNat }
  else s

/-- A write of CMPkk_CTL: `arm` acts where the write changes it (R313). -/
def setCmp (u : Fin 16) (o : Nat) (w : Word) (s : State) : State :=
  if o = 0 then
    let was := (s.clk.cmps.get u).arm
    let s := s.onCmp u fun c => { c with
      action := BitVec.ofNat 3 (fld w 10 8), tb := fin 4 (fld w 5 4), late := c.late && !flag w 1 }
    if flag w 0 = was then s else cmpArm u (flag w 0) s
  else if o = 0x4 then s.onCmp u fun c => { c with blk := putLo48 c.blk w }
  else if o = 0x8 then s.onCmp u fun c => { c with blk := putHi48 c.blk w }
  else if o = 0xC then s.onCmp u fun c => { c with mask := w }
  else if o = 0x10 then s.onCmp u fun c => { c with period := BitVec.ofNat 16 w.toNat }
  else s

def setClkTop (o : Nat) (w : Word) (s : State) : State :=
  if o = 4 then
    s.onClk fun c => { c with
      wckRatio := #v[BitVec.ofNat 2 (fld w 5 4), BitVec.ofNat 2 (fld w 7 6)]
      refMode := #v[BitVec.ofNat 2 (fld w 1 0), BitVec.ofNat 2 (fld w 3 2)] }
  else
    match regIdx o 0x10 4 2 with
    | some n =>
      let div := BitVec.ofNat 3 (fld w 10 8)
      let idx := BitVec.ofNat 2 (fld w 5 4)
      let src := BitVec.ofNat 3 (fld w 2 0)
      stagePacing (.clkOut (fin 2 n) div idx src)
        (s.onClk fun c => { c with outs := updN c.outs n (fun x => { x with regDiv := div, regIdx := idx, regSrc := src }) })
    | none => s

def setClk (o : Nat) (w : Word) (s : State) : State :=
  if o < 0x100 then setClkTop o w s
  else if o < 0x1000 then
    match regWin o 0x100 0x20 4 with
    | some (n, r) => setApll (fin 4 n) r w s
    | none => s
  else if o < 0x2000 then
    match regWin o 0x1000 0x100 4 with
    | some (n, r) => setTb (fin 4 n) r w s
    | none => s
  else if o < 0x3000 then
    match regWin o 0x2000 0x20 16 with
    | some (n, r) => setCmp (fin 16 n) r w s
    | none => s
  else if o = 0x3000 then s.onClk fun c => { c with capTb := fin 4 (fld w 1 0) }
  else if o = 0x3004 then s.onClk fun c => { c with capRise := w }
  else if o = 0x3008 then s.onClk fun c => { c with capFall := w }
  else if o = 0x5000 then patinaCtl w s
  else if o = 0x5004 then if flag w 0 then patinaClear s else s
  else
    match regIdx o 0x4000 4 24 with
    | some n => capWrite (fin 24 n) (fld w 7 0) s
    | none => s

/-! ## SAP, NET, AMP -/

/-- The locked fields of SAPnn_CFG as written. -/
def SapRec.ofWord (r : SapRec) (w : Word) : SapRec :=
  { r with
    domain := fin 4 (fld w 29 28), lineDir := BitVec.ofNat 4 (fld w 27 24), hizMasked := flag w 23, native32 := flag w 22
    bclkInvert := flag w 21, fsInvert := flag w 20, fsWidth := fld w 19 18, fsDelay := flag w 17, master := flag w 16
    dataWidth := 16 + 8 * fld w 15 14, slotWidth := 16 + 8 * fld w 13 12, slots := fld w 9 4, format := fld w 1 0 }

def setSapPort (p : Fin 32) (o : Nat) (w : Word) (s : State) : State :=
  if o = 0 then if s.unlocked then s.onSap p fun x => { x with cfg := x.cfg.ofWord w } else s
  else if o = 4 then
    let s := s.onSap p fun x => { x with
      zcTimeout := bv8 (clampNat 1 50 (fld w 31 24)), leadBlocks := bv8 (fld w 23 16)
      rampBlocks := bv8 (clampNat 1 64 (fld w 15 8)), arm := flag w 0 }
    let s := if flag w 5 then sapClearCounts p s else s
    let s := if flag w 4 then sapRestart p s else s
    let s := if flag w 2 then sapTrigger p true s else s
    if flag w 3 then sapTrigger p false s else s
  else if o = 0xC then s.onSap p fun x => { x with flags := w1c x.flags w.toNat }
  else if 0x10 ≤ o ∧ o < 0x20 then
    if s.unlocked then s.onSap p fun x => { x with enable := putN x.enable ((o - 0x10) / 4) w } else s
  else if 0x20 ≤ o ∧ o < 0x30 then maskWrite' p (fin 4 ((o - 0x20) / 4)) w s
  else s

def setSap (o : Nat) (w : Word) (s : State) : State :=
  match regWin o 0 0x1000 32 with
  | some (p, r) => setSapPort (fin 32 p) r w s
  | none =>
    if o = 0x20000 then sapTriggers w.toNat true s
    else if o = 0x20004 then sapTriggers w.toNat false s
    else s

/-- The locked fields of NETn_CFG as written. -/
def EthRec.ofWord (r : EthRec) (w : Word) : EthRec :=
  { r with
    ptpTb := fin 4 (fld w 15 14), master := flag w 13, ptpEn := flag w 12, profile := fin 4 (fld w 11 10), jumbo := flag w 6
    vlan := flag w 5, fec := fld w 4 3, mode := fld w 1 0 }

def setEth (n : Fin 4) (o : Nat) (w : Word) (s : State) : State :=
  if o = 0 then if s.unlocked then s.onEth n fun x => { x with cfg := x.cfg.ofWord w } else s
  else if o = 8 then s.onEth n fun x => { x with flags := w1c x.flags w.toNat }
  else if o = 0xC then s.onEth n fun x => { x with asym := w }
  else if o = 0x10 then s.onEth n fun x => { x with
    holdClass := bv8 (fld w 31 24), clockClass := bv8 (fld w 23 16), prio2 := bv8 (fld w 15 8), prio1 := bv8 (fld w 7 0) }
  else s

def setNet (o : Nat) (w : Word) (s : State) : State :=
  match regWin o 0 0x1000 4, regWin o 0x10000 0x40 256, regWin o 0x20000 0x40 256 with
  | some (n, r), _, _ => setEth (fin 4 n) r w s
  | none, some (u, 0), _ =>
    srxEnable (fin 256 u) (flag w 0) (if flag w 1 then s.onSrx (fin 256 u) Srx.cleared else s)
  | none, none, some (u, 0) =>
    stxEnable (fin 256 u) (flag w 0) (if flag w 1 then s.onStx (fin 256 u) (fun x => { x with packets := 0, late := 0 }) else s)
  | none, _, _ => s

/-- A write of AMPnn_CTL: its fields, then its actions from the highest bit down to stop, which prevails over start. -/
def setAmpCtl (c : Fin 16) (w : Word) (s : State) : State :=
  let lk := s.unlocked
  let s := s.onAmp c fun a => { a with diagQuick := flag w 7, autoStart := if lk then flag w 0 else a.autoStart }
  let s := if flag w 6 then ampDiagWrite c (flag w 7) s else s
  let s := if flag w 5 then ampClearCounts c s else s
  let s := if flag w 4 then abortRetry c s else s
  let s := if flag w 3 then clearLatch c s else s
  let s := if flag w 1 then ampTrigger c true s else s
  if flag w 2 then ampTrigger c false s else s

def setAmpChan (c : Fin 16) (o : Nat) (w : Word) (s : State) : State :=
  if o = 0 then
    if s.unlocked then s.onAmp c fun a => { a with
      fltHigh := flag w 30, domain := fin 4 (fld w 29 28), blank := bv8 (fld w 27 20), dead := bv8 (fld w 19 12)
      period := fld w 11 0 }
    else s
  else if o = 4 then setAmpCtl c w s
  else if o = 8 then
    let lk := s.unlocked
    let v := BitVec.ofNat 16 (fld w 15 0)
    ampStage c (.ampIndex c v) (s.onAmp c fun a => { a with
      fsReg := v, minPulse := if lk then bv8 (fld w 23 16) else a.minPulse })
  else if o = 0xC then
    let v := BitVec.ofNat 32 (clampNat 256 2147483647 w.toNat)
    ampStage c (.ampLim c v) (s.onAmp c fun a => { a with limReg := v })
  else if o = 0x10 then s.onAmp c fun a => { a with
    startBlocks := bv8 (fld w 31 24), retryMs := clampNat 100 5000 (fld w 20 8), ocThr := bv8 (fld w 7 0) }
  else if o = 0x18 then s.onAmp c fun a => { a with flags := w1c a.flags w.toNat }
  else if o = 0x30 then s.onAmp c fun a => { a with diagLevel := BitVec.ofNat 16 w.toNat }
  else if o = 0x34 then s.onAmp c fun a => { a with shortM := w }
  else if o = 0x38 then s.onAmp c fun a => { a with openM := w }
  else if o = 0x3C then s.onAmp c fun a => { a with iFs := w }
  else if o = 0x40 then s.onAmp c fun a => { a with vFs := w }
  else s

def setAmp (o : Nat) (w : Word) (s : State) : State :=
  if s.isCluster then s
  else
    match regWin o 0 0x400 16 with
    | some (c, r) => setAmpChan (fin 16 c) r w s
    | none =>
      if o = 0x4000 then ampTriggers (w.toNat % 65536) true s
      else if o = 0x4004 then ampTriggers (w.toNat % 65536) false s
      else s

/-! ## XBAR, MEM, DRAM -/

/-- XBAR_CTL.clear_counts. -/
def xbarClear (s : State) : State := s.onXbar fun x => { x with errors := 0, ce := 0, ue := 0 }

/-- XBAR_CLEAR_COUNTS (R394). -/
def execXbarClearCounts (s : State) : Host.Outcome State Fault Refusal := .next (xbarClear s)

def setPrio (m k : Nat) (w : Word) (s : State) : State :=
  let put (v : Vector (BitVec 4) 21) : Vector (BitVec 4) 21 :=
    each (List.range (if k = 2 then 5 else 8)) (fun i v => putN v (8 * k + i) (BitVec.ofNat 4 (fld w (4 * i + 3) (4 * i)))) v
  s.onXbar fun x => { x with prio := updN x.prio m put }

def setXbar (o : Nat) (w : Word) (s : State) : State :=
  match regWin o 0x1000 0x10 37, regIdx o 0x2000 4 16 with
  | some (m, r), _ => if r < 12 then setPrio m (r / 4) w s else s
  | none, some n => bankReqWrite (fin 16 n) w s
  | none, none =>
    if o = 0 then
      let s := s.onXbar fun x => { x with ageStep := bv8 (fld w 7 0) }
      if flag w 8 then xbarClear s else s
    else if o = 0x2110 then s.onXbar fun x => { x with scrub := flag w 0 }
    else if o = 0x2200 then if flag w 0 then secureWipe true s else s
    else s

def setDram (o : Nat) (w : Word) (s : State) : State :=
  match regWin o 0 0x1000 2 with
  | some (c, 0) =>
    let s := if flag w 1 then dramClear (fin 2 c) s else s
    if flag w 0 then dramRetrain (fin 2 c) s else s
  | _ => s

/-! ## PLACER, FABRIC, SCENE -/

def setPlacer (o : Nat) (w : Word) (s : State) : State :=
  if o = 0 then
    let s := s.onPlacer fun p => { p with rtView := flag w 3, overlapCompare := flag w 2 }
    let s := if flag w 4 then s.onPlacer fun p => { p with faults := 0, misses := 0 } else s
    let s := setFreeze (flag w 1) s
    if flag w 0 then (hostReplan s).2 else s
  else if o = 0x14 then commitWrite (fld w 9 0) s
  else if o = 0x1C then each (maskBits w.toNat 24) (fun k s => (admitEngine (fin 24 k) s).2) s
  else s

def setFabric (o : Nat) (w : Word) (s : State) : State :=
  match regIdx o 0x100 4 32 with
  | some n => s.onFabric fun f => { f with sumSat := updN f.sumSat n (fun x => w1c x w.toNat) }
  | none =>
    if o = 0 then
      let s := if flag w 1 then s.onFabric (fun f => { f with limits := f.limits.map (fun l => { l with hold := 0 }) }) else s
      if flag w 0 then s.onFabric fun f => { f with overruns := 0, finishMax := 0 } else s
    else if o = 0x1C then s.onFabric fun f => { f with grAlarm := BitVec.ofNat 16 w.toNat }
    else s

def setMqCtl (w : Word) (s : State) : State :=
  let k : Fin 4 := fin 4 (fld w 4 3)
  let s := mqCtl (BitVec.ofNat 2 (fld w 6 5)) k s
  if flag w 0 then
    let op := fld w 6 5
    if op = 0 then (slotLoad k s.scene.addr none s).2
    else if op = 1 then (slotCapture k s.scene.arg s.scene.capFirst s.scene.capLast s).2.2
    else if op = 2 then (slotClear k s).2
    else s
  else s

def setScene (o : Nat) (w : Word) (s : State) : State :=
  if o = 0 then setMqCtl w s
  else if o = 0x4 then s.onScene fun c => { c with addr := putLo c.addr w 3 }
  else if o = 0x8 then s.onScene fun c => { c with addr := putHi c.addr w }
  else if o = 0xC then s.onScene fun c => { c with arg := w }
  else if o = 0x10 then s.onScene fun c => { c with capFirst := w }
  else if o = 0x14 then s.onScene fun c => { c with capLast := w }
  else if o = 0x40 then
    let s := s.onScene fun c => { c with castNext := flag w 7, castTb := fin 4 (fld w 6 5), castSlot := fin 4 (fld w 4 3) }
    if flag w 0 then castRegisters s else s
  else if o = 0x44 then s.onScene fun c => { c with castMq := w }
  else if o = 0x48 then s.onScene fun c => { c with castBlk := putLo48 c.castBlk w }
  else if o = 0x4C then s.onScene fun c => { c with castBlk := putHi48 c.castBlk w }
  else if o = 0x54 then (castCancel (BitVec.ofNat 16 (fld w 15 0)) s).2
  else s

/-! ## RED, EVT, SEnn -/

def setRed (o : Nat) (w : Word) (s : State) : State :=
  match regWin o 0x1000 0x40 4 with
  | some (l, 8) => if flag w 0 then restartHello (fin 4 l) s else s
  | some _ => s
  | none =>
    if o = 0 then
      let s := s.onRed fun r => { r with activeGpio := fin 32 (fld w 9 5), gpioEn := flag w 4, autoReseed := flag w 3 }
      let s := if flag w 2 then reseed s else s
      if flag w 1 then clearPairCounts s else s
    else if o = 8 then s.onRed fun r => { r with flags := w1c r.flags w.toNat }
    else if o = 0x184 then forceOut (w.toNat % 2 ^ 24) s
    else if o = 0x188 then clearCause (w.toNat % 2 ^ 24) s
    else if o = 0x200 then s.onRed fun r => { r with pairSel := BitVec.ofNat 16 w.toNat }
    else s

def setEvt (o : Nat) (w : Word) (s : State) : State :=
  match regIdx o 0x100 4 16, regIdx o 0x200 4 64 with
  | some n, _ => s.onEvt fun v => { v with classVec := putN v.classVec n (bv8 (fld w 7 0)) }
  | none, some k => s.onEvt fun v => { v with ovr := putN v.ovr k (w &&& 0x81FFFFFF) }
  | none, none =>
    if o = 0 then qCtlWrite w s
    else if o = 4 then if s.evt.qEnable then s else s.onEvt fun v => { v with qBase := putLo v.qBase w 6 }
    else if o = 8 then if s.evt.qEnable then s else s.onEvt fun v => { v with qBase := putHi v.qBase w }
    else if o = 0x10 then qSettle (s.onEvt fun v => { v with qRd := w })
    else if o = 0x400 then s.onEvt fun v => { v with gpioDir := w }
    else if o = 0x404 then s.onEvt fun v => { v with gpioOut := w }
    else if o = 0x800 then meterCtlWrite w s
    else if o = 0x804 then if s.evt.mEnable then s else s.onEvt fun v => { v with mBase := putLo v.mBase w 6 }
    else if o = 0x808 then if s.evt.mEnable then s else s.onEvt fun v => { v with mBase := putHi v.mBase w }
    else if o = 0x80C then if s.evt.mEnable then s else s.onEvt fun v => { v with mLog2 := clampNat 12 24 (fld w 4 0) }
    else if o = 0x814 then s.onEvt fun v => { v with mRd := w }
    else s

/-- A write of SEnn_CTL: clear_stats, then step and resume as the engine stands, then halt_req, which a write that resumes the
engine and leaves the field as it was does not ask for again. -/
def setEngine (e : Fin 24) (o : Nat) (w : Word) (s : State) : State :=
  if o = 0 then
    let s := if flag w 0 then s.onEngine e (fun g => { g with cyclesMax := 0, faults := 0 }) else s
    let s := if flag w 3 then stepEngine e s else s
    let resumed := flag w 2 && (s.engine e).halted
    let s := if flag w 2 then resumeEngine e s else s
    if resumed && flag w 1 == (s.engine e).haltReq then s else haltRequest e (flag w 1) s
  else if o = 8 then s.onEngine e fun g => { g with flags := w1c g.flags w.toNat }
  else s

/-! ## The whole of BAR0 -/

/-- A write of a word of the register map that its island takes. -/
def regSet (ofs : Nat) (w : Word) (s : State) : State :=
  let o := ofs % 0x100000
  let b := ofs / 0x100000
  if b = 0 then setSys o w s
  else if b = 1 then setClk o w s
  else if b = 2 then setSap o w s
  else if b = 3 then setNet o w s
  else if b = 4 then setAmp o w s
  else if b = 5 then setXbar o w s
  else if b = 6 then setDram o w s
  else if b = 7 then setPlacer o w s
  else if b = 8 then setFabric o w s
  else if b = 9 then setScene o w s
  else if b = 10 then setRed o w s
  else if b = 11 then setEvt o w s
  else if 16 ≤ b ∧ b < 40 then setEngine (fin 24 (b - 16)) o w s
  else s

/-- A write of a word of BAR0: discarded where the island is fenced (R15). -/
def writeReg (ofs : Nat) (w : Word) (s : State) : State := if s.blockDown ofs then s else regSet ofs w s

/-- Writes of consecutive words. -/
def writeRegs (ofs : Nat) (ws : List Word) (s : State) : State :=
  each ws.zipIdx (fun p s => writeReg (ofs + 4 * p.2) p.1 s) s

end Sys2Proof.Machine
end

