-- ==== Sys2Proof/Machine/Xbar.lean ====
section
/-! DEFINITION. The crossbar: requests, atomics, responses, timeouts (R392 to R404, R413, R420) and the remote windows
(R444). A request is granted when its command comes; its response is delivered by a command of its own. -/

namespace Sys2Proof.Machine

/-! ## Form, admission, readiness (R15, R392 to R394) -/

/-- The form of R393: a single beat of 4 to 64 bytes, or a burst of 2 to 16 beats within 4 KiB. -/
def xForm (addr len : Nat) : Bool :=
  if 64 < len then len % 64 == 0 && decide (len ≤ 1024) && addr % 64 == 0 && addr / 4096 == (addr + len - 1) / 4096
    && bankOf addr == bankOf (addr + len - 1)
  else decide (4 ≤ len) && addr % 4 == 0

/-- Masters that a target admits (R392). -/
def admits (t m : Nat) : Bool :=
  if t = 16 ∨ t = 17 then [29, 30, 33, 34].contains m
  else if t = 18 then [34, 36].contains m
  else if t = 20 then [31, 32, 34].contains m
  else true

/-- The island that an address lies in (R390, R530). -/
def addrIsland (a : Nat) : Option Nat :=
  match targetOf a with
  | none => none
  | some t =>
    if t.val < 16 then some (26 + t.val)
    else if t = 16 then some 42
    else if t = 17 then some 43
    else if t = 18 then some 57
    else if t = 20 then some 54
    else if a < 0x44000000 then blockIsland (a - 0x40000000)
    else if a < 0x61800000 then some ((a - 0x60000000) / 0x100000)
    else if a < 0x78400000 then some 24
    else if a < 0x7C200000 then some 56
    else some 44

/-- The whole access is mapped: both ends lie at one target, and in DRAM within its usable capacity. -/
def State.xMapped (s : State) (addr len : Nat) : Bool :=
  match targetOf addr with
  | none => false
  | some t =>
    targetOf (addr + len - 1) == some t &&
      (if t = 16 then decide (addr + len ≤ dramBase 0 + (s.dram 0).bytes)
       else if t = 17 then decide (addr + len ≤ dramBase 1 + (s.dram 1).bytes)
       else true)

/-- A shared bank of the access that is not ON. -/
def State.bankClosed (s : State) (addr len : Nat) : Option (Fin 256) :=
  let ok (o : Option (Fin 256)) : Option (Fin 256) := o.bind (fun b => if s.bank b = .on then none else some b)
  (ok (bankOf addr)).or (ok (bankOf (addr + len - 1)))

/-- The target cannot serve the access now (R394 cause 3). -/
def State.xNotReady (s : State) (t : Fin 21) (addr len : Nat) : Bool :=
  if t.val < 16 then (s.bankClosed addr len).isSome
  else if t = 16 then (s.dram 0).state != .ready || (s.dram 0).selfRefresh
  else if t = 17 then (s.dram 1).state != .ready || (s.dram 1).selfRefresh
  else if t = 18 then s.xbar.secState != 0
  else false

def State.xFenced (s : State) (addr : Nat) : Bool :=
  s.islandDown 25 || ((addrIsland addr).map s.islandDown).getD false

/-- Lanes in service to the peer of a remote window (R444). -/
def State.windowLanes (s : State) (a : Nat) : List (Fin 4) :=
  if a / 2 ^ 30 % 2 = 1 then s.pairLanes
  else s.lanesUp.filter (fun l => let x := s.lane l; 1 ≤ x.cfg.role.val && x.cfg.role.val ≤ 3 && x.peerPos.toNat == a / 2 ^ 27 % 8)

/-- Whether a remote window takes an access of `len` bytes: it lies in the shared banks, or in BAR0, which remote writes reach only in
SCENE and RED. -/
def windowTakes (ofs len : Nat) (write : Bool) : Bool :=
  decide (ofs + len ≤ 0x3000000) || (decide (0x4000000 ≤ ofs) && decide (ofs + len ≤ 0x8000000)
    && (!write || (decide (0x4900000 ≤ ofs) && decide (ofs + len ≤ 0x4B00000))))

/-- Why a request gets an ERROR before any effect; the earliest ground in this order is the response's cause. -/
def State.xRefusal (s : State) (m : Nat) (addr len : Nat) (write atomic : Bool) : Option XCause :=
  let form : Bool := if atomic then addr % 4 == 0 else xForm addr len
  match targetOf addr with
  | none => some .decode
  | some t =>
    if !form || !s.xMapped addr len then some .decode
    else if !admits t.val m then some .denied
    else if t = 20 && (!windowTakes (addr % 2 ^ 27) len write || s.windowLanes addr == []) then some .denied
    else if atomic && decide (16 ≤ t.val) then some .noAtomic
    else if s.xFenced addr then some .fenced
    else if s.xNotReady t addr len then some .notReady
    else none

def XCause.code : XCause → Nat
  | .decode => 1 | .denied => 2 | .notReady => 3 | .ecc => 4 | .timeout => 5 | .noAtomic => 6 | .fenced => 7

def causeOf (n : Nat) : XCause :=
  if n = 1 then .decode else if n = 2 then .denied else if n = 3 then .notReady else if n = 4 then .ecc else if n = 5 then .timeout
  else if n = 6 then .noAtomic else .fenced

/-- An ERROR response is counted and logged, and raises XBAR_ERROR at most once per millisecond per master (R394). -/
def xError (m : Fin 37) (addr : Nat) (c : XCause) (s : State) : State :=
  let t : Nat := ((targetOf addr).map (·.val)).getD Config.noTarget.toNat
  let hot := due (s.xbar.errAt.get m) Config.ms s.now
  let s := s.onXbar fun x => { x with
    errors := satInc32 x.errors, eCause := c.code, eTarget := fin 32 t, eMaster := m, eAddr := BitVec.ofNat 40 addr
    errAt := if hot then upd x.errAt m (fun _ => some s.now) else x.errAt }
  raiseIf hot 0x4004 [v8 m.val, v8 t, v8 c.code] s

/-- What a refused request does beside its ERROR: BANK_ACCESS_OFF (R405), ATOMIC_REFUSED (R402), SECURE_TARGET_DENIED
(R420). -/
def xRefuse (m : Fin 37) (addr len : Nat) (c : XCause) (s : State) : State :=
  let t : Nat := ((targetOf addr).map (·.val)).getD Config.noTarget.toNat
  let s := match c with
    | .notReady =>
      match s.bankClosed addr len with
      | some b =>
        if due s.xbar.offAt Config.ms s.now then
          raise 0x4008 [v8 b.val, v8 m.val] (s.onXbar fun x => { x with offAt := some s.now })
        else s
      | none => s
    | .noAtomic => raise 0x4005 [v8 m.val, v8 t] s
    | .denied => if t = 18 then secureDenied m.val s else s
    | .decode => s
    | .ecc => s
    | .timeout => s
    | .fenced => s
  xError m addr c s

/-! ## Memory behind the crossbar -/

/-- 64-bit words that an access touches. -/
def wordsIn (addr len : Nat) : List Nat := (List.range ((addr + len - 1) / 8 - addr / 8 + 1)).map (fun i => addr / 8 + i)

/-- Errors in a read: correctable ones are corrected and counted, an uncorrectable one gives none (R410, R415). -/
def eccRead (t : Fin 21) (addr len : Nat) (s : State) : Option XCause × State :=
  let hit := wordsIn addr len
  let ce := s.xbar.badCe.filter hit.contains
  let bad := hit.find? s.xbar.badUe.contains
  if t = 16 ∨ t = 17 then
    let c : Fin 2 := if t = 16 then 0 else 1
    let s := each ce (fun w s => (s.onDram c fun d => { d with ce := satInc32 d.ce }).onXbar fun x => { x with
      badCe := x.badCe.filter (· != w) }) s
    match bad with
    | some w => (some .ecc, dramUncorrectable c (8 * w) s)
    | none => (none, s)
  else
    let number (w : Nat) : Nat := if t.val < 16 then 8 * w / bankBytes else (8 * w - secureBase) / 0x10000
    let s := each ce (fun w s => bankCorrected (number w) w s) s
    match bad with
    | some w => (some .ecc, bankUncorrectable (8 * w) s)
    | none => (none, s)

/-- Words that a write covers whole take fresh ECC. -/
def healed (addr : Nat) (bs : List (Option Byte)) (bad : List Nat) : List Nat :=
  bad.filter (fun w => !(decide (addr ≤ 8 * w) && decide (8 * w + 8 ≤ addr + bs.length)
    && (slice' bs (8 * w - addr)).all Option.isSome))
where
  slice' (bs : List (Option Byte)) (o : Nat) : List (Option Byte) := (bs.drop o).take 8

def memWrite (addr : Nat) (bs : List (Option Byte)) (s : State) : State :=
  let s := { s with mem := s.mem.putStrobed addr bs }
  s.onXbar fun x => { x with badCe := healed addr bs x.badCe, badUe := healed addr bs x.badUe }

/-- The 32-bit words of a byte string with strobes; a word with a strobe off is none. -/
def strobedWords : List (Option Byte) → List (Option Word)
  | some a :: some b :: some c :: some d :: t => some (w32 (leNat [a, b, c, d])) :: strobedWords t
  | _ :: _ :: _ :: _ :: t => none :: strobedWords t
  | _ => []

/-- Free words for memories whose layout the spec does not give (assumption 14). -/
def freeBytes : Nat → State → List Byte × State
  | 0, s => ([], s)
  | n + 1, s =>
    let f := s.fresh
    let t := freeBytes n f.2
    (leBytes 4 (Config.bankView f.1).toNat ++ t.1, t.2)

/-- A read at the island target: BAR0, an engine's X, Y and C memories, the send tables in fabric memory (R216), or a memory
of unknown layout. -/
def islandRead (addr len : Nat) (s : State) : List Byte × State :=
  if addr < 0x44000000 then
    let r := readRegs (addr - 0x40000000) (ceilDiv len 4) s
    ((bytesOfWords r.1).take len, r.2)
  else if addr < 0x61800000 ∧ addr % 0x100000 < 0xA0000 then (s.mem.getN addr len, s)
  else
    let t := if (0x78000000 ≤ addr) ∧ addr < 0x78400000 then ((s.tableBytes.take fabricSize).drop (addr - 0x78000000)).take len else []
    let f := freeBytes (ceilDiv (len - t.length) 4) s
    (t ++ f.1.take (len - t.length), f.2)

def islandWrite (addr : Nat) (bs : List (Option Byte)) (s : State) : State :=
  if addr < 0x44000000 then
    each (strobedWords bs).zipIdx (fun p s => match p.1 with
      | some w => writeReg (addr - 0x40000000 + 4 * p.2) w s
      | none => s) s
  else if addr < 0x61800000 ∧ addr % 0x100000 < 0xA0000 then { s with mem := s.mem.putStrobed addr bs }
  else if 0x78000000 ≤ addr ∧ addr < 0x78400000 then writeTables (addr - 0x78000000) bs s
  else s

/-- A read that is admitted, at any target but the remote windows. -/
def targetRead (t : Fin 21) (addr len : Nat) (s : State) : XResp × State :=
  if t = 19 then let r := islandRead addr len s; (.okay r.1, r.2)
  else
    let e := eccRead t addr len s
    match e.1 with
    | some c => (.error c, e.2)
    | none => (.okay (s.mem.getN addr len), e.2)

def targetWrite (t : Fin 21) (addr : Nat) (bs : List (Option Byte)) (s : State) : State :=
  if t = 19 then islandWrite addr bs s else memWrite addr bs s

/-! ## Requests (R393, R397, R412) -/

/-- Change the first transaction of a list that satisfies a test. -/
def onFirst (p : XOut → Bool) (f : XOut → XOut) : List XOut → List XOut
  | [] => []
  | o :: t => if p o then f o :: t else o :: onFirst p f t

/-- An access touches a 64-byte unit for which a write burst of the same master has still to deliver its beat. -/
def XOut.holds (o : XOut) (addr len : Nat) : Bool :=
  o.beats != 0 && decide (o.stop - 64 * o.beats < addr + len) && decide (addr < o.stop)

/-- The crossbar takes a request of a master: it is not fenced, holds fewer than 16 outstanding, and no write burst of its own has
still to write where the request goes (R397, R399; assumption 249). -/
def State.xTakes (s : State) (m : Fin 37) (addr len : Nat) : Bool :=
  !s.xbar.fenced.getLsbD m.val && decide ((s.mine m).length < 16) && !(s.mine m).any (fun o => o.holds addr len)

def xAppend (o : XOut) (s : State) : State := s.onXbar fun x => { x with
  outstanding := x.outstanding ++ [o]
  parked := match o.target with
    | some t => upd x.parked t (fun _ => o.master)
    | none => x.parked }

/-- A request ends in an ERROR. -/
def xFail (m : Fin 37) (id : Fin 16) (addr : BitVec 40) (len : Nat) (write : Bool) (c : XCause) (s : State) : State :=
  xAppend { master := m, id := id, addr := addr, target := targetOf addr.toNat, write := write, beats := 0, resp := some (.error c) }
    (xRefuse m addr.toNat len c s)

/-- The lane on which a remote access leaves, and which brings its response (R444). -/
def State.outLane (s : State) (t : Fin 21) (a : Nat) : Option (Fin 4) := if t = 20 then (s.windowLanes a).head? else none

/-- A WINDOW frame leaves for the peer on its first lane in service. -/
def sendWindow (a : Nat) (m : WinMsg) (s : State) : State :=
  match s.windowLanes a with
  | [] => s
  | l :: _ => laneSend l (.window m) s

/-- A read at its target: the response, or none while a peer has still to answer, and the state after. -/
def xServeRead (m : Fin 37) (t : Fin 21) (addr len : Nat) (s : State) : Option XResp × State :=
  if t = 20 then (none, sendWindow addr (.readReq (BitVec.ofNat 27 addr) len) s)
  else
    let r := targetRead t addr len s
    match r.1 with
    | .error c => (some r.1, xError m addr c r.2)
    | .okay _ => (some r.1, r.2)

/-- A write at its target. -/
def xServeWrite (t : Fin 21) (addr : Nat) (bs : List (Option Byte)) (s : State) : State :=
  if t = 20 then sendWindow addr (.writeReq (BitVec.ofNat 27 addr) bs) s else targetWrite t addr bs s

/-- An atomic on a word of a shared bank: the old word, or an ERROR where it cannot be read (R402). -/
def bankAtomic (op : Nat) (addr : Nat) (operand : Word) (s : State) : XResp × State :=
  match targetOf addr with
  | none => (.error .decode, s)
  | some t =>
    let e := eccRead t addr 4 s
    match e.1 with
    | some c => (.error c, e.2)
    | none =>
      let old := s.mem.word addr
      (.okay (leBytes 4 old.toNat), { e.2 with mem := e.2.mem.putN addr (leBytes 4 (atomicWord op old operand).toNat) })

/-- An atomic served: its response, with an ERROR recorded. -/
def xServeAtomic (m : Fin 37) (op addr : Nat) (operand : Word) (s : State) : XResp × State :=
  let v := bankAtomic op addr operand s
  match v.1 with
  | .error c => (v.1, xError m addr c v.2)
  | .okay _ => v

/-! ### Requests that meet at a bank (R400) -/

/-- The class of a master (R391). -/
def masterClass (m : Fin 37) : Nat :=
  if m.val < 24 then 0 else if m.val = 24 then 1 else if m.val < 29 then 2 else if m.val < 33 then 3 else 4

def BankReq.bank (r : BankReq) : Nat := r.addr.toNat / bankBytes

/-- A request is served before another in the same cycle: one that has lost 8 times in a row before any that has not, the
lower master first; else the higher class, and within a class the lower master. -/
def BankReq.before (a b : BankReq) : Bool :=
  if 8 ≤ a.lost ∨ 8 ≤ b.lost then decide (8 ≤ a.lost) && (decide (b.lost < 8) || decide (a.master < b.master))
  else decide (masterClass a.master < masterClass b.master) || (masterClass a.master == masterClass b.master && decide (a.master < b.master))

/-- A write whose strobes cover some 64-bit word in part. -/
def partialWrite (addr : Nat) (bs : List (Option Byte)) : Bool :=
  let padded := List.replicate (addr % 8) none ++ bs ++ List.replicate ((8 - (addr + bs.length) % 8) % 8) none
  (List.range (padded.length / 8)).any fun i =>
    let w := (padded.drop (8 * i)).take 8
    w.any Option.isSome && w.any Option.isNone

/-- Cycles for which a request occupies its bank (R400); a burst takes one a beat (DESIGN CHOICE, assumption 219). -/
def BankReq.cycles (r : BankReq) : Nat :=
  match r.op with
  | .read len => max 1 (ceilDiv len 64)
  | .write bs => if partialWrite r.addr.toNat bs then 2 else 1
  | .atomic _ _ => 2

/-- A request takes effect at its bank, and its transaction has its response. -/
def bankServe (r : BankReq) (s : State) : State :=
  let a := r.addr.toNat
  let t : Fin 21 := (targetOf a).getD 0
  let v : Option XResp × State := match r.op with
    | .read len => xServeRead r.master t a len s
    | .write bs => (some (.okay []), xServeWrite t a bs s)
    | .atomic op x => let v := xServeAtomic r.master op a x s; (some v.1, v.2)
  let mine (o : XOut) : Bool := o.master == r.master && o.id == r.id && o.addr == r.addr && o.resp.isNone && o.beats == 0
  v.2.onXbar fun x => { x with outstanding := onFirst mine (fun o => { o with resp := v.1 }) x.outstanding }

/-- A bank serves what waits at it in the cycles before `upTo`, or all of it, at most `fuel` requests (R400). -/
def serveBank (b : Nat) (upTo : Option Nat) : Nat → State → State
  | 0, s => s
  | fuel + 1, s =>
    match s.xbar.bankQ.filter (fun r => r.bank == b) with
    | [] => s
    | q :: rest =>
      let c := max (agetD s.xbar.bankFree b 0) (rest.foldl (fun n r => min n r.since) q.since)
      if upTo.any (fun u => decide (u ≤ c)) then s
      else
        let ready := (q :: rest).filter (fun r => decide (r.since ≤ c))
        let w := ready.foldl (fun x r => if r.before x then r else x) (ready.headD q)
        let s := s.onXbar fun x => { x with
          bankQ := mapIf (fun r => r.bank == b && decide (r.since ≤ c)) (fun r => { r with lost := r.lost + 1 }) (x.bankQ.erase w)
          bankFree := aset x.bankFree b (c + w.cycles) }
        serveBank b upTo fuel (bankServe w s)

/-- The banks serve the cycles before one; with none, all that waits, and the count of cycles starts anew. -/
def settleBanks (upTo : Option Nat) (s : State) : State :=
  let s := each (s.xbar.bankQ.map BankReq.bank).eraseDups (fun b s => serveBank b upTo s.xbar.bankQ.length s) s
  if upTo.isNone then s.onXbar fun x => { x with bankFree := [] } else s

/-- A request of a shared bank that may meet others waits at it (R400); any other is served as it comes. -/
def competes (t : Fin 21) (cycle : Option Nat) : Option Nat := if t.val < 16 then cycle else none

/-- A request joins those at its bank. -/
def bankJoin (m : Fin 37) (id : Fin 16) (addr : BitVec 40) (write : Bool) (op : BankOp) (c : Nat) (s : State) : State :=
  (xAppend { master := m, id := id, addr := addr, target := targetOf addr.toNat, write := write, beats := 0, resp := none } s).onXbar
    fun x => { x with bankQ := x.bankQ ++ [{ master := m, id := id, addr := addr, op := op, since := c, lost := 0 }] }

/-- A read reaches the crossbar. -/
def xRead (r : XRead) (s : State) : State :=
  let s := settleBanks r.cycle s
  let a := r.addr.toNat
  if !s.xTakes r.master a r.len then s
  else
    match s.xRefusal r.master.val a r.len false false, targetOf a with
    | some c, _ => xFail r.master r.id r.addr r.len false c s
    | none, none => s
    | none, some t =>
      match competes t r.cycle with
      | some c => bankJoin r.master r.id r.addr false (.read r.len) c s
      | none =>
        let v := xServeRead r.master t a r.len s
        xAppend { master := r.master, id := r.id, addr := r.addr, target := some t, write := false, beats := 0, resp := v.1
                  lane := s.outLane t a } v.2

/-- XBAR_READ (R393). -/
def execXbarRead (r : XRead) (s : State) : Host.Outcome State Fault Refusal := .next (xRead r s)

/-- More beats of a burst in progress. -/
def xMore (r : XWrite) (o : XOut) (s : State) : State :=
  match o.target with
  | none => s
  | some t =>
    let give := min o.beats (r.bytes.length / 64)
    let left := o.beats - give
    let s := xServeWrite t (r.addr.toNat + (r.len - 64 * o.beats)) (r.bytes.take (64 * give)) s
    let next (p : XOut) : XOut := { p with beats := left, resp := if left = 0 then some (.okay []) else none }
    s.onXbar fun x => { x with outstanding := onFirst (fun p => p == o) next x.outstanding }

/-- A new write: a single beat whole, which may meet others at its bank, or the beats of a burst that come with it. -/
def xNew (r : XWrite) (t : Fin 21) (s : State) : State :=
  let burst := decide (64 < r.len)
  let give := if burst then 64 * (min (r.bytes.length / 64) (r.len / 64)) else min r.len r.bytes.length
  let left := if burst && t != 20 then r.len / 64 - give / 64 else 0
  match if burst then none else competes t r.cycle with
  | some c => bankJoin r.master r.id r.addr true (.write (r.bytes.take give)) c s
  | none =>
    let s := xServeWrite t r.addr.toNat (r.bytes.take give) s
    xAppend { master := r.master, id := r.id, addr := r.addr, target := some t, write := true, beats := left
              resp := if left = 0 ∧ t ≠ 20 then some (.okay []) else none
              lane := s.outLane t r.addr.toNat, stop := if burst then r.addr.toNat + r.len else 0 } s

/-- A write reaches the crossbar; a burst meets no other request at its bank (assumption 219). -/
def xWrite (r : XWrite) (s : State) : State :=
  let s := settleBanks (if 64 < r.len then none else r.cycle) s
  let a := r.addr.toNat
  match (s.mine r.master).find? (fun o => o.id == r.id && o.addr == r.addr && o.write && o.beats != 0) with
  | some o => xMore r o s
  | none =>
    if !s.xTakes r.master a r.len then s
    else
      match s.xRefusal r.master.val a r.len true false, targetOf a with
      | some c, _ => xFail r.master r.id r.addr r.len true c s
      | none, none => s
      | none, some t => xNew r t s

/-- XBAR_WRITE (R393). -/
def execXbarWrite (r : XWrite) (s : State) : Host.Outcome State Fault Refusal := .next (xWrite r s)

/-- An atomic reaches the crossbar. -/
def xAtomic (op : Nat) (r : XAtomic) (s : State) : State :=
  let s := settleBanks r.cycle s
  let a := r.addr.toNat
  if !s.xTakes r.master a 4 then s
  else
    match s.xRefusal r.master.val a 4 true true with
    | some c => xFail r.master r.id r.addr 4 true c s
    | none =>
      match r.cycle with
      | some c => bankJoin r.master r.id r.addr true (.atomic op r.operand) c s
      | none =>
        let v := xServeAtomic r.master op a r.operand s
        xAppend { master := r.master, id := r.id, addr := r.addr, target := targetOf a, write := true, beats := 0, resp := some v.1 } v.2

/-- ADD_WRAP (R402). -/
def execAddWrap (r : XAtomic) (s : State) : Host.Outcome State Fault Refusal := .next (xAtomic 1 r s)

/-- ADD_SAT (R402). -/
def execAddSat (r : XAtomic) (s : State) : Host.Outcome State Fault Refusal := .next (xAtomic 2 r s)

/-- SWAP (R402). -/
def execSwap (r : XAtomic) (s : State) : Host.Outcome State Fault Refusal := .next (xAtomic 3 r s)

/-! ## Responses and timeouts (R394, R398, R401, R412, R413) -/

/-- The transaction of an id whose response is delivered next: the oldest at its target, and it has its response (R398). -/
def State.xNext (s : State) (m : Fin 37) (id : Fin 16) : Option XOut :=
  let mine := (s.mine m).filter (fun o => o.id == id)
  mine.find? (fun o => o.resp.isSome && o.beats == 0 && (mine.find? (fun p => p.target == o.target)) == some o)

/-- A response is delivered, or discarded under a fence. -/
def xRespond (m : Fin 37) (id : Fin 16) (s : State) : State :=
  let s := settleBanks none s
  match s.xNext m id with
  | none => s
  | some o =>
    let s := s.onXbar fun x => { x with outstanding := x.outstanding.erase o }
    if s.xbar.fences.any (fun f => f.1 == m) then
      endDrain m (s.onXbar fun x => { x with fences := x.fences.map (fun f => if f.1 = m then (f.1, f.2.1, f.2.2.1, f.2.2.2 + 1) else f) })
    else s.onXbar fun x => { x with delivered := (m, id, o.resp.getD (.okay [])) :: x.delivered }

/-- XBAR_RESPONSE (R394). -/
def execXbarResponse (m : Fin 37) (id : Fin 16) (s : State) : Host.Outcome State Fault Refusal := .next (xRespond m id s)

/-- Give the oldest transaction that satisfies a test a response. -/
def answerFirst (p : XOut → Bool) (r : XResp) (s : State) : State :=
  s.onXbar fun x => { x with outstanding := onFirst p (fun q => { q with resp := some r }) x.outstanding }

/-- A target that has been silent is answered for with TIMEOUT (R401); the response that a peer still owes is discarded when it comes. -/
def xTimeout (t : Fin 21) (m : Fin 37) (s : State) : State :=
  let s := settleBanks none s
  let p (o : XOut) : Bool := o.master == m && o.target == some t && o.beats == 0
  match s.xbar.outstanding.find? p with
  | none => s
  | some o =>
    let late := if o.resp.isNone then o.lane.toList else []
    let s := s.onXbar fun x => { x with lateWin := x.lateWin ++ late }
    raise 0x4003 [v8 t.val, v8 m.val] (xError m o.addr.toNat .timeout (answerFirst p (.error .timeout) s))

/-- TARGET_TIMEOUT (R401). -/
def execTargetTimeout (t : Fin 21) (m : Fin 37) (s : State) : Host.Outcome State Fault Refusal := .next (xTimeout t m s)

/-- The rest of a write burst is completed with strobes off (R413). -/
def burstTimeout (m : Fin 37) (s : State) : State :=
  match (s.mine m).find? (fun o => o.beats != 0) with
  | none => s
  | some o =>
    raise 0x4002 [v8 m.val] (s.onXbar fun x => { x with
      outstanding := onFirst (fun q => q == o) (fun q => { q with beats := 0, resp := some (.okay []) }) x.outstanding })

/-- BURST_TIMEOUT (R413). -/
def execBurstTimeout (m : Fin 37) (s : State) : Host.Outcome State Fault Refusal := .next (burstTimeout m s)

/-! ## Remote windows (R444) -/

/-- The local address of a window offset. -/
def windowAddr (ofs : Nat) : Nat := if ofs < 0x4000000 then ofs else 0x40000000 + (ofs - 0x4000000)

/-- The master that performs a peer's access (R391). -/
def windowMaster (l : Fin 4) : Fin 37 := if l.val < 2 then 27 else 28

/-- A peer's access, performed here: its response. -/
def windowServe (l : Fin 4) (ofs len : Nat) (bytes : Option (List (Option Byte))) (s : State) : WinMsg × State :=
  let m := windowMaster l
  let a := windowAddr ofs
  let fail (c : XCause) (s : State) : WinMsg × State := (.response (fin 8 c.code) [], s)
  if !windowTakes ofs len bytes.isSome then fail .denied (xError m a .denied s)
  else
    match s.xRefusal m.val a len bytes.isSome false, targetOf a with
    | some c, _ => fail c (xRefuse m a len c s)
    | none, none => fail .decode s
    | none, some t =>
      match bytes with
      | some bs => (.response 0 [], targetWrite t a bs s)
      | none =>
        let v := targetRead t a len s
        match v.1 with
        | .okay d => (.response 0 d, v.2)
        | .error c => fail c (xError m a c v.2)

/-- A response from the peer answers the oldest remote access that waits for the lane, unless it comes too late (R401). -/
def windowResponse (l : Fin 4) (cause : Nat) (bytes : List Byte) (s : State) : State :=
  let p (o : XOut) : Bool := o.target == some 20 && o.resp.isNone && o.lane == some l
  if s.xbar.lateWin.contains l then s.onXbar fun x => { x with lateWin := x.lateWin.erase l }
  else if cause = 0 then answerFirst p (.okay bytes) s
  else
    match s.xbar.outstanding.find? p with
    | none => s
    | some o => xError o.master o.addr.toNat (causeOf cause) (answerFirst p (.error (causeOf cause)) s)

def receiveWindow (l : Fin 4) (m : WinMsg) (s : State) : State :=
  if (s.lane l).isUp then
    let s := settleBanks none (laneRx l s)
    match m with
    | .readReq ofs len => let v := windowServe l ofs.toNat len none s; laneSend l (.window v.1) v.2
    | .writeReq ofs bytes => let v := windowServe l ofs.toNat bytes.length (some bytes) s; laneSend l (.window v.1) v.2
    | .response c bytes => windowResponse l c.val bytes s
  else s

/-- WINDOW (R444). -/
def execWindow (l : Fin 4) (m : WinMsg) (s : State) : Host.Outcome State Fault Refusal := .next (receiveWindow l m s)

end Sys2Proof.Machine
end

