-- ==== Sys2Proof/Machine/Mailbox.lean ====
section
/-! DEFINITION. The mailbox (R555 to R564): its slots and two queues, how a command ends, and the commands that concern
power, images, the boot flash and parameters. -/

namespace Sys2Proof.Machine

/-! ## Slots and queues (R555, R557, R568) -/

/-- A slot of the PCIe ring at MB_HEAD, or an SPI slot. -/
inductive MbRef where
  | ring
  | spi (k : Fin 16)
  deriving DecidableEq, Repr

/-- What a command reads: its arguments, the 48 data bytes, and the 64 bytes of its extension (none: empty). -/
structure MbCall where
  a0   : Word
  a1   : Word
  data : List Byte
  ext  : List Byte
  deriving DecidableEq, Repr

/-- What a command leaves: its status, what its slot then holds, and the state. -/
structure MbAns where
  status : Byte
  a0     : Word
  a1     : Word
  data   : List Byte
  after  : State
  deriving DecidableEq, Repr

def MbCall.ends (c : MbCall) (st : Byte) (s : State) : MbAns := { status := st, a0 := c.a0, a1 := c.a1, data := c.data, after := s }

def MbCall.endsWith (c : MbCall) (r : Byte × State) : MbAns := c.ends r.1 r.2

/-- A command that returns words in its arguments and bytes at the head of its data. -/
def MbCall.gives (c : MbCall) (a0 a1 : Word) (bytes : List Byte) (s : State) : MbAns :=
  { status := stOk, a0 := a0, a1 := a1, data := putAt c.data 0 bytes, after := s }

def MbCall.addr (c : MbCall) : BitVec 64 := BitVec.ofNat 64 (leAt c.data 0 8)

/-- The 64 bytes of a ring slot by its free-running index. -/
def State.ringSlot (s : State) (i : Nat) : List Byte := s.host.ring.getN (64 * (i % 256)) 64

def State.spiSlot (s : State) (k : Nat) : List Byte := s.host.spi.getN (64 * (k % 16)) 64

/-- The command that the supervisors take next: the ring and the SPI queue give one each in turn while both hold one. -/
def State.mbFront (s : State) : Option MbRef :=
  let ring := s.host.enable && s.host.head != s.host.tail
  if s.power.state.val < 2 then none
  else
    match s.host.spiQ with
    | [] => if ring then some .ring else none
    | k :: _ => if ring && !s.host.lastRing then some .ring else some (.spi k)

def State.mbSlot (s : State) : MbRef → List Byte
  | .ring => s.ringSlot s.host.head.toNat
  | .spi k => s.spiSlot k.val

/-- The slot number that HOST_BAD_COMMAND records. -/
def State.mbNumber (s : State) : MbRef → Nat
  | .ring => s.host.head.toNat % 256
  | .spi k => k.val

/-- An extension slot holds opcode 0xFF and state 1, and has been submitted. -/
def State.mbExt (s : State) (r : MbRef) : Option (List Byte) :=
  let ok (there : Bool) (b : List Byte) : Option (List Byte) := if there && b.take 2 == [0xFF, 1] then some b else none
  match r with
  | .ring => ok (s.host.head + 1 != s.host.tail) (s.ringSlot (s.host.head.toNat + 1))
  | .spi k => ok (s.host.spiQ.contains (k + 1)) (s.spiSlot (k.val + 1))

/-- Opcodes of the command catalogue (R564). -/
def mbOpcodes : List Nat :=
  [0x01, 0x02, 0x03, 0x10, 0x11, 0x12, 0x13, 0x14, 0x20, 0x21, 0x22, 0x30, 0x31, 0x32, 0x33, 0x34, 0x35, 0x40, 0x41, 0x42, 0x43,
   0x50, 0x51, 0x52, 0x53, 0x54, 0x55, 0x56, 0x57, 0x58, 0x59, 0x60, 0x61, 0x62, 0x63, 0x70, 0x71, 0x72, 0x80, 0x81, 0x82]

/-- The opcode and the operands of a slot; none where R560 completes it with BAD_OPCODE. -/
def State.mbCall (s : State) (r : MbRef) : Option (Nat × MbCall) :=
  let b := s.mbSlot r
  let op := leAt b 0 1
  let call (ext : List Byte) : Nat × MbCall :=
    (op, { a0 := w32 (leAt b 8 4), a1 := w32 (leAt b 12 4), data := slice b 16 48, ext := ext })
  if leAt b 1 1 ≠ 1 || !mbOpcodes.contains op then none
  else if leAt b 3 1 / 2 % 2 = 1 then (s.mbExt r).map call
  else some (call [])

/-! ## How a command ends (R557, R560, R561) -/

/-- Write the results, then the status, then state 2. -/
def slotResult (at_ : Nat) (a : MbAns) (m : Mem) : Mem :=
  let m := m.putN (at_ + 8) (leBytes 4 a.a0.toNat ++ leBytes 4 a.a1.toNat ++ a.data.take 48)
  (m.put (at_ + 2) a.status).put (at_ + 1) 2

/-- HOST_BAD_COMMAND, at most once per second for both codes together (R560). -/
def badCommand (op slot : Nat) (s : State) : State :=
  if due s.host.badAt Config.tick s.now then raise 0xE001 [v8 op, v8 slot] (s.onHost fun h => { h with badAt := some s.now }) else s

/-- A command completes: its slot is DONE, its queue moves on, and its interrupt is signalled (R557, R553, R568). -/
def mbFinish (r : MbRef) (extended : Bool) (a : MbAns) (s : State) : State :=
  let flags := leAt (s.mbSlot r) 3 1
  let op := leAt (s.mbSlot r) 0 1
  let t := if a.status = stBadOpcode ∨ a.status = stBadArg then badCommand op (s.mbNumber r) a.after else a.after
  match r with
  | .ring =>
    let t := t.onHost fun h => { h with
      ring := slotResult (64 * (s.host.head.toNat % 256)) a h.ring, head := h.head + (if extended then 2 else 1), lastRing := true }
    if flags % 2 = 1 then msixSignal 0 t else t
  | .spi k =>
    t.onHost fun h => { h with
      spi := slotResult (64 * k.val) a h.spi
      spiQ := h.spiQ.filter (fun j => j != k && !(extended && j == k + 1)), lastRing := false }

/-- Commands that SLEEP accepts (R561). -/
def mbSleeps (op : Nat) : Bool := [0x01, 0x02, 0x03, 0x12, 0x21, 0x35, 0x43, 0x60, 0x80, 0x81, 0x82].contains op

/-- Commands that name a node, a slot, a port or a stream (R561): these need an image. -/
def mbNames (op : Nat) : Bool :=
  [0x20, 0x21, 0x22, 0x30, 0x31, 0x32, 0x33, 0x50, 0x51, 0x52, 0x53, 0x54, 0x55, 0x56, 0x57, 0x58, 0x59, 0x71, 0x72].contains op

def mbAmp (op : Nat) : Bool := [0x55, 0x56, 0x57, 0x58, 0x59].contains op

/-- The state of the part forbids a command (R561); a transition to SLEEP that is in progress forbids parameter writes (R503). -/
def State.mbForbidden (s : State) (op : Nat) : Bool :=
  (s.power.state == 2 && !mbSleeps op) || (s.power.moving == some 2 && (op == 0x20 || op == 0x22)) || (s.img.loaded.isNone && mbNames op) || (s.isCluster && mbAmp op)

/-- The command at the front, if it has this opcode. -/
def State.mbAt (s : State) (op : Nat) : Option (MbRef × MbCall) :=
  s.mbFront.bind (fun r => (s.mbCall r).bind (fun c => if c.1 = op then some (r, c.2) else none))

/-- Execute the command at the front, if it has this opcode. -/
def mbRun (op : Nat) (f : MbCall → State → MbAns) (s : State) : State :=
  match s.mbAt op with
  | none => s
  | some (r, c) => mbFinish r (!c.ext.isEmpty) (if s.mbForbidden op then c.ends stNotPermitted s else f c s) s

/-- A malformed slot at the front is completed with BAD_OPCODE. -/
def mbBad (s : State) : State :=
  match s.mbFront with
  | none => s
  | some r =>
    match s.mbCall r with
    | some _ => s
    | none =>
      let b := s.mbSlot r
      mbFinish r false
        { status := stBadOpcode, a0 := w32 (leAt b 8 4), a1 := w32 (leAt b 12 4), data := slice b 16 48, after := s } s

/-- BAD_OPCODE (R560). -/
def execBadOpcode (s : State) : Host.Outcome State Fault Refusal := .next (mbBad s)

/-- The command at the front has not completed within 100 ms: TIMEOUT, without effect. -/
def mbTimeout (s : State) : State :=
  match s.mbFront with
  | none => s
  | some r =>
    match s.mbCall r with
    | none => s
    | some (_, c) => mbFinish r (!c.ext.isEmpty) (c.ends stTimeout s) s

/-- MAILBOX_TIMEOUT (R559). -/
def execMailboxTimeout (s : State) : Host.Outcome State Fault Refusal := .next (mbTimeout s)

/-- A write of MB_TAIL (R557). -/
def tailWrite (v : Word) (s : State) : State :=
  let h := s.host
  if (h.tail - h.head).toNat ≤ (v - h.head).toNat ∧ (v - h.head).toNat ≤ 256 then s.onHost fun h => { h with tail := v }
  else raise 0xE002 [v32 v.toNat] (s.onHost fun h => { h with ringError := true })

/-- The host interface is powered. -/
def State.hostUp (s : State) : Bool := decide (2 ≤ s.power.state.val)

/-- MB_TAIL_WRITE (R557). -/
def execMbTailWrite (value : Word) (s : State) : Host.Outcome State Fault Refusal :=
  .next (s.when s.hostUp (tailWrite value))

/-! ## Power and images -/

/-- PING. -/
def mbPing (c : MbCall) (s : State) : MbAns := c.gives Config.plinthVersion s.pwrStatus [] s

/-- PING (R564). -/
def execMbPing (s : State) : Host.Outcome State Fault Refusal := .next (mbRun 0x01 mbPing s)

def mbPwrSet (c : MbCall) (s : State) : MbAns :=
  if 4 < c.a0.toNat then c.ends stBadArg s else c.endsWith (pwrTarget c.a0.toNat s)

/-- PWR_SET (R499, R500). -/
def execMbPwrSet (s : State) : Host.Outcome State Fault Refusal := .next (mbRun 0x02 mbPwrSet s)

def mbReset (c : MbCall) (s : State) : MbAns := c.ends (if c.a0 = 0xA5A5 then stOk else stBadArg) s

/-- RESET (R564): OK, then a HOST reset. -/
def execMbReset (s : State) : Host.Outcome State Fault Refusal :=
  let t := mbRun 0x03 mbReset s
  .next (match s.mbAt 0x03 with
    | some (_, c) => if c.a0 = 0xA5A5 then hostReset t else t
    | none => t)

/-- A load or verify, as a write of SYS_IMG_CTL; source 3 takes its address from the data. The registers take the request also
where it is then refused: the spec does not say (DESIGN CHOICE, assumption 217). -/
def mbImage (verify : Bool) (c : MbCall) (s : State) : MbAns :=
  if 3 < c.a0.toNat then c.ends stBadArg s
  else
    let src : Fin 4 := fin 4 c.a0.toNat
    let s := if src = 3 then s.onImg (fun m => { m with hostAddr := BitVec.ofNat 64 (c.addr.toNat / 8 * 8) }) else s
    let s := s.onImg fun m => { m with ctlSource := BitVec.ofNat 2 src.val, ctlVerify := verify }
    c.endsWith (imgRequest verify src s.img.hostAddr s)

/-- IMG_LOAD (R77). -/
def execMbImgLoad (s : State) : Host.Outcome State Fault Refusal := .next (mbRun 0x10 (mbImage false) s)

/-- IMG_VERIFY (R78). -/
def execMbImgVerify (s : State) : Host.Outcome State Fault Refusal := .next (mbRun 0x11 (mbImage true) s)

def mbImgStatus (c : MbCall) (s : State) : MbAns := c.gives s.imgStatus s.img.detail (leBytes 8 s.buildId) s

/-- IMG_STATUS (R564). -/
def execMbImgStatus (s : State) : Host.Outcome State Fault Refusal := .next (mbRun 0x12 mbImgStatus s)

/-- The minimum serial as the writes that wait leave it. -/
def State.heldSerial (s : State) : Word :=
  let pick (v : Word) (w : NvWrite) : Word := match w with
    | .cfg (.minSerial x) => x
    | _ => v
  (s.ao.nvBusy.toList ++ s.ao.nvQueue).foldl pick s.cfg.minSerial

def mbMinSerial (c : MbCall) (s : State) : MbAns :=
  if s.power.state ≠ 3 then c.ends stNotPermitted s
  else if c.a0.toNat < s.heldSerial.toNat then c.ends stBadArg s
  else c.ends stOk (nvAsk (.cfg (.minSerial c.a0)) s)

/-- IMG_MIN_SERIAL (R74). -/
def execMbImgMinSerial (s : State) : Host.Outcome State Fault Refusal := .next (mbRun 0x13 mbMinSerial s)

/-! ## The boot flash (R569, R572) -/

/-- Bytes of a flash target. -/
def flashRoom (target : Nat) : Nat := if target < 3 then 0x4000000 else if target < 5 then 0x400000 else 32

/-- Load steps 1 to 5 on an image that is to be written. -/
def imageAuthentic (env : ChkEnv) (content : List Byte) : Bool :=
  let bs := if content.length < 128 then content else content.take (max 128 (hdrSize content))
  decide (max 128 (hdrSize bs) ≤ bs.length) && [1, 2, 3, 4, 5].all (fun k => (checkStep env bs k).isOk)

/-- The checks before anything is erased. -/
def State.flashPasses (s : State) (target : Nat) (content : List Byte) : Bool :=
  if target < 3 then imageAuthentic s.chkEnv content
  else if target < 5 then Config.plinthPasses content
  else dramBlockOk content

/-- A flash target holds these bytes: none while it is invalid. -/
def flashPut (target : Nat) (bs : List Byte) (s : State) : State :=
  let f := s.flash
  { s with flash :=
      if target < 3 then { f with images := putN f.images target bs }
      else if target < 5 then { f with plinth := putN f.plinth (target - 3) bs }
      else { f with dram := Vector.replicate 2 bs } }

/-- The golden image may be written (R572). -/
def LcState.mayGold : LcState → Bool
  | .blank => true
  | .develop => true
  | .production => false
  | .ret => false
  | .ended => false

def mbFlash (c : MbCall) (s : State) : MbAns :=
  let t := c.a0.toNat
  let len := c.a1.toNat
  if 5 < t then c.ends stBadArg s
  else if s.power.state.val < 3 || (t == 2 && !s.lcState.mayGold) then c.ends stNotPermitted s
  else if s.host.flUpd.isSome || s.img.req.isSome then c.ends stBusy s
  else
    let failed := c.ends stBadArg (s.onHost fun h => { h with flResult := stBadArg, flTarget := fin 6 t, flState := 7 })
    match s.hostMem.readAll c.addr.toNat (if flashRoom t < len then 0 else len) with
    | none => failed
    | some bs =>
      if bs.isEmpty || !s.flashPasses t bs then failed
      else c.ends stOk (flashPut t [] (s.onHost fun h => { h with
        flResult := stOk, flTarget := fin 6 t, flState := 2, flUpd := some { target := fin 6 t, content := bs } }))

/-- FLASH_UPDATE (R572). -/
def execMbFlashUpdate (s : State) : Host.Outcome State Fault Refusal := .next (mbRun 0x14 mbFlash s)

/-- An update ends; it pauses while braced. -/
def flashDone (ok : Bool) (s : State) : State :=
  match s.host.flUpd with
  | none => s
  | some u =>
    if s.power.braced then s
    else if ok then
      raise 0xE008 [v8 u.target.val] (flashPut u.target.val u.content (s.onHost fun h => { h with flState := 6, flUpd := none }))
    else
      let k := s.fresh
      let phase := s.flashPhase
      raise 0xE009 [v8 u.target.val, v8 phase]
        (k.2.onHost fun h => { h with flResult := Config.flashResult k.1, flState := 7, flUpd := none })

/-- FLASH_UPDATE_DONE (R572). -/
def execFlashUpdateDone (ok : Bool) (s : State) : Host.Outcome State Fault Refusal := .next (flashDone ok s)

/-! ## Parameters (R71, R72, R562, R563) -/

/-- The symbol that a zero-padded name gives. -/
def State.symbol (s : State) (name : List Byte) : Option SymRec :=
  ((s.img.loaded.map (·.symbols)).getD []).find? (fun y => y.name ++ zeroBytes (name.length - y.name.length) == name)

/-- The symbol of the data, if it names a parameter. -/
def State.paramSymbol (s : State) (c : MbCall) : Option (SymRec × ParamSt × NodeRec) :=
  match s.symbol c.data with
  | none => none
  | some y =>
    if paddrIndex y.paddr = 0 then none
    else match s.param? y.paddr, s.node? (paddrNode y.paddr) with
      | some q, some n => some (y, q, n)
      | _, _ => none

/-- A value of the comparison format of R598 as a number, and the word nearest to a number. -/
def PFormat.value (f : PFormat) (w : Word) : Int := if f = .signed then w.toInt else (w.toNat : Int)

def PFormat.nearest (f : PFormat) (v : Int) : Word :=
  if f = .signed then satWord v else BitVec.ofInt 32 (clampInt 0 4294967295 v)

/-- A value in a unit as a raw word (R72). -/
def toRaw (unit : Nat) (f : PFormat) (v : Word) : Option Word :=
  let db (one top : Nat) : Word :=
    if v.toInt ≤ -14400 then 0 else if (top : Int) < v.toInt then 0x7FFFFFFF else f.nearest (dbToLin one v.toInt : Nat)
  if unit = 1 then some (db 134217728 2408)
  else if unit = 2 then some (db 8388608 4816)
  else if unit = 5 then some (f.nearest (f.value v * 256))
  else if unit = 7 then (if v.toNat < 2 then some v else none)
  else some v

/-- A raw word in a unit (R563). -/
def fromRaw (unit : Nat) (f : PFormat) (raw : Word) : Word :=
  let db (mag one : Nat) : Word := if mag = 0 then BitVec.ofInt 32 (-14400) else BitVec.ofInt 32 (max (-14400) (dbOf mag one))
  if unit = 1 then db raw.toInt.natAbs 134217728
  else if unit = 2 then db raw.toInt.toNat 8388608
  else if unit = 5 then BitVec.ofInt 32 (rne (f.value raw) 256)
  else raw

/-- The position of a MUX. -/
def isPosition (n : NodeRec) (p : PAddr) : Bool := n.type == .mux && paddrIndex p == 1

def State.positionOk (s : State) (n : NodeRec) (v : Word) : Bool := Machine.positionOk ((s.img.loaded.map (·.muxLists)).getD []) n v

def mbParamSet (c : MbCall) (s : State) : MbAns :=
  match s.paramSymbol c with
  | none => c.ends stBadArg s
  | some (y, q, n) =>
    let f := s.formatOf y.paddr
    match toRaw y.unit f c.a0 with
    | none => c.ends stBadArg s
    | some raw =>
      let v := if isPosition n y.paddr then raw else pClamp f q.decl.min q.decl.max raw
      if c.a1 ≠ 0 || (isPosition n y.paddr && !s.positionOk n v) then c.ends stBadArg s
      else c.gives v y.paddr [] (acceptParam y.paddr v s)

/-- PARAM_SET (R562). -/
def execMbParamSet (s : State) : Host.Outcome State Fault Refusal := .next (mbRun 0x20 mbParamSet s)

def mbParamGet (c : MbCall) (s : State) : MbAns :=
  match s.paramSymbol c with
  | none => c.ends stBadArg s
  | some (y, q, _) =>
    let f := s.formatOf y.paddr
    c.gives (fromRaw y.unit f q.target) (fromRaw y.unit f q.value) (leBytes 4 q.target.toNat ++ leBytes 4 q.value.toNat) s

/-- PARAM_GET (R563). -/
def execMbParamGet (s : State) : Host.Outcome State Fault Refusal := .next (mbRun 0x21 mbParamGet s)

/-- A raw write: a MUX position that R59 refuses leaves the position and raises PARAM_RANGE. -/
def mbParamRaw (c : MbCall) (s : State) : MbAns :=
  match s.param? c.a1, s.node? (paddrNode c.a1) with
  | some q, some n =>
    if isPosition n c.a1 then
      if s.positionOk n c.a0 then c.ends stOk (acceptParam c.a1 c.a0 s) else c.ends stBadArg (rangeRefused c.a1 c.a0 s)
    else c.ends stOk (acceptParam c.a1 (pClamp (s.formatOf c.a1) q.decl.min q.decl.max c.a0) s)
  | _, _ => c.ends stBadArg s

/-- PARAM_SET_RAW (R59, R68, R564). -/
def execMbParamSetRaw (s : State) : Host.Outcome State Fault Refusal := .next (mbRun 0x22 mbParamRaw s)

end Sys2Proof.Machine
end

