-- ==== Sys2Proof/Machine/Catalogue.lean ====
section
/-! DEFINITION. The commands of the catalogue (R564) that concern scenes, placement, ports, modulators, timebases, meters
and records. -/

namespace Sys2Proof.Machine

/-! ## Scenes (R265 to R275) -/

/-- A command on a scene slot. -/
def onSlot (c : MbCall) (f : Fin 4 → State → MbAns) (s : State) : MbAns :=
  if 3 < c.a0.toNat then c.ends stBadArg s else f (fin 4 c.a0.toNat) s

def mbSceneLoad (c : MbCall) (s : State) : MbAns :=
  onSlot c (fun k s => c.endsWith (slotLoad k c.addr (some c.a1.toNat) s)) s

/-- SCENE_LOAD (R263, R289). -/
def execMbSceneLoad (s : State) : Host.Outcome State Fault Refusal := .next (mbRun 0x30 mbSceneLoad s)

/-- The parameters of the nodes from the first named to the last named; the last name is in the data of the extension. -/
def mbCapture (c : MbCall) (s : State) : MbAns :=
  onSlot c (fun k s =>
    match s.symbol c.data, s.symbol (slice c.ext 16 48) with
    | some a, some b =>
      let r := slotCapture k c.a1 (paddrOf (paddrNode a.paddr) 0x001) (paddrOf (paddrNode b.paddr) 0xEFF) s
      if r.1 = stOk then c.gives (w32 r.2.1) c.a1 [] r.2.2 else c.ends r.1 r.2.2
    | _, _ => c.ends stBadArg s) s

/-- SCENE_CAPTURE (R266, R289). -/
def execMbSceneCapture (s : State) : Host.Outcome State Fault Refusal := .next (mbRun 0x31 mbCapture s)

def mbSceneClear (c : MbCall) (s : State) : MbAns := onSlot c (fun k s => c.endsWith (slotClear k s)) s

/-- SCENE_CLEAR (R265). -/
def execMbSceneClear (s : State) : Host.Outcome State Fault Refusal := .next (mbRun 0x32 mbSceneClear s)

def mbCast (c : MbCall) (s : State) : MbAns :=
  onSlot c (fun k s =>
    let tb := leAt c.data 0 1
    let mode := leAt c.data 1 1
    let blk := leAt c.data 8 8
    if 3 < tb || 1 < mode || (mode == 0 && decide (2 ^ 48 ≤ blk)) then c.ends stBadArg s
    else
      let r := castAsk k (fin 4 tb) c.a1 (mode == 1) (BitVec.ofNat 48 blk) s
      if r.1 = stOk then c.gives (w32 r.2.1.toNat) c.a1 [] r.2.2 else c.ends r.1 r.2.2) s

/-- SCENE_CAST (R268, R289). -/
def execMbSceneCast (s : State) : Host.Outcome State Fault Refusal := .next (mbRun 0x33 mbCast s)

def mbCancel (c : MbCall) (s : State) : MbAns :=
  if 65535 < c.a0.toNat then c.ends stNotPermitted s else c.endsWith (castCancel (BitVec.ofNat 16 c.a0.toNat) s)

/-- SCENE_CANCEL (R275). -/
def execMbSceneCancel (s : State) : Host.Outcome State Fault Refusal := .next (mbRun 0x34 mbCancel s)

/-- Slot states, pending casts, slot ids and the last cast; bytes 20 to 23 of the data stay. -/
def mbSceneStatus (c : MbCall) (s : State) : MbAns :=
  let states : List (Nat × Nat) := (List.finRange 4).map (fun k => ((s.slotSt k).state.code, 2 * k.val))
  let ids : List Byte := (List.finRange 4).flatMap (fun k => leBytes 4 (s.slotId k).toNat)
  c.gives (packW ((s.castCount, 8) :: states)) c.a1
    (ids ++ leBytes 4 s.sceneLast.toNat ++ slice c.data 20 4 ++ leBytes 8 s.scene.lastBlk.toNat) s

/-- SCENE_STATUS (R564). -/
def execMbSceneStatus (s : State) : Host.Outcome State Fault Refusal := .next (mbRun 0x35 mbSceneStatus s)

/-! ## Placement (R101, R125, R135, R430) -/

def mbReplan (c : MbCall) (s : State) : MbAns := c.endsWith (hostReplan s)

/-- PLACE_REPLAN (R135). -/
def execMbPlaceReplan (s : State) : Host.Outcome State Fault Refusal := .next (mbRun 0x40 mbReplan s)

def mbFreeze (c : MbCall) (s : State) : MbAns :=
  if 1 < c.a0.toNat then c.ends stBadArg s else c.ends stOk (setFreeze (flag c.a0 0) s)

/-- PLACE_FREEZE (R101). -/
def execMbPlaceFreeze (s : State) : Host.Outcome State Fault Refusal := .next (mbRun 0x41 mbFreeze s)

def mbAdmit (c : MbCall) (s : State) : MbAns :=
  if 23 < c.a0.toNat then c.ends stBadArg s else c.endsWith (admitEngine (fin 24 c.a0.toNat) s)

/-- PLACE_ADMIT (R125, R135, R430). -/
def execMbPlaceAdmit (s : State) : Host.Outcome State Fault Refusal := .next (mbRun 0x42 mbAdmit s)

def mbPlaceStatus (c : MbCall) (s : State) : MbAns :=
  c.gives s.placerStatus s.placer.epoch (leBytes 4 s.engOut.toNat) s

/-- PLACE_STATUS (R564). -/
def execMbPlaceStatus (s : State) : Host.Outcome State Fault Refusal := .next (mbRun 0x43 mbPlaceStatus s)

/-! ## Serial ports and streams (R335, R341, R348, R386) -/

def mbSapStart (c : MbCall) (s : State) : MbAns :=
  let arm (p : Nat) (s : State) : State := s.onSap (fin 32 p) fun x => { x with arm := true }
  c.ends stOk (sapTriggers c.a0.toNat true (each (maskBits c.a0.toNat 32) arm s))

/-- SAP_START (R335). -/
def execMbSapStart (s : State) : Host.Outcome State Fault Refusal := .next (mbRun 0x50 mbSapStart s)

def mbSapStop (c : MbCall) (s : State) : MbAns := c.ends stOk (sapTriggers c.a0.toNat false s)

/-- SAP_STOP (R335). -/
def execMbSapStop (s : State) : Host.Outcome State Fault Refusal := .next (mbRun 0x51 mbSapStop s)

def mbSapMask (c : MbCall) (s : State) : MbAns := c.ends stOk (maskWrite' (fin 32 (fld c.a0 4 0)) (fin 4 (fld c.a0 9 8)) c.a1 s)

/-- SAP_MASK (R341, R342). -/
def execMbSapMask (s : State) : Host.Outcome State Fault Refusal := .next (mbRun 0x52 mbSapMask s)

def mbSapRestart (c : MbCall) (s : State) : MbAns :=
  if 31 < c.a0.toNat then c.ends stBadArg s
  else
    let p : Fin 32 := fin 32 c.a0.toNat
    if (s.sap p).state = .rateMismatch then c.ends stOk (sapRestart p s) else c.ends stNotPermitted s

/-- SAP_RESTART (R348). -/
def execMbSapRestart (s : State) : Host.Outcome State Fault Refusal := .next (mbRun 0x53 mbSapRestart s)

def mbStream (c : MbCall) (s : State) : MbAns :=
  if 1 < c.a1.toNat || 511 < c.a0.toNat then c.ends stBadArg s
  else
    let u : Fin 256 := fin 256 (fld c.a0 7 0)
    c.ends stOk (if flag c.a0 8 then stxEnable u (flag c.a1 0) s else srxEnable u (flag c.a1 0) s)

/-- STREAM_ENABLE (R386). -/
def execMbStreamEnable (s : State) : Host.Outcome State Fault Refusal := .next (mbRun 0x54 mbStream s)

/-! ## Amplifier modulators (R474, R479, R480, R485) -/

def mbAmpStart (c : MbCall) (s : State) : MbAns := c.ends stOk (ampTriggers (c.a0.toNat % 65536) true s)

/-- AMP_START (R474). -/
def execMbAmpStart (s : State) : Host.Outcome State Fault Refusal := .next (mbRun 0x55 mbAmpStart s)

def mbAmpStop (c : MbCall) (s : State) : MbAns := c.ends stOk (ampTriggers (c.a0.toNat % 65536) false s)

/-- AMP_STOP (R474). -/
def execMbAmpStop (s : State) : Host.Outcome State Fault Refusal := .next (mbRun 0x56 mbAmpStop s)

/-- A command on a modulator channel. -/
def onChannel (c : MbCall) (f : Fin 16 → State → MbAns) (s : State) : MbAns :=
  if 15 < c.a0.toNat then c.ends stBadArg s else f (fin 16 c.a0.toNat) s

def mbAmpClear (c : MbCall) (s : State) : MbAns :=
  onChannel c (fun k s =>
    let st := (s.amp k).state
    if st = .latched then c.ends stOk (clearLatch k s)
    else if st = .shutdown ∨ st = .testing then c.ends stOk (abortRetry k s)
    else c.ends stNotPermitted s) s

/-- AMP_CLEAR (R479, R480). -/
def execMbAmpClear (s : State) : Host.Outcome State Fault Refusal := .next (mbRun 0x57 mbAmpClear s)

def mbAmpDiag (c : MbCall) (s : State) : MbAns :=
  onChannel c (fun k s =>
    if 1 < c.a1.toNat then c.ends stBadArg s
    else if (s.amp k).state = .off then
      c.ends stOk (ampDiagWrite k (flag c.a1 0) (s.onAmp k fun a => { a with diagQuick := flag c.a1 0 }))
    else c.ends stNotPermitted s) s

/-- AMP_DIAG (R485). -/
def execMbAmpDiag (s : State) : Host.Outcome State Fault Refusal := .next (mbRun 0x58 mbAmpDiag s)

def mbDiagRead (c : MbCall) (s : State) : MbAns :=
  onChannel c (fun k s =>
    let a := s.amp k
    c.gives a.diagResult a.rmin (a.z.toList.flatMap (fun z => leBytes 4 z.toNat)) s) s

/-- AMP_DIAG_READ (R484, R564). -/
def execMbAmpDiagRead (s : State) : Host.Outcome State Fault Refusal := .next (mbRun 0x59 mbDiagRead s)

/-! ## Timebases and compare units (R296, R298, R304, R313) -/

/-- A command on a timebase. -/
def onTimebase (c : MbCall) (f : Fin 4 → State → MbAns) (s : State) : MbAns :=
  if 3 < c.a0.toNat then c.ends stBadArg s else f (fin 4 c.a0.toNat) s

def mbTbStatus (c : MbCall) (s : State) : MbAns :=
  onTimebase c (fun t s => c.gives (s.tbStatus t) c.a1 (leBytes 8 (s.tb t).offsetShown ++ leBytes 8 (s.tb t).blk.toNat) s) s

/-- TB_STATUS (R564). -/
def execMbTbStatus (s : State) : Host.Outcome State Fault Refusal := .next (mbRun 0x60 mbTbStatus s)

def mbTbJump (c : MbCall) (s : State) : MbAns :=
  onTimebase c (fun t s =>
    if 1 < c.a1.toNat then c.ends stBadArg s
    else if (s.tb t).state ≠ .refused || (s.tb t).follows.isSome then c.ends stNotPermitted s
    else c.ends stOk (if c.a1 = 0 then acceptJump t s else rejectJump t s)) s

/-- TB_JUMP (R304). -/
def execMbTbJump (s : State) : Host.Outcome State Fault Refusal := .next (mbRun 0x61 mbTbJump s)

def mbTbSource (c : MbCall) (s : State) : MbAns :=
  onTimebase c (fun t s =>
    let src := fld c.a1 2 0
    let idx := fld c.a1 12 8
    c.ends (if s.sourceOk t src idx then stOk else stBadArg) (selectSource t src idx s)) s

/-- TB_SOURCE (R296, R298). -/
def execMbTbSource (s : State) : Host.Outcome State Fault Refusal := .next (mbRun 0x62 mbTbSource s)

def mbCmpArm (c : MbCall) (s : State) : MbAns :=
  if 15 < c.a0.toNat then c.ends stBadArg s
  else
    let u : Fin 16 := fin 16 c.a0.toNat
    c.ends stOk (cmpArm u true (s.onCmp u fun x => { x with
      action := BitVec.ofNat 3 (fld c.a1 2 0), tb := fin 4 (fld c.a1 5 4), period := BitVec.ofNat 16 (fld c.a1 31 16)
      blk := BitVec.ofNat 48 (leAt c.data 0 8), mask := w32 (leAt c.data 8 4) }))

/-- CMP_ARM (R313, R316). -/
def execMbCmpArm (s : State) : Host.Outcome State Fault Refusal := .next (mbRun 0x63 mbCmpArm s)

/-! ## Meters, limiters and detectors (R224, R251, R253) -/

/-- Enable goes to 0, the ring takes its place and size, and then enable as commanded. -/
def mbMeterRing (c : MbCall) (s : State) : MbAns :=
  let ctl := c.a0 &&& 0x0FFF0000
  let s := meterCtlWrite ctl s
  let s := s.onEvt fun v => { v with mBase := BitVec.ofNat 64 (c.addr.toNat / 64 * 64), mLog2 := clampNat 12 24 c.a1.toNat }
  c.ends stOk (meterCtlWrite (ctl ||| (c.a0 &&& 1)) s)

/-- METER_RING (R251, R600). -/
def execMbMeterRing (s : State) : Host.Outcome State Fault Refusal := .next (mbRun 0x70 mbMeterRing s)

/-- The node of a type that the data name. -/
def State.namedNode (s : State) (c : MbCall) (t : NodeType) : Option NodeRec :=
  (s.symbol c.data).bind (fun y => (s.node? (paddrNode y.paddr)).bind (fun n => if n.type = t then some n else none))

def mbLimit (c : MbCall) (s : State) : MbAns :=
  match s.namedNode c .limit with
  | none => c.ends stBadArg s
  | some n =>
    match s.fabric.limits.find? (fun l => l.node == n.id) with
    | some l => c.gives (w32 l.gr) (w32 l.hold) [] s
    | none => c.gives 0 0 [] s

/-- LIMIT_GR (R224). -/
def execMbLimitGr (s : State) : Host.Outcome State Fault Refusal := .next (mbRun 0x71 mbLimit s)

def mbDetect (c : MbCall) (s : State) : MbAns :=
  match s.namedNode c .detect with
  | none => c.ends stBadArg s
  | some n =>
    let silent := ((s.procs.find? (fun p => p.node == n.id && !p.stopped)).map (·.silent)).getD false
    c.gives (w32 (b2n silent)) c.a1 [] s

/-- DETECT_STATE (R253). -/
def execMbDetectState (s : State) : Host.Outcome State Fault Refusal := .next (mbRun 0x72 mbDetect s)

/-! ## Records, health and life cycle -/

/-- The slots of consecutive sequences as they stand, up to the first that no slot holds (R525, R529). -/
def State.bbRun (s : State) : Nat → Nat → List (List Byte)
  | _, 0 => []
  | q, n + 1 =>
    match aget s.ao.bbSlots (q % bbSlotCount) with
    | some r => if r.seq.toNat = q then r.bytes :: State.bbRun s ((q + 1) % bbModulo) n else []
    | none => []

def mbBbRead (c : MbCall) (s : State) : MbAns :=
  if c.a1.toNat = 0 || 1024 < c.a1.toNat then c.ends stBadArg s
  else
    let recs := s.bbRun c.a0.toNat c.a1.toNat
    c.gives (w32 recs.length) c.a1 [] { s with hostMem := s.hostMem.store c.addr.toNat recs.flatten }

/-- BB_READ (R529). -/
def execMbBbRead (s : State) : Host.Outcome State Fault Refusal := .next (mbRun 0x80 mbBbRead s)

def mbHealth (c : MbCall) (s : State) : MbAns :=
  c.gives s.red.unitHealth s.pairStatus
    (leBytes 4 s.engOut.toNat ++ leBytes 4 (bitsW (s.engines.toList.map (·.suspect))).toNat) s

/-- HEALTH (R564). -/
def execMbHealth (s : State) : Host.Outcome State Fault Refusal := .next (mbRun 0x81 mbHealth s)

def mbLcStatus (c : MbCall) (s : State) : MbAns := c.gives s.lcStatus c.a1 [] s

/-- LC_STATUS (R564). -/
def execMbLcStatus (s : State) : Host.Outcome State Fault Refusal := .next (mbRun 0x82 mbLcStatus s)

end Sys2Proof.Machine
end

