-- ==== Sys2Proof/Machine/HostPort.lean ====
section
/-! DEFINITION. The host's ports: PCIe register writes, region windows and AtomicOps (R547 to R554), the link, and the SPI
slave (R565 to R568). -/

namespace Sys2Proof.Machine

/-! ## Refused requests (R551) -/

/-- A request that cannot be served is counted and logged; `answer`: 0 discarded, 1 UR, 2 CA. -/
def hostRefuse (reason answer bar ofs : Nat) (s : State) : State :=
  let hot := due s.host.refAt Config.tick s.now
  let s := s.onHost fun h => { h with
    refused := satInc32 h.refused, refReason := BitVec.ofNat 4 reason, refAnswer := BitVec.ofNat 2 answer
    refBar := BitVec.ofNat 3 bar, refAddr := w32 ofs, refAt := if hot then some s.now else h.refAt }
  raiseIf hot 0xE005 [v8 reason, v32 ofs] s

def answerHost (a : Completion) (s : State) : State := s.onHost fun h => { h with answer := some a }

/-! ## Register writes (R8, R549, R557) -/

/-- A write of a word of BAR2 beyond the ring: the ring registers, and the MSI-X table with its mask bits. -/
def bar2Word (ofs : Nat) (w : Word) (s : State) : State :=
  if ofs = 0x4000 then tailWrite w s
  else if ofs = 0x4008 then s.onHost fun h => { h with enable := flag w 0 }
  else if ofs = 0x400C then s.onHost fun h => { h with ringError := h.ringError && !flag w 0 }
  else if 0xF000 ≤ ofs ∧ ofs < 0xF400 then
    let s := s.onHost fun h => { h with ring := h.ring.putN ofs (leBytes 4 w.toNat) }
    if ofs % 16 = 12 then
      let v := (ofs - 0xF000) / 16
      msixRetry v (s.onEvt fun x => { x with msixMask := putBit x.msixMask v (flag w 0) })
    else s
  else s

def bar2Write (ofs : Nat) (bs : List Byte) (s : State) : State :=
  if ofs % 4 ≠ 0 || bs.length % 4 ≠ 0 || bs.isEmpty || ofs / 64 != (ofs + bs.length - 1) / 64 || 0x10000 ≤ ofs then hostRefuse 2 0 2 ofs s
  else if ofs < 0x4000 then s.onHost fun h => { h with ring := h.ring.putN ofs bs }
  else each (wordsOf bs).zipIdx (fun p s => bar2Word (ofs + 4 * p.2) p.1 s) s

def bar0Write (ofs : Nat) (bs : List Byte) (s : State) : State :=
  if 0x2800000 ≤ ofs then hostRefuse 1 0 0 ofs s
  else if ofs % 4 ≠ 0 ∨ bs.length ≠ 4 then hostRefuse 2 0 0 ofs s
  else writeReg ofs (w32 (leNat bs)) s

/-- REGISTER_WRITE (R8, R549). -/
def execRegisterWrite (bar : Bar) (offset : Nat) (data : List Byte) (s : State) : Host.Outcome State Fault Refusal :=
  .next (s.when s.hostUp (match bar with
    | .bar0 => bar0Write offset data
    | .bar2 => bar2Write offset data))

/-! ## Region windows (R550) -/

/-- The region of a window and the byte of it that an offset addresses. -/
def State.window (s : State) (w : Fin 64) (offset : BitVec 24) : Option (Nat × RegionRec × Nat) :=
  let x := s.host.wins.get w
  let r := fld x 15 0
  if flag x 31 then (s.region? r).map (fun rec => (r, rec, 0x1000000 * fld x 16 16 + offset.toNat)) else none

/-- Decrypted contents that no window shows (R76). -/
def State.hidden (s : State) (r : RegionRec) : Bool := (s.img.loaded.map (·.encrypted)).getD false && !r.init.isEmpty

/-- The parts of an access that lie within one 64-byte unit each: (offset, length), at most `n` units. -/
def chunksOf : Nat → Nat → Nat → List (Nat × Nat)
  | 0, _, _ => []
  | n + 1, o, len =>
    let here := min len (64 - o % 64)
    if len = 0 then [] else (o, here) :: chunksOf n (o + here) (len - here)

def chunks (o len : Nat) : List (Nat × Nat) := chunksOf (len / 64 + 2) o len

/-- A read at a memory address by master 33: the bytes, or an ERROR. -/
def busRead (a len : Nat) (s : State) : Option (List Byte) × State :=
  let base := a / 4 * 4
  let n := (a + len + 3) / 4 * 4 - base
  match s.xRefusal 33 base n false false, targetOf base with
  | some c, _ => (none, xRefuse 33 base n c s)
  | none, none => (none, s)
  | none, some t =>
    let r := targetRead t base n s
    match r.1 with
    | .okay bs => (some (slice bs (a - base) len), r.2)
    | .error c => (none, xError 33 base c r.2)

/-- A write at a memory address by master 33: whether it was taken. -/
def busWrite (a : Nat) (bs : List Byte) (s : State) : Bool × State :=
  let base := a / 4 * 4
  let n := (a + bs.length + 3) / 4 * 4 - base
  let strobed : List (Option Byte) :=
    List.replicate (a - base) none ++ bs.map some ++ List.replicate (n - (a - base) - bs.length) none
  match s.xRefusal 33 base n true false, targetOf base with
  | some c, _ => (false, xRefuse 33 base n c s)
  | none, none => (false, s)
  | none, some t => (true, targetWrite t base strobed s)

/-- A read of a region within one unit (R106, R110, R112). -/
def regionRead (node r o len : Nat) (s : State) : Option (List Byte) × State :=
  match s.readAddr none r o (s.route node r o none) with
  | some a => busRead a len s
  | none => (none, s)

/-- A write of a region within one unit, at every place that holds it. -/
def regionWrite (node r o : Nat) (bs : List Byte) (s : State) : Bool × State :=
  match s.writeAddrs none r o (s.route node r o none) with
  | [] => (false, s)
  | as => as.foldl (fun (p : Bool × State) a => let q := busWrite a bs p.2; (p.1 && q.1, soil a q.2)) (true, s)

def windowRead (node r o len : Nat) (s : State) : Option (List Byte) × State :=
  (chunks o len).foldl (fun (p : Option (List Byte) × State) u =>
    match p.1 with
    | none => p
    | some bs => let q := regionRead node r u.1 u.2 p.2; (q.1.map (bs ++ ·), q.2)) (some [], s)

def windowWrite (node r o : Nat) (bs : List Byte) (s : State) : Bool × State :=
  (chunks o bs.length).foldl (fun (p : Bool × State) u =>
    if p.1 then regionWrite node r u.1 (slice bs (u.1 - o) u.2) p.2 else p) (true, s)

/-- BAR4 offset of an access. -/
def bar4Offset (w : Fin 64) (offset : BitVec 24) : Nat := 0x1000000 * w.val + offset.toNat

def bar4Read (w : Fin 64) (offset : BitVec 24) (len : Nat) (s : State) : State :=
  let at_ := bar4Offset w offset
  match s.window w offset with
  | none => answerHost .ur (hostRefuse 3 1 4 at_ s)
  | some (r, rec, o) =>
    if rec.size < o + len then answerHost .ur (hostRefuse 3 1 4 at_ s)
    else if s.hidden rec then answerHost (.data (zeroBytes len)) s
    else
      let v := windowRead rec.owner r o len s
      match v.1 with
      | some bs => answerHost (.data bs) v.2
      | none => answerHost (.ca len) (hostRefuse 6 2 4 at_ v.2)

def bar4Write (w : Fin 64) (offset : BitVec 24) (bs : List Byte) (s : State) : State :=
  let at_ := bar4Offset w offset
  match s.window w offset with
  | none => hostRefuse 3 0 4 at_ s
  | some (r, rec, o) =>
    if rec.size < o + bs.length then hostRefuse 3 0 4 at_ s
    else if s.hidden rec then s
    else
      let v := windowWrite rec.owner r o bs s
      if v.1 then v.2 else hostRefuse 6 0 4 at_ v.2

/-- BAR4_ACCESS (R550, R551). -/
def execBar4Access (w : Fin 64) (offset : BitVec 24) (op : BarOp) (s : State) : Host.Outcome State Fault Refusal :=
  .next (s.when s.hostUp (match op with
    | .read len => bar4Read w offset len
    | .write bytes => bar4Write w offset bytes))

/-! ## AtomicOps (R402, R404, R551) -/

/-- An atomic of the host at each place of a region's word: the old value at the place that a read would use, or the cause of
the first ERROR (R112). -/
def busAtomic (op : Nat) (v : Word) (t : Route) (s : State) : Except XCause (List Byte) × State :=
  match t.wr.findSome? (fun a => (s.xRefusal 33 a 4 true true).map (fun c => (a, c))) with
  | some (a, c) => (.error c, xRefuse 33 a 4 c s)
  | none =>
    t.wr.foldl (fun (p : Except XCause (List Byte) × State) a =>
      let q := bankAtomic op a v p.2
      match q.1 with
      | .error c => (.error c, xError 33 a c q.2)
      | .okay old => (if t.rd = some a then p.1.map (fun _ => old) else p.1, soil a q.2)) (.ok (zeroBytes 4), s)

def pcieAtomic (w : Fin 64) (offset : BitVec 24) (op : PcieAtomic) (s : State) : State :=
  let at_ := bar4Offset w offset
  let ur (reason : Nat) : State := answerHost .ur (hostRefuse reason 1 4 at_ s)
  let go (n : Nat) (v : Word) : State :=
    match s.window w offset with
    | none => ur 3
    | some (r, rec, o) =>
      if rec.size < o + 4 then ur 3
      else if s.hidden rec then answerHost (.data (zeroBytes 4)) s
      else
        let t0 := s.route rec.owner r o none
        let t := { t0 with rd := s.readAddr none r o t0, wr := s.writeAddrs none r o t0 }
        if t.wr.isEmpty then answerHost (.ca 4) (hostRefuse 6 2 4 at_ s)
        else
          let x := busAtomic n v t s
          match x.1 with
          | .ok old => answerHost (.data old) x.2
          | .error c => answerHost (.ca 4) (hostRefuse (if c = .noAtomic then 5 else 6) 2 4 at_ x.2)
  match op with
  | .fetchAdd v => go 1 v
  | .swap v => go 3 v
  | .other => ur 4

/-- PCIE_ATOMICOP (R404, R551). -/
def execPcieAtomicop (w : Fin 64) (offset : BitVec 24) (op : PcieAtomic) (s : State) : Host.Outcome State Fault Refusal :=
  .next (s.when s.hostUp (pcieAtomic w offset op))

/-! ## The link (R552) -/

/-- The host interface island returns to its reset values, with its MSI-X table, but for the state of the link; the event queue is
disabled. -/
def resetHostIsland (s : State) : State :=
  let h := s.host
  (s.onEvt fun v => { v with qEnable := false, msixMask := BitVec.allOnes 64, msixPend := 0 }).onHost fun _ =>
    { HostIf.reset with linkUp := h.linkUp, width := h.width, speed := h.speed, answer := h.answer }

/-- FUNCTION_LEVEL_RESET (R552). -/
def execFunctionLevelReset (s : State) : Host.Outcome State Fault Refusal := .next (s.when s.hostUp resetHostIsland)

def linkLost (s : State) : State :=
  let was := s.host.linkUp
  raiseIf was 0xE004 [] ((resetHostIsland s).onHost fun h => { h with linkUp := false, width := 0, speed := 0 })

/-- PCIE_LINK_LOSS (R552). -/
def execPcieLinkLoss (s : State) : Host.Outcome State Fault Refusal := .next (s.when s.hostUp linkLost)

def linkCame (speed width : BitVec 4) (s : State) : State :=
  let was := s.host.linkUp
  raiseIf (!was) 0xE003 [v8 speed.toNat, v8 width.toNat]
    (s.onHost fun h => { h with linkUp := true, width := width, speed := speed })

/-- PCIE_LINK_UP (R552). -/
def execPcieLinkUp (speed width : BitVec 4) (s : State) : Host.Outcome State Fault Refusal :=
  .next (s.when s.hostUp (linkCame speed width))

/-! ## The SPI slave (R565 to R568) -/

def SpiFrame.bytes (f : SpiFrame) : List Byte := [f.op, f.len] ++ (leBytes 4 f.addr.toNat).reverse ++ f.payload

/-- The data of an answer as MISO carries them: 0x5A, the data, and their CRC-16, high byte first. -/
def spiData (bs : List Byte) : List Byte := 0x5A :: bs ++ (leBytes 2 (crc16 bs)).reverse

/-- A frame is answered: its code goes out as the first byte of the next frame (R566), and a refusal is counted (R567). -/
def spiAnswer (code : Nat) (out : List Byte) (s : State) : State :=
  let prev := s.host.spiAnswer
  let s := s.onHost fun h => { h with spiAnswer := BitVec.ofNat 8 code, spiOut := prev :: out }
  if code = 0 then s
  else
    let hot := due s.host.spiAt Config.tick s.now
    raiseIf hot 0xE006 [v8 code] (s.onHost fun h => { h with
      lastNak := BitVec.ofNat 8 code, spiRefused := satInc16 h.spiRefused, spiAt := if hot then some s.now else h.spiAt })

/-- The checks of a frame, before its effect: the code of the first that fails, or 0 (R567). -/
def spiCheck (f : SpiFrame) : Nat :=
  let op := f.op.toNat
  let len := f.len.toNat
  let words := if op = 2 ∨ op = 3 then len else 0
  if crc16 (SpiFrame.bytes f) ≠ f.crc.toNat then 0x81
  else if op = 0 ∨ 5 < op then 0x82
  else if (if op < 3 then len = 0 ∨ 16 < len else if op = 5 then len ≠ 1 else len ≠ 16) ∨ f.payload.length ≠ 4 * words then 0x83
  else if op < 3 ∧ (f.addr.toNat % 4 ≠ 0 ∨ 0x2800000 < f.addr.toNat + 4 * len) then 0x84
  else if (op = 3 ∨ op = 4) ∧ 15 < f.addr.toNat then 0x84
  else 0

/-- A frame of an op: refused by its first failing check, or served. -/
def spiFrame (op : Nat) (f : SpiFrame) (serve : State → State) (s : State) : State :=
  if f.op.toNat ≠ op then s
  else
    let code := spiCheck f
    s.when s.hostUp (if code = 0 then serve else spiAnswer code [])

def spiRegRead (f : SpiFrame) (s : State) : State :=
  let r := readRegs f.addr.toNat f.len.toNat s
  spiAnswer 0 (spiData (bytesOfWords r.1)) r.2

/-- REG_READ (R565). -/
def execRegRead (f : SpiFrame) (s : State) : Host.Outcome State Fault Refusal := .next (spiFrame 1 f (spiRegRead f) s)

def spiRegWrite (f : SpiFrame) (s : State) : State := spiAnswer 0 [] (writeRegs f.addr.toNat (wordsOf f.payload) s)

/-- REG_WRITE (R565). -/
def execRegWrite (f : SpiFrame) (s : State) : Host.Outcome State Fault Refusal := .next (spiFrame 2 f (spiRegWrite f) s)

def spiSubmit (f : SpiFrame) (s : State) : State :=
  let k : Fin 16 := fin 16 f.addr.toNat
  if s.host.spiQ.contains k then spiAnswer 0x85 [] s
  else spiAnswer 0 [] (s.onHost fun h => { h with spi := h.spi.putN (64 * k.val) f.payload, spiQ := h.spiQ ++ [k] })

/-- MB_SUBMIT (R567, R568). -/
def execMbSubmit (f : SpiFrame) (s : State) : Host.Outcome State Fault Refusal := .next (spiFrame 3 f (spiSubmit f) s)

def spiSlotRead (f : SpiFrame) (s : State) : State := spiAnswer 0 (spiData (s.spiSlot f.addr.toNat)) s

/-- MB_READ (R568). -/
def execMbRead (f : SpiFrame) (s : State) : Host.Outcome State Fault Refusal := .next (spiFrame 4 f (spiSlotRead f) s)

/-- SPI slots in state DONE, and the last code other than ACK. -/
def State.spiStatus (s : State) : Word :=
  packW [((bitsW ((List.range 16).map (fun k => leAt (s.spiSlot k) 1 1 == 2))).toNat, 0), (s.host.lastNak.toNat, 16)]

def spiStatusRead (s : State) : State := spiAnswer 0 (spiData (leBytes 4 s.spiStatus.toNat)) s

/-- STATUS (R565). -/
def execStatus (f : SpiFrame) (s : State) : Host.Outcome State Fault Refusal := .next (spiFrame 5 f spiStatusRead s)

/-- BAD_OP (R567): a frame whose op no row names. -/
def execBadOp (f : SpiFrame) (s : State) : Host.Outcome State Fault Refusal :=
  .next (if 1 ≤ f.op.toNat ∧ f.op.toNat ≤ 5 then s else s.when s.hostUp (spiAnswer (spiCheck f) []))

end Sys2Proof.Machine
end

