-- ==== Sys2Proof/Machine/Boundary.lean ====
section
/-! DEFINITION. The block interval (R22 to R31): the boundary, the closing of staging and of SOURCE blocks, the send deadline
and fabric completion; the pacing tick (R425), the APLL phase comparison (R311), and the handshake channels (R13, R15). -/

namespace Sys2Proof.Machine

/-- The graph does not run: the part is in SLEEP or on its way there (R503). -/
def State.asleep (s : State) : Bool := s.power.state == 2 || s.power.moving == some 2

def State.domainOf (s : State) (node : Nat) : Option (Fin 4) := (s.node? node).map (·.domain)

/-! ## Step 1: the counter (R22, R23, R298, R300) -/

/-- A jump of the counter by k blocks moves the sample and block numbers that ports, channels, streams and S9 hold. -/
def shiftNumbers (r : DomainRec) (k : Int) (s : State) : State :=
  if k = 0 then s
  else
    let sh (n : Nat) : Nat := ((n : Int) + k).toNat
    let sh8 (n : Nat) : Nat := ((n : Int) + 8 * k).toNat
    let s := each (s.sapsOf r.dom) (fun p s => s.onSap p fun x => x.shift (rateHz r.rate) k) s
    let s := each (s.ampsOf r.dom) (fun c s => s.onAmp c fun a =>
      if a.state = .starting ∨ a.state = .stopping then { a with trigBlk := BitVec.ofNat 48 (sh a.trigBlk.toNat) } else a) s
    let s := each (s.txOf r.dom) (fun q s => s.onStx q.1 fun x => { x with
      buf := x.buf.map (fun b => (sh8 b.1, b.2)), due := x.due.map (fun b => (b.1, sh b.2.1, b.2.2)) }) s
    let s := each (s.rxOf r.dom) (fun q s => s.onSrx q.1 fun x => { x with buf := x.buf.map (fun b => (sh8 b.1, b.2)) }) s
    let s := each (s.lanesOf r.dom) (fun l s => s.onLane l fun x => { x with rx := x.rx.map (fun b => (sh b.1, b.2)) }) s
    s.onStart fun x => { x with s9At := x.s9At.map (fun p => if p.1 = r.tb then (p.1, BitVec.ofNat 48 (sh p.2.toNat)) else p) }

/-- The source of a timebase as written takes effect. -/
def sourceItem (t : Fin 4) (i : StageItem) (s : State) : State :=
  match i with
  | .tbSource src idx => demoteMasters (enterSource t src idx s)
  | _ => s

/-- The counter becomes m, or is reloaded; a new source is entered; a lost one is left. With the graph asleep no interval is
processed. -/
def stepCounter (r : DomainRec) (items : List StageItem) (s : State) : State :=
  let old := (s.tb r.tb).blk
  let s := countBoundary r.tb items s
  let s := each items (sourceItem r.tb) s
  let s := shiftNumbers r ((s.tb r.tb).blk.toNat - ((old + 1).toNat : Int)) s
  let s := if s.asleep then s.onTb r.tb (fun x => { x with ivl := x.ivl - 1 }) else s
  holdover r.tb (linkLosses s)

/-! ## Steps 2 to 5, and what comes with them -/

/-- Step 2: held outputs are released, engines declared out, pairs settled, and a pending plan takes effect. -/
def stepPlan (d : Fin 4) (s : State) : State := freqBoundary (some d) (planBoundary d (pairsBoundary d (declareOuts (releaseHeld d s))))

/-- Step 4: the staged fields that belong to no port or channel. -/
def staticItem (i : StageItem) (s : State) : State :=
  match i with
  | .commit v => commitTakes v s
  | .clkOut n div idx src => s.onClk fun c => { c with outs := upd c.outs n (fun x => x.set div idx src) }
  | .srxEnable u en => if s.inRun then srxSet u en s else s
  | .stxEnable u en => if s.inRun then s.onStx u (fun x => { x with enable := en }) else s
  | _ => s

/-- The clock outputs that were held low for a block pass on. -/
def tickOutputs (s : State) : State := s.onClk fun c => { c with outs := c.outs.map ClkOut.tick }

/-- Step 4: the ST fields that are due (R26). -/
def stepStatic (r : DomainRec) (items : List StageItem) (s : State) : State :=
  let m := (s.tb r.tb).blk.toNat
  let s := each items staticItem (if (s.pacing.map (·.dom)) == some r.dom then tickOutputs s else s)
  let s := each (s.sapsOf r.dom) (fun p s => sapMasks p m items s) s
  each (s.ampsOf r.dom) (fun c s => ampFields c items s) s

/-- Steps 3 to 5: casts, ST fields and individual writes (R26). Casts that are to come start their transfer first: one whose
number a reload has passed over transfers and takes effect at one boundary (R23, R273). A parameter that an individual write
names moves once, toward that write (R278); the sends move once for both (R214). -/
def stepWrites (r : DomainRec) (items : List StageItem) (s : State) : State :=
  let m := (s.tb r.tb).blk
  let c := castsAtBoundary r.tb m (castsAtReady r.tb m (enterParams r.dom s))
  let own := lastWrites (c.2.paramWrites items)
  let cast := (lastWrites c.1).filter (fun w => !own.any (fun x => x.paddr == w.paddr))
  let s := stepStatic r items (each cast applyWrite c.2)
  let s := moveSends (cast ++ own) (each own applyWrite s)
  if (cast ++ own).isEmpty then s else noteWrites r.dom ((cast ++ own).map (·.paddr)) s

/-- What follows the writes of a boundary: the block's ramps, and the decision of the casts that are to come (R286, R448). -/
def stepParams (r : DomainRec) (s : State) : State :=
  takeCapture (castsAtDecision r.tb (s.tb r.tb).blk (advanceParams r.dom s))

/-- The timebase of the port or channel that a trigger names; none for another item. -/
def State.tbOfTrigger (s : State) : StageItem → Option (Fin 4)
  | .sapTrig p _ => some (s.tbOf (s.sap p).cfg.domain)
  | .ampTrig c _ => some (s.tbOf (s.amp c).domain)
  | _ => none

/-- The triggers of the boundary: those of compare units, of S9, and of a transition that leaves RUN. A compare unit's trigger to
a port of another domain is staged there. -/
def stepTriggers (r : DomainRec) (items : List StageItem) (s : State) : List StageItem × State :=
  let c := cmpsAtBoundary r.tb (s.tb r.tb).blk.toNat s
  let away := c.1.filter (fun i => c.2.tbOfTrigger i != some r.tb)
  let s := each away (fun i s => match s.tbOfTrigger i with
    | some t => stage t i s
    | none => s) c.2
  let n := s9Boundary r.dom s
  let x := if items.any (· == .stopAll) then stopDomain r.dom n.2 else ([], n.2)
  let s := if items.any (· == .enterRun) then streamEnables r.dom x.2 else x.2
  (c.1.filter (fun i => s.tbOfTrigger i == some r.tb) ++ n.1 ++ x.1, s)

/-! ## The interval that begins -/

/-- The records of the interval that ended are closed: what processes and engines have done, and what was raised once. -/
def openInterval (d : Fin 4) (s : State) : State :=
  let s := s.onProcs fun p => if s.domainOf p.node = some d then { p with out := none, missedNow := false } else p
  each ((List.finRange 24).filter (fun e => s.engineDomain e == some d)) (fun e s => s.onEngine e fun g =>
    let c := w32 g.cyclesNow
    { g with
      begun := [], govRaised := false, eccRaised := false, cycles := c, cyclesNow := 0
      cyclesMax := if g.cyclesMax.toNat < c.toNat then c else g.cyclesMax }) s

/-- The SOURCE frame of the block before the boundary: none for a lane, whose frame is published by its own command. -/
def State.sourceFrameOf (s : State) (n : NodeRec) : Option Frame :=
  let b := (s.tb (s.tbOf n.domain)).blk.toNat - 1
  match s.portOf n with
  | some p => match p.body with
    | .sap _ => some ((s.sap (fin 32 p.unit)).block n.bodyA b)
    | .rx _ => some (nth ((s.srx (fin 256 p.unit)).formed.getD []) n.bodyA silence)
    | .link _ => none
    | .eth _ => none
    | .tx _ => none
    | .amp _ => none
    | .clock _ => none
  | none => none

/-- Publish the SOURCE frames of the block that has come in (R29). -/
def publishSources (d : Fin 4) (s : State) : State :=
  each (s.nodes.filter (fun n => n.type == .source && n.domain == d)) (fun n s =>
    match s.sourceFrameOf n with
    | some f => publish n.id (s.ivl n - 1) [f] s
    | none => s) s

/-- What the sources of the domain remember of the interval is open again. -/
def openSources (r : DomainRec) (s : State) : State :=
  let s := s.onTb r.tb fun x => { x with srcClosed := false }
  let s := each (s.rxOf r.dom) (fun q s => s.onSrx q.1 fun x => { x with gapRaised := false, malRaised := false }) s
  each (s.lanesOf r.dom) (fun l s => s.onLane l fun x => { x with published := false, lateRaised := false }) s

/-- The SOURCE blocks of a domain's streams are formed. -/
def closeSources (d : Fin 4) (s : State) : State := each (s.rxOf d) (fun q s => closeStream q.1 q.2 s) s

/-- The serial ports before their received block is delivered. -/
def enterPorts (r : DomainRec) (items : List StageItem) (s : State) : State :=
  let m := (s.tb r.tb).blk.toNat
  each (s.sapsOf r.dom) (fun p s => sapEnter p m items s) s

/-- The ports, streams, channels and the pair at a boundary. -/
def stepPorts (r : DomainRec) (items : List StageItem) (s : State) : State :=
  let m := (s.tb r.tb).blk.toNat
  let s := each (s.sapsOf r.dom) (fun p s => sapBoundary p m s) s
  let s := streamsSend r.dom m s
  let s := each (s.ampsOf r.dom) (fun c s => ampBoundary c m items s) s
  duetBoundary r.dom s

/-- The interval begins: the one that ended is closed, and the SOURCE frames of its block are published. -/
def beginInterval (r : DomainRec) (s : State) : State :=
  openSources r (feedBridges r.dom (publishSources r.dom (openFabric r.dom (silentWork r.dom (openInterval r.dom s)))))

/-- The media instant 6 sample periods after the last boundary of a domain (R315, R475). -/
def sampleInstant (r : DomainRec) (s : State) : State := ampInstant r.dom (raisePulses r.tb s)

/-- A block boundary of a domain (R26, R29). With the graph asleep no interval is processed (R503). -/
def domainBoundary (r : DomainRec) (s : State) : State :=
  let awake := !s.asleep
  let s := sampleInstant r (if awake && !(s.tb r.tb).srcClosed then closeSources r.dom s else s)
  let p := takeStaged r.tb s
  let n := takeNumbered r.tb (rollUnit r.dom (stepCounter r p.1 p.2))
  let items := p.1 ++ n.1
  let tr := stepTriggers r items n.2
  let s := if awake then stepParams r (stepWrites r items (stepPlan r.dom tr.2)) else stepStatic r items tr.2
  let s := enterPorts r (items ++ tr.1) s
  stepPorts r (items ++ tr.1) (if awake then beginInterval r s else s)

/-- BLOCK_BOUNDARY (R26). -/
def execBlockBoundary (tb : Fin 4) (s : State) : Host.Outcome State Fault Refusal :=
  .next (match s.domOfTb tb with
    | some r => if s.power.state.val < 2 then s else domainBoundary r s
    | none => s)

/-! ## Within the interval (R27, R29, R127, R367) -/

def closeStaging (t : Fin 4) (s : State) : State := castsAtClose t (s.onTb t fun x => { x with open_ := false })

/-- STAGING_CLOSE (R27). -/
def execStagingClose (tb : Fin 4) (s : State) : Host.Outcome State Fault Refusal := .next (closeStaging tb s)

def closeBlock (t : Fin 4) (s : State) : State :=
  match s.domOfTb t with
  | some r =>
    if (s.tb t).srcClosed || s.asleep then s
    else (closeSources r.dom s).onTb t fun x => { x with srcClosed := true }
  | none => s

/-- SOURCE_BLOCK_CLOSE (R367, R379). -/
def execSourceBlockClose (tb : Fin 4) (s : State) : Host.Outcome State Fault Refusal := .next (closeBlock tb s)

/-- The cause that PLACER_LAST_MISS gives a copy: 1 a fault that is not resolved, 2 a fault in service, 0 any other. -/
def State.missCause (s : State) (p : ProcSt) : Fin 3 :=
  let g := s.engine p.engine
  match (g.parked.toList ++ g.stalled.toList).find? (fun f => f.node == p.node) with
  | some f => if s.resolvable p.engine f then 2 else 1
  | none => 0

/-- A context that is abandoned has used its cycles (R143). -/
def abandonCtx (e : Fin 24) (c : Ctx) (s : State) : State :=
  match c.node.bind s.node? with
  | some n => if c.stale then s else chargeCycles e n c.cycles s
  | none => s

/-- The contexts of an engine are discarded; the service of its oldest fault goes on, where the fault can be resolved (R126,
R127). A halted engine keeps them, as work that has been given up (R176). -/
def abandonWork (e : Fin 24) (s : State) : State :=
  let g := s.engine e
  let s := abandonCtx e g.bg (abandonCtx e g.fg s)
  let left (c : Ctx) : Ctx := if g.halted && c.node.isSome then { c with stale := true } else Ctx.reset
  let fault := (g.orphan.or (g.parked.or g.stalled)).filter (s.resolvable e)
  s.onEngine e fun g => { g with
    fg := left g.fg, bg := left g.bg
    parked := if g.halted then g.parked else none, stalled := if g.halted then g.stalled else none
    orphan := if g.halted then g.orphan else fault }

/-- A copy has not finished: its substitute, and for a METER the end of its period. -/
def missCopy (n : NodeRec) (p : ProcSt) (cause : Fin 3) (s : State) : State :=
  let s := if n.type = .meter then s.onProc n.id p.engine (fun x => meterClose n x s) else s
  missProc n p.engine cause s

/-- Every output of a node reaches the fabric. -/
def feedFabric (n : NodeRec) (s : State) : State := each (List.range n.outputs) (fun k s => sourceFrame n.id k s) s

/-- The send deadline of a domain: unfinished copies are substituted, pairs and overlaps are compared, and the substitutes reach
the fabric. -/
def sendDeadline (d : Fin 4) (s : State) : State :=
  let mine := s.procs.filter (fun p => s.domainOf p.node == some d)
  let late := mine.filter (fun p => p.out.isNone && !p.stopped)
  let causes := late.map (fun p => (p, s.missCause p))
  let s := each ((List.finRange 24).filter (fun e => s.engineDomain e == some d)) abandonWork s
  let s := each causes (fun q s => match s.node? q.1.node with
    | some n => missCopy n q.1 q.2 s
    | none => s) s
  let s := compareOverlaps d (comparePairs d s)
  let subst := ((late ++ mine.filter (·.stopped)).map (·.node)).eraseDups
  each (subst.filterMap s.node?) feedFabric s

/-- SEND_DEADLINE (R127). -/
def execSendDeadline (tb : Fin 4) (s : State) : Host.Outcome State Fault Refusal :=
  .next (match s.domOfTb tb with
    | some r => let s := sampleInstant r s; if s.power.state.val < 3 then s else sendDeadline r.dom s
    | none => s)

/-- FABRIC_COMPLETION (R29, R219). -/
def execFabricCompletion (tb : Fin 4) (s : State) : Host.Outcome State Fault Refusal :=
  .next (match s.domOfTb tb with
    | some r => if s.power.state.val < 3 then s else unitFinal r.dom (closeFabric r.dom s)
    | none => s)

/-! ## The pacing tick (R425) -/

/-- Ticks of the model's clock in a pacing interval: a block of the pacing domain, or 16,384 cycles of the time clock. -/
def State.pacingTicks (s : State) : Nat :=
  match s.pacing with
  | some r => 8 * Config.tick / rateHz r.rate
  | none => 58800

/-- Cycles of the time clock up to an instant (R294). -/
def timeCycles (ticks : Nat) : Nat := ticks * 16384 / 58800

/-- The time of a timebase that no domain carries, `cycles` time-clock cycles after the last pacing tick: one that follows another
has that one's time (R295), which at a pacing tick lies within its interval where another domain's boundaries count it. -/
def freeTime (cycles : Nat) (t : Fin 4) (s : State) : State :=
  let u := s.tbRoot t
  let r : Nat × State :=
    if u = t then ((s.tb t).time + s.span t cycles, s)
    else if (s.domOfTb u).isNone || (s.pacing.map (·.tb)) == some u then ((s.tb u).time, s)
    else timeWithin u s
  r.2.onTb t fun x => { x with time := r.1, slew := x.slewOn cycles }

/-- A timebase that no domain carries advances, and takes its staged changes, at the pacing tick. -/
def freeTimebase (cycles : Nat) (t : Fin 4) (s : State) : State :=
  if (s.domOfTb t).isSome then s
  else
    let p := takeStaged t (freeTime cycles t s)
    let x := p.2.tb t
    let s := each (p.1.filter StageItem.isTime) (timeItem t x.blk) (p.2.onTb t fun x => { x with open_ := true })
    holdover t (each p.1 (sourceItem t) s)

def pacing (s : State) : State :=
  let was := s.now
  let s := s.onAo fun a => { a with now := a.now + s.pacingTicks }
  let items := s.clk.gstage
  let s := each items staticItem (s.onClk fun c => { c with gstage := [] })
  let s := if s.pacing.isNone then declareOuts (tickOutputs s) else s
  let cycles := timeCycles s.now - timeCycles was
  let follow := (List.finRange 4).partition (fun t => (s.tb t).follows.isNone)
  let s := each follow.2 (freeTimebase cycles) (each follow.1 (freeTimebase cycles) s)
  let s := reportSaturation (reportDetects (takeTimestamps (freqBoundary none (healthTick s))))
  s.onXbar fun x => { x with ceRaised := false }

/-- PACING_TICK (R425). -/
def execPacingTick (s : State) : Host.Outcome State Fault Refusal := .next (s.when s.hostUp pacing)

/-! ## APLL phase comparison (R311, R312, R329, R513) -/

/-- A comparison; at an alignment, which comes after the one that locked, the master clock becomes valid, and the ports of the
domain that drive clocks begin. -/
def phaseCompared (a : Fin 4) (err : Int) (s : State) : State :=
  let locked := (s.apll a).state == .locked
  let s := comparePhase a err s
  if locked && s.aligns a then
    let s := alignApll a s
    let ds := s.domains.filter (fun r => r.apll == a)
    let s := each ds (fun r s => each (s.sapsOf r.dom) sapClocks s) s
    s9Check s
  else s

/-- APLL_PHASE_COMPARISON (R311). -/
def execApllPhaseComparison (a : Fin 4) (errPs : Int) (s : State) : Host.Outcome State Fault Refusal := .next (phaseCompared a errPs s)

/-! ## Handshake channels (R13, R15) -/

def fifoDepth (src dst : Fin 59) : Nat := 4 + (Config.fifoExtra src dst).val

def HsChan.fresh (src dst : Fin 59) : HsChan := { src := src, dst := dst, fifo := [], out := [], wait := none, error := false }

def State.channel (s : State) (src dst : Fin 59) : HsChan :=
  (s.hs.find? (fun c => c.src == src && c.dst == dst)).getD (HsChan.fresh src dst)

def setChannel (c : HsChan) (s : State) : State := { s with hs := c :: s.hs.filter (fun x => !(x.src == c.src && x.dst == c.dst)) }

/-- A transfer on a channel that is not fenced: it joins the FIFO, or waits while the FIFO is full; a delivery takes the
oldest, and the transfer that waits follows. A second transfer while one waits is ignored: its sender is stalled (R13 does not
say what such a command does; DESIGN CHOICE, assumption 216). -/
def HsChan.act (c : HsChan) (op : HsOp) : HsChan :=
  let join (data : List Byte) : HsChan :=
    if c.wait.isSome then c
    else if c.fifo.length < fifoDepth c.src c.dst then { c with fifo := c.fifo ++ [data] }
    else { c with wait := some data }
  match op with
  | .send data => join data
  | .read => join []
  | .deliver =>
    match c.fifo with
    | [] => c
    | x :: rest => { c with fifo := rest ++ c.wait.toList, out := x :: c.out, wait := none }

/-- A transfer on a fenced channel: what it holds and what is sent is discarded; a read gives zero and sets the error flag. -/
def HsChan.fenced (c : HsChan) (op : HsOp) : HsChan :=
  let c := { c with fifo := [], wait := none }
  match op with
  | .send _ => c
  | .read => { c with error := true }
  | .deliver => c

def handshake (src dst : Fin 59) (op : HsOp) (s : State) : State :=
  let c := s.channel src dst
  setChannel (if s.islandDown src.val || s.islandDown dst.val then c.fenced op else c.act op) s

/-- HANDSHAKE_TRANSFER (R13, R15). -/
def execHandshakeTransfer (src dst : Fin 59) (op : HsOp) (s : State) : Host.Outcome State Fault Refusal :=
  .next (handshake src dst op s)

end Sys2Proof.Machine
end

