-- ==== Sys2Proof/Machine/Dispatch.lean ====
section
/-! DEFINITION. One arm for each command: its meaning, called directly. -/

namespace Sys2Proof.Machine

/-- The effect of a command on everything but the queue of commands that wait. -/
def exec (i : Instr) (s : State) : Host.Outcome State Fault Refusal :=
  match i with
  | .blockBoundary tb => Sys2Proof.Machine.execBlockBoundary tb s
  | .rampComplete paddr => Sys2Proof.Machine.execRampComplete paddr s
  | .gpioPulseEnd unit => Sys2Proof.Machine.execGpioPulseEnd unit s
  | .stagingClose tb => Sys2Proof.Machine.execStagingClose tb s
  | .sourceBlockClose tb => Sys2Proof.Machine.execSourceBlockClose tb s
  | .sendDeadline tb => Sys2Proof.Machine.execSendDeadline tb s
  | .fabricCompletion tb => Sys2Proof.Machine.execFabricCompletion tb s
  | .pacingTick => Sys2Proof.Machine.execPacingTick s
  | .handshakeTransfer src dst op => Sys2Proof.Machine.execHandshakeTransfer src dst op s
  | .sysImgCtlLoad source => Sys2Proof.Machine.execSysImgCtlLoad source s
  | .sysImgCtlVerify source => Sys2Proof.Machine.execSysImgCtlVerify source s
  | .validationStep => Sys2Proof.Machine.execValidationStep s
  | .loadComplete => Sys2Proof.Machine.execLoadComplete s
  | .planTrigger t => Sys2Proof.Machine.execPlanTrigger t s
  | .planBuilt cand => Sys2Proof.Machine.execPlanBuilt cand s
  | .copyUnitWritten slot => Sys2Proof.Machine.execCopyUnitWritten slot s
  | .faultServiceDone e => Sys2Proof.Machine.execFaultServiceDone e s
  | .placerReplan => Sys2Proof.Machine.execPlacerReplan s
  | .placerClearCounts => Sys2Proof.Machine.execPlacerClearCounts s
  | .placerFreezeWrite freeze => Sys2Proof.Machine.execPlacerFreezeWrite freeze s
  | .placerCommitWrite limit => Sys2Proof.Machine.execPlacerCommitWrite limit s
  | .placerEngAdmit mask => Sys2Proof.Machine.execPlacerEngAdmit mask s
  | .blockWorkStart e => Sys2Proof.Machine.execBlockWorkStart e s
  | .seNop e m0 m1 => Sys2Proof.Machine.execSeNop e m0 m1 s
  | .seDone e m0 m1 => Sys2Proof.Machine.execSeDone e m0 m1 s
  | .seBr e target m0 m1 => Sys2Proof.Machine.execSeBr e target m0 m1 s
  | .seBc e c target m0 m1 => Sys2Proof.Machine.execSeBc e c target m0 m1 s
  | .seCall e target m0 m1 => Sys2Proof.Machine.execSeCall e target m0 m1 s
  | .seRet e m0 m1 => Sys2Proof.Machine.execSeRet e m0 m1 s
  | .seLoop e ctr target m0 m1 => Sys2Proof.Machine.execSeLoop e ctr target m0 m1 s
  | .loopReturn e => Sys2Proof.Machine.execLoopReturn e s
  | .seMul e a va src m0 m1 => Sys2Proof.Machine.execSeMul e a va src m0 m1 s
  | .seMac e a va src m0 m1 => Sys2Proof.Machine.execSeMac e a va src m0 m1 s
  | .seMsu e a va src m0 m1 => Sys2Proof.Machine.execSeMsu e a va src m0 m1 s
  | .seClr e ad m0 m1 => Sys2Proof.Machine.execSeClr e ad m0 m1 s
  | .seAadd e ad as m0 m1 => Sys2Proof.Machine.execSeAadd e ad as m0 m1 s
  | .seAsub e ad as m0 m1 => Sys2Proof.Machine.execSeAsub e ad as m0 m1 s
  | .seVadd e vd va vb m0 m1 => Sys2Proof.Machine.execSeVadd e vd va vb m0 m1 s
  | .seVsub e vd va vb m0 m1 => Sys2Proof.Machine.execSeVsub e vd va vb m0 m1 s
  | .seVabs e vd va m0 m1 => Sys2Proof.Machine.execSeVabs e vd va m0 m1 s
  | .seVneg e vd va m0 m1 => Sys2Proof.Machine.execSeVneg e vd va m0 m1 s
  | .seVmin e vd va vb m0 m1 => Sys2Proof.Machine.execSeVmin e vd va vb m0 m1 s
  | .seVmax e vd va vb m0 m1 => Sys2Proof.Machine.execSeVmax e vd va vb m0 m1 s
  | .seVand e vd va vb m0 m1 => Sys2Proof.Machine.execSeVand e vd va vb m0 m1 s
  | .seVor e vd va vb m0 m1 => Sys2Proof.Machine.execSeVor e vd va vb m0 m1 s
  | .seVxor e vd va vb m0 m1 => Sys2Proof.Machine.execSeVxor e vd va vb m0 m1 s
  | .seVshl e vd va n m0 m1 => Sys2Proof.Machine.execSeVshl e vd va n m0 m1 s
  | .seVsra e vd va n m0 m1 => Sys2Proof.Machine.execSeVsra e vd va n m0 m1 s
  | .seVsel e vd va vb m0 m1 => Sys2Proof.Machine.execSeVsel e vd va vb m0 m1 s
  | .seVcmpeq e va vb m0 m1 => Sys2Proof.Machine.execSeVcmpeq e va vb m0 m1 s
  | .seVcmplt e va vb m0 m1 => Sys2Proof.Machine.execSeVcmplt e va vb m0 m1 s
  | .seVcmple e va vb m0 m1 => Sys2Proof.Machine.execSeVcmple e va vb m0 m1 s
  | .seMoveNop e w => Sys2Proof.Machine.execSeMoveNop e w s
  | .seVld e v a w => Sys2Proof.Machine.execSeVld e v a w s
  | .seVst e v a w => Sys2Proof.Machine.execSeVst e v a w s
  | .seVbc e v a w => Sys2Proof.Machine.execSeVbc e v a w s
  | .seVldl e v lane a w => Sys2Proof.Machine.execSeVldl e v lane a w s
  | .seVstl e v lane a w => Sys2Proof.Machine.execSeVstl e v lane a w s
  | .seLd e r a w => Sys2Proof.Machine.execSeLd e r a w s
  | .seSt e r a w => Sys2Proof.Machine.execSeSt e r a w s
  | .seMova e v a sh w => Sys2Proof.Machine.execSeMova e v a sh w s
  | .seLdi e r k imm w => Sys2Proof.Machine.execSeLdi e r k imm w s
  | .seLda e r win ofs w => Sys2Proof.Machine.execSeLda e r win ofs w s
  | .seMov e dst src w => Sys2Proof.Machine.execSeMov e dst src w s
  | .seVmov e vd vs w => Sys2Proof.Machine.execSeVmov e vd vs w s
  | .seMvta e a v sh w => Sys2Proof.Machine.execSeMvta e a v sh w s
  | .seLdc e ctr imm w => Sys2Proof.Machine.execSeLdc e ctr imm w s
  | .seAdv e p amount w => Sys2Proof.Machine.execSeAdv e p amount w s
  | .sharedReadReturn e cycles => Sys2Proof.Machine.execSharedReadReturn e cycles s
  | .writeBufferDrain e cycles => Sys2Proof.Machine.execWriteBufferDrain e cycles s
  | .seStep e => Sys2Proof.Machine.execSeStep e s
  | .seResume e => Sys2Proof.Machine.execSeResume e s
  | .seHaltReq e req => Sys2Proof.Machine.execSeHaltReq e req s
  | .seClearStats e => Sys2Proof.Machine.execSeClearStats e s
  | .fabricSourceFrame node out => Sys2Proof.Machine.execFabricSourceFrame node out s
  | .fabricClearGrHold => Sys2Proof.Machine.execFabricClearGrHold s
  | .fabricClearCounts => Sys2Proof.Machine.execFabricClearCounts s
  | .stepZcTimeout paddr => Sys2Proof.Machine.execStepZcTimeout paddr s
  | .xfadeComplete node => Sys2Proof.Machine.execXfadeComplete node s
  | .meterPeriodEnd dom => Sys2Proof.Machine.execMeterPeriodEnd dom s
  | .meterRecordWrite dom => Sys2Proof.Machine.execMeterRecordWrite dom s
  | .detectEnterSilent node => Sys2Proof.Machine.execDetectEnterSilent node s
  | .meterRingReset => Sys2Proof.Machine.execMeterRingReset s
  | .meterRingEnable enable => Sys2Proof.Machine.execMeterRingEnable enable s
  | .sceneMqLoad slot => Sys2Proof.Machine.execSceneMqLoad slot s
  | .sceneMqCapture slot => Sys2Proof.Machine.execSceneMqCapture slot s
  | .sceneMqClear slot => Sys2Proof.Machine.execSceneMqClear slot s
  | .slotOperationDone => Sys2Proof.Machine.execSlotOperationDone s
  | .sceneCastRequest => Sys2Proof.Machine.execSceneCastRequest s
  | .sceneCancelWrite castId => Sys2Proof.Machine.execSceneCancelWrite castId s
  | .castTransferDone castId => Sys2Proof.Machine.execCastTransferDone castId s
  | .castAnnounce m => Sys2Proof.Machine.execCastAnnounce m s
  | .castReady m => Sys2Proof.Machine.execCastReady m s
  | .castNotReady m => Sys2Proof.Machine.execCastNotReady m s
  | .castGo m => Sys2Proof.Machine.execCastGo m s
  | .castDefer m => Sys2Proof.Machine.execCastDefer m s
  | .castAbort m => Sys2Proof.Machine.execCastAbort m s
  | .inputValid input => Sys2Proof.Machine.execInputValid input s
  | .inputLost input => Sys2Proof.Machine.execInputLost input s
  | .xtalStop => Sys2Proof.Machine.execXtalStop s
  | .sysrefStop => Sys2Proof.Machine.execSysrefStop s
  | .timebaseMeasurement tb offsetNs => Sys2Proof.Machine.execTimebaseMeasurement tb offsetNs s
  | .tbSourceWrite tb source index => Sys2Proof.Machine.execTbSourceWrite tb source index s
  | .tbAccept tb => Sys2Proof.Machine.execTbAccept tb s
  | .tbReject tb => Sys2Proof.Machine.execTbReject tb s
  | .tbSet tb => Sys2Proof.Machine.execTbSet tb s
  | .tbSnap tb cycles => Sys2Proof.Machine.execTbSnap tb cycles s
  | .tbnAdj tb ns => Sys2Proof.Machine.execTbnAdj tb ns s
  | .slewEnd tb => Sys2Proof.Machine.execSlewEnd tb s
  | .tbBlkLoRead tb => Sys2Proof.Machine.execTbBlkLoRead tb s
  | .apllEnableWrite a enable => Sys2Proof.Machine.execApllEnableWrite a enable s
  | .apllReacquire a => Sys2Proof.Machine.execApllReacquire a s
  | .bandSearchStep a meas => Sys2Proof.Machine.execBandSearchStep a meas s
  | .bandLockTimeout a => Sys2Proof.Machine.execBandLockTimeout a s
  | .apllPhaseComparison a errPs => Sys2Proof.Machine.execApllPhaseComparison a errPs s
  | .cmpArmWrite u arm => Sys2Proof.Machine.execCmpArmWrite u arm s
  | .gpioEdge pin rising time => Sys2Proof.Machine.execGpioEdge pin rising time s
  | .gpioCapPop => Sys2Proof.Machine.execGpioCapPop s
  | .engineCapWrite e cap => Sys2Proof.Machine.execEngineCapWrite e cap s
  | .islandClockLoss idx => Sys2Proof.Machine.execIslandClockLoss idx s
  | .sapCtlStart p => Sys2Proof.Machine.execSapCtlStart p s
  | .sapCtlStop p => Sys2Proof.Machine.execSapCtlStop p s
  | .sapCtlRestart p => Sys2Proof.Machine.execSapCtlRestart p s
  | .sapCtlClearCounts p => Sys2Proof.Machine.execSapCtlClearCounts p s
  | .sapGo mask => Sys2Proof.Machine.execSapGo mask s
  | .sapHalt mask => Sys2Proof.Machine.execSapHalt mask s
  | .sapMaskWrite p line mask => Sys2Proof.Machine.execSapMaskWrite p line mask s
  | .maskRampEnd p => Sys2Proof.Machine.execMaskRampEnd p s
  | .sapFrameStart p f => Sys2Proof.Machine.execSapFrameStart p f s
  | .frameSyncMissing p => Sys2Proof.Machine.execFrameSyncMissing p s
  | .sapZcTimeout p => Sys2Proof.Machine.execSapZcTimeout p s
  | .ethLinkDown n => Sys2Proof.Machine.execEthLinkDown n s
  | .ethLinkUp n => Sys2Proof.Machine.execEthLinkUp n s
  | .arpRequest n target => Sys2Proof.Machine.execArpRequest n target s
  | .igmpQuery n v2 group => Sys2Proof.Machine.execIgmpQuery n v2 group s
  | .ethFrameDiscard n badFcs => Sys2Proof.Machine.execEthFrameDiscard n badFcs s
  | .sync n m => Sys2Proof.Machine.execSync n m s
  | .followUp n m => Sys2Proof.Machine.execFollowUp n m s
  | .delayReq n m => Sys2Proof.Machine.execDelayReq n m s
  | .delayResp n m => Sys2Proof.Machine.execDelayResp n m s
  | .pdelayReq n m => Sys2Proof.Machine.execPdelayReq n m s
  | .pdelayResp n m => Sys2Proof.Machine.execPdelayResp n m s
  | .pdelayRespFollowUp n m => Sys2Proof.Machine.execPdelayRespFollowUp n m s
  | .announce n m ptpState parent => Sys2Proof.Machine.execAnnounce n m ptpState parent s
  | .syncTimeout n => Sys2Proof.Machine.execSyncTimeout n s
  | .announceReceiptTimeout n => Sys2Proof.Machine.execAnnounceReceiptTimeout n s
  | .rtpPacket n pkt => Sys2Proof.Machine.execRtpPacket n pkt s
  | .legTimeout u legB => Sys2Proof.Machine.execLegTimeout u legB s
  | .igmpReportRepeat u legB => Sys2Proof.Machine.execIgmpReportRepeat u legB s
  | .olderVersionQuerierTimeout n => Sys2Proof.Machine.execOlderVersionQuerierTimeout n s
  | .netSrxEnable u enable => Sys2Proof.Machine.execNetSrxEnable u enable s
  | .netSrxClearCounts u => Sys2Proof.Machine.execNetSrxClearCounts u s
  | .netStxEnable u enable => Sys2Proof.Machine.execNetStxEnable u enable s
  | .netStxClearCounts u => Sys2Proof.Machine.execNetStxClearCounts u s
  | .xbarRead r => Sys2Proof.Machine.execXbarRead r s
  | .xbarWrite r => Sys2Proof.Machine.execXbarWrite r s
  | .addWrap r => Sys2Proof.Machine.execAddWrap r s
  | .addSat r => Sys2Proof.Machine.execAddSat r s
  | .swap r => Sys2Proof.Machine.execSwap r s
  | .xbarResponse m id => Sys2Proof.Machine.execXbarResponse m id s
  | .targetTimeout t m => Sys2Proof.Machine.execTargetTimeout t m s
  | .burstTimeout m => Sys2Proof.Machine.execBurstTimeout m s
  | .masterReset m => Sys2Proof.Machine.execMasterReset m s
  | .fenceLift m => Sys2Proof.Machine.execFenceLift m s
  | .xbarClearCounts => Sys2Proof.Machine.execXbarClearCounts s
  | .memBankReqWrite n value => Sys2Proof.Machine.execMemBankReqWrite n value s
  | .bankOn b => Sys2Proof.Machine.execBankOn b s
  | .scrubPass b => Sys2Proof.Machine.execScrubPass b s
  | .dramRetrain c => Sys2Proof.Machine.execDramRetrain c s
  | .dramClearCounts c => Sys2Proof.Machine.execDramClearCounts c s
  | .dramTrainingDone c failStep => Sys2Proof.Machine.execDramTrainingDone c failStep s
  | .mr4Read c mr4 tempC overLimit => Sys2Proof.Machine.execMr4Read c mr4 tempC overLimit s
  | .wckRetrack c => Sys2Proof.Machine.execWckRetrack c s
  | .dramDown c cause => Sys2Proof.Machine.execDramDown c cause s
  | .memSecWipe => Sys2Proof.Machine.execMemSecWipe s
  | .secureWipeDone badBanks => Sys2Proof.Machine.execSecureWipeDone badBanks s
  | .selftestSequenceDone e failed => Sys2Proof.Machine.execSelftestSequenceDone e failed s
  | .hello l h => Sys2Proof.Machine.execHello l h s
  | .helloRepeat l => Sys2Proof.Machine.execHelloRepeat l s
  | .laneUpTimer l => Sys2Proof.Machine.execLaneUpTimer l s
  | .ack l ack nak => Sys2Proof.Machine.execAck l ack nak s
  | .ackTimeout l => Sys2Proof.Machine.execAckTimeout l s
  | .linkFrameError l crcError => Sys2Proof.Machine.execLinkFrameError l crcError s
  | .audio l block samples => Sys2Proof.Machine.execAudio l block samples s
  | .linkSourcePublish l => Sys2Proof.Machine.execLinkSourcePublish l s
  | .time l t1 t2 t3 t4 partnerLocked => Sys2Proof.Machine.execTime l t1 t2 t3 t4 partnerLocked s
  | .timeTransferTick l => Sys2Proof.Machine.execTimeTransferTick l s
  | .breathSend => Sys2Proof.Machine.execBreathSend s
  | .breath b => Sys2Proof.Machine.execBreath b s
  | .breathMissing => Sys2Proof.Machine.execBreathMissing s
  | .param paddr value block => Sys2Proof.Machine.execParam paddr value block s
  | .seed m => Sys2Proof.Machine.execSeed m s
  | .healthFrame position word block => Sys2Proof.Machine.execHealthFrame position word block s
  | .cast l m => Sys2Proof.Machine.execCast l m s
  | .window l m => Sys2Proof.Machine.execWindow l m s
  | .redReseed => Sys2Proof.Machine.execRedReseed s
  | .redClearCounts => Sys2Proof.Machine.execRedClearCounts s
  | .redEngForceOut mask => Sys2Proof.Machine.execRedEngForceOut mask s
  | .redEngClear mask => Sys2Proof.Machine.execRedEngClear mask s
  | .laneRestart l => Sys2Proof.Machine.execLaneRestart l s
  | .ampCtlStart c => Sys2Proof.Machine.execAmpCtlStart c s
  | .ampCtlStop c => Sys2Proof.Machine.execAmpCtlStop c s
  | .ampCtlDiag c => Sys2Proof.Machine.execAmpCtlDiag c s
  | .ampCtlClearCounts c => Sys2Proof.Machine.execAmpCtlClearCounts c s
  | .abortRetry c => Sys2Proof.Machine.execAbortRetry c s
  | .clearLatch c => Sys2Proof.Machine.execClearLatch c s
  | .ampGo mask => Sys2Proof.Machine.execAmpGo mask s
  | .ampHalt mask => Sys2Proof.Machine.execAmpHalt mask s
  | .carrierPeriod c => Sys2Proof.Machine.execCarrierPeriod c s
  | .overCurrent c positive count => Sys2Proof.Machine.execOverCurrent c positive count s
  | .driverFault c => Sys2Proof.Machine.execDriverFault c s
  | .retryTimer c => Sys2Proof.Machine.execRetryTimer c s
  | .diagRunDone c points => Sys2Proof.Machine.execDiagRunDone c points s
  | .retryCountReset c => Sys2Proof.Machine.execRetryCountReset c s
  | .ampClockLoss a => Sys2Proof.Machine.execAmpClockLoss a s
  | .railBelowWarning rail mv => Sys2Proof.Machine.execRailBelowWarning rail mv s
  | .braceEnd => Sys2Proof.Machine.execBraceEnd s
  | .supply rail => Sys2Proof.Machine.execSupply rail s
  | .powerOn rank wakeLow => Sys2Proof.Machine.execPowerOn rank wakeLow s
  | .pin => Sys2Proof.Machine.execPin s
  | .sysRstCtlReset key => Sys2Proof.Machine.execSysRstCtlReset key s
  | .lockstep => Sys2Proof.Machine.execLockstep s
  | .watchdog => Sys2Proof.Machine.execWatchdog s
  | .wake => Sys2Proof.Machine.execWake s
  | .railGroupReady g => Sys2Proof.Machine.execRailGroupReady g s
  | .railGroupTimeout g => Sys2Proof.Machine.execRailGroupTimeout g s
  | .startStepComplete r => Sys2Proof.Machine.execStartStepComplete r s
  | .s9ApllTimeout => Sys2Proof.Machine.execS9ApllTimeout s
  | .pwrGo target => Sys2Proof.Machine.execPwrGo target s
  | .sysPwrClearMin => Sys2Proof.Machine.execSysPwrClearMin s
  | .pwrTransitionComplete => Sys2Proof.Machine.execPwrTransitionComplete s
  | .offTimeout => Sys2Proof.Machine.execOffTimeout s
  | .bootCfgWrite value => Sys2Proof.Machine.execBootCfgWrite value s
  | .nvWriteDone => Sys2Proof.Machine.execNvWriteDone s
  | .bbAppend => Sys2Proof.Machine.execBbAppend s
  | .bbSuppressWindowEnd code => Sys2Proof.Machine.execBbSuppressWindowEnd code s
  | .bbClear key => Sys2Proof.Machine.execBbClear key s
  | .patinaMeasurement idx slackPs => Sys2Proof.Machine.execPatinaMeasurement idx slackPs s
  | .patinaRequestTimeout e => Sys2Proof.Machine.execPatinaRequestTimeout e s
  | .patinaHistoryPeriod => Sys2Proof.Machine.execPatinaHistoryPeriod s
  | .patinaCtlWrite value => Sys2Proof.Machine.execPatinaCtlWrite value s
  | .patinaClear => Sys2Proof.Machine.execPatinaClear s
  | .lcCtlGo key target => Sys2Proof.Machine.execLcCtlGo key target s
  | .lcProvCtlGo => Sys2Proof.Machine.execLcProvCtlGo s
  | .tamper idx => Sys2Proof.Machine.execTamper idx s
  | .tamperRearm idx => Sys2Proof.Machine.execTamperRearm idx s
  | .tamperCfgWrite value => Sys2Proof.Machine.execTamperCfgWrite value s
  | .mbTailWrite value => Sys2Proof.Machine.execMbTailWrite value s
  | .mailboxTimeout => Sys2Proof.Machine.execMailboxTimeout s
  | .mbPing => Sys2Proof.Machine.execMbPing s
  | .mbPwrSet => Sys2Proof.Machine.execMbPwrSet s
  | .mbReset => Sys2Proof.Machine.execMbReset s
  | .mbImgLoad => Sys2Proof.Machine.execMbImgLoad s
  | .mbImgVerify => Sys2Proof.Machine.execMbImgVerify s
  | .mbImgStatus => Sys2Proof.Machine.execMbImgStatus s
  | .mbImgMinSerial => Sys2Proof.Machine.execMbImgMinSerial s
  | .mbFlashUpdate => Sys2Proof.Machine.execMbFlashUpdate s
  | .flashUpdateDone ok => Sys2Proof.Machine.execFlashUpdateDone ok s
  | .mbParamSet => Sys2Proof.Machine.execMbParamSet s
  | .mbParamGet => Sys2Proof.Machine.execMbParamGet s
  | .mbParamSetRaw => Sys2Proof.Machine.execMbParamSetRaw s
  | .mbSceneLoad => Sys2Proof.Machine.execMbSceneLoad s
  | .mbSceneCapture => Sys2Proof.Machine.execMbSceneCapture s
  | .mbSceneClear => Sys2Proof.Machine.execMbSceneClear s
  | .mbSceneCast => Sys2Proof.Machine.execMbSceneCast s
  | .mbSceneCancel => Sys2Proof.Machine.execMbSceneCancel s
  | .mbSceneStatus => Sys2Proof.Machine.execMbSceneStatus s
  | .mbPlaceReplan => Sys2Proof.Machine.execMbPlaceReplan s
  | .mbPlaceFreeze => Sys2Proof.Machine.execMbPlaceFreeze s
  | .mbPlaceAdmit => Sys2Proof.Machine.execMbPlaceAdmit s
  | .mbPlaceStatus => Sys2Proof.Machine.execMbPlaceStatus s
  | .mbSapStart => Sys2Proof.Machine.execMbSapStart s
  | .mbSapStop => Sys2Proof.Machine.execMbSapStop s
  | .mbSapMask => Sys2Proof.Machine.execMbSapMask s
  | .mbSapRestart => Sys2Proof.Machine.execMbSapRestart s
  | .mbStreamEnable => Sys2Proof.Machine.execMbStreamEnable s
  | .mbAmpStart => Sys2Proof.Machine.execMbAmpStart s
  | .mbAmpStop => Sys2Proof.Machine.execMbAmpStop s
  | .mbAmpClear => Sys2Proof.Machine.execMbAmpClear s
  | .mbAmpDiag => Sys2Proof.Machine.execMbAmpDiag s
  | .mbAmpDiagRead => Sys2Proof.Machine.execMbAmpDiagRead s
  | .mbTbStatus => Sys2Proof.Machine.execMbTbStatus s
  | .mbTbJump => Sys2Proof.Machine.execMbTbJump s
  | .mbTbSource => Sys2Proof.Machine.execMbTbSource s
  | .mbCmpArm => Sys2Proof.Machine.execMbCmpArm s
  | .mbMeterRing => Sys2Proof.Machine.execMbMeterRing s
  | .mbLimitGr => Sys2Proof.Machine.execMbLimitGr s
  | .mbDetectState => Sys2Proof.Machine.execMbDetectState s
  | .mbBbRead => Sys2Proof.Machine.execMbBbRead s
  | .mbHealth => Sys2Proof.Machine.execMbHealth s
  | .mbLcStatus => Sys2Proof.Machine.execMbLcStatus s
  | .bar4Access w offset op => Sys2Proof.Machine.execBar4Access w offset op s
  | .pcieAtomicop w offset op => Sys2Proof.Machine.execPcieAtomicop w offset op s
  | .functionLevelReset => Sys2Proof.Machine.execFunctionLevelReset s
  | .pcieLinkLoss => Sys2Proof.Machine.execPcieLinkLoss s
  | .pcieLinkUp speed width => Sys2Proof.Machine.execPcieLinkUp speed width s
  | .msixPendingSend v => Sys2Proof.Machine.execMsixPendingSend v s
  | .regRead f => Sys2Proof.Machine.execRegRead f s
  | .regWrite f => Sys2Proof.Machine.execRegWrite f s
  | .mbSubmit f => Sys2Proof.Machine.execMbSubmit f s
  | .mbRead f => Sys2Proof.Machine.execMbRead f s
  | .status f => Sys2Proof.Machine.execStatus f s
  | .eventDelivery => Sys2Proof.Machine.execEventDelivery s
  | .evtQReset => Sys2Proof.Machine.execEvtQReset s
  | .evtQEnable enable => Sys2Proof.Machine.execEvtQEnable enable s
  | .tempMeasurement celsius => Sys2Proof.Machine.execTempMeasurement celsius s
  | .sysTempClearMax => Sys2Proof.Machine.execSysTempClearMax s
  | .registerWrite bar offset data => Sys2Proof.Machine.execRegisterWrite bar offset data s
  | .laneTrainingComplete l => Sys2Proof.Machine.execLaneTrainingComplete l s
  | .syncInterval n txTime => Sys2Proof.Machine.execSyncInterval n txTime s
  | .announceInterval n => Sys2Proof.Machine.execAnnounceInterval n s
  | .resetNReturnsHigh => Sys2Proof.Machine.execResetNReturnsHigh s
  | .badOpcode => Sys2Proof.Machine.execBadOpcode s
  | .badOp f => Sys2Proof.Machine.execBadOp f s
  | .poweredHours => Sys2Proof.Machine.execPoweredHours s

end Sys2Proof.Machine
end

