-- ==== Sys2Proof/Safety.lean ====
section
/-! DEFINITION. What a safe run is: every step answers a next state, and the chip's memory keeps its canonical
form. And the terms in which statements speak of an engine that issues one word. -/

namespace Sys2Proof

open Sys2Proof.Machine

/-- The step from a state stops neither with a fault nor with a refusal. -/
def Safe (s : State) : Prop := ∃ t, step s = .next t

/-- Chip memory and host memory list their bytes at strictly rising addresses, and chip memory lists no zero. -/
def MemoryCanonical (s : State) : Prop := s.mem.wf = true ∧ s.hostMem.rising = true

/-! ## An engine at the issue of one word -/

/-- The state in which the next word of an engine reads its registers: loop ends that wait are settled and the writes
in flight that fall due have landed (R157, R161). -/
def readState (s : State) (e : Fin 24) (n : NodeRec) : State :=
  landFlight e n (s.onEngine e fun g => { g with fg := g.fg.settle })

/-- The registers as the next word of an engine reads them. -/
def readCtx (s : State) (e : Fin 24) (n : NodeRec) : Ctx := ((readState s e n).engine e).fg

/-- Instructions of the program of a process. -/
def programLength (s : State) (n : NodeRec) : Nat := ((s.progOf n).map (fun p => p.code.length)).getD 0

/-- The engine runs node `n`, is neither halted, out, stalled nor waiting for memory, and its program counter lies in its
program (R126, R153, R174, R176, R428). -/
def CanIssue (s : State) (e : Fin 24) (n : NodeRec) : Prop :=
  s.fgNode e = some n ∧ (s.engine e).free = true ∧ (s.engine e).halted = false ∧
    (s.engine e).fg.settle.pc < programLength s n

/-- The state after a word that reaches no memory and ends no block work: its writes join those in flight, its flags are
set, one cycle is counted (R142), control goes on, and a first guard overflow of the block is reported (R168). -/
def afterWord (s : State) (e : Fin 24) (n : NodeRec) (r : Result) (f : Flow) : State :=
  let t := (readState s e n).onEngine e fun g =>
    { g with
      fg := ({ g.fg with
        sat := g.fg.sat || r.sat, gov := g.fg.gov || r.gov, cycles := g.fg.cycles + 1,
        bexp := match r.bexp with
          | some b => BitVec.ofNat 5 b
          | none => g.fg.bexp
        flight := g.fg.flight ++ r.writes, readWait := false }).advance f
      flags := (let x := if r.gov then setFlag g.flags 0 else g.flags
                if r.movaSat then setFlag x 1 else x) }
  if r.gov && !((readState s e n).engine e).govRaised then
    raise 0x6001 [v32 n.id] (t.onEngine e fun g => { g with govRaised := true })
  else t

/-- One register write, visible to the instruction `l` after this one (R156), and no flag. -/
def writes1 (l : Nat) (d : Dest) : Result :=
  { writes := [{ left := l, dest := d }], sat := false, gov := false, movaSat := false, bexp := none }

/-- A vector result visible after 2 instructions, with the saturation flag (R156, R170). -/
def writesVec (v : Fin 16) (f : Nat → Int) : Result :=
  { writes1 2 (.vec v ((List.range 16).map fun i => satWord (f i))) with
    sat := (List.range 16).any fun i => decide (f i < -(2 ^ 31) ∨ 2 ^ 31 ≤ f i) }

/-- A vector result visible after 2 instructions that cannot saturate. -/
def writesBits (v : Fin 16) (f : Nat → Word) : Result := writes1 2 (.vec v ((List.range 16).map f))

/-- A compare mask: vsel sees it after 2 instructions, conditional branches after 5 (R156). -/
def writesMask (m : BitVec 16) : Result :=
  { writes := [{ left := 2, dest := .cmaskSel m }, { left := 5, dest := .cmaskBr m }],
    sat := false, gov := false, movaSat := false, bexp := none }

/-- An accumulator result: compute slots see it after 1 instruction, scaled moves after 2 (R156). -/
def writesAcc (a : Fin 8) (ls : List AccLane) (gov : Bool) : Result :=
  { writes := [{ left := 1, dest := .accC a ls }, { left := 2, dest := .accM a ls }],
    sat := false, gov := gov, movaSat := false, bexp := none }

/-- The lane that R167 gives to an exact sum: the sum, or the bound with hold. -/
def boundLane (v : Int) : AccLane :=
  if 2 ^ 79 ≤ v then { v := BitVec.ofInt 80 (2 ^ 79 - 1), held := true }
  else if v < -(2 ^ 79) then { v := BitVec.ofInt 80 (-(2 ^ 79)), held := true }
  else { v := BitVec.ofInt 80 v, held := false }

/-- Accumulating `f` into the lanes of an accumulator under the hold rule, with the guard overflow (R167). -/
def accSum (a : Fin 8) (old : List AccLane) (f : Nat → Int) : Result :=
  writesAcc a
    ((List.range 16).map fun i => if (accAt old i).held then accAt old i else boundLane ((accAt old i).v.toInt + f i))
    ((List.range 16).any fun i =>
      !(accAt old i).held && decide ((accAt old i).v.toInt + f i < -(2 ^ 79) ∨ 2 ^ 79 ≤ (accAt old i).v.toInt + f i))

/-- The state after a word that reaches no memory, sets no flag and changes the engine's context by `f`: one cycle is
counted (R142). -/
def afterFlow (s : State) (e : Fin 24) (n : NodeRec) (f : Ctx → Ctx) : State :=
  (readState s e n).onEngine e fun g => { g with fg := f { g.fg with cycles := g.fg.cycles + 1, readWait := false } }

/-- A word with one move and two idle slots, the move in either move slot. -/
def loneMove (slot1 : Bool) : MovePeers := { c := .nop, other := .nop, slot1 := slot1 }

/-- The address of an access and the pointers after it, as the only access of a word (R184, R186). -/
def accessOf (c : Ctx) (a : Addr) (unit words : Nat) : List Word × Ptrs := formAddr c { p := c.p, mod := [] } a unit words

/-- The post-modified pointers of an access as writes visible to the next instruction (R156, R186). -/
def pointerWrites (q : Ptrs) : List InFlight :=
  q.mod.map fun k => { left := 1, dest := .sreg (.p k) (q.p.get k) }

/-- The write of an instruction's post-modified pointer, visible to the next instruction (R186). -/
def pointerWrite (p : Fin 8) (w : Word) : InFlight := { left := 1, dest := .sreg (.p p) w }

end Sys2Proof
end

