-- ==== Sys2Proof/Certificates/Slice0/Obligations.lean ====
section
/-! DEFINITION. The statements for the provers, family by family of the command table. -/

open Sys2Proof Sys2Proof.Machine

/-! ## The block, its queue and its memories -/

/-- Step takes the command at the front of the queue and executes it on the state with the queue's rest. -/
def Obligations.StepTakesTheFront : Prop :=
  ∀ (c : Instr) (s : State) (rest : List Instr),
    step { s with pending := c :: rest } = exec c { s with pending := rest }

/-- On an empty queue the block idles (the model's choice, log entry 1). -/
def Claim.EmptyQueueIdles : Prop :=
  ∀ s : State, s.pending = [] → step s = .next s

/-- No command is refused and none faults: every one answers a next state in every state. -/
def Claim.EveryCommandAnswers : Prop :=
  ∀ (c : Instr) (s : State), ∃ t, exec c s = .next t

/-- A step consumes exactly one command: no command adds to the queue or takes from it. -/
def Claim.StepConsumesOne : Prop :=
  ∀ (c : Instr) (s t : State), exec c s = .next t → t.pending = s.pending

/-- Memory is in its canonical form at reset. -/
def Claim.ResetMemoryCanonical : Prop := MemoryCanonical State.reset

/-- Every step keeps chip memory and host memory in their canonical form. -/
def Obligations.StepKeepsMemoryCanonical : Prop :=
  ∀ s t : State, MemoryCanonical s → step s = .next t → MemoryCanonical t

/-! ## Instruction words -/

/-- Reading the words that a well-formed instruction is written as gives that instruction back (R179 to R202). -/
def Obligations.WordRoundTrip : Prop :=
  ∀ (len pc : Nat) (i : Insn), i.wf len pc = true → readWord (writeWord i) = some i

/-! ## Signal engines -/

/-- VADD, VSUB, VABS and VNEG write the saturated lane results to vd and set sat when a lane saturates (R170, R188);
nothing else changes but the flow of the program and the cycle count. -/
def Claim.EngineSaturatingArithmetic : Prop :=
  ∀ (s : State) (e : Fin 24) (n : NodeRec) (vd va vb : Fin 16), CanIssue s e n →
    let x := fun i => lane ((readCtx s e n).v.get va) i
    let y := fun i => lane ((readCtx s e n).v.get vb) i
    exec (.seVadd e vd va vb .nop .nop) s = .next (afterWord s e n (writesVec vd fun i => x i + y i) .fall) ∧
    exec (.seVsub e vd va vb .nop .nop) s = .next (afterWord s e n (writesVec vd fun i => x i - y i) .fall) ∧
    exec (.seVabs e vd va .nop .nop) s = .next (afterWord s e n (writesVec vd fun i => |x i|) .fall) ∧
    exec (.seVneg e vd va .nop .nop) s = .next (afterWord s e n (writesVec vd fun i => -(x i)) .fall)

/-- VMIN, VMAX, VAND, VOR, VXOR, VSHL, VSRA and VSEL write their lane results to vd and set no flag (R188). -/
def Claim.EngineLaneOperations : Prop :=
  ∀ (s : State) (e : Fin 24) (n : NodeRec) (vd va vb : Fin 16) (k : Fin 32), CanIssue s e n →
    let x := fun i => nth ((readCtx s e n).v.get va) i 0
    let y := fun i => nth ((readCtx s e n).v.get vb) i 0
    let m := (readCtx s e n).cmask
    exec (.seVmin e vd va vb .nop .nop) s =
      .next (afterWord s e n (writesBits vd fun i => BitVec.ofInt 32 (min (x i).toInt (y i).toInt)) .fall) ∧
    exec (.seVmax e vd va vb .nop .nop) s =
      .next (afterWord s e n (writesBits vd fun i => BitVec.ofInt 32 (max (x i).toInt (y i).toInt)) .fall) ∧
    exec (.seVand e vd va vb .nop .nop) s = .next (afterWord s e n (writesBits vd fun i => x i &&& y i) .fall) ∧
    exec (.seVor e vd va vb .nop .nop) s = .next (afterWord s e n (writesBits vd fun i => x i ||| y i) .fall) ∧
    exec (.seVxor e vd va vb .nop .nop) s = .next (afterWord s e n (writesBits vd fun i => x i ^^^ y i) .fall) ∧
    exec (.seVshl e vd va k .nop .nop) s =
      .next (afterWord s e n (writesBits vd fun i => BitVec.ofNat 32 ((x i).toNat * 2 ^ k.val)) .fall) ∧
    exec (.seVsra e vd va k .nop .nop) s =
      .next (afterWord s e n (writesBits vd fun i => BitVec.ofInt 32 ((x i).toInt / 2 ^ k.val)) .fall) ∧
    exec (.seVsel e vd va vb .nop .nop) s =
      .next (afterWord s e n (writesBits vd fun i => if m.getLsbD i then x i else y i) .fall)

/-- VCMPEQ, VCMPLT and VCMPLE leave a mask whose bit k is the lane's comparison, seen by VSEL after 2 instructions and by
conditional branches after 5 (R156, R188). -/
def Claim.EngineCompares : Prop :=
  ∀ (s : State) (e : Fin 24) (n : NodeRec) (va vb : Fin 16), CanIssue s e n →
    let x := fun i => nth ((readCtx s e n).v.get va) i 0
    let y := fun i => nth ((readCtx s e n).v.get vb) i 0
    ∃ eq lt le : BitVec 16,
      exec (.seVcmpeq e va vb .nop .nop) s = .next (afterWord s e n (writesMask eq) .fall) ∧
      exec (.seVcmplt e va vb .nop .nop) s = .next (afterWord s e n (writesMask lt) .fall) ∧
      exec (.seVcmple e va vb .nop .nop) s = .next (afterWord s e n (writesMask le) .fall) ∧
      ∀ k, k < 16 → eq.getLsbD k = decide (x k = y k) ∧ lt.getLsbD k = decide ((x k).toInt < (y k).toInt) ∧
        le.getLsbD k = decide ((x k).toInt ≤ (y k).toInt)

/-- The accumulator operations on registers: MUL and CLR end hold; MAC, MSU, AADD and ASUB sum exactly under the hold
rule, and the first guard overflow of a block is reported (R166, R167, R168, R188). -/
def Obligations.EngineAccumulators : Prop :=
  ∀ (s : State) (e : Fin 24) (n : NodeRec) (a b : Fin 8) (va vb : Fin 16), CanIssue s e n →
    let c := readCtx s e n
    let p := fun i => lane (c.v.get va) i * lane (c.v.get vb) i
    exec (.seMul e a va (.reg vb) .nop .nop) s =
      .next (afterWord s e n
        (writesAcc a ((List.range 16).map fun i => { v := BitVec.ofInt 80 (p i), held := false }) false) .fall) ∧
    exec (.seMac e a va (.reg vb) .nop .nop) s = .next (afterWord s e n (accSum a (c.accC.get a) p) .fall) ∧
    exec (.seMsu e a va (.reg vb) .nop .nop) s =
      .next (afterWord s e n (accSum a (c.accC.get a) fun i => -(p i)) .fall) ∧
    exec (.seClr e a .nop .nop) s =
      .next (afterWord s e n (writesAcc a (List.replicate 16 { v := 0, held := false }) false) .fall) ∧
    exec (.seAadd e a b .nop .nop) s =
      .next (afterWord s e n (accSum a (c.accC.get a) fun i => (accAt (c.accC.get b) i).v.toInt) .fall) ∧
    exec (.seAsub e a b .nop .nop) s =
      .next (afterWord s e n (accSum a (c.accC.get a) fun i => -(accAt (c.accC.get b) i).v.toInt) .fall)

/-- The moves between registers of a word whose other slots are idle, in either move slot: scalar writes are visible after
3 instructions, vector writes after 2 (R156, R192); MOVE_NOP writes nothing. -/
def Claim.EngineRegisterMoves : Prop :=
  ∀ (s : State) (e : Fin 24) (n : NodeRec) (one : Bool), CanIssue s e n →
    let c := readCtx s e n
    let w := loneMove one
    let none' : Result := { writes := [], sat := false, gov := false, movaSat := false, bexp := none }
    exec (.seMoveNop e w) s = .next (afterWord s e n none' .fall) ∧
    exec (.seNop e .nop .nop) s = .next (afterWord s e n none' .fall) ∧
    (∀ (r : SReg) (k : Fin 8) (imm : BitVec 8), exec (.seLdi e r k imm w) s =
      .next (afterWord s e n (writes1 3 (.sreg r (BitVec.ofInt 32 (imm.toInt * 4 ^ k.val)))) .fall)) ∧
    (∀ (r : SReg) (win : Fin 64) (ofs : Fin 32), exec (.seLda e r win ofs w) s =
      .next (afterWord s e n
        (writes1 3 (.sreg r (BitVec.ofNat 32 (0x80000000 + win.val * 0x2000000 + 64 * ofs.val)))) .fall)) ∧
    (∀ (dst src : SReg), exec (.seMov e dst src w) s = .next (afterWord s e n (writes1 3 (.sreg dst (c.sreg src))) .fall)) ∧
    (∀ (vd vs : Fin 16), exec (.seVmov e vd vs w) s = .next (afterWord s e n (writes1 2 (.vec vd (c.v.get vs))) .fall)) ∧
    (∀ (k : Fin 2) (imm : BitVec 15), exec (.seLdc e k imm w) s =
      .next (afterWord s e n (writes1 3 (.sreg (.lc k) (imm.setWidth 32))) .fall)) ∧
    (∀ (a : Fin 8) (v : Fin 16) (sh : Fin 64), exec (.seMvta e a v sh w) s =
      .next (afterWord s e n
        { writes1 2 (.accBoth a ((List.range 16).map fun i => boundLane (lane (c.v.get v) i * 2 ^ sh.val))) with
          gov := (List.range 16).any fun i =>
            decide (lane (c.v.get v) i * 2 ^ sh.val < -(2 ^ 79) ∨ 2 ^ 79 ≤ lane (c.v.get v) i * 2 ^ sh.val) } .fall)) ∧
    (∀ (p : Fin 8) (d : Int), exec (.seAdv e p (.imm d) w) s =
      .next (afterWord s e n (writes1 1 (.sreg (.p p) (fold32 (c.b.get p) (c.l.get p) ((c.p.get p).toNat + d)))) .fall)) ∧
    (∀ p : Fin 8, exec (.seAdv e p .mod w) s =
      .next (afterWord s e n
        (writes1 1 (.sreg (.p p) (fold32 (c.b.get p) (c.l.get p) ((c.p.get p).toNat + (c.m.get p).toInt)))) .fall))

/-- MOVA: each lane is the accumulator lane shifted by s with ties to even and saturated, a held lane saturates always; sat
and the sticky flag follow, and bexp falls to the least redundancy while bexp_en is set (R169, R170, R171). -/
def Claim.EngineScaledMove : Prop :=
  ∀ (s : State) (e : Fin 24) (n : NodeRec) (one : Bool) (v : Fin 16) (a : Fin 8) (sh : Shift), CanIssue s e n →
    let c := readCtx s e n
    let w := loneMove one
    let amount : Int := max (-16) (min 63 (match sh with
      | .imm k => k
      | .mod k => (BitVec.ofNat 7 (c.m.get k).toNat).toInt))
    let acc := fun i => (accAt (c.accM.get a) i).v.toInt
    let held := fun i => (accAt (c.accM.get a) i).held
    let exact := fun i => if 0 ≤ amount then rne (acc i) (2 ^ amount.toNat) else acc i * (2 ^ (-amount).toNat : Nat)
    let word := fun i => if held i then BitVec.ofInt 32 (if acc i < 0 then -(2 ^ 31) else 2 ^ 31 - 1) else satWord (exact i)
    let sat := (List.range 16).any fun i => held i || decide (exact i < -(2 ^ 31) ∨ 2 ^ 31 ≤ exact i)
    let ws := (List.range 16).map word
    exec (.seMova e v a sh w) s = .next (afterWord s e n
      { writes := [{ left := 2, dest := .vec v ws }], sat := sat, gov := false, movaSat := sat,
        bexp := if c.bexpEn then some (ws.foldl (fun b x => min b (redundantBits x)) c.bexp.toNat) else none } .fall)

/-- BR, BC, CALL, RET and LOOP outside delay slots and the ends of loop bodies: a transfer opens two delay slots, a BC whose
condition fails goes on, a call pushes the index of the instruction after its delay slots, a return pops it, a loop enters its
body or skips it on a count of 0, and a taken BR or BC ends the loops whose body does not hold its target (R158, R160, R161,
R162, R189). -/
def Claim.EngineControl : Prop :=
  ∀ (s : State) (e : Fin 24) (n : NodeRec) (target : BitVec 13), CanIssue s e n →
    let c := readCtx s e n
    let t := target.toNat
    c.transfer = none → (∀ l ∈ c.loops, c.pc ≠ l.last ∧ c.pc + 1 ≠ l.last) →
    let branch : Ctx → Ctx := fun x =>
      { x with pc := x.pc + 1, transfer := some (t, 2), loops := x.loops.filter fun l => l.first ≤ t && t ≤ l.last }
    let on : Ctx → Ctx := fun x => { x with pc := x.pc + 1, atEnd := false }
    exec (.seBr e target .nop .nop) s = .next (afterFlow s e n branch) ∧
    exec (.seBc e .any target .nop .nop) s = .next (afterFlow s e n (if c.cmaskBr ≠ 0 then branch else on)) ∧
    exec (.seBc e .all target .nop .nop) s = .next (afterFlow s e n (if c.cmaskBr = 0xFFFF then branch else on)) ∧
    exec (.seBc e .notAny target .nop .nop) s = .next (afterFlow s e n (if c.cmaskBr = 0 then branch else on)) ∧
    exec (.seBc e .notAll target .nop .nop) s = .next (afterFlow s e n (if c.cmaskBr ≠ 0xFFFF then branch else on)) ∧
    (c.stack.length < 8 → exec (.seCall e target .nop .nop) s =
      .next (afterFlow s e n fun x =>
        { x with pc := x.pc + 1, transfer := some (t, 2), stack := (x.pc + 3) :: x.stack })) ∧
    (∀ r rest, c.stack = r :: rest → exec (.seRet e .nop .nop) s =
      .next (afterFlow s e n fun x => { x with pc := x.pc + 1, transfer := some (r, 2), stack := rest })) ∧
    (∀ k : Fin 2, c.loops.length = k.val → exec (.seLoop e k target .nop .nop) s =
      .next (afterFlow s e n fun x =>
        if x.lc.get k = 0 then { x with pc := t + 1, atEnd := decide (x.loops.head?.map (·.last) = some t) }
        else { x with pc := x.pc + 1, loops := { ctr := k, first := x.pc + 1, last := t } :: x.loops,
                      cache := ((x.pc + 1, t) :: x.cache.filter (· != (x.pc + 1, t))).take 2 }))

/-- A control opcode in a delay slot, or in the last two instructions of an active loop body, transfers nothing, pushes and
pops nothing, enters no loop and sets ctl_hazard; a transfer that waits takes place after its second delay slot (R159, R162). -/
def Claim.EngineSuppressedControl : Prop :=
  ∀ (s : State) (e : Fin 24) (n : NodeRec) (target : BitVec 13) (k : Cond) (i : Fin 2), CanIssue s e n →
    let c := readCtx s e n
    (c.transfer.isSome = true ∨ ∃ l ∈ c.loops, c.pc = l.last ∨ c.pc + 1 = l.last) →
    let skip := afterFlow s e n fun x => match x.transfer with
      | some (t, 1) => { x with ctlHazard := true, transfer := none, pc := t }
      | some (t, 0) => { x with ctlHazard := true, transfer := none, pc := t }
      | some (t, d + 2) => { x with ctlHazard := true, transfer := some (t, d + 1), pc := x.pc + 1 }
      | none => { x with ctlHazard := true, pc := x.pc + 1, atEnd := decide (x.loops.head?.map (·.last) = some x.pc) }
    exec (.seBr e target .nop .nop) s = .next skip ∧ exec (.seBc e k target .nop .nop) s = .next skip ∧
    exec (.seCall e target .nop .nop) s = .next skip ∧ exec (.seRet e .nop .nop) s = .next skip ∧
    exec (.seLoop e i target .nop .nop) s = .next skip

/-- LOOP_RETURN at the end of an iteration: with more iterations to come lcN falls by one and the body starts again, at no
cost where it and any enclosing body hold at most 32 instructions and otherwise for 3 cycles; after the last the loop ends
and lcN reads 0 (R161). -/
def Claim.LoopReturn : Prop :=
  ∀ (s : State) (e : Fin 24) (l : LoopSt) (outer : List LoopSt),
    (s.engine e).fg.atEnd = true → (s.engine e).fg.loops = l :: outer →
    (∀ o ∈ outer, o.first ≤ l.first ∧ l.last ≤ o.last) →
    let c := (s.engine e).fg
    let body := match outer with
      | [] => l.last + 1 - l.first
      | o :: _ => o.last + 1 - o.first
    exec (.loopReturn e) s = .next (s.onEngine e fun g =>
      if (c.lc.get l.ctr).toNat ≤ 1 then
        { g with fg := { c with
          lc := upd c.lc l.ctr (fun _ => 0), loops := outer, pc := l.last + 1,
          atEnd := outer.any (fun o => o.last == l.last) } }
      else
        { g with fg := { c with
          lc := upd c.lc l.ctr (fun x => x - 1), pc := l.first, atEnd := false,
          cycles := c.cycles + (if body ≤ 32 then 0 else 3) } })

/-- BLOCK_WORK_START of a PROC node: p0 to p3 hold the bases of windows 60 to 63, bexp is 31, every other register and field
of sr is zero, and the program starts at its entry (R139). -/
def Claim.BlockWorkStart : Prop :=
  ∀ (s : State) (e : Fin 24) (n : NodeRec) (p : ProcSt) (w : Nat),
    (s.engine e).idle = true → s.nextReady e = some (n, p, w) → n.type = .proc →
    ∃ t, exec (.blockWorkStart e) s = .next t ∧
      let c := (t.engine e).fg
      c.node = some n.id ∧ c.pc = ((s.progOf n).map (·.entry)).getD 0 ∧
      c.p = #v[0xF8000000, 0xFA000000, 0xFC000000, 0xFE000000, 0, 0, 0, 0] ∧
      c.m = Vector.replicate 8 0 ∧ c.l = Vector.replicate 8 0 ∧ c.b = Vector.replicate 8 0 ∧
      c.lc = Vector.replicate 2 0 ∧ c.v = Vector.replicate 16 (List.replicate 16 0) ∧
      c.accC = Vector.replicate 8 (List.replicate 16 { v := 0, held := false }) ∧ c.accM = c.accC ∧
      c.sr = 0xF8000000 ∧ c.flight = [] ∧ c.loops = [] ∧ c.stack = [] ∧ c.cycles = 0

/-- DONE: the block work ends, the cycles charged are the instructions, the stalls and 5, the output frames are those of the
output window and are published to every reader, and the engine takes up a displaced process or is free (R141, R142, R149);
stated for a process that has met no miss and restarts from none, within its declared cycles, with no store in flight and not
given up. -/
def Claim.EngineDone : Prop :=
  ∀ (s : State) (e : Fin 24) (n : NodeRec) (p : ProcSt) (w : Nat), CanIssue s e n →
    let c := readCtx s e n
    (s.engine e).fg.flight = [] → (s.engine e).fg.stale = false → s.proc? n.id e = some p → workIdx (s.ivl n) n = some w →
    p.misses = 0 → p.rampIn = 0 → s.released n p = true →
    c.cycles + 6 ≤ ((s.progOf n).map (·.cycles)).getD 0 →
    ∃ t, exec (.seDone e .nop .nop) s = .next t ∧
      t.framesAt n.id w = some (framesOfWindow c.outFrame n.outputs) ∧
      (t.engine e).cyclesNow = (s.engine e).cyclesNow + c.cycles + 6 ∧
      ((s.engine e).bg.node = none → (t.engine e).fg = Ctx.reset) ∧
      ((s.engine e).bg.node ≠ none → (s.engine e).parked = none → (t.engine e).fg = (s.engine e).bg) ∧
      (∀ k, k ≠ e → t.engine k = s.engine k) ∧
      t = { s with engines := t.engines, procs := t.procs, outs := t.outs }

/-- The address an access forms and the pointer it leaves: with a length of 0 linear modulo 2^32, else folded into the
circular buffer; the four modes and their post-modifies (R163, R164, R184). -/
def Claim.EngineAddressModes : Prop :=
  ∀ (c : Ctx) (p : Fin 8) (imm : Int) (unit words k : Nat), k < words →
    let at' := fun (d : Int) => (c.p.get p).toNat + d
    let fold := fun (v : Int) =>
      let len : Int := ((c.l.get p).toNat / 4 * 4 : Nat)
      if len = 0 then BitVec.ofInt 32 v
      else BitVec.ofInt 32 ((c.b.get p).toNat + (v - (c.b.get p).toNat) % len)
    let ptr := accessOf c { p := p, mode := .ptr, imm := imm } unit words
    let ofs := accessOf c { p := p, mode := .ofs, imm := imm } unit words
    let post := accessOf c { p := p, mode := .postImm, imm := imm } unit words
    let mod := accessOf c { p := p, mode := .postMod, imm := imm } unit words
    ptr.1[k]? = some (fold (at' (4 * k))) ∧ ptr.2.p = c.p ∧ ptr.2.mod = [] ∧
    ofs.1[k]? = some (fold (at' (imm * unit + 4 * k))) ∧ ofs.2.p = c.p ∧ ofs.2.mod = [] ∧
    post.1 = ptr.1 ∧ post.2.p = upd c.p p (fun _ => fold (at' (imm * unit))) ∧ post.2.mod = [p] ∧
    mod.1 = ptr.1 ∧ mod.2.p = upd c.p p (fun _ => fold (at' (c.m.get p).toInt)) ∧ mod.2.mod = [p]

/-- The loads VLD, VBC, VLDL and LD through translated words that meet no ECC error: the register takes the words read, after
2 instructions for a vector and 3 for a scalar; a post-modified pointer is visible to the next instruction; memory and every
other register keep their values; a vector that is not aligned or wraps costs one cycle more, and a read of shared memory
waits (R153, R156, R184, R186, R192, R193). -/
def Claim.EngineLoads : Prop :=
  ∀ (s : State) (e : Fin 24) (n : NodeRec) (one : Bool) (v l : Fin 16) (r : SReg) (a : Addr), CanIssue s e n →
    let u := readState s e n
    let c := readCtx s e n
    let w := loneMove one
    u.xbar.badUe = [] → u.xbar.badCe = [] →
    let loaded := fun (i : Instr) (q : Ptrs) (ls : List Loc) (cost : Nat) (f : InFlight) =>
      ∃ t, exec i s = .next t ∧
        (t.engine e).fg = ({ c with
          cycles := c.cycles + 1 + cost, flight := c.flight ++ pointerWrites q ++ [f]
          readWait := ls.any sharedLoc }).advance .fall ∧
        t = { u.onEngine e (fun g => { g with fg := (t.engine e).fg }) with placer := t.placer }
    (∀ ls, u.locs e n { addrs := (accessOf c a 64 16).1, vec := true, store := false, ld := false } = .ok ls →
      loaded (.seVld e v a w) (accessOf c a 64 16).2 ls (vectorStall (accessOf c a 64 16).1)
        { left := 2, dest := .vec v (ls.map (u.readLoc e n c)) }) ∧
    (∀ x, u.locs e n { addrs := (accessOf c a 4 1).1, vec := false, store := false, ld := false } = .ok [x] →
      loaded (.seVbc e v a w) (accessOf c a 4 1).2 [x] 0
        { left := 2, dest := .vec v (List.replicate 16 (u.readLoc e n c x)) } ∧
      loaded (.seVldl e v l a w) (accessOf c a 4 1).2 [x] 0 { left := 2, dest := .lane v l (u.readLoc e n c x) }) ∧
    (∀ x, (∀ op rd wr, x ≠ .atomic op rd wr) →
      u.locs e n { addrs := (accessOf c a 4 1).1, vec := false, store := false, ld := true } = .ok [x] →
      loaded (.seLd e r a w) (accessOf c a 4 1).2 [x] 0 { left := 3, dest := .sreg r (u.readLoc e n c x) })

/-- MUL, MAC and MSU with a memory operand: the words read at the operand's address stand in the place of the second
register, and the pointer is post-modified (R166, R167, R187, R188). -/
def Claim.EngineMemoryOperand : Prop :=
  ∀ (s : State) (e : Fin 24) (n : NodeRec) (acc : Fin 8) (va : Fin 16) (a : Addr) (ls : List Loc), CanIssue s e n →
    let u := readState s e n
    let c := readCtx s e n
    u.xbar.badUe = [] → u.xbar.badCe = [] →
    u.locs e n { addrs := (accessOf c a 64 16).1, vec := true, store := false, ld := false } = .ok ls →
    let p := fun i => lane (c.v.get va) i * lane (ls.map (u.readLoc e n c)) i
    let summed := fun (i : Instr) (r : Result) =>
      ∃ t, exec i s = .next t ∧
        (t.engine e).fg = ({ c with
          gov := c.gov || r.gov, cycles := c.cycles + 1 + vectorStall (accessOf c a 64 16).1,
          flight := c.flight ++ pointerWrites (accessOf c a 64 16).2 ++ r.writes
          readWait := ls.any sharedLoc }).advance .fall ∧
        (r.gov = true → (t.engine e).flags = setFlag (u.engine e).flags 0 ∧ (t.engine e).govRaised = true) ∧
        (r.gov = false → (t.engine e).flags = (u.engine e).flags) ∧ t.mem = u.mem
    summed (.seMul e acc va (.mem a) .nop .nop)
      (writesAcc acc ((List.range 16).map fun i => { v := BitVec.ofInt 80 (p i), held := false }) false) ∧
    summed (.seMac e acc va (.mem a) .nop .nop) (accSum acc (c.accC.get acc) p) ∧
    summed (.seMsu e acc va (.mem a) .nop .nop) (accSum acc (c.accC.get acc) fun i => -(p i))

/-- An LD through an atomic window with an operation changes the word at every location it is held at to the wrapped sum
(operation 1), the saturated sum (2) or the operand (3), the operand being the destination register's value; the register
takes the old word after 3 instructions and the engine waits as for a shared read (R402, R404). Stated with an empty write buffer,
whose stores to the word would come first. -/
def Claim.EngineAtomicLoad : Prop :=
  ∀ (s : State) (e : Fin 24) (n : NodeRec) (one : Bool) (r : SReg) (a : Addr) (op rd : Nat) (wr : List Nat),
    CanIssue s e n →
    let u := readState s e n
    let c := readCtx s e n
    u.xbar.badUe = [] → (u.engine e).wbuf = [] → (u.engine e).wbufWait = [] → op = 1 ∨ op = 2 ∨ op = 3 →
    u.locs e n { addrs := (accessOf c a 4 1).1, vec := false, store := false, ld := true } = .ok [.atomic op rd wr] →
    let old := engineWord u e rd
    let new := if op = 1 then old + c.sreg r else if op = 2 then satWord (old.toInt + (c.sreg r).toInt) else c.sreg r
    ∃ t, exec (.seLd e r a (loneMove one)) s = .next t ∧
      t.mem = wr.foldl (fun m x => m.putN x (leBytes 4 new.toNat)) u.mem ∧
      (t.engine e).fg = ({ c with
        cycles := c.cycles + 1,
        flight := c.flight ++ pointerWrites (accessOf c a 4 1).2 ++ [InFlight.mk 3 (.sreg r old)]
        readWait := true }).advance .fall ∧
      (∀ k, k ≠ e → t.engine k = u.engine k) ∧
      t = { u with engines := t.engines, mem := t.mem, red := t.red }

/-- The stores VST, VSTL and ST join the writes in flight for the second instruction after them, and no byte of memory changes
as they issue: VST its sixteen words, as one run of 64 bytes where the addresses are consecutive words of one 4 KiB page, VSTL one
lane and ST one register (R156, R192, R197). -/
def Claim.EngineStores : Prop :=
  ∀ (s : State) (e : Fin 24) (n : NodeRec) (one : Bool) (v l : Fin 16) (r : SReg) (a : Addr), CanIssue s e n →
    let u := readState s e n
    let c := readCtx s e n
    let w := loneMove one
    let stored := fun (i : Instr) (q : Ptrs) (cost : Nat) (fs : List InFlight) =>
      exec i s = .next (u.onEngine e fun g =>
        { g with fg := ({ c with
                   cycles := c.cycles + 1 + cost, flight := c.flight ++ pointerWrites q ++ fs, readWait := false }).advance .fall })
    (∀ ls a0, u.locs e n { addrs := (accessOf c a 64 16).1, vec := true, store := true, ld := false } = .ok ls →
      (accessOf c a 64 16).1.head? = some a0 → a0.toNat % 4096 ≤ 4032 → (c.v.get v).length = 16 →
      (∀ k, k < 16 → ((accessOf c a 64 16).1[k]?.map fun x => x.toNat / 4 * 4) = some (a0.toNat / 4 * 4 + 4 * k)) →
      stored (.seVst e v a w) (accessOf c a 64 16).2 (vectorStall (accessOf c a 64 16).1)
        [{ left := 2, dest := .store a0 (bytesOfWords (c.v.get v)) }]) ∧
    (∀ ls, u.locs e n { addrs := (accessOf c a 64 16).1, vec := true, store := true, ld := false } = .ok ls →
      stored (.seVst e v a w) (accessOf c a 64 16).2 (vectorStall (accessOf c a 64 16).1)
        ((storeRuns ((accessOf c a 64 16).1.zip (c.v.get v))).map fun d => InFlight.mk 2 d)) ∧
    (∀ x a0, u.locs e n { addrs := (accessOf c a 4 1).1, vec := false, store := true, ld := false } = .ok [x] →
      (accessOf c a 4 1).1 = [a0] →
      stored (.seVstl e v l a w) (accessOf c a 4 1).2 0
        [{ left := 2, dest := .store a0 (leBytes 4 (nth (c.v.get v) l.val 0).toNat) }] ∧
      stored (.seSt e r a w) (accessOf c a 4 1).2 0 [{ left := 2, dest := .store a0 (leBytes 4 (c.sreg r).toNat) }])

/-- A store in flight lands with the second instruction after it: in local memory exactly its bytes change and every other
address reads as before; a store to a shared bank enters the write buffer while it has room, and memory keeps its bytes until
WRITE_BUFFER_DRAIN (R112, R153, R197). -/
def Claim.EngineStoreLands : Prop :=
  ∀ (s : State) (e : Fin 24) (n : NodeRec) (a : Word) (bs : List Byte) (rd x : Nat), CanIssue s e n →
    (s.engine e).fg.flight = [{ left := 1, dest := .store a bs }] → s.mem.wf = true → s.red.seedSrc ≠ 3 →
    (s.translate e n a true false = .ok (.mem rd [x] false) →
      ∃ t, exec (.seNop e .nop .nop) s = .next t ∧ t.mem.getN x bs.length = bs ∧
        (∀ y, y < x ∨ x + bs.length ≤ y → t.mem.get y = s.mem.get y) ∧ (t.engine e).fg.flight = []) ∧
    (s.translate e n a true false = .ok (.mem rd [x] true) →
      (s.engine e).wbuf.length < 8 → (s.engine e).wbufWait = [] →
      ∃ t, exec (.seNop e .nop .nop) s = .next t ∧ t.mem = s.mem ∧
        (t.engine e).wbuf = (s.engine e).wbuf ++ [(x, bs)] ∧ (t.engine e).fg.flight = [])

/-- WRITE_BUFFER_DRAIN writes the oldest entry, exactly its bytes, and a write that waited enters, its stall counted in the
context that waits; SHARED_READ_RETURN ends the wait for a read and counts its cycles; block work that done has ended waits for
them and gives up the engine then (R142, R153, R604). The drain is stated for an address that no region in motion covers. -/
def Claim.EngineSharedMemory : Prop :=
  ∀ (s : State) (e : Fin 24) (a cycles : Nat) (bs : List Byte) (rest : List (Nat × List Byte)),
    let g := s.engine e
    (g.wbuf = (a, bs) :: rest → s.mem.wf = true → s.mirrorOf a = [] → g.fg.ended = false → g.bg.ended = false →
      g.bg.storeWait = false →
      ∃ t, exec (.writeBufferDrain e cycles) s = .next t ∧ t.mem.getN a bs.length = bs ∧
        (∀ y, y < a ∨ a + bs.length ≤ y → t.mem.get y = s.mem.get y) ∧
        (g.wbufWait = [] → t.engine e = { g with wbuf := rest }) ∧
        (∀ q more, g.wbufWait = q :: more → t.engine e = { g with
          wbuf := rest ++ [q], wbufWait := more,
          fg := { g.fg with cycles := g.fg.cycles + cycles, storeWait := g.fg.storeWait && !more.isEmpty } }) ∧
        t = { s with mem := t.mem, engines := upd s.engines e fun _ => t.engine e }) ∧
    (g.fg.readWait = true → g.bg.readWait = false → g.fg.ended = false → g.bg.ended = false →
      exec (.sharedReadReturn e cycles) s = .next (s.onEngine e fun g =>
        { g with fg := { g.fg with readWait := false, cycles := g.fg.cycles + cycles } })) ∧
    (g.fg.readWait = true → g.bg.readWait = false → g.fg.storeWait = false → g.fg.ended = true →
      ∃ t, exec (.sharedReadReturn e cycles) s = .next t ∧
        (t.engine e).fg = if g.bg.node.isSome && g.parked.isNone then g.bg else Ctx.reset)

/-- Faults of an access, for VLD (R126, R152, R173, R174): an address fault ends the block work with kind 2, its window and
offset, its cycles judged as those of any block (R143), and a region fault parks the context at the faulting instruction where none
is parked and frees the engine; no slot takes effect, and memory keeps every byte. -/
def Claim.EngineFaults : Prop :=
  ∀ (s : State) (e : Fin 24) (n : NodeRec) (v : Fin 16) (a : Addr) (one : Bool) (win ofs r : Nat), CanIssue s e n →
    let c := readCtx s e n
    let access : Access := { addrs := (accessOf c a 64 16).1, vec := true, store := false, ld := false }
    let i : Instr := .seVld e v a (loneMove one)
    let used := (s.engine e).fg.settle.cycles + 5
    let late := decide (((s.progOf n).map (·.cycles)).getD 0 < used)
    ((readState s e n).locs e n access = .error (.addr win ofs) →
      ∃ t, exec i s = .next t ∧ t.mem = s.mem ∧ (t.engine e).lastKind = 2 ∧
        (t.engine e).lastNode = BitVec.ofNat 20 n.id ∧ (t.engine e).lastWindow = BitVec.ofNat 6 win ∧
        (t.engine e).lastOfs = BitVec.ofNat 25 ofs ∧
        (t.engine e).flags = (if late then setFlag (setFlag (s.engine e).flags 2) 6 else setFlag (s.engine e).flags 2) ∧
        (t.engine e).cyclesNow = (s.engine e).cyclesNow + used) ∧
    ((readState s e n).locs e n access = .error (.region win r ofs) → (s.engine e).parked = none →
      (s.engine e).bg.node = none →
      ∃ t, exec i s = .next t ∧ t.mem = s.mem ∧ (t.engine e).lastKind = 1 ∧
        (t.engine e).faults = satInc32 (s.engine e).faults ∧
        (t.engine e).parked = some { region := r, offset := ofs, node := n.id } ∧
        (t.engine e).bg = (s.engine e).fg.settle ∧ (t.engine e).fg = Ctx.reset ∧
        t = { s with engines := upd s.engines e fun _ => t.engine e })

/-- A CALL with eight entries on the return stack, a RET with none, and a LOOP whose level is not free are stack faults: kind
3 and the sticky flag, no slot takes effect, and memory keeps every byte (R160, R162, R173, R174). -/
def Claim.EngineStackFaults : Prop :=
  ∀ (s : State) (e : Fin 24) (n : NodeRec) (target : BitVec 13) (k : Fin 2), CanIssue s e n →
    let c := readCtx s e n
    c.transfer = none → (∀ l ∈ c.loops, c.pc ≠ l.last ∧ c.pc + 1 ≠ l.last) →
    let late := decide (((s.progOf n).map (·.cycles)).getD 0 < (s.engine e).fg.settle.cycles + 5)
    let faults := fun (i : Instr) => ∃ t, exec i s = .next t ∧ t.mem = s.mem ∧ (t.engine e).lastKind = 3 ∧
      (t.engine e).lastNode = BitVec.ofNat 20 n.id ∧
      (t.engine e).flags = if late then setFlag (setFlag (s.engine e).flags 3) 6 else setFlag (s.engine e).flags 3
    (8 ≤ c.stack.length → faults (.seCall e target .nop .nop)) ∧ (c.stack = [] → faults (.seRet e .nop .nop)) ∧
    (c.loops.length ≠ k.val → faults (.seLoop e k target .nop .nop))

/-- Debug: a halt request is accepted only in DEVELOP or RETURN with an image whose debug flag is set, and raises
ENGINE_HALTED; SE_RESUME ends the halt, and a context whose block was given up meanwhile is gone; SE_STEP issues the
instruction at the program counter of a halted engine; and SE_CLEAR_STATS clears CYCLES_MAX and FAULTS (R142, R176). -/
def Obligations.EngineDebug : Prop :=
  ∀ (s : State) (e : Fin 24),
    let permitted := (s.cfg.lcState = .develop ∨ s.cfg.lcState = .ret) ∧ (s.img.loaded.map (·.debug)) = some true
    (permitted → (s.engine e).halted = false → exec (.seHaltReq e true) s =
      .next (raise 0x6007 [] (s.onEngine e fun g => { g with haltReq := true, halted := true }))) ∧
    (¬ permitted → ∃ t, exec (.seHaltReq e true) s = .next t ∧ (t.engine e).halted = (s.engine e).halted) ∧
    ((s.engine e).fg.stale = false → (s.engine e).bg.stale = false →
      exec (.seResume e) s = .next (s.onEngine e fun g => { g with halted := false })) ∧
    ((s.engine e).fg.stale = true → ∃ t, exec (.seResume e) s = .next t ∧ (t.engine e).fg = Ctx.reset ∧
      (t.engine e).halted = false) ∧
    (∀ (n : NodeRec) (p : ProgRec) (x : BitVec 64) (i : Insn), (s.engine e).halted = true → (s.engine e).free = true →
      s.fgNode e = some n → s.progOf n = some p → p.code[(s.engine e).fg.settle.pc]? = some x → readWord x = some i →
      exec (.seStep e) s = .next (issue e n i s)) ∧
    exec (.seClearStats e) s = .next (s.onEngine e fun g => { g with cyclesMax := 0, faults := 0 })

/-- A row of the instruction table issues its whole word: a compute row with the two move slots beside it, a move row with its
operation in either move slot and the slots beside it (R179, R180). -/
def Claim.EngineRowsIssueWords : Prop :=
  ∀ (s : State) (e : Fin 24) (m0 m1 : MoveOp) (w : MovePeers) (t : BitVec 13) (a b : Fin 8) (x y z : Fin 16) (q : MSrc)
    (r u : SReg) (ad : Addr),
    let word := fun (c : ComputeOp) =>
      (.next (issueWord e { c := c, m0 := m0, m1 := m1 } s) : Host.Outcome State Fault Refusal)
    let move := fun (m : MoveOp) => (.next (issueWord e
      (if w.slot1 = true then { c := w.c, m0 := w.other, m1 := m } else { c := w.c, m0 := m, m1 := w.other }) s) :
        Host.Outcome State Fault Refusal)
    exec (.seNop e m0 m1) s = word .nop ∧ exec (.seDone e m0 m1) s = word .done ∧ exec (.seRet e m0 m1) s = word .ret ∧
    exec (.seBr e t m0 m1) s = word (.br t.toNat) ∧ exec (.seCall e t m0 m1) s = word (.call t.toNat) ∧
    (∀ k, exec (.seBc e k t m0 m1) s = word (.bc k t.toNat)) ∧
    (∀ k, exec (.seLoop e k t m0 m1) s = word (.loop k t.toNat)) ∧
    exec (.seMul e a x q m0 m1) s = word (.mul a x q) ∧ exec (.seMac e a x q m0 m1) s = word (.mac a x q) ∧
    exec (.seMsu e a x q m0 m1) s = word (.msu a x q) ∧ exec (.seClr e a m0 m1) s = word (.clr a) ∧
    exec (.seAadd e a b m0 m1) s = word (.aadd a b) ∧ exec (.seAsub e a b m0 m1) s = word (.asub a b) ∧
    exec (.seVadd e x y z m0 m1) s = word (.vadd x y z) ∧ exec (.seVsub e x y z m0 m1) s = word (.vsub x y z) ∧
    exec (.seVabs e x y m0 m1) s = word (.vabs x y) ∧ exec (.seVneg e x y m0 m1) s = word (.vneg x y) ∧
    exec (.seVmin e x y z m0 m1) s = word (.vmin x y z) ∧ exec (.seVmax e x y z m0 m1) s = word (.vmax x y z) ∧
    exec (.seVand e x y z m0 m1) s = word (.vand x y z) ∧ exec (.seVor e x y z m0 m1) s = word (.vor x y z) ∧
    exec (.seVxor e x y z m0 m1) s = word (.vxor x y z) ∧
    (∀ k, exec (.seVshl e x y k m0 m1) s = word (.vshl x y k) ∧ exec (.seVsra e x y k m0 m1) s = word (.vsra x y k)) ∧
    exec (.seVsel e x y z m0 m1) s = word (.vsel x y z) ∧ exec (.seVcmpeq e x y m0 m1) s = word (.vcmpeq x y) ∧
    exec (.seVcmplt e x y m0 m1) s = word (.vcmplt x y) ∧ exec (.seVcmple e x y m0 m1) s = word (.vcmple x y) ∧
    exec (.seMoveNop e w) s = move .nop ∧ exec (.seVld e x ad w) s = move (.vld x ad) ∧
    exec (.seVst e x ad w) s = move (.vst x ad) ∧ exec (.seVbc e x ad w) s = move (.vbc x ad) ∧
    exec (.seVldl e x y ad w) s = move (.vldl x y ad) ∧ exec (.seVstl e x y ad w) s = move (.vstl x y ad) ∧
    exec (.seLd e r ad w) s = move (.ld r ad) ∧ exec (.seSt e r ad w) s = move (.st r ad) ∧
    (∀ sh, exec (.seMova e x a sh w) s = move (.mova x a sh)) ∧
    (∀ k imm, exec (.seLdi e r k imm w) s = move (.ldi r k imm.toInt)) ∧
    (∀ win ofs, exec (.seLda e r win ofs w) s = move (.lda r win ofs)) ∧ exec (.seMov e r u w) s = move (.mov r u) ∧
    exec (.seVmov e x y w) s = move (.vmov x y) ∧ (∀ sh, exec (.seMvta e a x sh w) s = move (.mvta a x sh)) ∧
    (∀ k imm, exec (.seLdc e k imm w) s = move (.ldc k imm)) ∧ (∀ d, exec (.seAdv e a d w) s = move (.adv a d))

/-- The slots of a word act together: each reads the registers as they stand before the word, their writes join those in
flight, each visible after its own number of instructions; a write of sr by a word that sets a flag leaves the flag set;
control goes as the compute slot says, whose move slots take effect also where it is suppressed (R156, R159, R180, R183). For
words whose slots reach no memory and move no pointer, other than done and a stack fault. -/
def Claim.EngineSlotsTogether : Prop :=
  ∀ (s : State) (e : Fin 24) (n : NodeRec) (c : ComputeOp) (m0 m1 : MoveOp), CanIssue s e n →
    c.addrs = [] → m0.uses = [] → m1.uses = [] → c ≠ .done →
    let x := readCtx s e n
    flowOf x c ≠ .stack →
    let r := (computeResult x c []).both ((moveResult x m0 [] []).both (moveResult x m1 [] []))
    issueWord e { c := c, m0 := m0, m1 := m1 } s =
      afterWord s e n { r with writes := r.writes.map (keepFlags r (match flowOf x c with
          | .hazard => true
          | _ => false)) } (flowOf x c)

/-! ## Clock and time -/

/-- The block counter of a domain's timebase counts one at each block boundary, staging opens for the next, and no other
timebase's counter moves, where no change of time and no new source is due at the boundary (R21, R22, R27). -/
def Obligations.BlockBoundaryCounts : Prop :=
  ∀ (s : State) (tb : Fin 4) (r : DomainRec), s.domOfTb tb = some r → 2 ≤ s.power.state.val →
    (∀ i ∈ (s.tb tb).staged, i.wait = 0 → i.item.isTime = false ∧ ∀ a b, i.item ≠ .tbSource a b) →
    ∃ t, exec (.blockBoundary tb) s = .next t ∧ (t.tb tb).blk = (s.tb tb).blk + 1 ∧ (t.tb tb).open_ = true ∧
      (∀ u, u ≠ tb → (t.tb u).blk = (s.tb u).blk) ∧ t.hostMem = s.hostMem

/-- INPUT_VALID and INPUT_LOST set and clear the valid flag of a clock input; a loss raises INPUT_FAULT, makes the source of
every timebase that uses the input invalid, and has a LOCKED or SYNTONISED one enter HOLDOVER at its next boundary (R291,
R300). XTAL_STOP and SYSREF_STOP switch references and raise their faults (R292). -/
def Obligations.ClockInputs : Prop :=
  ∀ (s : State) (k : Fin 2),
    let lost := fun (i : ClkInput) (t : State) =>
      (∀ u, ((s.tb u).uses i = true → t.tb u = { s.tb u with
          sourceValid := false, validRun := 0, goodRun := 0
          lostDue := if (s.tb u).state = .locked ∨ (s.tb u).state = .syntonised then some (s.tb u).source
                     else (s.tb u).lostDue }) ∧
        ((s.tb u).uses i = false → t.tb u = s.tb u)) ∧
      t = { s with clk := t.clk, ao := t.ao, evt := t.evt }
    exec (.inputValid (.ref k)) s = .next (s.onClk fun c => { c with refValid := upd c.refValid k fun _ => true }) ∧
    exec (.inputValid (.pps k)) s = .next (s.onClk fun c => { c with refValid := upd c.refValid k fun _ => true }) ∧
    (∃ t, exec (.inputValid (.wck k)) s = .next t ∧ t.clk.wckValid = (upd s.clk.wckValid k fun _ => true) ∧
      t = { s with clk := { s.clk with wckValid := t.clk.wckValid, wckRate := t.clk.wckRate } }) ∧
    (∃ t, exec (.inputLost (.ref k)) s = .next t ∧ t.clk.refValid = (upd s.clk.refValid k fun _ => false) ∧
      lost (.ref k) t) ∧
    (∃ t, exec (.inputLost (.pps k)) s = .next t ∧ t.clk.refValid = (upd s.clk.refValid k fun _ => false) ∧
      lost (.pps k) t) ∧
    (∃ t, exec (.inputLost (.wck k)) s = .next t ∧ t.clk.wckValid = (upd s.clk.wckValid k fun _ => false) ∧
      lost (.wck k) t) ∧
    exec .xtalStop s = .next (raise 0x100A [] (s.onClk fun c => { c with xtalOk := false, onSysref := true })) ∧
    exec .sysrefStop s = .next (raise 0x100B [] (s.onClk fun c => { c with sysrefOk := false, openLoop := true }))

/-- A write of a source in range is shown at once and takes effect at the next open boundary; accept and reject act only in
REFUSED, reject keeps the offset as SYNTONISED; set and adjust act only in FREE; a snap latches time and block counter; a
read of TBn_BLK_LO latches the high half (R21, R298, R302, R303, R305, R306). -/
def Claim.TimebaseWrites : Prop :=
  ∀ (s : State) (tb : Fin 4),
    let x := s.tb tb
    let staged := fun (i : StageItem) (y : Timebase) =>
      { y with staged := y.staged ++ [{ wait := if y.open_ then 0 else 1, item := i }] }
    (∀ (source : BitVec 3) (index : BitVec 5), s.sourceOk tb source.toNat index.toNat = true →
      exec (.tbSourceWrite tb source index) s = .next (s.onTb tb fun y =>
        staged (.tbSource source.toNat index.toNat) { y with source := source.toNat, index := index.toNat })) ∧
    (x.state = .refused → x.follows = none → exec (.tbAccept tb) s = .next (s.onTb tb (staged .tbAccept))) ∧
    (x.state ≠ .refused → exec (.tbAccept tb) s = .next s ∧ exec (.tbReject tb) s = .next s) ∧
    (x.state = .refused → x.follows = none → exec (.tbReject tb) s =
      .next (raise 0x1008 [v8 tb.val, vI64 x.offset]
        (s.onTb tb fun y => { y with state := .syntonised, kept := some x.offset, outRun := 0 }))) ∧
    (x.source = 0 → exec (.tbSet tb) s =
      .next (s.onTb tb (staged (.tbSet (x.setS.toNat * 1000000000 + x.setNs.toNat))))) ∧
    (∀ ns : Word, x.source = 0 → exec (.tbnAdj tb ns) s = .next (s.onTb tb fun y => { y with slew := y.slew + ns.toInt * 2 ^ 48 })) ∧
    (∀ ns : Word, x.source ≠ 0 → exec (.tbSet tb) s = .next s ∧ exec (.tbnAdj tb ns) s = .next s) ∧
    exec (.slewEnd tb) s = .next (s.onTb tb fun y => { y with slew := 0 }) ∧
    (∃ v, exec (.tbSnap tb 0) s = .next (s.onTb tb fun y => { y with snap := v, snapBlk := y.blk }) ∧
      v.sec.toNat = x.time / 2 ^ 48 / 1000000000 % 2 ^ 48 ∧ v.ns.toNat = x.time / 2 ^ 48 % 1000000000 ∧
      v.frac.toNat = x.time / 2 ^ 32 % 2 ^ 16) ∧
    (∀ n, ∃ v, exec (.tbSnap tb n) s = .next (s.onTb tb fun y => { y with snap := v, snapBlk := y.blk })) ∧
    exec (.tbBlkLoRead tb) s = .next (s.onTb tb fun y => { y with blkHi := y.blk.extractLsb' 32 16 })

/-- A measurement of a LOCKED timebase whose source has no alignment period: beyond jump_thr it is an outlier, and the fourth
in a row enters REFUSED with TIME_JUMP_REFUSED and the latest offset; within it, the servo takes a rate of at most 200 ppm
(R299). The first in ACQUIRING is applied as an accepted jump; the eighth in a row within 250 ns locks (R298). The 64th valid
one in HOLDOVER locks again where its offset lies within jump_thr, which a slew then removes (R301). -/
def Claim.TimebaseMeasurements : Prop :=
  ∀ (s : State) (tb : Fin 4) (o : Int),
    let x := s.tb tb
    x.follows = none → (x.source = 1 ∨ x.source = 5) →
    (x.state = .locked → (x.jumpThr : Int) < |o| → x.outRun < 3 →
      exec (.timebaseMeasurement tb o) s = .next (s.onTb tb fun y =>
        { y with offset := o, sourceValid := true, outliers := satInc16 y.outliers, outRun := y.outRun + 1 })) ∧
    (x.state = .locked → (x.jumpThr : Int) < |o| → 3 ≤ x.outRun →
      ∃ t, exec (.timebaseMeasurement tb o) s = .next t ∧ (t.tb tb).state = .refused ∧ (t.tb tb).refused = true ∧
        (t.tb tb).offset = o ∧ (t.tb tb).outliers = satInc16 x.outliers ∧ (t.tb tb).time = x.time ∧
        t = { s with clk := t.clk, ao := t.ao, evt := t.evt } ∧ ∀ u, u ≠ tb → t.tb u = s.tb u) ∧
    (x.state = .locked → |o| ≤ (x.jumpThr : Int) →
      ∃ t, exec (.timebaseMeasurement tb o) s = .next t ∧ (t.tb tb).state = .locked ∧ (t.tb tb).outRun = 0 ∧
        (t.tb tb).outliers = x.outliers ∧ |(t.tb tb).servoRate| ≤ 219902326 ∧
        t = { s with clk := t.clk, free := t.free } ∧ ∀ u, u ≠ tb → t.tb u = s.tb u) ∧
    (x.state = .acquiring → x.stepped = false →
      exec (.timebaseMeasurement tb o) s = .next (s.onTb tb fun y =>
        { y with offset := o, sourceValid := true, stepped := true
                 staged := y.staged ++ [{ wait := if y.open_ then 0 else 1, item := .tbFirst o }] })) ∧
    (x.state = .acquiring → x.stepped = true → |o| ≤ 250 → 7 ≤ x.goodRun →
      ∃ t, exec (.timebaseMeasurement tb o) s = .next t ∧ (t.tb tb).state = .locked ∧ (t.tb tb).offset = o ∧
        t = { s with clk := t.clk, ao := t.ao, evt := t.evt, free := t.free } ∧ ∀ u, u ≠ tb → t.tb u = s.tb u) ∧
    (x.state = .holdover → 63 ≤ x.validRun → |o| ≤ (x.jumpThr : Int) →
      ∃ t, exec (.timebaseMeasurement tb o) s = .next t ∧ (t.tb tb).state = .locked ∧ (t.tb tb).slew = o * 2 ^ 48 ∧
        (t.tb tb).time = x.time ∧ t = { s with clk := t.clk, ao := t.ao, evt := t.evt } ∧ ∀ u, u ≠ tb → t.tb u = s.tb u)

/-- The APLL: enabling one for a new use acquires by band_mode, disabling stops its clocks, reacquire starts again from the
seed; a search is six binary steps and one that verifies and fails with BAND_SEARCH_FAILED; a last-good band that has not
locked gives way to a search (R309, R310, R602). -/
def Claim.ApllSearch : Prop :=
  ∀ (s : State) (a : Fin 4),
    let x := s.apll a
    let start := fun (y : Apll) (last : Option (BitVec 6)) =>
      let z := { y with
        lfsr := if y.seed = 0 then 1 else y.seed, mash := Vector.replicate 3 0, carries := Vector.replicate 3 false, divStep := 0
        mclk := false, aligned := false, good := 0, bad := 0, step := 0 }
      if y.bandMode = 2 then { z with state := .acquiring, band := y.bandField, lastGood := false }
      else match last with
        | some b => if y.bandMode = 1 then { z with state := .acquiring, band := b, lastGood := true }
                    else { z with state := .searching, band := 0, lastGood := false }
        | none => { z with state := .searching, band := 0, lastGood := false }
    (x.enable = false → exec (.apllEnableWrite a true) s = .next (s.onApll a fun y =>
      start { y with enable := true, inUse := s.apllUse a }
        (s.cfg.lastBands.get (fin 8 (2 * a.val + (match s.apllUse a with
          | some (_, f) => if f then 1 else 0
          | none => 0)))))) ∧
    (x.enable = true → exec (.apllEnableWrite a false) s = .next (s.onApll a fun y =>
      { y with enable := false, state := .off, mclk := false, aligned := false, good := 0, bad := 0, inUse := none })) ∧
    (x.enable = true → exec (.apllReacquire a) s = .next (s.onApll a fun y =>
      start y (s.cfg.lastBands.get (s.bandIndex a)))) ∧
    (∀ m : BandMeas, x.state = .searching → x.step < 6 →
      exec (.bandSearchStep a m) s = .next (s.onApll a fun y =>
        { y with band := if m.below then y.band ||| BitVec.ofNat 6 (32 / 2 ^ y.step) else y.band, step := y.step + 1 })) ∧
    (∀ m : BandMeas, x.state = .searching → 6 ≤ x.step → exec (.bandSearchStep a m) s =
      .next (if m.inBand then s.onApll a fun y => { y with state := .acquiring, step := 0 }
             else raise 0x1003 [v8 a.val] (s.onApll a fun y => { y with state := .failed }))) ∧
    (x.state = .acquiring → x.lastGood = true → exec (.bandLockTimeout a) s = .next (s.onApll a fun y =>
      { y with state := .searching, band := 0, step := 0, good := 0, lastGood := false
               lfsr := if y.seed = 0 then 1 else y.seed, mash := Vector.replicate 3 0
               carries := Vector.replicate 3 false, divStep := 0 }))

/-- An APLL locks after 256 consecutive comparisons within 2 ns and, at the first sample that begins a block numbered by a
multiple of 64, aligns its dividers, so that mclk_valid is set; four in a row beyond 50 ns enter FREEZE with APLL_UNLOCKED,
from which it locks again under the same count without a new alignment (R311, R312). The modulator has run for the block, and its
fraction is the loop's, held in FREEZE (R309, R312). -/
def Claim.ApllLock : Prop :=
  ∀ (s : State) (a : Fin 4) (err : Int),
    let x := s.apll a
    let on := fun (y : Apll) => y.follow (s.compareCycles a) (x.inUse.elim 0 fun u => s.rateOf u.1) err
    (x.state = .acquiring → |err| ≤ 2000 → x.good < 255 →
      exec (.apllPhaseComparison a err) s = .next (s.onApll a fun y =>
        { on y with err := BitVec.ofInt 32 err, good := y.good + 1, bad := 0 })) ∧
    (x.state = .acquiring → |err| ≤ 2000 → 255 ≤ x.good →
      exec (.apllPhaseComparison a err) s = .next (s.onApll a fun y =>
        { on y with err := BitVec.ofInt 32 err, good := y.good + 1, bad := 0, state := .locked })) ∧
    (x.state = .acquiring → 2000 < |err| → exec (.apllPhaseComparison a err) s = .next (s.onApll a fun y =>
        { on y with err := BitVec.ofInt 32 err, good := 0, bad := 0 })) ∧
    (x.state = .locked → x.aligned = false → |err| ≤ 50000 → s.apllBlock a % 64 = 0 →
      ∃ t, exec (.apllPhaseComparison a err) s = .next t ∧ (t.apll a).mclk = true ∧ (t.apll a).aligned = true ∧
        (t.apll a).state = .locked ∧ t.mem = s.mem) ∧
    (x.state = .locked → x.aligned = true → |err| ≤ 50000 → exec (.apllPhaseComparison a err) s =
      .next (s.onApll a fun y => { on y with err := BitVec.ofInt 32 err, bad := 0 })) ∧
    (x.state = .locked → 50000 < |err| → 3 ≤ x.bad → exec (.apllPhaseComparison a err) s =
      .next (raise 0x1002 [v8 a.val, vI32 err]
        (s.onApll a fun y => { on y with err := BitVec.ofInt 32 err, state := .freeze, good := 0, bad := 0 }))) ∧
    (x.state = .freeze → (on x).frac = x.frac) ∧
    (x.state = .freeze → |err| ≤ 2000 → 255 ≤ x.good → exec (.apllPhaseComparison a err) s =
      .next (s.onApll a fun y => { on y with err := BitVec.ofInt 32 err, state := .locked, good := y.good + 1, bad := 0 }))

/-- A compare unit armed in time waits for its boundary; armed too late it sets late, raises CMP_LATE, and a one-shot clears
arm while a periodic one waits for the first later boundary of its period that it can meet (R313). A captured edge joins the
FIFO of 64, or is counted as a drop and reported once a run; a pop takes the oldest (R317). A GPIO pulse ends (R315). -/
def Claim.CompareAndCapture : Prop :=
  ∀ (s : State) (u : Fin 16) (pin : Fin 32) (rising : Bool) (time : TbTime),
    let c := s.clk.cmps.get u
    let first := (s.tb c.tb).blk.toNat + (if (s.tb c.tb).open_ then 1 else 2)
    let enabled := if rising then s.clk.capRise.getLsbD pin.val else s.clk.capFall.getLsbD pin.val
    exec (.cmpArmWrite u false) s = .next (s.onCmp u fun x => { x with arm := false, owed := false }) ∧
    (s.isCluster = false → first ≤ c.blk.toNat →
      exec (.cmpArmWrite u true) s = .next (s.onCmp u fun x => { x with arm := true, due := x.blk, owed := false })) ∧
    (s.isCluster = false → c.blk.toNat < first → ∃ due,
      exec (.cmpArmWrite u true) s = .next (raise 0x100D [v8 u.val, v64 c.blk.toNat]
        (s.onCmp u fun x =>
          { x with late := true, arm := decide (x.period ≠ 0), due := BitVec.ofNat 48 due, owed := false })) ∧
      (c.period ≠ 0 → first ≤ due ∧ due < first + c.period.toNat ∧ (due - c.blk.toNat) % c.period.toNat = 0)) ∧
    (enabled = true → s.clk.caps.length < 64 → exec (.gpioEdge pin rising time) s = .next (s.onClk fun x =>
      { x with caps := x.caps ++ [{ pin := pin, rising := rising, tb := x.capTb, time := time }] })) ∧
    (enabled = true → 64 ≤ s.clk.caps.length → ∃ t, exec (.gpioEdge pin rising time) s = .next t ∧
      t.clk = { s.clk with capDrops := satInc32 s.clk.capDrops, capRun := true } ∧
      (s.clk.capRun = true → t = { s with clk := t.clk }) ∧
      (s.clk.capRun = false → t = raise 0x100F [] { s with clk := t.clk })) ∧
    (enabled = false → exec (.gpioEdge pin rising time) s = .next s) ∧
    exec .gpioCapPop s = .next (s.onClk fun x =>
      { x with caps := x.caps.drop 1, capRun := x.capRun && decide (1 < x.caps.length) }) ∧
    exec (.gpioPulseEnd u) s = .next (s.onEvt fun v => { v with gpioPulse := upd v.gpioPulse u fun _ => 0 })

/-- HANDSHAKE_TRANSFER on a channel whose islands are up: what is sent joins the FIFO while it has room, and a delivery
takes the oldest (R13); on a fenced channel what is sent is discarded and a read sets the error flag (R15). -/
def Claim.HandshakeChannels : Prop :=
  ∀ (s : State) (src dst : Fin 59) (data : List Byte),
    let c := s.channel src dst
    let up := s.islandDown src.val = false ∧ s.islandDown dst.val = false
    let after := fun (c' : HsChan) => ({ s with
      hs := c' :: s.hs.filter fun x => !(x.src == src && x.dst == dst) } : State)
    (up → c.wait = none → c.fifo.length < fifoDepth src dst → exec (.handshakeTransfer src dst (.send data)) s =
      .next (after { c with fifo := c.fifo ++ [data] })) ∧
    (up → c.wait = none → fifoDepth src dst ≤ c.fifo.length → exec (.handshakeTransfer src dst (.send data)) s =
      .next (after { c with wait := some data })) ∧
    (up → ∀ x rest, c.fifo = x :: rest → exec (.handshakeTransfer src dst .deliver) s =
      .next (after { c with fifo := rest ++ c.wait.toList, out := x :: c.out, wait := none })) ∧
    (¬ up → exec (.handshakeTransfer src dst (.send data)) s = .next (after { c with fifo := [], wait := none }) ∧
      exec (.handshakeTransfer src dst .read) s = .next (after { c with fifo := [], wait := none, error := true }))

/-! ## The interval, the fabric, parameters and meters -/

/-- STAGING_CLOSE closes staging of one timebase and touches nothing else but the casts and their events (R27);
SOURCE_BLOCK_CLOSE closes the SOURCE blocks of an interval once (R379); the pacing tick passes one pacing interval of absolute
time, reports the saturation of the fabric that fell into the one that ends, and opens the event limits that count in it
(R211, R410, R425). -/
def Obligations.IntervalCommands : Prop :=
  ∀ (s : State) (tb : Fin 4),
    (∃ t, exec (.stagingClose tb) s = .next t ∧ (t.tb tb).open_ = false ∧ (t.tb tb).blk = (s.tb tb).blk ∧
      (t.tb tb).staged = (s.tb tb).staged ∧ (∀ u, u ≠ tb → t.tb u = s.tb u) ∧
      t = { s with clk := t.clk, scene := t.scene, red := t.red, ao := t.ao, evt := t.evt }) ∧
    (∀ r, s.domOfTb tb = some r → s.asleep = false → (s.tb tb).srcClosed = false →
      ∃ t, exec (.sourceBlockClose tb) s = .next t ∧ t.tb tb = { s.tb tb with srcClosed := true } ∧
        (∀ u, u ≠ tb → t.tb u = s.tb u) ∧ t.mem = s.mem ∧ t.saps = s.saps ∧ t.procs = s.procs) ∧
    ((s.tb tb).srcClosed = true → exec (.sourceBlockClose tb) s = .next s) ∧
    (2 ≤ s.power.state.val → ∃ t, exec .pacingTick s = .next t ∧ t.now = s.now + s.pacingTicks ∧
      t.xbar.ceRaised = false ∧ t.fabric.satNow = none ∧ t.hostMem = s.hostMem)

/-- The send deadline: a process that has not finished is abandoned, each of its outputs is the fade (7 − i) × y / 8 of its
last sample with convergent rounding, and zero from the second miss on; the miss is counted, and the engine's contexts are
discarded, but for those of a halted engine, which keeps its snapshot (R127, R128, R176); stated for one running PROC that
is not CRITICAL. -/
def Obligations.SendDeadline : Prop :=
  ∀ (s : State) (tb : Fin 4) (r : DomainRec) (p : ProcSt) (n : NodeRec) (w : Nat),
    s.domOfTb tb = some r → 3 ≤ s.power.state.val → s.procs = [p] → s.red.pairs = [] → s.placer.moves = [] →
    s.node? p.node = some n → n.domain = r.dom → n.type = .proc → (∀ k ∈ s.nodes, k.id = n.id → k = n) →
    n.before = false → p.isNew = false →
    p.out = none → p.stopped = false → workIdx (s.ivl n) n = some w →
    let y := fun k => (nth p.last k 0).toInt
    let frames := (List.range n.outputs).map fun k => (List.range 8).map fun i =>
      if p.misses = 0 then BitVec.ofInt 32 (rne ((7 - i) * y k) 8) else 0
    ∃ t, exec (.sendDeadline tb) s = .next t ∧ t.framesAt n.id w = some frames ∧
      (∃ q, t.procs = [q] ∧ q.out = some frames ∧ q.misses = p.misses + 1 ∧ q.missedNow = true) ∧
      t.placer.misses = satInc32 s.placer.misses ∧
      ((s.engine p.engine).halted = false →
        (t.engine p.engine).fg = Ctx.reset ∧ (t.engine p.engine).bg = Ctx.reset ∧ (t.engine p.engine).parked = none) ∧
      ((s.engine p.engine).halted = true → (s.engine p.engine).fg.node.isSome = true →
        (t.engine p.engine).fg = { (s.engine p.engine).fg with stale := true })

/-- A source frame reaches a SUM through one SEND: the exact products with the coefficient that moves from c_start to c_end
join the accumulator, and with the last source the SUM's output is the sum over 2^27 rounded to nearest even and saturated; a
saturation sets the SUM's bit and keeps the lowest SUM of the interval for its event; coefficients that lie in fabric memory
(R209, R211, R213). -/
def Claim.FabricSum : Prop :=
  ∀ (s : State) (node out : Nat) (sum k : NodeRec) (x : SumSt) (w : Nat) (fs : List Frame),
    s.sumsOfEdge (node, out) = [sum] → s.sumSt? sum.id = some x → workIdx (s.ivl sum) sum = some w →
    x.done = false → (node, out) ∉ x.got → s.framesAt node w = some fs →
    (s.sendsOf sum.id).filter (fun n => n.inputs.contains (node, out)) = [k] → aget s.fabric.spilled k.id = none →
    let c := s.sendSt k.id
    let sample := fun i => (nth (nth fs out silence) i 0).toInt
    let acc := (List.range 8).map fun i =>
      x.acc.getD i 0 + sample i * (c.cStart.toInt + rne ((c.cEnd.toInt - c.cStart.toInt) * (i + 1)) 8)
    let x' : SumSt := { x with acc := acc, got := (node, out) :: x.got }
    let all := ∀ n ∈ s.sendsOf sum.id, ∀ e ∈ n.inputs, e ∈ x'.got
    (¬ all → exec (.fabricSourceFrame node out) s = .next (s.onSum sum.id fun _ => x')) ∧
    (all → s.limitsOf sum.id = [] → s.sumMisses sum.id = 0 →
      let y := fun i => rne (acc.getD i 0) (2 ^ 27)
      ∃ t, exec (.fabricSourceFrame node out) s = .next t ∧
        t.framesAt sum.id w = some [(List.range 8).map fun i => satWord (y i)] ∧
        ((∃ i, i < 8 ∧ (y i < -(2 ^ 31) ∨ 2 ^ 31 ≤ y i)) → s.sumIndex sum.id < 1024 →
          (getN t.fabric.sumSat (s.sumIndex sum.id / 32) 0).getLsbD (s.sumIndex sum.id % 32) = true) ∧
        ((∃ i, i < 8 ∧ (y i < -(2 ^ 31) ∨ 2 ^ 31 ≤ y i)) →
          t.fabric.satNow = some (min sum.id (s.fabric.satNow.getD sum.id))) ∧
        ((∀ i, i < 8 → -(2 ^ 31) ≤ y i ∧ y i < 2 ^ 31) →
          t.fabric.sumSat = s.fabric.sumSat ∧ t.fabric.satNow = s.fabric.satNow) ∧
        t = { s with outs := t.outs, fabric := t.fabric })

/-- The coefficient for sample i of a block is c_start + rne((c_end − c_start) × (i + 1) / 8), the nearest integer to the exact
value; c[7] equals c_end, and no coefficient lies outside the two ends (R213). -/
def Obligations.SendInterpolation : Prop :=
  ∀ x : SendSt,
    (∀ i, i < 8 → sendCoeff x i = x.cStart.toInt + rne ((x.cEnd.toInt - x.cStart.toInt) * ((i : Int) + 1)) 8 ∧
      2 * |8 * (sendCoeff x i - x.cStart.toInt) - (x.cEnd.toInt - x.cStart.toInt) * ((i : Int) + 1)| ≤ 8 ∧
      min x.cStart.toInt x.cEnd.toInt ≤ sendCoeff x i ∧ sendCoeff x i ≤ max x.cStart.toInt x.cEnd.toInt) ∧
    sendCoeff x 7 = x.cEnd.toInt

/-- Every output sample of a LIMIT node satisfies |y[i]| ≤ thr, whatever the input, the state and the release (R221). -/
def Obligations.LimitNeverExceeds : Prop :=
  ∀ (thr kq : Nat) (x : Frame) (l : LimitSt), 256 ≤ thr → thr ≤ 2 ^ 31 - 1 →
    ∀ y ∈ (limitBlock thr kq x l).1, |y.toInt| ≤ thr

/-- Fabric completion of a SUM: one that is not complete outputs the substitute of its own last sample in the first block it
misses and zero in further ones, and counts an overrun; one with no sends outputs zero (R209, R219). Stated for a domain with
one SUM that no LIMIT node reads. -/
def Claim.FabricCompletion : Prop :=
  ∀ (s : State) (tb : Fin 4) (r : DomainRec) (n : NodeRec) (x : SumSt) (w : Nat),
    s.domOfTb tb = some r → 3 ≤ s.power.state.val →
    s.nodes.filter (fun n => n.type == .sum && n.domain == r.dom) = [n] →
    s.sumSt? n.id = some x → workIdx (s.ivl n) n = some w → x.done = false → s.limitsOf n.id = [] →
    let y := (((s.outs.find? fun (o : NodeOut) => o.node == n.id).map fun (o : NodeOut) => nth o.last 0 0).getD 0).toInt
    (s.sendsOf n.id ≠ [] → ∃ t, exec (.fabricCompletion tb) s = .next t ∧
      t.framesAt n.id w = some [(List.range 8).map fun i =>
        if s.sumMisses n.id = 0 then BitVec.ofInt 32 (rne ((7 - i) * y) 8) else 0] ∧
      t.sumMisses n.id = s.sumMisses n.id + 1 ∧ t.fabric.overruns = satInc32 s.fabric.overruns) ∧
    (s.sendsOf n.id = [] → x.acc = List.replicate 8 0 → ∃ t, exec (.fabricCompletion tb) s = .next t ∧
      t.framesAt n.id w = some [silence] ∧ t.fabric.overruns = s.fabric.overruns)

/-- A linear RAMP of N blocks: the end of its k-th block is v0 + rne((v1 − v0) × k / N), never outside its endpoints; block N
gives exactly the target, and the parameter is steady from the block after (R229, R230). -/
def Claim.RampBlocks : Prop :=
  ∀ (q : ParamSt) (v0 : Word) (n k : Nat), q.trans = .ramp v0 0 n false → 1 ≤ k → k ≤ n →
    let x := (ParamSt.advance false)^[k] q
    let v1 := q.target
    x.value.toInt = v0.toInt + rne ((v1.toInt - v0.toInt) * k) n ∧
    min v0.toInt v1.toInt ≤ x.value.toInt ∧ x.value.toInt ≤ max v0.toInt v1.toInt ∧ x.target = v1 ∧
    (k = n → x.value = v1 ∧ x.enter.trans = .steady ∧ x.enter.value = v1 ∧ x.enter.start = v1)

/-- The timed ends of transitions and detectors: RAMP_COMPLETE leaves a ramp that has reached its last block at its target
(R229); STEP_ZC_TIMEOUT has a waiting value apply from the next boundary (R235); XFADE_COMPLETE leaves only the incoming tap,
which is then selected (R242); DETECT_ENTER_SILENT enters SILENT after hold silent blocks and notes the change (R253, R255).
Nothing else changes. -/
def Claim.TimedEnds : Prop :=
  ∀ (s : State) (p : PAddr) (node : Nat),
    (∃ t, exec (.rampComplete p) s = .next t ∧ t = { s with scene := { s.scene with params := t.scene.params } } ∧
      t.scene.params.length = s.scene.params.length ∧
      ∀ (i : Nat) (q : ParamSt), s.scene.params[i]? = some q →
        (∀ v0 k n law, q.decl.paddr = p → q.trans = .ramp v0 k n law → n ≤ k →
          t.scene.params[i]? = some { q with value := q.target, trans := .steady }) ∧
        (q.decl.paddr ≠ p → t.scene.params[i]? = some q)) ∧
    (∃ t, exec (.stepZcTimeout p) s = .next t ∧ t = { s with scene := { s.scene with params := t.scene.params } } ∧
      t.scene.params.length = s.scene.params.length ∧
      ∀ (i : Nat) (q : ParamSt), s.scene.params[i]? = some q →
        (∀ v left, q.decl.paddr = p → q.trans = .zc v left false → left ≤ 8 →
          ∃ x, t.scene.params[i]? = some x ∧ x = { q with trans := .zc v 0 false } ∧
            x.enter = { q with start := v, value := v, trans := .steady, held := none }) ∧
        (q.decl.paddr ≠ p → t.scene.params[i]? = some q)) ∧
    (∃ t, exec (.xfadeComplete node) s = .next t ∧ t = { s with procs := t.procs } ∧
      t.procs.length = s.procs.length ∧
      ∀ (i : Nat) (q : ProcSt), s.procs[i]? = some q →
        (∀ f, q.node = node → q.fade = some f → f.n ≤ f.c → t.procs[i]? = some { q with sel := f.inn, fade := none }) ∧
        (q.node ≠ node → t.procs[i]? = some q)) ∧
    (∀ n q, s.node? node = some n → n.type = .detect → q ∈ s.procs → q.node = node → q.silent = false →
      (s.pval n 2).toNat ≤ q.silentRun →
      exec (.detectEnterSilent node) s = .next
        ((s.onNode node fun x => { x with silent := true }).onEvt fun v =>
          { v with detChanges := v.detChanges ++ [(node, true)] }))

/-- METER_PERIOD_END produces the record of the oldest period whose last block every METER node of the domain has processed:
the next sequence number, 8 samples a block, and one entry for each node with its own values, in ascending slot order; a period
that a node has not finished waits, a domain without METER nodes has a record without entries, and a disabled ring takes none
(R249 to R251). -/
def Claim.MeterPeriod : Prop :=
  ∀ (s : State) (dom : Fin 4) (b : BitVec 48),
    let ms := s.meters dom
    let fresh := ∀ r ∈ s.evt.mRecs, ¬ (r.dom = dom ∧ r.block = b)
    (∀ (val : NodeRec × List MeterVal → MeterVal) (n : NodeRec) (early late : List MeterVal) (v : MeterVal)
        (rest : List (NodeRec × List MeterVal)),
      ms = (n, early ++ v :: late) :: rest → v.block = b →
      (∀ u ∈ early, u.block ≠ b ∧ ∃ m ∈ rest, ∀ x ∈ m.2, x.block ≠ u.block) →
      (∀ m ∈ ms, m.2.find? (fun x => x.block == b) = some (val m)) → fresh →
      ∃ t, exec (.meterPeriodEnd dom) s = .next t ∧ t = { s with evt := t.evt, procs := t.procs } ∧
        t.procs = (s.procs.map fun p => if ∃ m ∈ ms, m.1.id = p.node then
          { p with mDone := p.mDone.filter fun x => decide (b.toNat < x.block.toNat) } else p) ∧
        (s.evt.mEnable = false → t.evt = { s.evt with mLast := aset s.evt.mLast dom.val b.toNat }) ∧
        (s.evt.mEnable = true → ∃ r, t.evt = { s.evt with
            mLast := aset s.evt.mLast dom.val b.toNat, mRecs := s.evt.mRecs ++ [r], mSeq := s.evt.mSeq + 1 } ∧
          r.dom = dom ∧ r.block = b ∧ r.seq = s.evt.mSeq ∧
          (∀ k, (∀ m ∈ ms, (val m).blocks = k) → r.samples = 8 * k) ∧
          r.entries.Perm (ms.map fun m => (m.1.bodyRef, (val m).peak, (val m).rms, (val m).flags)) ∧
          (r.entries.map (·.1)).Pairwise (· ≤ ·))) ∧
    (∀ (n : NodeRec) (vs : List MeterVal) (rest : List (NodeRec × List MeterVal)), ms = (n, vs) :: rest →
      (∀ u ∈ vs, ∃ m ∈ rest, ∀ x ∈ m.2, x.block ≠ u.block) → exec (.meterPeriodEnd dom) s = .next s) ∧
    (ms = [] → (s.domain? dom).isSome = true → (s.tb (s.tbOf dom)).blk.toNat % s.evt.period = 0 →
      b = (s.tb (s.tbOf dom)).blk - 1 → fresh → aget s.evt.mLast dom.val ≠ some b.toNat → s.evt.mEnable = true →
      ∃ t r, exec (.meterPeriodEnd dom) s = .next t ∧ t.evt.mRecs = s.evt.mRecs ++ [r] ∧ t.evt.mSeq = s.evt.mSeq + 1 ∧
        r.dom = dom ∧ r.block = b ∧ r.seq = s.evt.mSeq ∧ r.entries = [] ∧ t.hostMem = s.hostMem)

/-- METER_RECORD_WRITE writes the record whole at the write offset, after a pad record where it would straddle the end of the
ring, and moves the write offset past it; a record that does not fit is dropped whole and counted, reported once a run; host
memory changes nowhere else; with no record waiting nothing happens (R251). -/
def Claim.MeterRecordWrite : Prop :=
  (∀ (s : State) (dom : Fin 4), s.evt.mRecs.find? (fun x => x.dom == dom) = none →
    exec (.meterRecordWrite dom) s = .next s) ∧
  ∀ (s : State) (dom : Fin 4) (r : MeterRec), s.evt.mEnable = true → s.hostMem.rising = true →
    s.evt.mRecs.find? (fun x => x.dom == dom) = some r →
    let size := 2 ^ s.evt.mLog2
    let wr := s.evt.mWr.toNat
    let len := r.bytes.length
    let pad := if size < wr + len then size - wr else 0
    let free := size - 64 - (wr + size - s.evt.mRd.toNat % size) % size
    let at' := if pad = 0 then wr else 0
    wr < size → wr % 64 = 0 → len < size → 6 ≤ s.evt.mLog2 → s.evt.mLog2 ≤ 32 →
    (pad + len ≤ free → ∃ t, exec (.meterRecordWrite dom) s = .next t ∧
      t.hostMem.readAll (s.evt.mBase.toNat + at') len = some r.bytes ∧
      t.evt.mWr.toNat = (at' + len) % size ∧ t.evt.mDrops = s.evt.mDrops ∧
      (∀ a, a < s.evt.mBase.toNat ∨ s.evt.mBase.toNat + size ≤ a → t.hostMem.at? a = s.hostMem.at? a) ∧
      (0 < pad → t.hostMem.readAll (s.evt.mBase.toNat + wr) pad = some (padRecord pad)) ∧
      (∀ x, x ∈ t.evt.mRecs ↔ x ∈ s.evt.mRecs ∧ ¬ (x.dom = dom ∧ x.block = r.block)) ∧
      (pad = 0 → ∀ a, a < s.evt.mBase.toNat + wr ∨ s.evt.mBase.toNat + wr + len ≤ a → t.hostMem.at? a = s.hostMem.at? a) ∧
      t = { s with evt := t.evt, hostMem := t.hostMem }) ∧
    (free < pad + len → ∃ t, exec (.meterRecordWrite dom) s = .next t ∧ t.hostMem = s.hostMem ∧
      t.evt.mWr = s.evt.mWr ∧ t.evt.mDrops = satInc32 s.evt.mDrops ∧
      (s.evt.mDropRun = true → t.ao = s.ao) ∧ t = { s with evt := t.evt, ao := t.ao })

/-- METER_RING_RESET zeroes the offsets, the sequence and the drops of a disabled ring and does nothing to an enabled one;
METER_RING_ENABLE sets enable (R600). -/
def Claim.MeterRingControl : Prop :=
  ∀ (s : State) (on : Bool),
    (s.evt.mEnable = false → exec .meterRingReset s =
      .next (s.onEvt fun v => { v with mWr := 0, mRd := 0, mSeq := 0, mDrops := 0 })) ∧
    (s.evt.mEnable = true → exec .meterRingReset s = .next s) ∧
    exec (.meterRingEnable on) s = .next (s.onEvt fun v => { v with mEnable := on })

/-! ## Scenes and casts -/

/-- Slot operations begin on an image that is loaded, where no other runs and no cast waits from the slot: a load leaves the
slot LOADING, a capture of a range that holds declared parameters waits for the boundary, a clear leaves the slot EMPTY at
once; each shows its op and slot, and nothing but the scene controller changes (R263, R265, R266). -/
def Claim.SlotOperationsBegin : Prop :=
  ∀ (s : State) (k : Fin 4), s.img.loaded.isSome = true → s.scene.op = none →
    (∀ c ∈ s.scene.casts, c.applyOn = [] → c.slot ≠ k) →
    (∃ t, exec (.sceneMqLoad k) s = .next t ∧ (t.slotSt k).state = .loading ∧
      t.scene.op = some { slot := k, capture := false, addr := s.scene.addr, mqId := 0, first := 0, last := 0,
                          len := none, taken := none } ∧
      t.scene.stState = 1 ∧ t.scene.stSlot = k ∧ t.scene.ctlOp = 0 ∧ t.scene.ctlSlot = k ∧
      (∀ j, j ≠ k → t.slotSt j = s.slotSt j) ∧ t = { s with scene := t.scene }) ∧
    (s.scene.arg ≠ 0 → s.paramsIn s.scene.capFirst s.scene.capLast ≠ [] →
      (s.paramsIn s.scene.capFirst s.scene.capLast).length ≤ 262144 →
      ∃ t, exec (.sceneMqCapture k) s = .next t ∧
        t.scene.op = some { slot := k, capture := true, addr := 0, mqId := s.scene.arg, first := s.scene.capFirst,
                            last := s.scene.capLast, len := none, taken := none } ∧
        t.scene.stState = 1 ∧ t.scene.ctlOp = 1 ∧ t.scene.slots = s.scene.slots ∧ t = { s with scene := t.scene }) ∧
    (∃ t, exec (.sceneMqClear k) s = .next t ∧ t.slotSt k = { state := .empty, mq := none } ∧ t.scene.op = none ∧
      t.scene.stState = 2 ∧ t.scene.ctlOp = 2 ∧ (∀ j, j ≠ k → t.slotSt j = s.slotSt j) ∧ t = { s with scene := t.scene })

/-- A slot operation is refused, and the slots keep what they hold, while another runs or a cast waits from the slot (R265). -/
def Claim.SlotOperationsRefused : Prop :=
  ∀ (s : State) (k : Fin 4), s.img.loaded.isSome = true →
    (s.scene.op.isSome = true ∨ ∃ c ∈ s.scene.casts, c.applyOn = [] ∧ c.slot = k) →
    ∀ i, i = .sceneMqLoad k ∨ i = .sceneMqCapture k ∨ i = .sceneMqClear k →
      ∃ t, exec i s = .next t ∧ t.scene.slots = s.scene.slots ∧ t.scene.op = s.scene.op ∧ t.scene.casts = s.scene.casts

/-- SLOT_OPERATION_DONE: a capture whose targets are taken makes its slot VALID with the id of its command, the build of the
image and those targets; a load whose buffer cannot be read leaves the slot EMPTY with SOURCE_UNREADABLE, and one whose checks
pass makes it VALID with what was read; no other slot changes (R263, R266). -/
def Claim.SlotOperationDone : Prop :=
  ∀ (s : State) (m : Image) (op : SlotOp), s.img.loaded = some m → s.scene.op = some op →
    let others := fun (t : State) => (∀ j, j ≠ op.slot → t.slotSt j = s.slotSt j) ∧ t.scene.op = none ∧
      t.scene.params = s.scene.params ∧ t = { s with scene := t.scene, ao := t.ao, evt := t.evt }
    (∀ es, op.capture = true → op.taken = some es → ∃ t, exec .slotOperationDone s = .next t ∧
      (t.slotSt op.slot).state = .valid ∧
      (t.slotSt op.slot).mq.map (fun x => (x.id, x.buildId, x.entries)) = some (op.mqId, m.buildId, es) ∧
      t.scene.stState = 2 ∧ t.scene.stResult = 0 ∧ others t) ∧
    (op.capture = false → s.hostMem.readAll op.addr.toNat 64 = none → ∃ t, exec .slotOperationDone s = .next t ∧
      t.slotSt op.slot = { state := .empty, mq := none } ∧ t.scene.stState = 3 ∧ t.scene.stResult = 1 ∧ others t) ∧
    (∀ bs, op.capture = false → readHostMaquette m.mqEnv s.hostMem op = .ok bs → ∃ t,
      exec .slotOperationDone s = .next t ∧ (t.slotSt op.slot).state = .valid ∧
      (t.slotSt op.slot).mq.map (·.entries) = some (readMaquette bs).entries ∧
      t.scene.stState = 2 ∧ t.scene.stResult = 0 ∧ others t)

/-- A cast request in READY or RUN for a VALID slot that holds the named maquette, on a timebase of the image, at a block that
leaves 3 blocks in a single-chip group: the answer is OK with a cast id of the sequence, which counts on, and the cast is
pending; a NEXT cast starts its transfer at once (R273); one of these failing gives BAD_ARG or NOT_PERMITTED and no cast; a
ninth pending one, or more than 1,048,576 entries due at one boundary, gives BUSY (R268, R269, R270). -/
def Obligations.CastRequest : Prop :=
  ∀ (s : State) (es : List MqEntry), s.group = [0] →
    let c := s.scene
    let lead := (s.tb c.castTb).blk.toNat + 3
    let refused := fun (code : Byte) => ∃ t, exec .sceneCastRequest s = .next t ∧ t.scene.resStatus = code ∧
      t.scene.casts = s.scene.casts ∧ t.scene.seq = s.scene.seq
    (3 ≤ s.power.state.val → s.slotEntries c.castSlot c.castMq = some es → (s.domOfTb c.castTb).isSome = true →
      (c.castNext = true ∨ lead ≤ c.castBlk.toNat) → s.castCount < 8 →
      s.entriesDue c.castTb (if c.castNext then s.openBoundary c.castTb else c.castBlk) + es.length ≤ 1048576 →
      ∃ t x, exec .sceneCastRequest s = .next t ∧ t.scene.resStatus = 0 ∧
        t.scene.resId = BitVec.ofNat 16 c.seq.toNat ∧ t.scene.seq = c.seq + 1 ∧ t.scene.casts = c.casts ++ [x] ∧
        x.castId = t.scene.resId ∧ x.slot = c.castSlot ∧ x.mqId = c.castMq ∧ x.tb = c.castTb ∧ x.entries = (if c.castNext then es else []) ∧
        x.applyOn = [] ∧ x.isNext = c.castNext ∧ (c.castNext = false → x.block = c.castBlk) ∧
        x.transfer = (if c.castNext then 1 else 0) ∧
        t = { s with scene := t.scene }) ∧
    (s.power.state.val < 3 → refused 4) ∧
    (3 ≤ s.power.state.val → s.slotEntries c.castSlot c.castMq = none → refused 3) ∧
    (3 ≤ s.power.state.val → c.castNext = false → c.castBlk.toNat < lead → refused 3) ∧
    (3 ≤ s.power.state.val → s.slotEntries c.castSlot c.castMq = some es → (s.domOfTb c.castTb).isSome = true →
      (c.castNext = true ∨ lead ≤ c.castBlk.toNat) → 8 ≤ s.castCount ∨
        1048576 < s.entriesDue c.castTb (if c.castNext then s.openBoundary c.castTb else c.castBlk) + es.length →
      refused 1)

/-- In a single-chip group a pending cast is cancelled until staging for its block closes: it takes no effect, SCENE_LAST shows
the outcome cancelled, and CAST_CANCELLED is raised; later, or for an unknown id, nothing changes (R275). The transfer of a
cast ends (R273). -/
def Claim.CastCancel : Prop :=
  ∀ (s : State) (id : BitVec 16) (c : CastSt), s.group = [0] →
    (s.castsWaiting.find? (fun x => x.castId == id) = some c → c.go = false → c.held = false → c.isNext = false →
      ((s.tb c.tb).open_ = true ∨ (s.tb c.tb).blk.toNat + 1 < c.block.toNat) →
      ∃ t, exec (.sceneCancelWrite id) s = .next t ∧ (∀ x ∈ t.scene.casts, x.castId ≠ id) ∧
        (∀ x, x.castId ≠ id → (x ∈ t.scene.casts ↔ x ∈ s.scene.casts)) ∧ t.scene.lastId = id ∧
        t.scene.lastOutcome = 3 ∧ t = { s with scene := t.scene, ao := t.ao, evt := t.evt }) ∧
    (s.castsWaiting.find? (fun x => x.castId == id) = none → exec (.sceneCancelWrite id) s = .next s) ∧
    (s.castsWaiting.find? (fun x => x.castId == id) = some c → c.isNext = false → (s.tb c.tb).open_ = false →
      c.block.toNat ≤ (s.tb c.tb).blk.toNat + 1 → exec (.sceneCancelWrite id) s = .next s) ∧
    (s.castsWaiting.find? (fun x => x.castId == id) = some c → c.held = true → exec (.sceneCancelWrite id) s = .next s) ∧
    (∀ rest, s.scene.casts = c :: rest → c.castId = id → c.transfer = 1 → (∀ x ∈ rest, x.castId ≠ id) →
      exec (.castTransferDone id) s = .next { s with scene := { s.scene with casts := { c with transfer := 2 } :: rest } })

/-- The messages of a cast that the chip has not seen: an announcement makes the cast pending, READY and NOT_READY note the
sender's answer, GO lets it take effect, DEFER moves it to the new block with its answers discarded and raises CAST_DEFERRED,
ABORT ends it with outcome aborted; a deferral or an abort of a cast that the chip
does not hold is reported there too; a message seen before changes nothing (R284 to R288). -/
def Claim.CastMessages : Prop :=
  ∀ (s : State) (m : CastMsg) (c : CastSt) (rest : List CastSt),
    let fresh := fun (k : CastKind) => s.castSeen { m with kind := k } = false
    let noted := fun (k : CastKind) (x : Scene) => { x with seen := ((m.position, m.castId, k, m.block) :: x.seen).take 256 }
    (fresh .announce → (∀ x ∈ s.scene.casts, x.castId ≠ m.castId) → ∃ t x, exec (.castAnnounce m) s = .next t ∧
      t.scene = noted .announce { s.scene with casts := s.scene.casts ++ [x] } ∧ x.castId = m.castId ∧ x.slot = m.slot ∧
      x.mqId = m.mqId ∧ x.tb = m.timebase ∧ x.block = m.block ∧ x.caster = false ∧ x.go = false ∧ x.applyOn = [] ∧
      x.known = true ∧
      t = { s with scene := t.scene }) ∧
    (s.scene.casts = c :: rest → c.applyOn = [] → c.castId = m.castId → (∀ x ∈ rest, x.castId ≠ m.castId) →
      let becomes := fun (k : CastKind) (c' : CastSt) =>
        Host.Outcome.next (φ := Fault) (ρ := Refusal) { s with scene := noted k { s.scene with casts := c' :: rest } }
      (fresh .ready → exec (.castReady m) s = becomes .ready { c with ready := m.position :: c.ready }) ∧
      (fresh .notReady → c.notReady = none →
        exec (.castNotReady m) s = becomes .notReady { c with notReady := some (m.position, m.reason) }) ∧
      (fresh .go → exec (.castGo m) s = becomes .go { c with go := true }) ∧
      (fresh .defer → ∃ t, exec (.castDefer m) s = .next t ∧ t.scene.casts =
        { c with block := m.block, deferrals := m.deferrals.toNat, ready := [], notReady := none, transfer := 0,
                 entries := [], asked := false, go := false } :: rest ∧
        t = { s with scene := t.scene, ao := t.ao, evt := t.evt, free := t.free }) ∧
      (fresh .abort → ∃ t, exec (.castAbort m) s = .next t ∧ t.scene.casts = rest ∧ t.scene.lastId = m.castId ∧
        t.scene.lastOutcome = 2 ∧ t = { s with scene := t.scene, ao := t.ao, evt := t.evt })) ∧
    ((∀ x ∈ s.scene.casts, x.castId ≠ m.castId) →
      (fresh .defer → ∃ t x, exec (.castDefer m) s = .next t ∧ t.scene.casts = s.scene.casts ++ [x] ∧ x.castId = m.castId ∧
        x.block = m.block ∧ x.known = false ∧ x.go = false) ∧
      (fresh .abort → ∃ t, exec (.castAbort m) s = .next t ∧ t.scene.casts = s.scene.casts ∧ t.scene.lastId = m.castId ∧
        t.scene.lastOutcome = 2)) ∧
    (∀ k, s.castSeen { m with kind := k } = true →
      (k = .ready → exec (.castReady m) s = .next s) ∧ (k = .announce → exec (.castAnnounce m) s = .next s) ∧
      (k = .notReady → exec (.castNotReady m) s = .next s) ∧ (k = .go → exec (.castGo m) s = .next s) ∧
      (k = .defer → exec (.castDefer m) s = .next s) ∧ (k = .abort → exec (.castAbort m) s = .next s))

/-- A CAST frame that a lane in service delivers acts as its message does and is passed on once to every other lane of the
group that is in service; one seen before is only acknowledged, and a lane that is not UP delivers nothing (R445). -/
def Claim.CastFrames : Prop :=
  ∀ (s : State) (l : Fin 4) (m : CastMsg),
    ((s.lane l).state ≠ .up → exec (.cast l m) s = .next s) ∧
    ((s.lane l).state = .up → s.castSeen m = true → exec (.cast l m) s =
      .next (s.onLane l fun x => { x with lastRx := x.lastRx + 1 })) ∧
    ((s.lane l).state = .up → s.castSeen m = false → m.kind = .ready →
      (∀ x ∈ s.scene.casts, x.castId ≠ m.castId) →
      ∃ t, exec (.cast l m) s = .next t ∧
        (∀ k, k ≠ l → k ∈ s.groupLanes → (t.lane k).window = (s.lane k).window ++ [((s.lane k).seq, .cast m)] ∧
          (t.lane k).seq = (s.lane k).seq + 1) ∧
        (∀ k, k ≠ l → k ∉ s.groupLanes → t.lane k = s.lane k) ∧
        t.scene.seen = ((m.position, m.castId, m.kind, m.block) :: s.scene.seen).take 256 ∧
        t.scene.casts = s.scene.casts ∧ t = { s with red := t.red, scene := t.scene })

/-! ## Images and placement -/

/-- A host-commanded load is accepted only in READY and a verify in READY and RUN, one at a time: the request begins at step 1
and the loaded image is not touched; in any other state, or while a request runs, nothing begins (R77, R78, R82). -/
def Claim.ImageRequests : Prop :=
  ∀ (s : State) (source : Fin 4),
    let begun := fun (verify : Bool) (t : State) =>
      t.img.state = (if verify then 4 else 1) ∧ t.img.step = 1 ∧ t.img.result = 0 ∧ t.img.detail = 0 ∧
      t.img.req.map (fun q => (q.verify, q.source, q.addr, q.step)) = some (verify, source, s.img.hostAddr, 1) ∧
      t.img.loaded = s.img.loaded ∧ t = { s with img := t.img }
    let turned := fun (t : State) => t.img.req = s.img.req ∧ t.img.state = s.img.state ∧ t.img.loaded = s.img.loaded ∧
      t = { s with img := t.img }
    (s.power.state = 3 → s.img.req = none → ∃ t, exec (.sysImgCtlLoad source) s = .next t ∧ begun false t) ∧
    (3 ≤ s.power.state.val → s.img.req = none → ∃ t, exec (.sysImgCtlVerify source) s = .next t ∧ begun true t) ∧
    ((s.power.state ≠ 3 ∨ s.img.req.isSome = true) → ∃ t, exec (.sysImgCtlLoad source) s = .next t ∧ turned t) ∧
    ((s.power.state.val < 3 ∨ s.img.req.isSome = true) → ∃ t, exec (.sysImgCtlVerify source) s = .next t ∧ turned t)

/-- A validation step of a request whose source is readable, which is read at steps 1 and 6: a check that passes leads to the
next step, the last check of a verify ends it, and the first failure ends the request with the code and detail of the check,
the loaded image untouched in steps 1 to 5 and by every step of a verify (R78, R79, R80, R82). -/
def Claim.ValidationSteps : Prop :=
  ∀ (s : State) (q : ImgReq), s.img.req = some q → 1 ≤ q.step → q.step ≤ 11 → (q.verify = true ∨ q.step ≤ 5) →
    let bs := if q.step = 1 ∨ q.step = 6 then s.sourceBytes q else q.copy
    s.xbar.secState ≠ 1 → max 128 (hdrSize bs) ≤ bs.length →
    let check := checkStep s.chkEnv bs q.step
    (check = .ok () → q.step < 11 → exec .validationStep s = .next (s.onImg fun m =>
      { m with step := BitVec.ofNat 4 (q.step + 1), req := some { q with step := q.step + 1, copy := bs } })) ∧
    (check = .ok () → q.step = 11 → exec .validationStep s = .next (s.onImg fun m =>
      { m with state := 5, result := 0, detail := 0, req := none })) ∧
    (∀ code detail, check = .error (code, detail) → q.boot = false → exec .validationStep s = .next (s.onImg fun m =>
      { m with result := BitVec.ofNat 16 code, step := BitVec.ofNat 4 q.step, detail := BitVec.ofNat 32 detail,
               req := none, state := if q.verify then 6 else 3 }))

/-- A load completes when step 12 has placed its first plan: the image is loaded, the plan is current in a new epoch, every
parameter stands steady at its initial value, and each domain's block counter agrees with its timebase's time, and the
placement engine reports the block of the epoch (R20, R28, R69, R81, R103; the counter's value is the model's reading, log
entry 55). -/
def Obligations.LoadCompletes : Prop :=
  ∀ (s : State) (q : ImgReq) (m : Image) (c : Pending), s.img.req = some q → q.image = some m → q.placed = some true →
    s.placer.pending = some c →
    ∃ t, exec .loadComplete s = .next t ∧ t.img.loaded = some m ∧ t.img.req = none ∧ t.img.state = 2 ∧ t.img.result = 0 ∧
      t.placer.current = some c.plan ∧ t.placer.pending = none ∧ t.placer.epoch = s.placer.epoch + 1 ∧
      t.scene.params = m.params.map (fun d => { decl := d, target := d.init, start := d.init, value := d.init, trans := .steady }) ∧
      (∀ d ∈ m.domains, (t.tb d.tb).ivl = 0) ∧
      ((m.domains.map (·.tb)).Nodup → ∀ d ∈ m.domains, (t.tb d.tb).blk = blockOfTime (rateHz d.rate) (s.tb d.tb).time) ∧
      (∀ d, t.pacing = some d → t.placer.epochBlk = (t.tb d.tb).blk) ∧ (∀ u, (t.tb u).time = (s.tb u).time) ∧
      t.hostMem = s.hostMem ∧ t.flash = s.flash ∧ t.ao.cfgA = s.ao.cfgA

/-- A plan trigger that nothing holds starts a plan on an idle placement engine with an image, joins the plan that is BUILDING,
and is queued once while another is in progress; while freeze is 1 a PATINA, MEMORY, DELAY or HOST trigger is queued and
raises TRIGGER_DEFERRED once; ENGINE_OUT is acted on at once: a pending plan is abandoned, its triggers wait again, and an
evacuation begins (R98, R100, R101, R121, R135). -/
def Claim.PlanTriggers : Prop :=
  ∀ (s : State) (g : Trigger), s.img.loaded.isSome = true → s.power.state ≠ 2 →
    let held := s.placer.freeze = true
    let out := fun (x : Placer) => { x with state := .evacuating, trigger := some .engineOut, merged := [] }
    let queue := fun (x : Placer) => { x with queued := if x.queued.contains g then x.queued else x.queued ++ [g] }
    let acts := fun (i : Instr) =>
      (¬ held → s.placer.state = .idle → exec i s =
        .next (s.onPlacer fun x => { x with state := .building, trigger := some g, merged := [] })) ∧
      (¬ held → s.placer.state = .building → ∃ t, exec i s = .next t ∧
        (g ∈ t.placer.merged ∨ t.placer.trigger = some g) ∧ t = { s with placer := { s.placer with merged := t.placer.merged } }) ∧
      (¬ held → s.placer.state ≠ .idle → s.placer.state ≠ .building → exec i s = .next (s.onPlacer queue)) ∧
      (held → s.placer.queued.contains g = true → exec i s = .next (s.onPlacer queue)) ∧
      (held → s.placer.queued.contains g = false → exec i s = .next (raise 0x500C [] (s.onPlacer queue)))
    (g ≠ .load → g ≠ .engineOut → acts (.planTrigger g)) ∧ (g = .host → acts .placerReplan) ∧
    (s.placer.state = .idle → exec (.planTrigger .engineOut) s = .next (s.onPlacer out)) ∧
    (s.placer.state = .evacuating → exec (.planTrigger .engineOut) s = .next s) ∧
    (s.placer.state ≠ .idle → s.placer.state ≠ .evacuating → s.placer.trigger ≠ some .load → ∃ t,
      exec (.planTrigger .engineOut) s = .next t ∧ t.placer.state = .evacuating ∧ t.placer.pending = none ∧
      t.placer.trigger = some .engineOut ∧ t.placer.merged = [] ∧ t.placer.current = s.placer.current ∧
      (∀ h, h ∈ t.placer.queued ↔ h ∈ s.placer.queued ∨ s.placer.trigger = some h ∨ h ∈ s.placer.merged))

/-- PLACER_FREEZE_WRITE sets freeze, and when it ends a hold with nothing in progress the queued triggers start a plan; a write
of commit_limit is clamped to 500 to 900 and staged for the boundary of the domain that paces (R89, R101). -/
def Claim.PlacerControl : Prop :=
  ∀ s : State,
    (∀ on, s.placer.queued = [] → exec (.placerFreezeWrite on) s = .next (s.onPlacer fun x => { x with freeze := on })) ∧
    (∀ g rest, s.placer.queued = g :: rest → s.placer.state = .idle → s.power.state ≠ 2 → s.img.loaded.isSome = true →
      exec (.placerFreezeWrite false) s = .next (s.onPlacer fun x =>
        { x with freeze := false, state := .building, trigger := some g, merged := rest, queued := [] })) ∧
    (∀ (limit : BitVec 10) (d : DomainRec), s.pacing = some d →
      let v := BitVec.ofNat 10 (max 500 (min 900 limit.toNat))
      exec (.placerCommitWrite limit) s = .next ((s.onPlacer fun x => { x with commitReg := v }).onTb d.tb fun y =>
        { y with staged := y.staged ++ [{ wait := if y.open_ then 0 else 1, item := .commit v }] }))

/-- PLAN_BUILT for triggers other than LOAD: with no plan, or one that breaks a rule, PLAN_FAILED is raised and the current plan
stays; one that satisfies them becomes pending and its copies begin (R99, R102, R115). Stated for a HOST trigger alone. -/
def Claim.PlanBuilt : Prop :=
  ∀ (s : State) (m : Image) (cur : Plan), s.placer.state = .building → s.placer.pending = none →
    s.placer.trigger = some .host → s.placer.merged = [] → s.placer.queued = [] →
    s.img.loaded = some m → s.placer.current = some cur → (∀ e, (s.engine e).freqDue = none) →
    let failed := fun (t : State) => t = raise 0x5003 [] (s.onPlacer fun x => { x with state := .idle, trigger := none })
    (∃ t, exec (.planBuilt none) s = .next t ∧ failed t) ∧
    (∀ new, m.planMoves cur new = none ∨ (s.hostEnv m new).planOk new = false ∨
        (s.hostEnv m new).freshApart cur new s.freeing = false →
      ∃ t, exec (.planBuilt (some new)) s = .next t ∧ failed t) ∧
    (∀ new ms, (s.hostEnv m new).planOk new = true → m.planMoves cur new = some ms → s.triggersAllow m cur new ms = true →
      s.leavesDown m new = true → (s.hostEnv m new).shortOk new s.stillSeeding = true → (s.hostEnv m new).freshApart cur new s.freeing = true →
      ∃ t c, exec (.planBuilt (some new)) s = .next t ∧ t.placer.state = .copying ∧ t.placer.pending = some c ∧
        c.plan = new ∧ c.trigger = .host ∧ c.evac = false ∧ t.placer.current = some cur ∧
        t.placer.moves = s.placer.moves ++ ms ∧ t.placer.epoch = s.placer.epoch ∧
        t = { s with placer := t.placer })

/-- COPY_UNIT_WRITTEN: the unit at the watermark is written at the region's new location, exactly its bytes, or in the page of a
staging pool that holds it, and the watermark advances past it; a slot that is idle or full does nothing (R110, R111). -/
def Claim.CopyUnit : Prop :=
  ∀ (s : State) (k : Fin 64), s.mem.wf = true →
    let c := s.placer.slots.get k
    let ofs := 64 * c.mark
    let n := min 64 (c.bytes - ofs)
    let src := c.old.addr none ofs
    let pages := if c.new.kind = .dram ∧ (s.entry c.region).state ≠ 4 then s.poolPages none c.region (pageOf ofs) else []
    let dst := match pages with
      | [] => c.new.addr none ofs
      | p :: _ => s.pageAddr p + ofs % 4096
    (c.kind ≠ 0 → ofs < c.bytes → pages.length ≤ 1 → ∃ t, exec (.copyUnitWritten k) s = .next t ∧
      t.mem.getN dst n = s.mem.getN src n ∧ (∀ a, a < dst ∨ dst + n ≤ a → t.mem.get a = s.mem.get a) ∧
      t.placer.slots = (upd s.placer.slots k fun x => { x with mark := x.mark + 1 }) ∧
      t = { s with mem := t.mem, placer :=
        { s.placer with slots := t.placer.slots, table := t.placer.table, pages := t.placer.pages } }) ∧
    (c.kind = 0 ∨ c.bytes ≤ ofs → exec (.copyUnitWritten k) s = .next s)

/-- PLACER_ENG_ADMIT: an engine of the mask that is out, whose last full self-test pass passed and whose cause needs no clearing
or has had it, is in service again; every other engine stays as it is (R125, R135, R430). -/
def Claim.EngineAdmit : Prop :=
  ∀ (s : State) (mask : BitVec 24) (e : Fin 24),
    let g := s.engine e
    let may := mask.getLsbD e.val = true ∧ g.out = true ∧ g.passFail = false ∧
      (g.outCause = 2 ∨ g.outCause = 3 ∨ g.outCause = 4 → g.causeCleared = true)
    ∃ t, exec (.placerEngAdmit mask) s = .next t ∧ t = { s with engines := t.engines } ∧
      (may → t.engine e = { g with out := false, outCause := 0, causeCleared := false, spare := (t.engine e).spare }) ∧
      (¬ may → t.engine e = g)

/-- FAULT_SERVICE_DONE for a process parked on a region that is RESIDENT, or staged with its DRAM ready: the banks are exchanged,
so that the faulted process resumes at its faulting instruction and the displaced one waits in the background; the resolved
fault is counted, and a page that was missing is in the engine's pool; a fault that cannot be resolved, such as one of an
UNMAPPED region, stays (R109, R126). -/
def Obligations.FaultService : Prop :=
  ∀ (s : State) (e : Fin 24) (f : FaultSt), (s.engine e).parked = some f → (s.engine e).stalled = none →
    (s.engine e).orphan = none →
    let resumed := fun (o : Host.Outcome State Fault Refusal) => o =
      .next ((s.onEngine e fun g => { g with parked := none, fg := g.bg, bg := g.fg }).onPlacer fun p =>
        { p with faults := satInc32 p.faults })
    ((s.entry f.region).state = 1 → resumed (exec (.faultServiceDone e) s)) ∧
    (s.resolvable e f = true → s.pageMissing e f = false → resumed (exec (.faultServiceDone e) s)) ∧
    (s.resolvable e f = true → s.pageMissing e f = true → ∃ t, exec (.faultServiceDone e) s = .next t ∧
      (t.engine e).fg = (s.engine e).bg ∧ (t.engine e).bg = (s.engine e).fg ∧ (t.engine e).parked = none ∧
      t.placer.faults = satInc32 s.placer.faults ∧ (t.page? e f.region (pageOf f.offset)).isSome = true) ∧
    ((s.entry f.region).state = 0 → exec (.faultServiceDone e) s = .next s) ∧
    (s.resolvable e f = false → exec (.faultServiceDone e) s = .next s)

/-- ENGINE_CAP_WRITE clamps cap to 600 MHz to 1,250 MHz, and a change of actual to the lesser of cap and allow waits for its
boundary (R318, R319); ISLAND_CLOCK_LOSS raises ISLAND_CLOCK_FAULT and has a signal engine declared out with cause 4 (R320). -/
def Claim.EngineClocks : Prop :=
  ∀ (s : State) (e : Fin 24) (i : Fin 59) (cap : Byte),
    let c := max 24 (min 50 cap.toNat)
    let f := min c (s.engine e).allow.toNat
    ((s.engine e).actual.toNat ≤ f ∨ s.fitsAt e f = true → exec (.engineCapWrite e cap) s = .next (s.onEngine e fun g =>
      { g with cap := BitVec.ofNat 8 c, freqDue := if f = g.actual.toNat then none else some (BitVec.ofNat 8 f) })) ∧
    (f < (s.engine e).actual.toNat → s.fitsAt e f = false → ∃ t, exec (.engineCapWrite e cap) s = .next t ∧
      (t.engine e).actual = (s.engine e).actual ∧ (t.engine e).freqDue = some (BitVec.ofNat 8 f) ∧
      (t.engine e).cap = BitVec.ofNat 8 c ∧ (s.placer.state = .idle → s.placer.freeze = false → s.power.state ≠ 2 → s.img.loaded.isSome = true →
        t.placer.state = .building ∧ t.placer.trigger = some .host)) ∧
    (i.val = e.val → (s.engine e).out = false → (s.engine e).outDue = none → exec (.islandClockLoss i) s =
      .next ((raise 0x100C [v8 i.val] s).onEngine e fun g => { g with clockFault := true, outDue := some 4 })) ∧
    (24 ≤ i.val → exec (.islandClockLoss i) s = .next ((raise 0x100C [v8 i.val] s).onClk fun c =>
      { c with clockFaults := setFlag c.clockFaults i.val }))

/-! ## Serial audio ports -/

/-- Writes to a port wait for a boundary of its domain, or for the one after while staging is closed (R27): a start or a stop
trigger, one for each port of a SAP_GO or SAP_HALT word in rising number (R335), and a slot mask, whose register shows it at
once (R341). A restart takes only a RATE_MISMATCH port to ACQUIRING (R348), mask_busy clears with the last sample of a change
(R341), and a zero crossing that has not come by the end of its search becomes a fade there (R338). -/
def Obligations.SapControl : Prop :=
  ∀ (s : State) (p : Fin 32) (k : Fin 4) (w : Word),
    let tb := s.tbOf (s.sap p).cfg.domain
    let wait := fun (u : Fin 4) => if (s.tb u).open_ then 0 else 1
    let put := fun (i : StageItem) (x : State) => x.onTb tb fun y => { y with staged := y.staged ++ [⟨wait tb, i⟩] }
    let all := fun (b : Bool) (u : Fin 4) => ((List.finRange 32).filter fun q =>
      w.getLsbD q.val && decide (s.tbOf (s.sap q).cfg.domain = u)).map fun q => Staged.mk (wait u) (.sapTrig q b)
    exec (.sapCtlStart p) s = .next (put (.sapTrig p true) s) ∧
    exec (.sapCtlStop p) s = .next (put (.sapTrig p false) s) ∧
    (∃ t, exec (.sapGo w) s = .next t ∧ (∀ u, (t.tb u).staged = (s.tb u).staged ++ all true u) ∧
      t = { s with clk := t.clk } ∧ ∀ u, t.tb u = { s.tb u with staged := (t.tb u).staged }) ∧
    (∃ t, exec (.sapHalt w) s = .next t ∧ (∀ u, (t.tb u).staged = (s.tb u).staged ++ all false u) ∧
      t = { s with clk := t.clk } ∧ ∀ u, t.tb u = { s.tb u with staged := (t.tb u).staged }) ∧
    exec (.sapMaskWrite p k w) s =
      .next (put (.sapMask p k w) (s.onSap p fun x => { x with maskReg := upd x.maskReg k fun _ => w })) ∧
    (∃ t, exec (.sapCtlRestart p) s = .next t ∧
      ((s.sap p).state = .rateMismatch → (t.sap p).state = .acquiring ∧ (t.sap p).validRun = 0 ∧
        (t.sap p).badPeriods = 0 ∧ (t.sap p).badBits = 0 ∧ (∀ q, q ≠ p → t.sap q = s.sap q) ∧ t = { s with saps := t.saps }) ∧
      ((s.sap p).state ≠ .rateMismatch → t = s)) ∧
    (∃ t, exec (.maskRampEnd p) s = .next t ∧
      ((∀ r ∈ (s.sap p).ramps, r.first + 2 * r.r ≤ (s.tb tb).blk.toNat + 1) → (t.sap p).maskBusy = false) ∧
      (∀ r ∈ (s.sap p).ramps, (s.tb tb).blk.toNat + 1 < r.first + 2 * r.r → t = s) ∧
      t.sap p = { s.sap p with maskBusy := (t.sap p).maskBusy } ∧ (∀ q, q ≠ p → t.sap q = s.sap q) ∧
      t = { s with saps := t.saps }) ∧
    (∃ t, exec (.sapZcTimeout p) s = .next t ∧
      (t.sap p).zc = (s.sap p).zc.map (fun z => match z.from_ with
        | some _ => z
        | none => { z with from_ := some ((s.sap p).first + (s.sap p).zcN), fade := true }) ∧
      t.sap p = { s.sap p with zc := (t.sap p).zc } ∧ (∀ q, q ≠ p → t.sap q = s.sap q) ∧ t = { s with saps := t.saps })

/-- The data bits of a frame (R325, R326). Received: bit dataWidth − 1 − i of the word of slot t on line k is the level captured
i bit clocks into the slot, which begins slot t × width after the first data bit, and no bit above the word is set. Sent: a slot
drives its word MSB first and then zeros, one of high impedance drives nothing. The first data bit comes one bit clock after the
frame start in I2S, and in TDM where fs_delay is set. -/
def Claim.SapLines : Prop :=
  ∀ (r : SapRec) (lines : List (List Bool)) (f before : TxFrame) (k t i : Nat), k < 4 → t < r.slots → r.slots ≤ 32 →
    i < r.slotWidth → r.dataWidth ≤ r.slotWidth → r.slotWidth ≤ 32 →
    let at' := r.firstBit + t * r.slotWidth + i
    (r.format = 0 → r.firstBit = 1) ∧ (r.format = 1 → r.firstBit = 0) ∧
    (r.format = 2 → r.firstBit = if r.fsDelay then 1 else 0) ∧
    (r.firstBit + r.slots * r.slotWidth ≤ (nth lines k []).length → i < r.dataWidth →
      (nth (r.capture lines) (32 * k + t) 0).getLsbD (r.dataWidth - 1 - i) = nth (nth lines k []) at' false) ∧
    (∀ b, r.dataWidth ≤ b → (nth (r.capture lines) (32 * k + t) 0).getLsbD b = false) ∧
    (∀ d, f.bits = none → f.words.find? (fun w => w.1 == 32 * k + t) = some (32 * k + t, d) →
      r.lineAt before f k at' = d.map fun w => decide (i < r.dataWidth) && w.getLsbD (r.dataWidth - 1 - i))

/-- The frame slips of a slave (R332). With phase φ of the frame start against the sample after the last one assigned, T the
sample period: φ in [−3T/4, 3T/4) takes that sample; a later one skips it and counts an underrun; an earlier one carries none
and counts an overrun. The words of a frame with a sample are what that sample of each channel receives. After a single missing
frame sync the sample that no frame has carried is an underrun, and the frame is judged against the one after it (R343). -/
def Claim.SapFrameSlips : Prop :=
  ∀ (s : State) (p : Fin 32) (f : SapFrame) (k0 t0 : Nat),
    let x := s.sap p
    let k := if x.missing = 1 then k0 + 1 else k0
    let under := if x.missing = 1 then satInc32 x.underruns else x.underruns
    let fs := s.fsOf x.cfg.domain
    let phase : Int := (f.startPs * fs : Nat) - ((k + 1) * 1000000000000 : Nat)
    let words := x.cfg.capture f.lines
    let takes := fun (t : State) (n : Nat) => (t.sap p).lastSample = some n ∧ (t.sap p).words = words ∧
      (t.sap p).rx = ((n, words) :: x.rx).take 64
    x.present = true → x.cfg.master = false → x.state = .running → x.lastSample = some k0 → x.lastStart = some t0 →
    f.bits = x.cfg.slots * x.cfg.slotWidth → (periodOk fs f.periodPs = true ∨ x.badPeriods < 7) →
    ∃ t, exec (.sapFrameStart p f) s = .next t ∧
      (-3000000000000 ≤ 4 * phase → 4 * phase < 3000000000000 →
        takes t (k + 1) ∧ (t.sap p).underruns = under ∧ (t.sap p).overruns = x.overruns) ∧
      (3000000000000 ≤ 4 * phase → takes t (k + 2) ∧ (t.sap p).underruns = satInc32 under ∧
        (t.sap p).flags.getLsbD 2 = true ∧ (t.sap p).overruns = x.overruns) ∧
      (4 * phase < -3000000000000 → (t.sap p).lastSample = some k ∧ (t.sap p).rx = x.rx ∧
        (t.sap p).overruns = satInc32 x.overruns ∧ (t.sap p).flags.getLsbD 3 = true ∧ (t.sap p).underruns = under) ∧
      (x.missing = 1 → (t.sap p).flags.getLsbD 2 = true) ∧ (t.sap p).missing = 0 ∧ (t.sap p).state = .running ∧
      (t.sap p).glitches = x.glitches ∧ (∀ q, q ≠ p → t.sap q = s.sap q) ∧
      t = { s with saps := t.saps, ao := t.ao, evt := t.evt }

/-- The clocks of a port. A slave that misses one frame sync goes on; a second stops it in NO_CLOCK with SAP_FLAGS.no_clock,
and the samples after the last one received ramp out (R343, R344). Eight periods out of range in a row take it to
RATE_MISMATCH with cause 0 (R347). The frame of a master carries the sample whose media instant is its start (R329). -/
def Claim.SapClockTrouble : Prop :=
  ∀ (s : State) (p : Fin 32),
    let x := s.sap p
    let rest := fun (t : State) => (∀ q, q ≠ p → t.sap q = s.sap q) ∧
      t = { s with saps := t.saps, clk := t.clk, ao := t.ao, evt := t.evt }
    x.present = true →
    (x.cfg.master = false → x.state = .running → x.lastStart.isSome = true →
      (x.missing = 0 → exec (.frameSyncMissing p) s = .next (s.onSap p fun y => { y with missing := 1 })) ∧
      (1 ≤ x.missing → ∃ t, exec (.frameSyncMissing p) s = .next t ∧ (t.sap p).state = .noClock ∧
        (t.sap p).flags = x.flags ||| 1 ∧ (t.sap p).outFrom = x.lastSample ∧ (t.sap p).lastSample = none ∧ rest t)) ∧
    (∀ f, x.cfg.master = false → x.state = .running → x.lastStart.isSome = true → x.lastSample.isSome = true →
      periodOk (s.fsOf x.cfg.domain) f.periodPs = false → x.badPeriods = 7 →
      f.bits = x.cfg.slots * x.cfg.slotWidth →
      ∃ t, exec (.sapFrameStart p f) s = .next t ∧ (t.sap p).state = .rateMismatch ∧ (t.sap p).mismatch = false ∧
        (t.sap p).flags.getLsbD 4 = true ∧ (t.sap p).period = BitVec.ofNat 32 (min 4294967295 f.periodPs) ∧ rest t) ∧
    (∀ f, x.cfg.master = true → x.clocks = true → x.clkFirst ≤ nearestSample (s.fsOf x.cfg.domain) f.startPs →
      ∃ t, exec (.sapFrameStart p f) s = .next t ∧
        (t.sap p).rx = ((nearestSample (s.fsOf x.cfg.domain) f.startPs, x.cfg.capture f.lines) :: x.rx).take 64 ∧
        (t.sap p).lastSample = some (nearestSample (s.fsOf x.cfg.domain) f.startPs) ∧
        (∀ q, q ≠ p → t.sap q = s.sap q) ∧ t = { s with saps := t.saps })

/-! ## Ethernet ports, streams and network time -/

/-- Ethernet links and memberships. Link up and down, with the PTP state DISABLED and every leg of the port down when it goes
(R356, R372, R380); an ARP request for the port's own address is answered and any other discarded, as are frames with a bad
FCS (R354); a leg that times out leaves its stream LOST when it was the last (R380); a query is answered for each leg it
concerns and a version 2 query sets that mode until its querier falls silent (R382, R383); an enable waits for a boundary of
the stream's domain (R382, R386). -/
def Obligations.NetLinks : Prop :=
  ∀ (s : State) (n : Fin 4) (u : Fin 256) (b : Bool) (w : Word),
    let e := s.eth n
    let others := fun (t : State) => (∀ m, m ≠ n → t.eth m = s.eth m) ∧ t.net.tx = s.net.tx ∧
      t = { s with net := t.net, clk := t.clk, ao := t.ao, evt := t.evt }
    let put := fun (d : Fin 4) (i : StageItem) (x : State) => x.onTb (s.tbOf d) fun y =>
      { y with staged := y.staged ++ [⟨if y.open_ then 0 else 1, i⟩] }
    (e.linkUp = false → e.present = true → e.cfg.mode ≠ 0 → ∃ t, exec (.ethLinkUp n) s = .next t ∧
      t.eth n = { e with linkUp := true, ptpState := if e.cfg.ptpEn then 1 else e.ptpState } ∧ others t) ∧
    (e.linkUp = true → ∃ t, exec (.ethLinkDown n) s = .next t ∧
      t.eth n = { e with linkUp := false, flags := e.flags ||| 1, ptpState := 0 } ∧
      (∀ q ∈ s.legsOn n, (t.srx q.1).legUp q.2.1 = false) ∧
      (∀ v, (∀ q ∈ s.legsOn n, q.1 ≠ v) → t.srx v = s.srx v) ∧ others t) ∧
    (e.linkUp = true → e.cfg.ip = w → exec (.arpRequest n w) s =
      .next (s.onEth n fun x => { x with sent := (.arpReply w :: x.sent).take 64 })) ∧
    (e.linkUp = true → e.cfg.ip ≠ w → exec (.arpRequest n w) s =
      .next (s.onEth n fun x => { x with rxDiscard := satInc32 x.rxDiscard })) ∧
    exec (.ethFrameDiscard n true) s = .next (s.onEth n fun x => { x with fcsErr := satInc32 x.fcsErr }) ∧
    exec (.ethFrameDiscard n false) s = .next (s.onEth n fun x => { x with rxDiscard := satInc32 x.rxDiscard }) ∧
    ((s.srx u).legUp b = true → ∃ t, exec (.legTimeout u b) s = .next t ∧ (t.srx u).legUp b = false ∧
      (t.srx u).legUp (!b) = (s.srx u).legUp (!b) ∧
      (t.srx u).state = (if (s.srx u).legUp (!b) then (s.srx u).state else 3) ∧
      (∀ v, v ≠ u → t.srx v = s.srx v) ∧ t = { s with net := { s.net with rx := t.net.rx }, ao := t.ao, evt := t.evt }) ∧
    (∀ v2, e.linkUp = true → (s.legsOn n).filter (fun q => w == 0 || q.2.2.group == w) = [] →
      ∃ t, exec (.igmpQuery n v2 w) s = .next t ∧ t.eth n = { e with igmpV2 := v2 || e.igmpV2 } ∧ others t) ∧
    (∀ v2 q, e.linkUp = true → (s.legsOn n).filter (fun q => w == 0 || q.2.2.group == w) = [q] →
      isMcast q.2.2.group = true → ∃ t, exec (.igmpQuery n v2 w) s = .next t ∧
        t.eth n = { e with igmpV2 := v2 || e.igmpV2, sent := (NetOut.igmpReport q.2.2.group
          (if v2 || e.igmpV2 then [] else q.2.2.sources) (v2 || e.igmpV2) :: e.sent).take 64 } ∧ others t) ∧
    exec (.olderVersionQuerierTimeout n) s = .next (s.onEth n fun x => { x with igmpV2 := false }) ∧
    (∀ r l, (s.srx u).cfg = some r → r.leg b = some l → (s.srx u).enable = true → (s.eth l.port).linkUp = true →
      isMcast l.group = true → exec (.igmpReportRepeat u b) s = .next (s.onEth l.port fun x =>
        { x with sent := (NetOut.igmpJoin l.group (if x.igmpV2 then [] else l.sources) x.igmpV2 :: x.sent).take 64 })) ∧
    (∀ r, (s.srx u).cfg = some r → exec (.netSrxEnable u b) s =
      .next (put r.domain (.srxEnable u b) (s.onSrx u fun x => { x with enableReg := b }))) ∧
    (∀ r, (s.stx u).cfg = some r → exec (.netStxEnable u b) s =
      .next (put r.domain (.stxEnable u b) (s.onStx u fun x => { x with enableReg := b })))

/-- PTP messages at a port whose link is up and whose PTP is enabled (R354, R368, R369, R371, R373, R374). From the parent, a
one-step Sync or the Follow_Up of a two-step one is a measurement, with offset origin + mean path delay + asymmetry +
correction − receive time, for the port's own timebase where that takes the port as its source; delay responses of the
profile's mechanism that answer the port's own request enter the mean of 8; requests that the port sends take a transmit
timestamp; a malformed message is counted and nothing else; one that comes over the other transport is discarded; a slave-only
port never becomes master. -/
def Claim.PtpMessages : Prop :=
  ∀ (s : State) (n : Fin 4) (m : PtpMsg),
    let e := s.eth n
    let u := e.cfg.ptpTb
    let fits := fun (type : BitVec 4) => e.malformed m type = false
    let parent := (e.ptpState = 2 ∨ e.ptpState = 3) ∧ m.source = e.parentSrc
    let gain := fun (t1 t2 corr : Int) =>
      let s' := s.onEth n fun x => { x with lastSync := some (t1 + corr, t2), syncWait := none }
      if (s.tb u).source = 1 ∧ (s.tb u).index = n.val then
        measure u (t1 + e.pathDelay + rne e.asym.toInt 1000 + corr - t2) s'
      else s'
    let p2p := e.cfg.profile = 3
    let frame := fun (type : BitVec 4) => NetOut.ptp (decide p2p) type m.seqId 0 e.prio1 e.prio2
    let stamp := fun (type : BitVec 4) => TxTs.mk type e.cfg.ptpDomain m.seqId (ptpTime m.rxOrTx)
    let delays := fun (d : Int) => (d :: e.delays).take 8
    e.linkUp = true → e.cfg.ptpEn = true →
    (m.ethernet ≠ decide p2p → m.sent = false → ∀ q, q = .sync n m ∨ q = .followUp n m ∨ q = .delayReq n m ∨
        q = .delayResp n m ∨ q = .pdelayReq n m ∨ q = .pdelayResp n m ∨ q = .pdelayRespFollowUp n m ∨
        (∃ st b, q = .announce n m st b) →
      exec q s = .next (s.onEth n fun x => { x with rxDiscard := satInc32 x.rxDiscard })) ∧
    (m.ethernet = decide p2p →
    (fits 0 → parent → m.twoStep = false → exec (.sync n m) s = .next (gain m.origin m.rxOrTx m.corrNs)) ∧
    (fits 0 → parent → m.twoStep = true → exec (.sync n m) s =
      .next (s.onEth n fun x => { x with syncWait := some (m.seqId, m.rxOrTx, m.corrNs) })) ∧
    (∀ t2 c, fits 8 → parent → e.syncWait = some (m.seqId, t2, c) → exec (.followUp n m) s =
      .next (gain m.origin t2 (c + m.corrNs))) ∧
    (∀ q, q = .sync n m ∧ ¬fits 0 ∨ q = .followUp n m ∧ ¬fits 8 ∨ q = .delayResp n m ∧ ¬fits 9 ∨
        q = .pdelayRespFollowUp n m ∧ ¬fits 0xA ∨ (∃ st b, q = .announce n m st b) ∧ ¬fits 0xB ∨
        m.sent = false ∧ (q = .delayReq n m ∧ ¬fits 1 ∨ q = .pdelayReq n m ∧ ¬fits 2 ∨ q = .pdelayResp n m ∧ ¬fits 3) →
      ∃ t, exec q s = .next t ∧ (t.eth n).ptpBad = satInc32 e.ptpBad ∧ (t.eth n).flags = e.flags ||| 4 ∧
        t.eth n = { e with ptpBad := (t.eth n).ptpBad, flags := (t.eth n).flags, malAt := (t.eth n).malAt } ∧
        t = { s with net := t.net, ao := t.ao, evt := t.evt }) ∧
    (m.sent = true → e.txts.length < 64 → ¬p2p →
      exec (.delayReq n m) s = .next (s.onEth n fun x => { x with
        sent := (frame 1 :: x.sent).take 64, txts := x.txts ++ [stamp 1], delayWait := some (m.seqId, m.rxOrTx) })) ∧
    (m.sent = true → e.txts.length < 64 → p2p →
      exec (.pdelayReq n m) s = .next (s.onEth n fun x => { x with
        sent := (frame 2 :: x.sent).take 64, txts := x.txts ++ [stamp 2], delayWait := some (m.seqId, m.rxOrTx) }) ∧
      exec (.pdelayResp n m) s = .next (s.onEth n fun x => { x with
        sent := (frame 0xA :: (frame 3 :: x.sent).take 64).take 64, txts := x.txts ++ [stamp 3] })) ∧
    (m.sent = false → fits 1 → ¬p2p → e.ptpState = 4 → s.slaveOnly n = false → exec (.delayReq n m) s =
      .next (s.onEth n fun x => { x with sent := (frame 9 :: x.sent).take 64 })) ∧
    (m.sent = false → fits 2 → exec (.pdelayReq n m) s = .next s) ∧
    (∀ t3 t1 t2, fits 9 → ¬p2p → e.delayWait = some (m.seqId, t3) → e.lastSync = some (t1, t2) → exec (.delayResp n m) s =
      .next (s.onEth n fun x => { x with
        delayWait := none, delays := delays (rne ((t2 - t1) + (m.origin - t3) - m.corrNs) 2) })) ∧
    (∀ t1, m.sent = false → fits 3 → p2p → e.delayWait = some (m.seqId, t1) → exec (.pdelayResp n m) s =
      .next (s.onEth n fun x => if m.twoStep then { x with pdelayWait := some (m.seqId, m.origin, m.rxOrTx, m.corrNs) }
        else { x with delayWait := none, delays := delays (rne ((m.rxOrTx - t1) - m.corrNs) 2) })) ∧
    (∀ t1 t2 t4 c, fits 0xA → p2p → e.delayWait = some (m.seqId, t1) → e.pdelayWait = some (m.seqId, t2, t4, c) →
      exec (.pdelayRespFollowUp n m) s = .next (s.onEth n fun x => { x with
        delayWait := none, pdelayWait := none, delays := delays (rne ((t4 - t1) - (m.origin - t2) - c - m.corrNs) 2) })) ∧
    (∀ st, fits 0xB → st ≠ 4 → (e.ptpState = 3 → st = 3) → ∃ t, exec (.announce n m st true) s = .next t ∧
      t.eth n = { e with parent := m.gmId, parentSrc := m.source, ptpState := st } ∧
      (∀ k, k ≠ n → t.eth k = s.eth k) ∧ t = { s with net := t.net, ao := t.ao, evt := t.evt }) ∧
    (∀ b, fits 0xB → s.slaveOnly n = true → ∃ t, exec (.announce n m 4 b) s = .next t ∧ (t.eth n).ptpState ≠ 4 ∧
      (e.ptpState ≠ 4 → (t.eth n).ptpState = e.ptpState)))

/-- The PTP timers. A Sync or Announce that fails to come loses the timebases whose source is the port, and after an
announce timeout a slave-only port listens (R372); a master sends a Sync with its Follow_Up, and an Announce with its clock
class, at their intervals (R368, R369, R375), and a port that is no master sends nothing. -/
def Claim.PtpTimers : Prop :=
  ∀ (s : State) (n : Fin 4) (time : TbTime),
    let e := s.eth n
    let uses := fun (u : Fin 4) => (s.tb u).source = 1 ∧ (s.tb u).index = n.val ∧ (s.tb u).sourceValid = true
    let lost := fun (t : State) => ∀ u,
      (uses u → (t.tb u).sourceValid = false ∧
        (((s.tb u).state = .locked ∨ (s.tb u).state = .syntonised) → (t.tb u).lostDue = some 1)) ∧
      (¬ uses u → t.tb u = s.tb u)
    (∃ t, exec (.syncTimeout n) s = .next t ∧ lost t ∧ t = { s with clk := t.clk, ao := t.ao, evt := t.evt }) ∧
    (e.ptpState = 3 → s.slaveOnly n = true → ∃ t, exec (.announceReceiptTimeout n) s = .next t ∧ lost t ∧
      t.eth n = { e with ptpState := 1 } ∧ (∀ k, k ≠ n → t.eth k = s.eth k) ∧
      t = { s with clk := t.clk, net := t.net, ao := t.ao, evt := t.evt }) ∧
    (e.linkUp = true → e.cfg.ptpEn = true → e.ptpState = 4 → s.slaveOnly n = false →
      let p2p := decide (e.cfg.profile = 3)
      let frame := fun (type : BitVec 4) => NetOut.ptp p2p type e.seqId 0 e.prio1 e.prio2
      (e.txts.length < 64 → exec (.syncInterval n time) s = .next (s.onEth n fun x => { x with
        sent := (frame 8 :: (frame 0 :: x.sent).take 64).take 64, seqId := x.seqId + 1,
        txts := x.txts ++ [⟨0, x.cfg.ptpDomain, x.seqId, time⟩] })) ∧
      (64 ≤ e.txts.length → ∃ t, exec (.syncInterval n time) s = .next t ∧
        t.eth n = { e with sent := (frame 0 :: e.sent).take 64, seqId := e.seqId + 1,
                           txtsDrops := satInc32 e.txtsDrops, txtsRun := true, flags := e.flags ||| 2 } ∧
        t = { s with net := t.net, ao := t.ao, evt := t.evt }) ∧
      exec (.announceInterval n) s = .next (s.onEth n fun x => { x with
        seqId := x.seqId + 1, sent := (NetOut.ptp p2p 0xB e.seqId (if s.tbState e.cfg.ptpTb = .holdover ∨ s.tbState e.cfg.ptpTb = .refused
          then e.holdClass else e.clockClass) e.prio1 e.prio2 :: x.sent).take 64 })) ∧
    (e.ptpState ≠ 4 → exec (.syncInterval n time) s = .next s ∧ exec (.announceInterval n) s = .next s)

/-- A datagram that is a candidate for one enabled stream, in RUN, in a frame that the port takes in. One that is malformed is
counted and discarded (R376). A sequence number new to the stream is counted, its samples join the stream's buffer at RTP
timestamp + receive delay unless late or early (R377, R378), and a second copy counts as a duplicate and writes nothing; both
bring the leg and the stream up (R380). Its samples are its data without CSRC list, header extension and padding (R362).
Outside RUN, where no stream is concerned, or in a frame that is too long, a fragment, with IPv4 options or a wrong checksum,
it is discarded (R353, R354, R502). -/
def Claim.StreamDatagrams : Prop :=
  ∀ (s : State) (n : Fin 4) (k : RtpPkt) (u : Fin 256) (r : RxRec) (l : RxLeg),
    let x := s.srx u
    let hits := (s.legsOn n).filter fun q => (((s.srx q.1).cfg.map (fun r => legTakes r q.2.2 k)).getD false)
    let r0 := nearestIndex (s.mediaIndex r.domain k.sinceNs) (k.ts - r.tsOffset).toNat
    let limit := s.mediaIndex r.domain k.sinceNs + r.rxDelay + 2 * r.samples + 16
    let others := fun (t : State) => (∀ v, v ≠ u → t.srx v = s.srx v) ∧
      t = { s with net := { s.net with rx := t.net.rx }, ao := t.ao, evt := t.evt }
    (s.eth n).linkUp = true →
    ((s.eth n).takesFrame k = false ↔ (frameBytes k > (if (s.eth n).cfg.jumbo then 9216 else if k.tagged then 1522 else 1518) ∨
      k.fragment = true ∨ k.options ≠ 0 ∨ k.ipSumOk = false ∨ k.udpSumOk = false)) ∧
    ((s.eth n).takesFrame k = false → exec (.rtpPacket n k) s =
      .next (s.onEth n fun e => { e with rxDiscard := satInc32 e.rxDiscard })) ∧
    ((hits = [] ∨ s.power.state ≠ 4) → exec (.rtpPacket n k) s =
      .next (s.onEth n fun e => { e with rxDiscard := satInc32 e.rxDiscard })) ∧
    ((s.eth n).takesFrame k = true → hits = [(u, false, l)] → s.power.state = 4 → x.cfg = some r →
      (r.malformed k r0 = true → ∃ t, exec (.rtpPacket n k) s = .next t ∧
        t.srx u = { x with malformed := satInc32 x.malformed, malRaised := true } ∧ others t) ∧
      (r.malformed k r0 = false → x.newest = some k.seq → k.seq ∈ x.marked →
        ∃ t, exec (.rtpPacket n k) s = .next t ∧ (t.srx u).dups = satInc32 x.dups ∧ (t.srx u).buf = x.buf ∧
          (t.srx u).packets = x.packets ∧ (t.srx u).legA = true ∧ (x.legA = false → (t.srx u).state = 2) ∧ others t) ∧
      (r.malformed k r0 = false → x.newest = none →
        ∃ t, exec (.rtpPacket n k) s = .next t ∧ (t.srx u).packets = satInc32 x.packets ∧
          (t.srx u).newest = some k.seq ∧ (t.srx u).dups = x.dups ∧ (t.srx u).legA = true ∧
          (x.legA = false → (t.srx u).state = 2) ∧
          (∀ data, rtpData k = some data → ∀ i, i < r.samples → ∀ ws, (r.samplesOf data)[i]? = some ws →
            s.sourceClosed r.domain (r0 + r.rxDelay + i) = false → r0 + r.rxDelay + i ≤ limit →
            (r0 + r.rxDelay + i, ws) ∈ (t.srx u).buf) ∧
          ((∀ i, i < r.samples → s.sourceClosed r.domain (r0 + r.rxDelay + i) = false ∧
              r0 + r.rxDelay + i ≤ limit) → (t.srx u).late = x.late ∧ (t.srx u).early = x.early) ∧ others t))

/-- What a stream's packet carries before its payload (R355, R362): the destination address of the leg, or of its multicast group
under RFC 1112; an IPv4 header of 20 bytes with Don't Fragment and a right checksum; a UDP header with a right checksum; an RTP
header of version 2 without padding, extension and CSRC. -/
def Claim.StreamHeaders : Prop :=
  ∀ (e : Eth) (u : Fin 256) (r : TxRec) (l : Bool × TxLeg) (p : Nat) (payload : List Byte),
    e.cfg.mac.length = 6 → l.2.mac.length = 6 →
    let h := streamHeaders e u r l p payload
    let link := if e.cfg.vlan then 18 else 14
    let ip := (h.drop link).take 20
    let segment := h.drop (link + 20) ++ payload
    h.length = link + 40 ∧ h.take 6 = (if isMcast l.2.dest then
      [0x01, 0x00, 0x5E, BitVec.ofNat 8 (l.2.dest.toNat / 65536 % 128), BitVec.ofNat 8 (l.2.dest.toNat / 256), BitVec.ofNat 8 l.2.dest.toNat]
      else l.2.mac) ∧ (h.drop 6).take 6 = e.cfg.mac ∧
    nth ip 0 0 = 0x45 ∧ (nth ip 6 0, nth ip 7 0) = (0x40, 0) ∧ nth ip 8 0 = r.ttl ∧ nth ip 9 0 = 17 ∧ onesSum ip = 65535 ∧
    onesSum ((ip.drop 12) ++ [0, 17] ++ beBytes 2 segment.length ++ segment) = 65535 ∧
    nth (h.drop (link + 28)) 0 0 = 0x80

/-! ## Grenik lanes, duets and pairs -/

/-- Bringing a lane up (R438): a lane whose training ends greets; a HELLO that agrees leaves it in HELLO with the 1 ms
running, after which it is UP with an empty window; one that disagrees leaves it REFUSED with the first field that does; a
HELLO is repeated while the lane greets; a restart takes a lane that serves back to HELLO, and no remote access waits for a
response on it any more (R444). -/
def Claim.LaneStates : Prop :=
  ∀ (s : State) (l : Fin 4) (h : HelloMsg),
    let x := s.lane l
    let others := fun (t : State) => (∀ k, k ≠ l → t.lane k = s.lane k) ∧ t = { s with red := t.red, ao := t.ao, evt := t.evt }
    let greets := x.state = .hello ∨ x.state = .down ∨ x.state = .refused
    let greeting := fun (y : LaneSt) => ({ out := .hello, seq := y.seq, ack := y.lastRx, retx := false } : LinkFrame)
    (x.state = .training → exec (.laneTrainingComplete l) s =
      .next (s.onLane l fun y => { y with state := .hello, sent := greeting y :: y.sent })) ∧
    (greets → s.helloFault l h = none → ∃ t, exec (.hello l h) s = .next t ∧
      t.lane l = { x with state := .hello, agreed := true, peerPos := BitVec.ofNat 4 h.position } ∧ others t) ∧
    (∀ f, greets → s.helloFault l h = some f → ∃ t, exec (.hello l h) s = .next t ∧
      t.lane l = { x with state := .refused, agreed := false, refusedField := f, peerPos := BitVec.ofNat 4 h.position } ∧
      others t) ∧
    (greets → exec (.helloRepeat l) s = .next (s.onLane l fun y => { y with sent := greeting y :: y.sent })) ∧
    (x.state = .hello → x.agreed = true → (∀ a ∈ x.failAt, a + Config.ms ≤ s.now) →
      ∃ t, exec (.laneUpTimer l) s = .next t ∧
        t.lane l = { x with state := .up, window := [], seq := 0, lastRx := 0xFFFF } ∧ others t) ∧
    ((greets ∨ x.state = .up) → ∃ t, exec (.laneRestart l) s = .next t ∧
      t.lane l = { x with state := .hello, agreed := false, window := [], sent := greeting x :: x.sent } ∧
      (∀ k, k ≠ l → t.lane k = s.lane k) ∧ (∀ o ∈ t.xbar.outstanding, o.lane ≠ some l) ∧
      t = { s with red := t.red, xbar := { s.xbar with outstanding := t.xbar.outstanding, lateWin := t.xbar.lateWin } })

/-- Go-back-N on a lane that is UP with at most 64 frames outstanding (R440): an acknowledgement takes the frames up to its
sequence number out of the window; a NAK also sends the others again in order, marked as sent again, and counts them, as does 1 µs
without progress, which is a failure; a frame with a bad CRC or out of sequence is answered by a NAK, and a bad CRC is a failure;
the sixteenth failure within 1 ms takes the lane DOWN. That a NAK takes no sequence number of its own is the model's choice
(assumption 248). -/
def Claim.LaneRetransmission : Prop :=
  ∀ (s : State) (l : Fin 4) (a : BitVec 16) (j : Nat),
    let x := s.lane l
    let frames := fun (w : List (BitVec 16 × LinkOut)) =>
      (w.map fun p => ({ out := p.2, seq := p.1, ack := x.lastRx, retx := true } : LinkFrame)).reverse
    let nak : LinkFrame := { out := .ack x.lastRx true, seq := x.seq, ack := x.lastRx, retx := false }
    let recent := x.failAt.filter fun t => s.now < t + Config.ms
    let down := fun (t : State) => (t.lane l).state = .down ∧ (t.lane l).agreed = false ∧ (t.lane l).window = [] ∧
      (∀ k, k ≠ l → t.lane k = s.lane k) ∧ t = { s with red := t.red, xbar := t.xbar, ao := t.ao, evt := t.evt }
    x.state = .up → x.window.length ≤ 64 →
    (x.window.findIdx? (fun p => p.1 == a) = some j →
      let rest := x.window.drop (j + 1)
      exec (.ack l a false) s = .next (s.onLane l fun y => { y with window := rest }) ∧
      exec (.ack l a true) s = .next (s.onLane l fun y => { y with
        window := rest, sent := frames rest ++ y.sent, retx := satInc32 y.retx rest.length })) ∧
    (x.window ≠ [] → recent.length < 15 → exec (.ackTimeout l) s = .next (s.onLane l fun y => { y with
      sent := frames y.window ++ y.sent, retx := satInc32 y.retx y.window.length, failures := satInc16 y.failures,
      failAt := s.now :: recent })) ∧
    (x.window ≠ [] → 15 ≤ recent.length → ∃ t, exec (.ackTimeout l) s = .next t ∧ down t) ∧
    exec (.linkFrameError l false) s = .next (s.onLane l fun y => { y with sent := nak :: y.sent }) ∧
    (recent.length < 15 → exec (.linkFrameError l true) s = .next (s.onLane l fun y => { y with
      sent := nak :: y.sent, failures := satInc16 y.failures, failAt := s.now :: recent })) ∧
    (15 ≤ recent.length → ∃ t, exec (.linkFrameError l true) s = .next t ∧ down t)

/-- What a lane that is UP carries. A TIME frame of a locked partner is a measurement of ((t2 − t1) − (t4 − t3)) / 2 plus the
asymmetry for the one timebase that takes the lane as its source, and of an unlocked partner a loss; one is sent a millisecond
(R300, R443). An AUDIO frame that is not late waits for its SOURCE frame, which is published once an interval: the samples
received, or where none came the fade of the last ones (R379, R441). -/
def Obligations.LaneTraffic : Prop :=
  ∀ (s : State) (l : Fin 4) (u : Fin 4) (t1 t2 t3 t4 : Int) (b : BitVec 48) (ws : List Word) (n : NodeRec),
    let x := s.lane l
    let now := (s.tb (s.tbOf x.cfg.domain)).blk.toNat
    let kept := fun (y : LaneSt) => { y with lastRx := y.lastRx + 1 }
    x.state = .up →
    (x.cfg.timeXfer = true → exec (.timeTransferTick l) s = .next (s.onLane l fun y => y.give .time)) ∧
    (x.cfg.timeXfer = true → (∀ v, ((s.tb v).source = 5 ∧ (s.tb v).index = l.val) ↔ v = u) →
      exec (.time l t1 t2 t3 t4 true) s =
        .next (measure u (rne (500 * ((t2 - t1) - (t4 - t3)) + x.cfg.asym) 1000) (s.onLane l kept)) ∧
      exec (.time l t1 t2 t3 t4 false) s = .next (sourceLost u (s.onLane l kept))) ∧
    (x.cfg.role = 1 ∨ x.cfg.role = 2 ∨ x.cfg.role = 3 ∨ x.cfg.role = 6 → 0 < x.cfg.rxCh →
      (now ≤ b.toNat ∨ (b.toNat + 1 = now ∧ x.published = false)) →
      exec (.audio l b ws) s = .next (s.onLane l fun y => { kept y with
        rx := (b.toNat, ws) :: y.rx.filter (fun r => r.1 != b.toNat) })) ∧
    (x.published = false → 0 < x.cfg.rxCh → x.gap.run = 0 → x.gap.since = 8 → s.sourcesOf (isLane l) = [n] →
      n.bodyA < x.cfg.rxCh →
      let ivl := (s.tb (s.tbOf x.cfg.domain)).ivl - 1
      ∃ t, exec (.linkSourcePublish l) s = .next t ∧ (t.lane l).published = true ∧
        (∀ got, x.rx.find? (fun r => r.1 + 1 == now) = some got → t.framesAt n.id ivl =
          some [(List.range 8).map fun i => nth got.2 (8 * n.bodyA + i) 0]) ∧
        (x.rx.find? (fun r => r.1 + 1 == now) = none → t.framesAt n.id ivl =
          some [(List.range 8).map fun (i : Nat) => BitVec.ofInt 32 (rne ((7 - i) * (nth x.gap.last n.bodyA 0).toInt) 8)] ∧
          (t.lane l).lateRaised = true) ∧
        (∀ k, k ≠ l → t.lane k = s.lane k) ∧ t = { s with red := t.red, outs := t.outs, ao := t.ao, evt := t.evt })

/-- The breath of a pair that is not OFF (R451, R454, R455). A member sends its state, digest and health on every lane of the
pair. A PAIRED member counts a matching digest; at a difference with a PAIRED partner it notes the healths, and with the
breath of the block after decides for three blocks later which member goes HELD: the one whose health failed, else the rank
0 one. A breath that arrives on both lanes counts once. The fourth breath missed in a row takes a PAIRED member to ISOLATED at the
next boundary. -/
def Claim.PairBreath : Prop :=
  ∀ (s : State) (b : BreathMsg), s.pairCfg.isSome = true → s.red.pair ≠ .off →
    let own := ((atBlock s.red.healths b.block).getD 0) != 0
    let heard := b.rank ≠ s.red.rank ∧ s.red.pair = .paired ∧ b.lost = false ∧ s.red.lastBreath ≠ some b.block
    let noted := fun (t : State) => t.red.missed = 0 ∧ t.red.partnerState = b.pairState ∧ t.red.lastPartner = b.block ∧
      t.red.partnerDigest = b.digest ∧ t.red.pair = .paired ∧ t = { s with red := t.red, ao := t.ao, evt := t.evt }
    (∃ t m, exec .breathSend s = .next t ∧
      (m.block = s.duetBlk ∧ m.rank = s.red.rank ∧ m.digest = s.red.digest ∧ m.health = s.unitHealth ∧
        m.paramEpoch = s.red.paramEpoch ∧ m.transmitting = s.red.pair.transmits) ∧
      (∀ l ∈ s.pairLanes, (t.lane l).window = (s.lane l).window ++ [((s.lane l).seq, .breath m)]) ∧
      (∀ l, l ∉ s.pairLanes → t.lane l = s.lane l) ∧ t.red.unitHealth = s.unitHealth ∧ t = { s with red := t.red }) ∧
    (s.red.missed < 3 → exec .breathMissing s = .next (s.onRed fun r => { r with missed := r.missed + 1, heard := 0 })) ∧
    (s.red.missed = 3 → s.red.pair = .paired → s.red.due = none → ∃ t, exec .breathMissing s = .next t ∧
      t.red.due = some (s.duetBlk + 1, .isolated) ∧ t.red.missed = 4 ∧ t = { s with red := t.red, ao := t.ao, evt := t.evt }) ∧
    (heard → s.red.duetBad = none → s.digestMatch b = some true → ∃ t, exec (.breath b) s = .next t ∧
      t.red.matches_ = satInc32 s.red.matches_ ∧ t.red.due = s.red.due ∧ t.red.duetBad = none ∧ noted t) ∧
    (heard → s.red.duetBad = none → s.digestMatch b = some false → b.pairState = 4 → s.red.due = none →
      ∃ t, exec (.breath b) s = .next t ∧ t.red.matches_ = 0 ∧ t.red.duetBad = some (b.block, own, b.health != 0) ∧
        t.red.flags = s.red.flags ||| 1 ∧ t.red.due = none ∧ noted t) ∧
    (∀ m o p, heard → s.red.duetBad = some (m, o, p) → b.block = m + 1 → ∃ t, exec (.breath b) s = .next t ∧
      (let o' := o || ((atBlock s.red.healths m).getD 0) != 0 || own
       let p' := p || b.health != 0
       t.red.due = some (m + 3, if (o' && !p') || (o' == p' && !s.red.rank) then .held else .paired)) ∧
      t.red.duetBad = none ∧ noted t) ∧
    (b.rank ≠ s.red.rank → s.red.lastBreath = some b.block → ∃ t, exec (.breath b) s = .next t ∧
      t = { s with red := { s.red with lanes := t.red.lanes } })

/-- Mirrored parameters, the health of a cluster and seeding. A parameter write of the partner waits for the boundary of its
frame (R447); the health of another chip of a mirrored cluster is passed on once, and noted unless later news of that chip has come
(R445, R450; what counts as later, and how many frames a chip remembers, are the model's choices, assumption 248); a reseed acts in HELD (R457);
a transmitting member that is asked becomes the source of a seed, and a JOINING member gathers parameters until their end and
the processes whose items are complete (R458). -/
def Claim.PairMessages : Prop :=
  ∀ (s : State) (p : PAddr) (v : Word) (b : BitVec 48) (k : Fin 8),
    let lanesOnly := fun (t : State) => t = { s with red := t.red }
    (∀ n, s.pairCfg.isSome = true → s.node? (paddrNode p) = some n → ∃ t, exec (.param p v b) s = .next t ∧
      (let tb := s.tbOf n.domain
       t.tb tb = { s.tb tb with numbered := (s.tb tb).numbered ++ [(b, .peerParam p v)] } ∧
       (∀ u, u ≠ tb → t.tb u = s.tb u)) ∧ t = { s with clk := t.clk, red := t.red }) ∧
    (s.mirrored = true → k.val ≠ s.clusterPos → (k, b) ∉ s.red.healthSeen → ∃ t, exec (.healthFrame k v b) s = .next t ∧
      (k, b) ∈ t.red.healthSeen ∧
      ((∀ c, (k, c) ∈ s.red.healthSeen → (c - b).toInt ≤ 0) → (k.val ∈ t.red.clusterBad ↔ v ≠ 0)) ∧
      ((∃ c, (k, c) ∈ s.red.healthSeen ∧ 0 < (c - b).toInt) → t.red.clusterBad = s.red.clusterBad) ∧
      (∀ j, j ≠ k.val → (j ∈ t.red.clusterBad ↔ j ∈ s.red.clusterBad)) ∧
      (∀ l ∈ s.groupLanes, (t.lane l).window = (s.lane l).window ++ [((s.lane l).seq, .health v b)]) ∧ lanesOnly t) ∧
    ((s.mirrored = false ∨ k.val = s.clusterPos ∨ (k, b) ∈ s.red.healthSeen) → exec (.healthFrame k v b) s = .next s) ∧
    exec .redReseed s = .next (if s.red.pair = .held then s.onRed fun r => { r with reseed := true } else s) ∧
    (s.pairCfg.isSome = true →
      (s.red.pair.transmits = true → s.red.pair ≠ .off → ∃ t, exec (.seed .request) s = .next t ∧
        t.red.seedSrc = 1 ∧ lanesOnly t) ∧
      (∀ ps, s.red.pair = .joining → s.red.seedPhase = 1 →
        (∃ t, exec (.seed (.params ps)) s = .next t ∧ t.red.seedParams = s.red.seedParams ++ ps ∧ lanesOnly t) ∧
        (∃ t, exec (.seed (.paramsEnd v b)) s = .next t ∧ t.red.seedEpoch = some (v, b) ∧
          t.red.seedParams = s.red.seedParams ∧ lanesOnly t)) ∧
      (∀ n, s.red.pair = .joining → s.red.seedPhase = 2 → ∃ t, exec (.seed (.itemsEnd n)) s = .next t ∧
        t.red.seedDone = n :: s.red.seedDone ∧ lanesOnly t))

/-- Engines under watch. The end of a self-test sequence shows its number, whether it failed and, after sequence 63, the pass;
a failed one declares the engine out at the next boundary with cause 0 (R427, R428, R429); RED_ENG_FORCE_OUT declares the
engines of its mask out with cause 6 (R428), and RED_ENG_CLEAR clears causes 2, 3 and 4 (R430). No other engine changes. -/
def Claim.EngineWatch : Prop :=
  ∀ (s : State) (e : Fin 24) (bad : Bool) (mask : BitVec 24),
    let g := s.engine e
    (∃ t, exec (.selftestSequenceDone e bad) s = .next t ∧ (t.engine e).sequence = g.seqNext.setWidth 8 ∧
      (t.engine e).seqNext = g.seqNext + 1 ∧ (t.engine e).stFail = bad ∧
      (t.engine e).passes = (if g.seqNext = 63 then g.passes + 1 else g.passes) ∧
      (t.engine e).passFail = (if g.seqNext = 63 then g.passBad || bad else g.passFail) ∧
      (bad = true → g.out = false → g.outDue = none → (t.engine e).outDue = some 0) ∧
      (bad = false → (t.engine e).outDue = g.outDue) ∧
      (∀ f, f ≠ e → t.engine f = s.engine f) ∧ t = { s with engines := t.engines }) ∧
    (∃ t, exec (.redEngForceOut mask) s = .next t ∧ (∀ f : Fin 24, t.engine f =
        if mask.getLsbD f.val = true ∧ (s.engine f).out = false
        then { s.engine f with outDue := some ((s.engine f).outDue.getD 6) } else s.engine f) ∧
      t = { s with engines := t.engines }) ∧
    (∃ t, exec (.redEngClear mask) s = .next t ∧ (∀ f : Fin 24, t.engine f =
        if mask.getLsbD f.val = true ∧ (s.engine f).out = true ∧
          ((s.engine f).outCause = 2 ∨ (s.engine f).outCause = 3 ∨ (s.engine f).outCause = 4)
        then { s.engine f with causeCleared := true, clockFault := false } else s.engine f) ∧
      t = { s with engines := t.engines })

/-! ## Amplifier modulators -/

/-- Control of a channel that the image enables: start, stop and, in OFF, diagnostic triggers wait for a boundary of its
domain, one for each channel of an AMP_GO or AMP_HALT word in rising number (R474, R485); a diagnostic in any other state is
refused with a flag (R485); abort_retry ends SHUTDOWN and its test, clear_latch ends LATCHED, both with the retry count zero
(R479, R480), and the count clears after 10 s of RUNNING (R479). -/
def Claim.AmpControl : Prop :=
  ∀ (s : State) (c : Fin 16) (w : BitVec 16),
    let a := s.amp c
    let wait := fun (u : Fin 4) => if (s.tb u).open_ then 0 else 1
    let put := fun (i : StageItem) => s.onTb (s.tbOf a.domain) fun y => { y with staged := y.staged ++ [⟨wait (s.tbOf a.domain), i⟩] }
    let all := fun (b : Bool) (u : Fin 4) => ((List.finRange 16).filter fun q =>
      w.getLsbD q.val && (s.amp q).present && decide (s.tbOf (s.amp q).domain = u)).map fun q => Staged.mk (wait u) (.ampTrig q b)
    let rests := fun (t : State) => (t.amp c).state = .off ∧ (t.amp c).retries = 0 ∧ (t.amp c).en = false ∧
      (∀ d, d ≠ c → t.amp d = s.amp d) ∧ t = { s with amps := t.amps }
    (a.present = true →
      exec (.ampCtlStart c) s = .next (put (.ampTrig c true)) ∧ exec (.ampCtlStop c) s = .next (put (.ampTrig c false)) ∧
      (a.state = .off → exec (.ampCtlDiag c) s = .next (put (.ampDiag c a.diagQuick))) ∧
      (a.state ≠ .off → exec (.ampCtlDiag c) s = .next (s.onAmp c fun x => { x with flags := x.flags ||| 0x40 }))) ∧
    (∀ b i, (b = true ∧ i = .ampGo w) ∨ (b = false ∧ i = .ampHalt w) →
      ∃ t, exec i s = .next t ∧ (∀ u, t.tb u = { s.tb u with staged := (s.tb u).staged ++ all b u }) ∧
        t = { s with clk := t.clk }) ∧
    ((a.state = .shutdown ∨ a.state = .testing) → ∃ t, exec (.abortRetry c) s = .next t ∧ rests t ∧
      (t.amp c).waitFrom = none) ∧
    (a.state = .latched → ∃ t, exec (.clearLatch c) s = .next t ∧ rests t) ∧
    (a.state ≠ .latched → exec (.clearLatch c) s = .next s) ∧
    (a.state = .running → exec (.retryCountReset c) s = .next (s.onAmp c fun x => { x with retries := 0 }))

/-- Protection of a channel that drives its bridge (R463, R476, R477). An over-current report outside the blanking time while
its leg is high switches the leg early, limits the period and counts it once; a carrier period places a pulse within the
limits of R468 and, after 64 limited periods in a row, shuts the channel down, as an active driver fault does: high-impedance,
counted, flagged. Without the clock of its audio PLL a channel goes OFF at the end of the carrier period in progress (R472). After a
shutdown, unless braced, the retry timer starts the quick test (R478). -/
def Obligations.AmpProtection : Prop :=
  ∀ (s : State) (c : Fin 16) (positive : Bool) (count : Nat) (p : Fin 4),
    let a := s.amp c
    let rest := fun (t : State) => (∀ d, d ≠ c → t.amp d = s.amp d) ∧
      t = { s with amps := t.amps, ao := t.ao, evt := t.evt, free := t.free }
    let shut := fun (t : State) (f : BitVec 7) => (t.amp c).state = .shutdown ∧ (t.amp c).en = false ∧ (t.amp c).flags = f ∧
      (t.amp c).shutdowns = satInc32 a.shutdowns ∧ (t.amp c).waitFrom = some s.now ∧ rest t
    let drives := a.state = .starting ∨ a.state = .running ∨ a.state = .stopping
    let on := drives ∧ a.en = true
    (on → a.blanked count = false → a.legHigh count = positive → a.limNow = false →
      ∃ t, exec (.overCurrent c positive count) s = .next t ∧ (t.amp c).limNow = true ∧
        (t.amp c).ocCycles = satInc32 a.ocCycles ∧ (t.amp c).flags = a.flags ||| 1 ∧ (t.amp c).state = a.state ∧
        (t.amp c).legHigh count = !positive ∧ rest t) ∧
    (on → a.blanked count = false → a.legHigh count = positive → a.limNow = true →
      exec (.overCurrent c positive count) s = .next (s.onAmp c fun x => { x with early := x.early ++ [(count, !positive)] })) ∧
    (on → a.blanked count = true ∨ a.legHigh count ≠ positive → exec (.overCurrent c positive count) s = .next s) ∧
    (a.state = .running → a.en = true → a.ends = false → a.lost = none → a.limNow = false → a.limWin.length < 256 →
      2 * a.minPulse.toNat ≤ a.period →
      ∃ t, exec (.carrierPeriod c) s = .next t ∧ a.minPulse.toNat ≤ (t.amp c).width ∧
        (t.amp c).width ≤ a.period - a.minPulse.toNat ∧ (t.amp c).k = a.k + 1 ∧ (t.amp c).limRun = 0 ∧
        (t.amp c).state = .running ∧ rest t) ∧
    (on → a.limNow = true → a.limRun = 63 → a.resumed = false →
      ∃ t, exec (.carrierPeriod c) s = .next t ∧ shut t (a.flags ||| 2)) ∧
    (drives → a.resumed = false → ∃ t, exec (.driverFault c) s = .next t ∧ shut t (a.flags ||| 6)) ∧
    (∃ t, exec (.ampClockLoss p) s = .next t ∧
      (∀ d, let x := s.amp d
        (x.present = true → (s.domain? x.domain).map (·.apll) = some p → (x.state.drives = true ∨ x.state.tests = true) →
          (x.k = 0 → (t.amp d).state = .off ∧ (t.amp d).en = false) ∧ (x.k ≠ 0 → t.amp d = { x with lost := some p })) ∧
        ((s.domain? x.domain).map (·.apll) ≠ some p → t.amp d = x)) ∧
      t = { s with amps := t.amps, ao := t.ao, evt := t.evt }) ∧
    (a.en = true → a.lost = some p → a.ends = false → a.limNow = false → a.limWin.length < 256 →
      ∃ t, exec (.carrierPeriod c) s = .next t ∧ (t.amp c).state = .off ∧ (t.amp c).en = false ∧ (t.amp c).lost = none ∧ rest t) ∧
    (a.state = .shutdown → a.braced = false → ∃ t, exec (.retryTimer c) s = .next t ∧ (t.amp c).state = .testing ∧
      (t.amp c).runQuick = true ∧ (t.amp c).points = 0 ∧ (∀ d, d ≠ c → t.amp d = s.amp d) ∧ t = { s with amps := t.amps }) ∧
    (a.state = .shutdown → a.braced = true →
      exec (.retryTimer c) s = .next (s.onAmp c fun x => { x with retryDue := true }))

/-- The gates of a channel (R469): high-impedance holds all four off; the two gates of a leg are never on together, nor is one on
within dead_counts of the other; dead_counts after an edge of leg A one gate of each leg is on, and the legs are complements. -/
def Claim.GateOutputs : Prop :=
  ∀ (a : Amp) (count : Nat),
    let g := a.gates count
    (a.en = false → g = ⟨false, false, false, false⟩) ∧
    (∀ j, j ≤ count → count < j + max 1 a.dead.toNat → let h := a.gates j
      (g.aHigh = true → h.aLow = false) ∧ (g.aLow = true → h.aHigh = false) ∧
      (g.bHigh = true → h.bLow = false) ∧ (g.bLow = true → h.bHigh = false)) ∧
    (∀ n, a.en = true → a.sinceEdge count = some n → a.dead.toNat ≤ n →
      g = if a.legHigh count = true then ⟨true, false, false, true⟩ else ⟨false, true, true, false⟩) ∧
    (∀ n, a.sinceEdge count = some n → n < a.dead.toNat → g = ⟨false, false, false, false⟩)

/-- The end of a load diagnostic. A run of DIAG leaves its class, its points and the least impedance in the result registers
and the channel OFF (R483, R484, R485). A retry test of class NORMAL or CAP_COUPLED asks for a start at a boundary; any other
class is a failed retry, and the eighth in a row latches the channel (R478, R479). -/
def Claim.DiagnosticRun : Prop :=
  ∀ (s : State) (c : Fin 16) (points : List DiagPoint),
    let a := s.amp c
    let ps := points.take (if a.runQuick then 3 else 10)
    let cls := classOf a.shortM.toNat a.openM.toNat ps
    let results := fun (t : State) => (t.amp c).cls = cls ∧ (t.amp c).points = ps.length ∧
      (t.amp c).rmin = BitVec.ofNat 32 (leastZ ps) ∧
      (∀ (i : Fin 10) q, ps[i.val]? = some q → ((t.amp c).z.get i).toNat / 2 ^ 12 = min q.zMohm 1048575 ∧
        ((t.amp c).z.get i).setWidth 12 = BitVec.ofInt 12 q.phase) ∧
      (∀ d, d ≠ c → t.amp d = s.amp d)
    (a.state = .diag → ∃ t, exec (.diagRunDone c points) s = .next t ∧ (t.amp c).state = .off ∧ results t ∧
      t = { s with amps := t.amps, ao := t.ao, evt := t.evt, free := t.free }) ∧
    (a.state = .testing → (cls = 1 ∨ cls = 4) → a.present = true → ∃ t, exec (.diagRunDone c points) s = .next t ∧
      (t.amp c).state = .off ∧ (t.amp c).resumed = true ∧ results t ∧
      (t.tb (s.tbOf a.domain)).staged = (s.tb (s.tbOf a.domain)).staged ++
        [⟨if (s.tb (s.tbOf a.domain)).open_ then 0 else 1, .ampTrig c true⟩] ∧
      t = { s with amps := t.amps, clk := t.clk, ao := t.ao, evt := t.evt, free := t.free }) ∧
    (a.state = .testing → cls ≠ 1 → cls ≠ 4 → ∃ t, exec (.diagRunDone c points) s = .next t ∧
      (t.amp c).retries = a.retries + 1 ∧ results t ∧
      (a.retries < 7 → (t.amp c).state = .shutdown ∧ (t.amp c).waitFrom = some s.now) ∧
      (7 ≤ a.retries → (t.amp c).state = .latched ∧ (t.amp c).flags = a.flags ||| 8) ∧
      t = { s with amps := t.amps, ao := t.ao, evt := t.evt })

/-! ## The crossbar and memory -/

/-- A request that the crossbar takes and nothing refuses reaches its target (R393, R394, R402): a read of shared memory without
errors gives its bytes; a write changes exactly the bytes whose strobes are on; an atomic answers the old word and leaves the
sum modulo 2^32, the saturated signed sum, or the operand. A refused request gives an ERROR with its cause and changes no
memory. Stated for requests that meet no other at their bank, where none waits, of a master that may send and that still owes
no beat of a write burst to the bytes asked for (assumption 249). -/
def Obligations.CrossbarRequests : Prop :=
  ∀ (s : State) (r : XRead) (w : XWrite) (x : XAtomic) (b : Fin 21), b.val < 16 →
    s.xbar.badCe = [] → s.xbar.badUe = [] → s.mem.wf = true → s.xbar.bankQ = [] → r.cycle = none → w.cycle = none →
    x.cycle = none →
    let adds := fun (t : State) (o : XOut) => t.xbar.outstanding = s.xbar.outstanding ++ [o]
    let quiet := fun (t : State) => t = { s with xbar := t.xbar, mem := t.mem }
    (s.xTakes r.master r.addr.toNat r.len = true → s.xRefusal r.master.val r.addr.toNat r.len false false = none →
      targetOf r.addr.toNat = some b → ∃ t, exec (.xbarRead r) s = .next t ∧ t.mem = s.mem ∧ quiet t ∧
        adds t { master := r.master, id := r.id, addr := r.addr, target := some b, write := false, beats := 0
                 resp := some (.okay (s.mem.getN r.addr.toNat r.len)) }) ∧
    (∀ c, s.xTakes r.master r.addr.toNat r.len = true → s.xRefusal r.master.val r.addr.toNat r.len false false = some c →
      (c ≠ .denied ∨ targetOf r.addr.toNat ≠ some 18) → ∃ t, exec (.xbarRead r) s = .next t ∧ t.mem = s.mem ∧ t.xbar.eCause = c.code ∧
        t.xbar.errors = satInc32 s.xbar.errors ∧ t.xbar.eAddr = r.addr ∧
        adds t { master := r.master, id := r.id, addr := r.addr, target := targetOf r.addr.toNat, write := false, beats := 0
                 resp := some (.error c) } ∧
        t = { s with xbar := t.xbar, ao := t.ao, evt := t.evt }) ∧
    (s.xTakes w.master w.addr.toNat w.len = true → s.xRefusal w.master.val w.addr.toNat w.len true false = none →
      (∀ o ∈ s.xbar.outstanding, o.beats = 0) → targetOf w.addr.toNat = some b → w.len ≤ 64 → w.bytes.length = w.len →
      ∃ t, exec (.xbarWrite w) s = .next t ∧ quiet t ∧
        adds t { master := w.master, id := w.id, addr := w.addr, target := some b, write := true, beats := 0, resp := some (.okay []) } ∧
        ∀ y, t.mem.get y = if w.addr.toNat ≤ y then ((w.bytes[y - w.addr.toNat]?).join).getD (s.mem.get y) else s.mem.get y) ∧
    (s.xTakes x.master x.addr.toNat 4 = true → s.xRefusal x.master.val x.addr.toNat 4 true true = none →
      targetOf x.addr.toNat = some b →
      let old := s.mem.word x.addr.toNat
      let done := fun (i : Instr) (v : Word) => ∃ t, exec i s = .next t ∧ t.mem.word x.addr.toNat = v ∧
        (∀ y, y < x.addr.toNat ∨ x.addr.toNat + 4 ≤ y → t.mem.get y = s.mem.get y) ∧ quiet t ∧
        adds t { master := x.master, id := x.id, addr := x.addr, target := some b, write := true, beats := 0
                 resp := some (.okay (leBytes 4 old.toNat)) }
      done (.addWrap x) (old + x.operand) ∧ done (.addSat x) (satWord (old.toInt + x.operand.toInt)) ∧
      done (.swap x) x.operand)

/-- Requests that meet at a bank (R400). A read and a write of the same cycle: the one of the higher class is served first,
the lower master within a class, so that the read gives what the memory held before the write or after it. Of two requests
that wait, one that has lost 8 times comes first, the lower master of two such. An atomic, and a write that covers a 64-bit
word in part, occupies its bank for 2 cycles, any other request of one beat for 1. -/
def Claim.BankArbitration : Prop :=
  (∀ (s : State) (r : XRead) (w : XWrite) (c : Nat) (b : Fin 21), s.xbar.bankQ = [] → s.xbar.bankFree = [] →
    s.xbar.outstanding = [] → s.xbar.badCe = [] → s.xbar.badUe = [] → s.mem.wf = true →
    (∀ f ∈ s.xbar.fences, f.1 ≠ r.master) → r.master ≠ w.master → r.cycle = some c → w.cycle = some c → b.val < 16 →
    targetOf r.addr.toNat = some b → targetOf w.addr.toNat = some b → r.addr.toNat / bankBytes = w.addr.toNat / bankBytes →
    s.xTakes r.master r.addr.toNat r.len = true → s.xTakes w.master w.addr.toNat w.len = true → s.xRefusal r.master.val r.addr.toNat r.len false false = none →
    s.xRefusal w.master.val w.addr.toNat w.len true false = none → w.len ≤ 64 → w.bytes.length = w.len →
    let readFirst := masterClass r.master < masterClass w.master ∨ (masterClass r.master = masterClass w.master ∧ r.master < w.master)
    ∃ t1 t2 t, exec (.xbarRead r) s = .next t1 ∧ exec (.xbarWrite w) t1 = .next t2 ∧
      exec (.xbarResponse r.master r.id) t2 = .next t ∧ t2.mem = s.mem ∧
      (∀ y, t.mem.get y = if w.addr.toNat ≤ y then ((w.bytes[y - w.addr.toNat]?).join).getD (s.mem.get y) else s.mem.get y) ∧
      t.xbar.delivered = (r.master, r.id,
        .okay ((if readFirst then s.mem else t.mem).getN r.addr.toNat r.len)) :: s.xbar.delivered) ∧
  (∀ (s : State) (p q : BankReq) (bp bq : List Byte) (b : Fin 21) (m : Fin 37) (id : Fin 16),
    s.xbar.bankQ = [p, q] → s.xbar.bankFree = [] → s.mem.wf = true → p.addr = q.addr → p.since = q.since → p.master ≠ q.master →
    targetOf p.addr.toNat = some b → b.val < 16 → p.op = .write (bp.map some) → q.op = .write (bq.map some) →
    bp.length = 4 → bq.length = 4 →
    let pFirst := if 8 ≤ p.lost ∨ 8 ≤ q.lost then 8 ≤ p.lost ∧ (q.lost < 8 ∨ p.master < q.master)
      else masterClass p.master < masterClass q.master ∨ (masterClass p.master = masterClass q.master ∧ p.master < q.master)
    ∃ t, exec (.xbarResponse m id) s = .next t ∧ t.xbar.bankQ = [] ∧ t.mem.getN p.addr.toNat 4 = (if pFirst then bq else bp)) ∧
  (∀ (s : State) (p q : BankReq) (r : XRead) (b : Fin 21), s.xbar.bankQ = [p, q] → s.xbar.bankFree = [] →
    q.since = p.since + 1 → targetOf p.addr.toNat = some b → b.val < 16 → targetOf q.addr.toNat = some b →
    p.addr.toNat / bankBytes = q.addr.toNat / bankBytes → r.cycle = some (p.since + 2) → s.xTakes r.master r.addr.toNat r.len = false →
    ∃ t, exec (.xbarRead r) s = .next t ∧
      ((∃ op v, p.op = .atomic op v) ∨ (∃ bs, p.op = .write bs ∧ bs.length = 4 ∧ p.addr.toNat % 4 = 0 ∧ ∃ v ∈ bs, v.isSome = true) →
        t.xbar.bankQ = [q]) ∧
      ((∃ len, p.op = .read len ∧ len ≤ 64) ∨ (∃ bs : List Byte, p.op = .write (bs.map some) ∧ bs.length = 8 ∧ p.addr.toNat % 8 = 0) →
        t.xbar.bankQ = []))

/-- The answers of the crossbar. A response that is next for its id is delivered once to a master that is not fenced (R394,
R398); a target that has been silent for 4,096 cycles is answered for with TIMEOUT (R401); the rest of a write burst that stays away
is completed (R413). -/
def Claim.CrossbarResponses : Prop :=
  ∀ (s : State) (m : Fin 37) (id : Fin 16) (t0 : Fin 21) (o : XOut) (rest : List XOut),
    s.xbar.bankQ = [] → s.xbar.bankFree = [] →
    (s.xNext m id = some o → (∀ f ∈ s.xbar.fences, f.1 ≠ m) → exec (.xbarResponse m id) s =
      .next (s.onXbar fun x => { x with
        outstanding := x.outstanding.erase o, delivered := (m, id, o.resp.getD (.okay [])) :: x.delivered })) ∧
    (s.xNext m id = none → exec (.xbarResponse m id) s = .next s) ∧
    (s.xbar.outstanding = o :: rest → o.master = m → o.target = some t0 → o.beats = 0 →
      ∃ t, exec (.targetTimeout t0 m) s = .next t ∧
        t.xbar.outstanding = { o with resp := some (.error .timeout) } :: rest ∧ t.xbar.eCause = 5 ∧
        t.xbar.errors = satInc32 s.xbar.errors ∧ t = { s with xbar := t.xbar, ao := t.ao, evt := t.evt }) ∧
    (s.xbar.outstanding = o :: rest → o.master = m → o.beats ≠ 0 →
      ∃ t, exec (.burstTimeout m) s = .next t ∧
        t = { s with ao := t.ao, evt := t.evt, xbar := { s.xbar with
          outstanding := { o with beats := 0, resp := some (.okay []) } :: rest } })

/-- Remote windows on a lane that is UP (R444): a peer's read of shared memory is performed here and answered with the bytes;
one outside what a window reaches is denied and changes no memory; the peer's answer completes the oldest remote access that
waits for it, and one to an access that was answered with TIMEOUT is discarded (R401). Stated where no request waits at a
bank. -/
def Claim.RemoteWindows : Prop :=
  ∀ (s : State) (l : Fin 4) (ofs : BitVec 27) (len : Nat) (bytes : List Byte) (o : XOut) (rest : List XOut) (b : Fin 21),
    (s.lane l).state = .up → s.xbar.bankQ = [] → s.xbar.bankFree = [] →
    let answered := fun (t : State) (m : WinMsg) => (t.lane l).window = (s.lane l).window ++ [((s.lane l).seq, .window m)] ∧
      t.mem = s.mem
    (ofs.toNat + len ≤ 0x3000000 → s.xbar.badCe = [] → s.xbar.badUe = [] → targetOf ofs.toNat = some b → b.val < 16 →
      s.xRefusal (windowMaster l).val ofs.toNat len false false = none →
      ∃ t, exec (.window l (.readReq ofs len)) s = .next t ∧ answered t (.response 0 (s.mem.getN ofs.toNat len)) ∧
        t = { s with red := t.red }) ∧
    (0x3000000 < ofs.toNat + len → ofs.toNat < 0x4000000 →
      ∃ t, exec (.window l (.readReq ofs len)) s = .next t ∧ answered t (.response 2 []) ∧
        t = { s with red := t.red, xbar := t.xbar, ao := t.ao, evt := t.evt }) ∧
    (s.xbar.outstanding = o :: rest → o.target = some 20 → o.resp = none → o.lane = some l → l ∉ s.xbar.lateWin →
      ∃ t, exec (.window l (.response 0 bytes)) s = .next t ∧
        t.xbar.outstanding = { o with resp := some (.okay bytes) } :: rest ∧
        t = { s with red := t.red, xbar := { s.xbar with outstanding := t.xbar.outstanding } }) ∧
    (∀ c, l ∈ s.xbar.lateWin → ∃ t, exec (.window l (.response c bytes)) s = .next t ∧
      t = { s with red := t.red, xbar := { s.xbar with lateWin := s.xbar.lateWin.erase l } })

/-- Shared banks, memory controllers and fences. A bank that is not ON returns when it is on, and going OFF loses its bytes and
no others (R405, R407); a correctable error found by scrubbing is corrected and counted (R410, R411); training ends READY or
FAILED with its step (R416); READY falls to DOWN with a trigger to the placer (R418); a controller that is FAILED or DOWN
trains again (R419); a master in reset is fenced until it has left reset and nothing of it is outstanding (R412); a wipe
clears the secure partition (R421). -/
def Obligations.MemorySystem : Prop :=
  ∀ (s : State) (b : Fin 256) (n : Fin 16) (v : Word) (c : Fin 2) (m : Fin 37),
    let d := s.dram c
    let drams := fun (t : State) => (∀ k, k ≠ c → t.dram k = s.dram k)
    (s.xbar.bankReq.get b = 2 → (s.bank b = .off ∨ s.bank b = .retain) →
      ∃ t, exec (.bankOn b) s = .next t ∧ t.bank b = .on ∧ (∀ k, k ≠ b → t.bank k = s.bank k) ∧ t.mem = s.mem ∧
        t = { s with xbar := t.xbar, ao := t.ao, evt := t.evt }) ∧
    (b.val / 16 = n.val → s.bank b = .on → s.img.loaded = none → s.mem.wf = true →
      (∀ k : Nat, k < 16 → 16 * n.val + k ≠ b.val → fld v (2 * k + 1) (2 * k) = 3) →
      fld v (2 * (b.val % 16) + 1) (2 * (b.val % 16)) = 0 → b.val ∉ s.xbar.fixed →
      ∃ t, exec (.memBankReqWrite n v) s = .next t ∧ t.bank b = .off ∧ (∀ k, k ≠ b → t.bank k = s.bank k) ∧
        (∀ y, t.mem.get y = if bankBytes * b.val ≤ y ∧ y < bankBytes * (b.val + 1) then 0 else s.mem.get y) ∧
        t = { s with xbar := t.xbar, mem := t.mem, ao := t.ao, evt := t.evt,
                     placer := { s.placer with bankDue := t.placer.bankDue } }) ∧
    (∀ y, s.xbar.scrub = true → s.bank b = .on → s.xbar.badUe = [] → s.xbar.badCe = [y] →
      bankBytes * b.val ≤ 8 * y → 8 * y < bankBytes * (b.val + 1) →
      ∃ t, exec (.scrubPass b) s = .next t ∧ t.xbar.badCe = [] ∧ t.xbar.ce = satInc32 s.xbar.ce ∧ t.mem = s.mem ∧
        t = { s with xbar := t.xbar, ao := t.ao, evt := t.evt }) ∧
    (∀ f : Fin 6, d.state = .training → ∃ t, exec (.dramTrainingDone c f) s = .next t ∧
      t.dram c = (if f = 0 then { d with state := .ready, failStep := 0 } else { d with state := .failed, failStep := f.val }) ∧
      drams t ∧ t = { s with drams := t.drams, ao := t.ao, evt := t.evt }) ∧
    (∀ k : Fin 3, d.state = .ready → ∃ t, exec (.dramDown c k) s = .next t ∧
      t.dram c = { d with state := .down, ueAt := [] } ∧ drams t ∧
      t = { s with drams := t.drams, placer := t.placer, ao := t.ao, evt := t.evt }) ∧
    ((d.state = .failed ∨ d.state = .down) → (s.power.state = 3 ∨ s.power.state = 4) →
      exec (.dramRetrain c) s = .next (s.onDram c fun x => { x with state := .training, failStep := 0 })) ∧
    (∀ mr4 temp, d.state = .ready → ∃ t, exec (.mr4Read c mr4 temp false) s = .next t ∧
      t.dram c = { d with mr4 := mr4 } ∧ drams t ∧ t = { s with drams := t.drams, ao := t.ao, evt := t.evt }) ∧
    (d.state = .ready → exec (.wckRetrack c) s = .next (s.onDram c fun x => { x with retracks := x.retracks + 1 })) ∧
    (s.xbar.inReset.getLsbD m.val = false → ∃ t, exec (.masterReset m) s = .next t ∧
      t.xbar.fenced.getLsbD m.val = true ∧ t.xbar.inReset.getLsbD m.val = true ∧
      (∀ o ∈ t.xbar.outstanding, o.master = m → o.beats = 0) ∧ t.mem = s.mem ∧
      t = { s with xbar := t.xbar, ao := t.ao, evt := t.evt, free := t.free }) ∧
    ((∀ f ∈ s.xbar.fences, f.1 ≠ m) → ∃ t, exec (.fenceLift m) s = .next t ∧ t.xbar.fenced.getLsbD m.val = false ∧
      (∀ k : Fin 37, k ≠ m → t.xbar.fenced.getLsbD k.val = s.xbar.fenced.getLsbD k.val) ∧ t = { s with xbar := t.xbar }) ∧
    (s.img.req = none → s.mem.wf = true → ∃ t, exec .memSecWipe s = .next t ∧ t.xbar.secState = 1 ∧ t.xbar.secFull = true ∧
      (∀ y, t.mem.get y = if secureBase ≤ y ∧ y < secureBase + 0x80000 then 0 else s.mem.get y) ∧
      t = { s with xbar := t.xbar, mem := t.mem })

/-! ## Resets, the start and the power states -/

/-- A reset of a part that is not halted (R495, R504): a rail, a host reset with the key, a lockstep, the watchdog of a step in
progress, WAKE_N in STANDBY. Its kind is recorded; chip memory, the image, the processes and the scenes are gone; RWS flags,
the rank, host memory and the waiting commands stay; uptime runs from 0 and the start takes the next start count. -/
def Claim.Resets : Prop :=
  ∀ (s : State) (i : Instr) (kind : BitVec 4),
    let x := s.power.start
    let prev := s.ledgerAt s.newestRec
    let alive := 2 ≤ s.power.state.val ∧ x.result ≠ 2 ∧ x.pinHeld = false
    (alive ∧ ((∃ rail, rail ≠ 0 ∧ i = .supply rail ∧ kind = 1) ∨ (i = .sysRstCtlReset 0xA5A5 ∧ kind = 3) ∨
        (i = .lockstep ∧ kind = 4) ∨ (i = .watchdog ∧ kind = 5 ∧ x.result = 0 ∧ x.waiting = false)) ∨
      i = .wake ∧ kind = 6 ∧ s.power.state = 1 ∧ x.result ≠ 2) →
    ∃ t, exec i s = .next t ∧ t.power.rstKind = kind ∧ t.power.state = 3 ∧ t.mem = [] ∧ t.procs = [] ∧
      t.img = State.reset.img ∧ t.scene = State.reset.scene ∧ (∀ p, (t.sap p).flags = (s.sap p).flags) ∧
      t.red.flags = s.red.flags ∧ t.red.rank = s.red.rank ∧ t.hostMem = s.hostMem ∧ t.pending = s.pending ∧
      t.ao.now = 0 ∧ t.ao.startCount = prev.startCount + 1 ∧
      ((prev.safe = false ∨ prev.unfinished = false) → t.power.start.result = 0 ∧ t.power.start.step = 0)

/-- The resets that begin or end with a pin or the supply of the always-on domain (R495, R505, R507): POWER_ON samples the rank
and keeps no flag; the loss of that supply leaves OFF; PIN waits for RESET_N, at whose return the start begins. Without the
key, and in a part that is halted or off, a reset command does nothing. -/
def Claim.PinAndSupplyResets : Prop :=
  ∀ (s : State) (rank wakeLow : Bool) (key : BitVec 16),
    let stays := fun (t : State) => t.hostMem = s.hostMem ∧ t.pending = s.pending ∧ t.mem = []
    (∃ t, exec (.powerOn rank wakeLow) s = .next t ∧ t.power.rstKind = 0 ∧ t.red.rank = rank ∧
      t.power.start.wakeLow = wakeLow ∧ (∀ p, (t.sap p).flags = 0) ∧ stays t) ∧
    (∃ t, exec (.supply 0) s = .next t ∧ t.power.state = 0 ∧ (∀ p, (t.sap p).flags = 0) ∧ stays t) ∧
    (s.power.state ≠ 0 → ∃ t, exec .pin s = .next t ∧ t.power.rstKind = 2 ∧ t.power.start.pinHeld = true ∧
      (∀ p, (t.sap p).flags = (s.sap p).flags) ∧ stays t) ∧
    (s.power.start.pinHeld = true → ∃ t, exec .resetNReturnsHigh s = .next t ∧ t.power.start.pinHeld = false ∧
      t.ao.startCount = (s.ledgerAt s.newestRec).startCount + 1 ∧ t.mem = s.mem ∧ t.hostMem = s.hostMem) ∧
    (key ≠ 0xA5A5 → exec (.sysRstCtlReset key) s = .next s) ∧
    (s.power.start.result = 2 → exec .lockstep s = .next s ∧ exec .watchdog s = .next s ∧ exec .wake s = .next s)

/-- The steps of a start that runs (R489, R508, R513, R514). A rail group that is ready enables the next, and one that is late
halts the start with FAULT_N; a step that passes is followed by the next, or waits while braced; a failed S1 or S6 halts it;
after S9 the start is complete, in RUN once the boundaries of the ports are chosen. When the audio PLLs have not all locked in
time, the domains that have start their ports at the first boundary at least 16 blocks on. -/
def Obligations.StartSteps : Prop :=
  ∀ (s : State) (r : StepEnd) (g : Fin 4),
    let x := s.power.start
    let ledger := fun (t : State) => t = { s with power := t.power, ao := t.ao, evt := t.evt }
    let halts := fun (t : State) => t.power.start.result = 2 ∧ t.power.start.step = 15 ∧ t.power.faultN = true ∧ ledger t
    x.result = 0 → x.pinHeld = false → x.waiting = false →
    (x.step = 1 → s.power.enables.getLsbD g.val = true →
      exec (.railGroupReady g) s = .next (s.onPower fun p => { p with enables := p.enables ||| BitVec.ofNat 4 (2 ^ (g.val + 1)) }) ∧
      ∃ t, exec (.railGroupTimeout g) s = .next t ∧ halts t) ∧
    ((x.step = 1 ∨ x.step = 6) → r.ok = false → ∃ t, exec (.startStepComplete r) s = .next t ∧ halts t) ∧
    (x.step = 1 → r.ok = true → s.power.braced = false → ∃ t, exec (.startStepComplete r) s = .next t ∧
      t.power.start.step = 2 ∧ t.power.start.result = 0 ∧ ledger t) ∧
    (x.step = 1 → r.ok = true → s.power.braced = true → ∃ t, exec (.startStepComplete r) s = .next t ∧
      t.power.start.waiting = true ∧ t.power.start.step = 1 ∧ t.power.start.result = 0 ∧ ledger t) ∧
    (x.step = 9 → (s.power.state = 4 → x.s9Set = true) → ∃ t, exec (.startStepComplete r) s = .next t ∧ t.power.start.result = 1 ∧
      t.power.state = s.power.state ∧ ledger t) ∧
    (x.step = 9 → s.power.state = 4 → x.s9Set = false → exec (.startStepComplete r) s = .next s) ∧
    (x.step = 9 → s.power.state = 4 → x.s9Set = false → ∃ t, exec .s9ApllTimeout s = .next t ∧
      t.power.start.s9Set = true ∧
      t.power.start.s9At = (s.domains.filter fun d => (s.apll d.apll).mclk).map (fun d => (d.tb, (s.tb d.tb).blk + 17)) ∧
      t = { s with power := t.power })

/-- Power states (R499, R500, R501, R503, R505). A command is answered OK and the transition begins, with the ports of every
domain told to stop when RUN is left; NOT_PERMITTED where the table has no such transition; BUSY while one is running;
DEFERRED while braced. It completes with the new state once what it waits for has come about: RUN from READY at once, READY
from RUN when every port is still, SLEEP with the ON banks in RETAIN and the memories in self-refresh. An OFF that is not
taken leaves STANDBY. -/
def Claim.PowerStates : Prop :=
  ∀ (s : State),
    let p := s.power
    let answers := fun (t : State) (target : BitVec 3) (st : Byte) => t.power.target = target ∧ t.power.lastStatus = st ∧
      t.power.state = p.state
    (p.moving = none → p.braced = false →
      (p.state = 3 → ∃ t, exec (.pwrGo 4) s = .next t ∧ answers t 4 0 ∧ t.power.moving = some 4 ∧ t = { s with power := t.power }) ∧
      (p.state = 4 → ∃ t, exec (.pwrGo 3) s = .next t ∧ answers t 3 0 ∧ t.power.moving = some 3 ∧
        (∀ d ∈ s.domains, .stopAll ∈ (t.tb d.tb).staged.map (·.item)) ∧ t = { s with power := t.power, clk := t.clk })) ∧
    (p.moving = none → p.state = 4 → ∃ t, exec (.pwrGo 2) s = .next t ∧ answers t 2 4 ∧ t.power.moving = none ∧
      t = { s with power := t.power }) ∧
    (∀ k, p.moving = some k → ∃ t, exec (.pwrGo 3) s = .next t ∧ answers t 3 1 ∧ t.power.moving = some k ∧
      t = { s with power := t.power }) ∧
    (p.moving = none → p.braced = true → p.state = 4 → ∃ t, exec (.pwrGo 3) s = .next t ∧ answers t 3 6 ∧
      t.power.deferred = some 3 ∧ t.power.moving = none ∧ t = { s with power := t.power }) ∧
    (p.state = 3 → p.moving = some 4 → ∃ t, exec .pwrTransitionComplete s = .next t ∧ t.power.state = 4 ∧
      t.power.moving = none ∧ (∀ d ∈ s.domains, .enterRun ∈ (t.tb d.tb).staged.map (·.item)) ∧
      t = { s with power := t.power, clk := t.clk, ao := t.ao, evt := t.evt }) ∧
    (p.state = 4 → p.moving = some 3 →
      (s.portsQuiet = true → ∃ t, exec .pwrTransitionComplete s = .next t ∧ t.power.state = 3 ∧ t.power.moving = none ∧
        t = { s with power := t.power, ao := t.ao, evt := t.evt }) ∧
      (s.portsQuiet = false → exec .pwrTransitionComplete s = .next s)) ∧
    (p.state = 3 → p.moving = some 2 → ∃ t, exec .pwrTransitionComplete s = .next t ∧ t.power.state = 2 ∧
      (∀ b, t.bank b = if s.bank b = .on then .retain else s.bank b) ∧
      (∀ c, t.dram c = { s.dram c with selfRefresh := (s.dram c).state == .ready }) ∧ t.mem = s.mem ∧
      t = { s with power := t.power, ao := t.ao, evt := t.evt, xbar := t.xbar, drams := t.drams, engines := t.engines,
                   procs := t.procs }) ∧
    (p.moving = none → exec .pwrTransitionComplete s = .next s) ∧
    (p.offWait = true → ∃ t, exec .offTimeout s = .next t ∧ t.power.state = 1 ∧ t.power.offNotTaken = true ∧
      t = { s with power := { p with state := 1, offWait := false, offNotTaken := true } })

/-- Supply dips and temperature. A rail below its warning braces the part and every channel of the image, with the level kept
as the lowest of the dip (R481, R492); the brace ends with no rail low, for the channels too, and each rail that was low reads at
least the level at which its dip has passed (R491, R493). A temperature is shown,
with the highest (R584), and JUNCTION_HOT is armed again only 5 degrees below its threshold (R585, R586). -/
def Claim.BraceAndTemperature : Prop :=
  ∀ (s : State) (rail : Fin 9) (mv : Nat) (c : BitVec 8),
    let p := s.power
    let rest := fun (t : State) => t = { s with power := t.power, amps := t.amps, ao := t.ao, evt := t.evt, free := t.free }
    let level := BitVec.ofNat 16 (min mv 65535)
    (2 ≤ p.state.val → p.braced = false → ∃ t, exec (.railBelowWarning rail mv) s = .next t ∧ t.power.braced = true ∧
      t.power.present.get rail = level ∧ t.power.belowWarn.getLsbD rail.val = true ∧ t.power.dipLow = min mv 65535 ∧
      (t.power.lowest.get rail).toNat = min level.toNat (p.lowest.get rail).toNat ∧
      (∀ k, (s.amp k).present = true → (t.amp k).braced = true) ∧ (∀ k, (s.amp k).present = false → t.amp k = s.amp k) ∧
      rest t) ∧
    (p.braced = true → p.deferred = none → p.start.waiting = false → ∃ t, exec .braceEnd s = .next t ∧
      t.power.braced = false ∧ t.power.belowWarn = 0 ∧ (∀ k, (s.amp k).present = true → (t.amp k).braced = false) ∧
      (∀ k, p.belowWarn.getLsbD k.val = true → (rails.get k).clearUv / 1000 ≤ (t.power.present.get k).toNat) ∧ rest t) ∧
    (p.braced = false → exec .braceEnd s = .next s) ∧
    (∃ t, exec (.tempMeasurement c) s = .next t ∧ t.power.temp = c ∧
      t.power.tempMax = (if p.tempMax.toInt < c.toInt then c else p.tempMax) ∧
      (p.hotThr.toInt - 5 < c.toInt → p.hotArmed = false → t.power.hotArmed = false) ∧
      (c.toInt ≤ p.hotThr.toInt - 5 → t.power.hotArmed = true) ∧ t = { s with power := t.power, ao := t.ao, evt := t.evt })

/-! ## Non-volatile storage, life cycle, sensors, records and the event queue -/

/-- Non-volatile writes of an idle, unbraced store. A write of the boot configuration, in DEVELOP of the sensors' actions, of
Patina thresholds in their order, and each powered hour in READY or RUN begins at once (R492, R533, R536, R542); a write out
of these conditions is ignored. A completed configuration write is in both copies, with its count advanced (R521). -/
def Claim.NonVolatileWrites : Prop :=
  ∀ (s : State) (v : BitVec 2) (w : BitVec 10) (x : Word), s.power.braced = false → s.ao.nvBusy = none →
    s.ao.nvQueue = [] →
    let begins := fun (i : Instr) (c : CfgItem) => exec i s = .next (s.onAo fun a => { a with nvBusy := some (.cfg c) })
    let floor := x.setWidth 8
    let warn := (x >>> 8).setWidth 8
    let margin := (x >>> 16).setWidth 8
    begins (.bootCfgWrite v) (.bootCfg (v.getLsbD 1) (v.getLsbD 0)) ∧
    (s.cfg.lcState = .develop → begins (.tamperCfgWrite w) (.tamperAct w)) ∧
    (s.cfg.lcState ≠ .develop → exec (.tamperCfgWrite w) s = .next s) ∧
    (floor < warn → warn < margin → begins (.patinaCtlWrite x) (.patina ((x >>> 24).setWidth 4) margin warn floor)) ∧
    (¬(floor < warn ∧ warn < margin) → exec (.patinaCtlWrite x) s = .next s) ∧
    ((s.power.state = 3 ∨ s.power.state = 4) → begins .poweredHours (.hours (s.cfg.hours + 1))) ∧
    (s.power.state ≠ 3 → s.power.state ≠ 4 → exec .poweredHours s = .next s) ∧
    (∀ c, c ≠ .imageKey none → s.lc.running = none → exec .nvWriteDone (s.onAo fun a => { a with nvBusy := some (.cfg c) }) =
      .next (s.onAo fun a => { a with
        cfgA := { a.cfgA.apply c with writeCount := a.cfgA.writeCount + 1, valid := true },
        cfgB := { a.cfgB.apply c with writeCount := a.cfgA.writeCount + 1, valid := true } })) ∧
    (s.lc.running = none → ∃ t, exec .nvWriteDone (s.onAo fun a => { a with nvBusy := some (.cfg (.imageKey none)) }) = .next t ∧
      t.ao.cfgA.imageKey = none ∧ t.ao.cfgB.imageKey = none ∧ t.ao.cfgA.writeCount = s.ao.cfgA.writeCount + 1 ∧
      t.ao.nvBusy = none ∧ t = { s with ao := t.ao, evt := t.evt })

/-- Life-cycle commands and tamper sensors (R422, R538, R539, R540, R542). Without the key LC_CTL only sets its target. A
transition that is allowed releases the image and wipes the secure partition in full before anything else; one that is not is
answered NOT_PERMITTED, and BUSY while one runs. An item of a part that may be provisioned is stored from host memory. A wipe
that reads back clean opens the partition, another closes it. An armed sensor is latched and reported, and wipes where its
action says so; it acts again only after it is armed again. -/
def Claim.LifeCycleAndTamper : Prop :=
  ∀ (s : State) (key : BitVec 16) (k : BitVec 3) (bad : Byte) (i : Fin 5),
    let reports := fun (t : State) => t = { s with lc := t.lc, ao := t.ao, evt := t.evt }
    let wiping := fun (t : State) => t.xbar.secState = 1 ∧ t.xbar.secFull = true ∧
      ∀ y, secureBase ≤ y → y < secureBase + 0x80000 → t.mem.get y = 0
    (key ≠ 0xA5A5 → exec (.lcCtlGo key k) s = .next (s.onLc fun l => { l with target := k })) ∧
    (s.lc.running = none → s.power.braced = false → s.power.state = 3 → s.cfg.lcState = .ret → s.mem.wf = true →
      ∃ t, exec (.lcCtlGo 0xA5A5 4) s = .next t ∧ t.lc.running = some .ended ∧ t.lc.result = 0 ∧ t.img.loaded = none ∧
        wiping t ∧ t.cfg.lcState = .ret ∧ t.hostMem = s.hostMem) ∧
    (s.lc.running = none → s.power.braced = false → s.power.state = 3 → s.cfg.lcState = .production →
      ∃ t, exec (.lcCtlGo 0xA5A5 2) s = .next t ∧ t.lc.running = none ∧ t.lc.result = 4 ∧ reports t) ∧
    (s.lc.running.isSome = true → ∃ t, exec (.lcCtlGo 0xA5A5 k) s = .next t ∧ t.lc.running = s.lc.running ∧
      t.lc.result = 1 ∧ reports t) ∧
    (∀ bs, s.lc.item = 4 → s.img.req = none → s.power.state = 3 → (s.cfg.lcState = .blank ∨ s.cfg.lcState = .develop) →
      s.hostMem.readAll s.lc.addr.toNat 32 = some bs → s.ao.nvBusy = none → s.ao.nvQueue = [] → s.power.braced = false →
      ∃ t, exec .lcProvCtlGo s = .next t ∧ t.lc.result = 0 ∧ t.ao.nvBusy = some (.cfg (.imageKey (some bs))) ∧ reports t) ∧
    (s.img.req = none → s.power.state = 3 → s.cfg.lcState = .production →
      exec .lcProvCtlGo s = .next (s.onLc fun l => { l with result := 4 })) ∧
    (s.xbar.secState = 1 → s.xbar.secClosed = false → s.lc.running = none →
      ∃ t, exec (.secureWipeDone bad) s = .next t ∧ t.xbar.secState = (if bad = 0 then 0 else 2) ∧ t.xbar.secBad = bad ∧
        t = { s with xbar := t.xbar, ao := t.ao, evt := t.evt }) ∧
    (s.power.state ≠ 0 → s.ao.tamperArmed.getLsbD i.val = true →
      (s.tamperAction i.val = 0 → ∃ t, exec (.tamper i) s = .next t ∧ t.ao.tamperActive.getLsbD i.val = true ∧
        t.ao.tamperTripped.getLsbD i.val = true ∧ t.ao.tamperArmed.getLsbD i.val = false ∧
        t = { s with ao := t.ao, evt := t.evt }) ∧
      (s.tamperAction i.val = 1 → s.power.state ≠ 1 → s.mem.wf = true → ∃ t, exec (.tamper i) s = .next t ∧ wiping t ∧
        t.ao.tamperTripped.getLsbD i.val = true)) ∧
    (s.power.state ≠ 0 → s.ao.tamperArmed.getLsbD i.val = false →
      exec (.tamper i) s = .next (s.onAo fun a => { a with tamperActive := a.tamperActive ||| BitVec.ofNat 5 (2 ^ i.val) })) ∧
    (∃ t, exec (.tamperRearm i) s = .next t ∧ t.ao.tamperArmed.getLsbD i.val = true ∧
      t.ao.tamperActive.getLsbD i.val = false ∧
      t = { s with ao := { s.ao with tamperArmed := t.ao.tamperArmed, tamperActive := t.ao.tamperActive } })

/-- Patina measurements (R531, R533, R534, R535, R536). Each is shown with the least so far. One below the floor counts, and the
eighth in a row at an engine that runs above 600 MHz, at most once in 1,024 ms, lowers what the monitor allows it by the steps of
the configuration; one that stays below until its request times out takes its engine out. At the end of a period every
measured island has one history record of its least slack. -/
def Obligations.PatinaMonitor : Prop :=
  ∀ (s : State) (i : Fin 59) (slack : BitVec 16) (e : Fin 24),
    let x := s.patina.get i
    let others := fun (t : State) => (∀ j, j ≠ i → t.patina.get j = s.patina.get j)
    (i ≠ 58 → s.cfg.floorPs.toNat ≤ slack.toNat → s.cfg.warnPs.toNat < slack.toNat →
      ∃ t, exec (.patinaMeasurement i slack) s = .next t ∧
        t.patina.get i = { x with
          slack := slack, run := 0, below := false, least := if slack.toNat < x.least.toNat then slack else x.least,
          period := if slack.toNat < x.period.toNat then slack else x.period } ∧
        others t ∧ t = { s with patina := t.patina }) ∧
    (slack.toNat < s.cfg.floorPs.toNat → i ≠ 58 → x.run < 7 → ∃ t, exec (.patinaMeasurement i slack) s = .next t ∧
      (t.patina.get i).run = x.run + 1 ∧ (t.patina.get i).slack = slack ∧ others t ∧ t = { s with patina := t.patina }) ∧
    (slack.toNat < s.cfg.floorPs.toNat → i.val = e.val → x.run = 7 → (s.engine e).out = false →
      24 < (s.engine e).actual.toNat → x.request = none →
      let new := max 24 ((s.engine e).actual.toNat - s.stepDown)
      ∃ t, exec (.patinaMeasurement i slack) s = .next t ∧ (t.engine e).allow = BitVec.ofNat 8 new ∧
        (t.engine e).freqDue = some (BitVec.ofNat 8 (min new (s.engine e).cap.toNat)) ∧
        (t.patina.get i).request = some s.now ∧ (∀ f, f ≠ e → t.engine f = s.engine f) ∧ others t) ∧
    (let y := s.patina.get ⟨e.val, by omega⟩
     y.lowering = true → y.below = true → (s.engine e).out = false → (s.engine e).outDue = none →
      exec (.patinaRequestTimeout e) s = .next (s.onEngine e fun g => { g with outDue := some 5 })) ∧
    (s.power.braced = false → s.ao.nvBusy = none → s.ao.nvQueue = [] → ∃ t, exec .patinaHistoryPeriod s = .next t ∧
      (t.ao.nvBusy.toList ++ t.ao.nvQueue).map (fun w => match w with
          | .history h => some (h.island, h.reason, h.slack)
          | _ => none) =
        ((List.finRange 59).filter (· ≠ 58)).map (fun j => some (j, 0, (s.patina.get j).period)) ∧
      t.patina = s.patina.map (fun y => { y with period := 0xFFFF }) ∧ t = { s with ao := t.ao, patina := t.patina })

/-- The black box of a part that is not braced (R525, R528, R529). The record at the front of the queue takes the next slot in
sequence; after 16 of its code within a second one is only counted, and the count is reported when the second ends; codes of
the classes A to D and ENGINE_OUT are never suppressed. A keyed clear in DEVELOP or RETURN leaves BB_CLEARED as the first
valid record; in another state it is refused, and without the key it does nothing. -/
def Claim.BlackBox : Prop :=
  ∀ (s : State) (e : EventRec) (q : Bool) (rest : List (EventRec × Bool)) (win : SuppressWin) (wins : List SuppressWin)
    (key : BitVec 16), s.power.braced = false →
    let rec_ := BbRec.mk (BitVec.ofNat 32 s.ao.bbHead) e q s.ao.bbPostLoss true
    let front := s.ao.bbQueue = (e, q) :: rest ∧ s.ao.bbLostRun = 0
    (front → neverSuppressed e.code = true → ∃ t, exec .bbAppend s = .next t ∧ t.ao.bbQueue = rest ∧
      aget t.ao.bbSlots (s.ao.bbHead % 6144) = some rec_ ∧ t.ao.bbHead = (s.ao.bbHead + 1) % 4294963200 ∧
      t.ao.bbPostLoss = false ∧ t = { s with ao := t.ao }) ∧
    (front → neverSuppressed e.code = false → s.ao.bbWins = win :: wins → win.code = e.code → win.appended = 16 →
      s.now < win.start + Config.tick → ∃ t, exec .bbAppend s = .next t ∧ t.ao.bbQueue = rest ∧
        t.ao.bbSlots = s.ao.bbSlots ∧ t.ao.bbHead = s.ao.bbHead ∧ t.ao.bbSuppressed = satInc16 s.ao.bbSuppressed ∧
        t = { s with ao := t.ao }) ∧
    (s.ao.bbWins.find? (fun w => w.code == win.code) = some win → win.suppressed = 0 →
      exec (.bbSuppressWindowEnd win.code) s = .next (s.onAo fun a => { a with
        bbWins := a.bbWins.filter fun w => w.code != win.code })) ∧
    ((s.cfg.lcState = .develop ∨ s.cfg.lcState = .ret) → ∃ t, exec (.bbClear 0xA5A5) s = .next t ∧
      (∀ p ∈ t.ao.bbSlots, p.2.valid = true → p.2.ev.code = 0xD007 ∧ p.2.seq = BitVec.ofNat 32 s.ao.bbHead) ∧
      (∃ p ∈ t.ao.bbSlots, p.2.valid = true) ∧ t.ao.bbOldest = s.ao.bbHead ∧ t = { s with ao := t.ao, evt := t.evt }) ∧
    (s.cfg.lcState ≠ .develop → s.cfg.lcState ≠ .ret → ∃ t, exec (.bbClear 0xA5A5) s = .next t ∧
      t.ao.bbSlots = s.ao.bbSlots ∧ t.ao.bbHead = s.ao.bbHead ∧ t = { s with ao := t.ao, evt := t.evt }) ∧
    (key ≠ 0xA5A5 → exec (.bbClear key) s = .next s)

/-- The host's event queue (R554, R573, R574, R600). An event whose code is queued, with room in an enabled queue and nothing
waiting, is written by DMA at the write position, which advances by 64 bytes modulo the size; a masked vector keeps a pending
bit, and one that is not masked is signalled when the 10 µs since its last have ended. A reset acts only while the queue is disabled. -/
def Claim.EventQueue : Prop :=
  ∀ (s : State) (e : EventRec) (rest : List EventRec) (v : Fin 64) (b : Bool),
    let q := s.evt
    (q.offered = e :: rest → q.held = [] → q.qRun = 0 → q.qEnable = true → 64 ≤ q.qFree → q.routing e.code = (true, 0xFF) →
      ∃ t, exec .eventDelivery s = .next t ∧
        t.hostMem = s.hostMem.store (q.qBase.toNat + q.qWr.toNat) (recBytes q.qSeq.toNat false q.qPost true e) ∧
        t.evt = { q with offered := rest, qSeq := q.qSeq + 1, qPost := false,
                         qWr := BitVec.ofNat 32 ((q.qWr.toNat + 64) % 2 ^ q.qLog2) } ∧
        t = { s with hostMem := t.hostMem, evt := t.evt }) ∧
    (q.offered = e :: rest → q.held = [] → q.qRun = 0 → q.routing e.code = (false, 0xFF) →
      exec .eventDelivery s = .next (s.onEvt fun x => { x with offered := rest })) ∧
    (q.msixPend.getLsbD v.val = true → q.msixMask.getLsbD v.val = true → ∃ t, exec (.msixPendingSend v) s = .next t ∧
      t.evt.msixPend.getLsbD v.val = true ∧ t.evt.msixSent = q.msixSent ∧ t = { s with evt := t.evt }) ∧
    (q.msixPend.getLsbD v.val = true → q.msixMask.getLsbD v.val = false →
      ∃ t, exec (.msixPendingSend v) s = .next t ∧ t.evt.msixPend.getLsbD v.val = false ∧
        t.evt.msixSent = (v.val, s.now) :: q.msixSent ∧ t = { s with evt := t.evt }) ∧
    (q.qEnable = false → exec .evtQReset s = .next (s.onEvt fun x => { x with qWr := 0, qRd := 0, qSeq := 0 })) ∧
    (q.qEnable = true → exec .evtQReset s = .next s) ∧
    (q.held = [] → q.qRun = 0 → exec (.evtQEnable b) s = .next (s.onEvt fun x => { x with qEnable := b }))

/-! ## The mailbox and the host's ports -/

/-- The mailbox itself (R557, R559, R560, R561, R572). A command that ends leaves its results in its slot, then its status, then
state 2, and touches no other byte; a command of the ring moves MB_HEAD past it, one of the SPI slave leaves its queue; a
malformed slot ends with BAD_OPCODE, a command that takes too long with TIMEOUT, one that the part's state forbids with
NOT_PERMITTED, the last two without effect. MB_TAIL moves forward by at most what the ring holds. A flash update that ends
well leaves its content in its target, another leaves the target as it is. -/
def Claim.MailboxSlots : Prop :=
  (∀ (m : Mem) (at_ : Nat) (a : MbAns), m.rising = true → a.data.length = 48 →
    let m' := slotResult at_ a m
    m'.get (at_ + 1) = 2 ∧ m'.get (at_ + 2) = a.status ∧ m'.getN (at_ + 8) 4 = leBytes 4 a.a0.toNat ∧
    m'.getN (at_ + 12) 4 = leBytes 4 a.a1.toNat ∧ m'.getN (at_ + 16) 48 = a.data ∧
    ∀ y, (y < at_ + 1 ∨ (at_ + 3 ≤ y ∧ y < at_ + 8) ∨ at_ + 64 ≤ y) → m'.get y = m.get y) ∧
  ∀ (s : State) (r : MbRef) (v : Word),
    (∀ (a : MbAns) (b : Bool) (k : Fin 16), a.status ≠ 2 → a.status ≠ 3 →
      (leAt (s.ringSlot s.host.head.toNat) 3 1 % 2 = 0 → mbFinish .ring b a s = a.after.onHost fun h => { h with
        ring := slotResult (64 * (s.host.head.toNat % 256)) a h.ring, head := h.head + (if b then 2 else 1), lastRing := true }) ∧
      mbFinish (.spi k) false a s = a.after.onHost fun h => { h with
        spi := slotResult (64 * k.val) a h.spi, spiQ := h.spiQ.filter (· ≠ k), lastRing := false }) ∧
    (s.mbFront = some r → s.mbCall r = none → ∃ a0 a1 d, exec .badOpcode s = .next (mbFinish r false ⟨2, a0, a1, d, s⟩ s)) ∧
    (∀ op c, s.mbFront = some r → s.mbCall r = some (op, c) →
      exec .mailboxTimeout s = .next (mbFinish r (!c.ext.isEmpty) ⟨5, c.a0, c.a1, c.data, s⟩ s)) ∧
    (∀ c, s.mbAt 0x30 = some (r, c) → s.img.loaded = none →
      exec .mbSceneLoad s = .next (mbFinish r (!c.ext.isEmpty) ⟨4, c.a0, c.a1, c.data, s⟩ s)) ∧
    (2 ≤ s.power.state.val →
      let h := s.host
      ((h.tail - h.head).toNat ≤ (v - h.head).toNat → (v - h.head).toNat ≤ 256 →
        exec (.mbTailWrite v) s = .next (s.onHost fun x => { x with tail := v })) ∧
      (256 < (v - h.head).toNat → ∃ t, exec (.mbTailWrite v) s = .next t ∧ t.host = { h with ringError := true } ∧
        t = { s with host := t.host, ao := t.ao, evt := t.evt })) ∧
    (∀ u, s.host.flUpd = some u → s.power.braced = false →
      (∃ t, exec (.flashUpdateDone true) s = .next t ∧ t.host = { s.host with flState := 6, flUpd := none } ∧
        (∀ k : Fin 3, u.target.val = k.val → t.flash.images.get k = u.content) ∧
        t = { s with host := t.host, flash := t.flash, ao := t.ao, evt := t.evt }) ∧
      (∃ t, exec (.flashUpdateDone false) s = .next t ∧ t.host.flState = 7 ∧ t.host.flUpd = none ∧
        t = { s with host := t.host, ao := t.ao, evt := t.evt, free := t.free }))

/-- Commands of the mailbox that concern power, images, the boot flash and parameters (R77, R78, R74, R499, R562, R563, R564,
R572): what each, taken from its slot and allowed by the state of the part, answers and does. -/
def Claim.MailboxPart : Prop :=
  ∀ (s : State) (r : MbRef) (c : MbCall),
    let here := fun (op : Nat) => s.mbAt op = some (r, c) ∧ s.mbForbidden op = false
    let ends := fun (i : Instr) (a : MbAns) => exec i s = .next (mbFinish r (!c.ext.isEmpty) a s)
    let keeps := fun (i : Instr) (st : Byte) (t : State) => ends i ⟨st, c.a0, c.a1, c.data, t⟩
    let gives := fun (i : Instr) (a0 a1 : Word) (bs : List Byte) => ends i ⟨0, a0, a1, putAt c.data 0 bs, s⟩
    let loads := fun (verify : Bool) => s.onImg fun m => { m with
      ctlSource := BitVec.ofNat 2 c.a0.toNat, ctlVerify := verify, state := (if verify then 4 else 1), step := 1,
      result := 0, detail := 0,
      req := some ⟨verify, fin 4 c.a0.toNat, m.hostAddr, 1, none, false, none, []⟩ }
    let sets := fun (n : NodeRec) (p : PAddr) (v : Word) => s.onTb (s.tbOf n.domain) fun x => { x with
      staged := x.staged ++ [⟨if x.open_ then 0 else 1, .param p v⟩] }
    (here 0x01 → gives .mbPing Config.plinthVersion s.pwrStatus []) ∧
    (here 0x02 → c.a0 = 4 → s.power.state = 3 → s.power.moving = none → s.power.braced = false →
      keeps .mbPwrSet 0 (s.onPower fun p => { p with moving := some 4, lastStatus := 0 })) ∧
    (here 0x02 → 4 < c.a0.toNat → keeps .mbPwrSet 3 s) ∧
    (here 0x03 → c.a0 ≠ 0xA5A5 → keeps .mbReset 3 s) ∧
    (here 0x03 → c.a0 = 0xA5A5 → s.power.start.result ≠ 2 → s.power.start.pinHeld = false →
      ∃ t, exec .mbReset s = .next t ∧ t.power.rstKind = 3 ∧ t.mem = [] ∧ t.procs = [] ∧ t.hostMem = s.hostMem) ∧
    (here 0x10 → c.a0.toNat ≤ 2 → s.power.state = 3 → s.img.req = none → keeps .mbImgLoad 0 (loads false)) ∧
    (here 0x11 → c.a0.toNat ≤ 2 → 3 ≤ s.power.state.val → s.img.req = none → keeps .mbImgVerify 0 (loads true)) ∧
    (here 0x12 → gives .mbImgStatus s.imgStatus s.img.detail (leBytes 8 s.buildId)) ∧
    (here 0x13 → s.power.state = 3 → s.heldSerial.toNat ≤ c.a0.toNat → s.ao.nvBusy = none → s.ao.nvQueue = [] →
      s.power.braced = false → keeps .mbImgMinSerial 0 (s.onAo fun a => { a with nvBusy := some (.cfg (.minSerial c.a0)) })) ∧
    (here 0x13 → s.power.state = 3 → c.a0.toNat < s.heldSerial.toNat → keeps .mbImgMinSerial 3 s) ∧
    (∀ bs, here 0x14 → c.a0.toNat < 6 → c.a0 ≠ 2 → 3 ≤ s.power.state.val → s.host.flUpd = none →
      s.img.req = none → c.a1.toNat ≤ flashRoom c.a0.toNat →
      s.hostMem.readAll c.addr.toNat c.a1.toNat = some bs → bs ≠ [] → s.flashPasses c.a0.toNat bs = true →
      keeps .mbFlashUpdate 0 (flashPut c.a0.toNat [] (s.onHost fun h => { h with
        flResult := 0, flTarget := fin 6 c.a0.toNat, flState := 2, flUpd := some ⟨fin 6 c.a0.toNat, bs⟩ }))) ∧
    (∀ y q n raw, here 0x20 → s.paramSymbol c = some (y, q, n) → toRaw y.unit (s.formatOf y.paddr) c.a0 = some raw →
      c.a1 = 0 → isPosition n y.paddr = false → s.mirrors = false →
      let v := pClamp (s.formatOf y.paddr) q.decl.min q.decl.max raw
      ends .mbParamSet ⟨0, v, y.paddr, putAt c.data 0 [], sets n y.paddr v⟩) ∧
    (∀ y q n, here 0x21 → s.paramSymbol c = some (y, q, n) → gives .mbParamGet (fromRaw y.unit (s.formatOf y.paddr) q.target)
      (fromRaw y.unit (s.formatOf y.paddr) q.value) (leBytes 4 q.target.toNat ++ leBytes 4 q.value.toNat)) ∧
    (∀ q n, here 0x22 → s.param? c.a1 = some q → s.node? (paddrNode c.a1) = some n → isPosition n c.a1 = false →
      s.mirrors = false →
      keeps .mbParamSetRaw 0 (sets n c.a1 (pClamp (s.formatOf c.a1) q.decl.min q.decl.max c.a0)))

/-- Commands of the mailbox that concern scenes, placement, ports, channels, timebases, meters and records (R564): what each,
taken from its slot and allowed by the state of the part, answers and does: the same as the register of its subject. -/
def Obligations.MailboxCatalogue : Prop :=
  ∀ (s : State) (r : MbRef) (c : MbCall),
    let here := fun (op : Nat) => s.mbAt op = some (r, c) ∧ s.mbForbidden op = false
    let ends := fun (i : Instr) (a : MbAns) => exec i s = .next (mbFinish r (!c.ext.isEmpty) a s)
    let keeps := fun (i : Instr) (st : Byte) (t : State) => ends i ⟨st, c.a0, c.a1, c.data, t⟩
    let gives := fun (i : Instr) (a0 a1 : Word) (bs : List Byte) (t : State) => ends i ⟨0, a0, a1, putAt c.data 0 bs, t⟩
    let k4 : Fin 4 := fin 4 c.a0.toNat
    let amp : Fin 16 := fin 16 c.a0.toNat
    let tb := s.tb k4
    (here 0x30 → c.a0.toNat < 4 → s.slotRefusal k4 = none →
      keeps .mbSceneLoad 0 (slotLoad k4 c.addr (some c.a1.toNat) s).2) ∧
    (∀ a b, here 0x31 → c.a0.toNat < 4 → s.symbol c.data = some a → s.symbol (slice c.ext 16 48) = some b →
      let q := slotCapture k4 c.a1 (paddrOf (paddrNode a.paddr) 1) (paddrOf (paddrNode b.paddr) 0xEFF) s
      q.1 = 0 → gives .mbSceneCapture (BitVec.ofNat 32 q.2.1) c.a1 [] q.2.2) ∧
    (here 0x32 → c.a0.toNat < 4 → s.slotRefusal k4 = none → keeps .mbSceneClear 0 (slotClear k4 s).2) ∧
    (here 0x33 → c.a0.toNat < 4 → leAt c.data 0 1 < 4 → leAt c.data 1 1 = 1 →
      let q := castAsk k4 (fin 4 (leAt c.data 0 1)) c.a1 true (BitVec.ofNat 48 (leAt c.data 8 8)) s
      q.1 = 0 → gives .mbSceneCast (BitVec.ofNat 32 q.2.1.toNat) c.a1 [] q.2.2) ∧
    (here 0x34 → c.a0.toNat < 65536 →
      keeps .mbSceneCancel (castCancel (c.a0.setWidth 16) s).1 (castCancel (c.a0.setWidth 16) s).2) ∧
    (here 0x35 → ∃ w d, ends .mbSceneStatus ⟨0, w, c.a1, d, s⟩ ∧ w.toNat % 4 = (s.slotSt 0).state.code) ∧
    (here 0x40 → s.placer.freeze = false → s.placer.state = .idle → keeps .mbPlaceReplan 0 (queueTrigger .host s)) ∧
    (here 0x41 → c.a0.toNat < 2 → keeps .mbPlaceFreeze 0 (setFreeze (c.a0.getLsbD 0) s)) ∧
    (let e : Fin 24 := fin 24 c.a0.toNat
     here 0x42 → c.a0.toNat < 24 → (s.engine e).out = true → (s.engine e).passFail = false → (s.engine e).outCause = 6 →
      ∃ t, keeps .mbPlaceAdmit 0 t ∧ (t.engine e).out = false ∧ (∀ f, f ≠ e → t.engine f = s.engine f)) ∧
    (here 0x43 → gives .mbPlaceStatus s.placerStatus s.placer.epoch (leBytes 4 s.engOut.toNat) s) ∧
    (let armed : Vector Sap 32 := Vector.ofFn fun p => if c.a0.getLsbD p.val then { s.sap p with arm := true } else s.sap p
     here 0x50 → keeps .mbSapStart 0 (sapTriggers c.a0.toNat true { s with saps := armed })) ∧
    (here 0x51 → keeps .mbSapStop 0 (sapTriggers c.a0.toNat false s)) ∧
    (here 0x52 → keeps .mbSapMask 0 (maskWrite' (fin 32 c.a0.toNat) (fin 4 (c.a0.toNat / 256)) c.a1 s)) ∧
    (here 0x53 → c.a0.toNat < 32 → (s.sap (fin 32 c.a0.toNat)).state = .rateMismatch →
      keeps .mbSapRestart 0 (sapRestart (fin 32 c.a0.toNat) s)) ∧
    (here 0x54 → c.a0.toNat < 256 → c.a1.toNat < 2 →
      keeps .mbStreamEnable 0 (srxEnable (fin 256 c.a0.toNat) (c.a1 == 1) s)) ∧
    (here 0x54 → 256 ≤ c.a0.toNat → c.a0.toNat < 512 → c.a1.toNat < 2 →
      keeps .mbStreamEnable 0 (stxEnable (fin 256 c.a0.toNat) (c.a1 == 1) s)) ∧
    (here 0x55 → keeps .mbAmpStart 0 (ampTriggers (c.a0.toNat % 65536) true s)) ∧
    (here 0x56 → keeps .mbAmpStop 0 (ampTriggers (c.a0.toNat % 65536) false s)) ∧
    (here 0x57 → c.a0.toNat < 16 → (s.amp amp).state = .latched → keeps .mbAmpClear 0 (clearLatch amp s)) ∧
    (here 0x57 → c.a0.toNat < 16 → (s.amp amp).state = .shutdown → keeps .mbAmpClear 0 (abortRetry amp s)) ∧
    (here 0x58 → c.a0.toNat < 16 → c.a1.toNat < 2 → (s.amp amp).state = .off → keeps .mbAmpDiag 0
      (ampDiagWrite amp (c.a1 == 1) (s.onAmp amp fun a => { a with diagQuick := c.a1 == 1 }))) ∧
    (here 0x59 → c.a0.toNat < 16 → gives .mbAmpDiagRead (s.amp amp).diagResult (s.amp amp).rmin
      ((s.amp amp).z.toList.flatMap fun z => leBytes 4 z.toNat) s) ∧
    (here 0x60 → c.a0.toNat < 4 → gives .mbTbStatus (s.tbStatus k4) c.a1
      (leBytes 8 tb.offsetShown ++ leBytes 8 tb.blk.toNat) s) ∧
    (here 0x61 → c.a0.toNat < 4 → tb.state = .refused → tb.follows = none → c.a1 = 0 →
      keeps .mbTbJump 0 (stage k4 .tbAccept s)) ∧
    (here 0x61 → c.a0.toNat < 4 → tb.state = .refused → tb.follows = none → c.a1 = 1 →
      keeps .mbTbJump 0 (rejectJump k4 s)) ∧
    (here 0x62 → c.a0.toNat < 4 → s.sourceOk k4 (fld c.a1 2 0) (fld c.a1 12 8) = true →
      keeps .mbTbSource 0 (selectSource k4 (fld c.a1 2 0) (fld c.a1 12 8) s)) ∧
    (here 0x63 → c.a0.toNat < 16 → keeps .mbCmpArm 0 (cmpArm amp true (s.onCmp amp fun x => { x with
      action := c.a1.setWidth 3, tb := fin 4 (c.a1.toNat / 16), period := (c.a1 >>> 16).setWidth 16,
      blk := BitVec.ofNat 48 (leAt c.data 0 8), mask := BitVec.ofNat 32 (leAt c.data 8 4) }))) ∧
    (here 0x70 → keeps .mbMeterRing 0 (s.onEvt fun v => { v with
      mPeriod := (c.a0 >>> 16).setWidth 12, mEnable := c.a0.getLsbD 0,
      mBase := BitVec.ofNat 64 (c.addr.toNat / 64 * 64), mLog2 := clampNat 12 24 c.a1.toNat })) ∧
    (∀ n l, here 0x71 → s.namedNode c .limit = some n → s.fabric.limits.find? (fun l => l.node == n.id) = some l →
      gives .mbLimitGr (BitVec.ofNat 32 l.gr) (BitVec.ofNat 32 l.hold) [] s) ∧
    (∀ n q, here 0x72 → s.namedNode c .detect = some n →
      s.procs.find? (fun p => p.node == n.id && !p.stopped) = some q →
      gives .mbDetectState (if q.silent then 1 else 0) c.a1 [] s) ∧
    (here 0x80 → 1 ≤ c.a1.toNat → c.a1.toNat ≤ 1024 →
      let recs := s.bbRun c.a0.toNat c.a1.toNat
      gives .mbBbRead (BitVec.ofNat 32 recs.length) c.a1 [] { s with hostMem := s.hostMem.store c.addr.toNat recs.flatten }) ∧
    (here 0x81 → gives .mbHealth s.red.unitHealth s.pairStatus
      (leBytes 4 s.engOut.toNat ++ leBytes 4 (bitsW (s.engines.toList.map (·.suspect))).toNat) s) ∧
    (here 0x82 → gives .mbLcStatus s.lcStatus c.a1 [] s)

/-- PCIe (R549, R550, R551, R402, R404, R552). A write of an aligned word of BAR0 is a register write; one outside a BAR's
registers or of another form is counted and discarded. Through an enabled window a read gives the bytes of the region and a
write changes exactly them, where one shared bank holds them; an AtomicOp answers the old word; an access that no window maps,
or another AtomicOp, is an unsupported request. A function reset and the loss of the link return the host registers to reset,
and the link's return is shown. -/
def Claim.PciePort : Prop :=
  ∀ (s : State) (w : Fin 64) (ofs : BitVec 24) (rgn : Nat) (rec_ : RegionRec) (o a len : Nat) (bs : List Byte) (sh : Bool)
    (v : Word) (speed width : BitVec 4), 2 ≤ s.power.state.val →
    let mapped := s.window w ofs = some (rgn, rec_, o) ∧ o + len ≤ rec_.size ∧ s.hidden rec_ = false ∧
      s.route rec_.owner rgn o none = Route.plain a [a] sh ∧ a % 4 = 0 ∧ len % 4 = 0 ∧ 0 < len ∧ o % 64 + len ≤ 64 ∧
      a + len ≤ 0x3000000 ∧ s.xbar.badCe = [] ∧ s.xbar.badUe = [] ∧ s.mem.wf = true
    let refused := fun (t : State) (reason : BitVec 4) => t.host.refused = satInc32 s.host.refused ∧ t.host.refReason = reason ∧
      t = { s with host := t.host, ao := t.ao, evt := t.evt }
    (∀ x : Nat, x < 0x2800000 → x % 4 = 0 →
      exec (.registerWrite .bar0 x (leBytes 4 v.toNat)) s = .next (writeReg x v s)) ∧
    (∀ x : Nat, 0x2800000 ≤ x → ∃ t, exec (.registerWrite .bar0 x bs) s = .next t ∧ refused t 1) ∧
    (∀ x : Nat, x < 0x2800000 → bs.length ≠ 4 → ∃ t, exec (.registerWrite .bar0 x bs) s = .next t ∧ refused t 2) ∧
    (mapped → s.xRefusal 33 a len false false = none →
      exec (.bar4Access w ofs (.read len)) s = .next (s.onHost fun h => { h with answer := some (.data (s.mem.getN a len)) })) ∧
    (mapped → bs.length = len → s.xRefusal 33 a len true false = none →
      ∃ t, exec (.bar4Access w ofs (.write bs)) s = .next t ∧ t.mem.getN a len = bs ∧
        (∀ y, y < a ∨ a + len ≤ y → t.mem.get y = s.mem.get y) ∧ t = { s with mem := t.mem, xbar := t.xbar, placer := t.placer }) ∧
    (s.window w ofs = none → ∃ t, exec (.bar4Access w ofs (.read len)) s = .next t ∧ t.host.answer = some .ur ∧ refused t 3) ∧
    (mapped → len = 4 → s.xRefusal 33 a 4 true true = none →
      let does := fun (q : PcieAtomic) (x : Word) => ∃ t, exec (.pcieAtomicop w ofs q) s = .next t ∧ t.mem.word a = x ∧
        t.host = { s.host with answer := some (.data (leBytes 4 (s.mem.word a).toNat)) } ∧
        (∀ y, y < a ∨ a + 4 ≤ y → t.mem.get y = s.mem.get y) ∧ t = { s with mem := t.mem, host := t.host, placer := t.placer }
      does (.fetchAdd v) (s.mem.word a + v) ∧ does (.swap v) v) ∧
    (∃ t, exec (.pcieAtomicop w ofs .other) s = .next t ∧ t.host.answer = some .ur ∧ refused t 4) ∧
    (let h := s.host
     let clean := { State.reset.host with linkUp := h.linkUp, width := h.width, speed := h.speed, answer := h.answer }
     exec .functionLevelReset s = .next ((s.onHost fun _ => clean).onEvt fun x =>
        { x with qEnable := false, msixMask := BitVec.allOnes 64, msixPend := 0 }) ∧
     (∃ t, exec .pcieLinkLoss s = .next t ∧ t.host = { clean with linkUp := false, width := 0, speed := 0 } ∧
       t.evt.qEnable = false ∧ t = { s with host := t.host, ao := t.ao, evt := t.evt }) ∧
     ∃ t, exec (.pcieLinkUp speed width) s = .next t ∧ t.host = { h with linkUp := true, width := width, speed := speed } ∧
       t = { s with host := t.host, ao := t.ao, evt := t.evt })

/-- The SPI slave (R565, R566, R567, R568). A frame that passes its checks is answered ACK: a register write has its effect, a
register read, a slot read or the status gives 0x5A, the data and their CRC; a submitted slot joins the queue, or BUSY where
it is there already; a frame that fails a check has no effect but its code, which is counted, as has a frame whose op has no
row. -/
def Claim.SpiSlave : Prop :=
  ∀ (s : State) (f : SpiFrame), 2 ≤ s.power.state.val →
    let acks := fun (t : State) (code : Byte) (bytes : List Byte) => t.onHost fun h => { h with
      spiAnswer := code, spiOut := s.host.spiAnswer :: bytes }
    let data := fun (bytes : List Byte) => 0x5A :: bytes ++ (leBytes 2 (crc16 bytes)).reverse
    let naks := fun (i : Instr) (code : Byte) => ∃ t, exec i s = .next t ∧ t.host = { s.host with
        spiAnswer := code, spiOut := [s.host.spiAnswer], lastNak := code, spiRefused := satInc16 s.host.spiRefused,
        spiAt := t.host.spiAt } ∧ t = { s with host := t.host, ao := t.ao, evt := t.evt }
    (spiCheck f = 0 →
      (f.op = 1 → ∃ ws t, readRegs f.addr.toNat f.len.toNat s = (ws, t) ∧
        exec (.regRead f) s = .next (spiAnswer 0 (data (bytesOfWords ws)) t)) ∧
      (f.op = 2 → exec (.regWrite f) s = .next (spiAnswer 0 [] (writeRegs f.addr.toNat (wordsOf f.payload) s))) ∧
      (f.op = 3 → let k : Fin 16 := fin 16 f.addr.toNat
        (k ∉ s.host.spiQ → exec (.mbSubmit f) s = .next (acks (s.onHost fun h => { h with
          spi := h.spi.putN (64 * k.val) f.payload, spiQ := h.spiQ ++ [k] }) 0 [])) ∧
        (k ∈ s.host.spiQ → naks (.mbSubmit f) 0x85)) ∧
      (f.op = 4 → exec (.mbRead f) s = .next (acks s 0 (data (s.spiSlot f.addr.toNat)))) ∧
      (f.op = 5 → exec (.status f) s = .next (acks s 0 (data (leBytes 4 s.spiStatus.toNat))))) ∧
    (crc16 (SpiFrame.bytes f) ≠ f.crc.toNat → f.op = 2 → naks (.regWrite f) 0x81) ∧
    ((f.op = 0 ∨ 5 < f.op.toNat) → crc16 (SpiFrame.bytes f) = f.crc.toNat → naks (.badOp f) 0x82)

/-! ## Counters that a command clears, events, reset and words -/

/-- The commands that clear counters and marks clear exactly them: FABRIC_CLEAR_GR_HOLD (R224), FABRIC_CLEAR_COUNTS (R219),
PLACER_CLEAR_COUNTS (R128), SAP_CTL_CLEAR_COUNTS (R346), NET_SRX_CLEAR_COUNTS and NET_STX_CLEAR_COUNTS (R378),
XBAR_CLEAR_COUNTS (R394), DRAM_CLEAR_COUNTS (R415), RED_CLEAR_COUNTS (R433), AMP_CTL_CLEAR_COUNTS (R468), PATINA_CLEAR (R531),
SYS_PWR_CLEAR_MIN (R491) and SYS_TEMP_CLEAR_MAX (R584). METER_RING_RESET zeroes the offsets, the sequence and the drops of a
disabled ring and does nothing to an enabled one; METER_RING_ENABLE sets the enable (R600). -/
def Obligations.CounterClears : Prop :=
  ∀ (s : State) (p : Fin 32) (u : Fin 256) (c : Fin 2) (a : Fin 16) (on : Bool),
    exec .fabricClearGrHold s = .next { s with fabric := { s.fabric with
      limits := s.fabric.limits.map fun (l : LimitSt) => { l with hold := 0 } } } ∧
    exec .fabricClearCounts s = .next { s with fabric := { s.fabric with overruns := 0, finishMax := 0 } } ∧
    exec .placerClearCounts s = .next { s with placer := { s.placer with faults := 0, misses := 0 } } ∧
    exec (.sapCtlClearCounts p) s = .next { s with
      saps := s.saps.set p { s.sap p with underruns := 0, overruns := 0, glitches := 0, clips := 0 } } ∧
    exec (.netSrxClearCounts u) s = .next { s with net := { s.net with rx := s.net.rx.set u { s.srx u with
      packets := 0, dups := 0, late := 0, early := 0, gaps := 0, malformed := 0, margin := 0x7FFFFFFF } } } ∧
    exec (.netStxClearCounts u) s = .next { s with net := { s.net with tx := s.net.tx.set u { s.stx u with
      packets := 0, late := 0 } } } ∧
    exec .xbarClearCounts s = .next { s with xbar := { s.xbar with errors := 0, ce := 0, ue := 0 } } ∧
    exec (.dramClearCounts c) s = .next { s with drams := s.drams.set c { s.dram c with ce := 0, ue := 0 } } ∧
    exec .redClearCounts s = .next { s with red := { s.red with replays := 0, mismatches := 0 } } ∧
    exec (.ampCtlClearCounts a) s = .next { s with
      amps := s.amps.set a { s.amp a with ocCycles := 0, shutdowns := 0, clips := 0 } } ∧
    exec .patinaClear s = .next { s with patina := s.patina.map fun (x : PatIsland) => { x with least := 0xFFFF } } ∧
    exec .sysPwrClearMin s = .next { s with power := { s.power with lowest := Vector.replicate 9 0xFFFF } } ∧
    exec .sysTempClearMax s = .next { s with power := { s.power with tempMax := s.power.temp } } ∧
    exec .meterRingReset s = .next { s with evt := (if s.evt.mEnable then s.evt else { s.evt with
      mWr := 0, mRd := 0, mSeq := 0, mDrops := 0 }) } ∧
    exec (.meterRingEnable on) s = .next { s with evt := { s.evt with mEnable := on } }

/-- An event is offered to the black box, whose queue holds 256 and counts what it loses, and to the host: to the event queue,
or, before S4, among the 32 that the start holds. It carries its code, the time of the black box's timebase and its recorded
values, and nothing else of the machine changes (R512, R522, R523, R527). -/
def Claim.EventRaised : Prop :=
  ∀ (code : Nat) (vals : Vals) (s : State),
    let e := mkEvent s code vals
    let t := raise code vals s
    (e.code = BitVec.ofNat 16 code ∧ e.tb.toNat = s.ao.bbTb.val ∧ e.startCount = s.ao.startCount ∧
      e.ns.toNat = (s.tb s.ao.bbTb).nsTotal % 1000000000 ∧ e.sec.toNat = (s.tb s.ao.bbTb).nsTotal / 1000000000 % 2 ^ 48 ∧
      e.data = vals.flatMap fun v => leBytes v.1 v.2) ∧
    (s.ao.bbQueue.length < 256 →
      t.ao.bbQueue = s.ao.bbQueue ++ [(e, s.power.braced)] ∧ t.ao.bbLost = s.ao.bbLost) ∧
    (256 ≤ s.ao.bbQueue.length →
      t.ao.bbQueue = s.ao.bbQueue ∧ t.ao.bbLost = satInc16 s.ao.bbLost ∧ t.ao.bbPostLoss = true) ∧
    (¬ (s.power.start.result = 0 ∧ s.power.start.step < 4) →
      t.evt = { s.evt with offered := s.evt.offered ++ [e] } ∧ t.ao.held = s.ao.held) ∧
    (s.power.start.result = 0 → s.power.start.step < 4 → t.evt = s.evt ∧
      (s.ao.held.length < 32 → t.ao.held = s.ao.held ++ [e] ∧ t.ao.heldLost = s.ao.heldLost) ∧
      (32 ≤ s.ao.held.length → t.ao.held = s.ao.held ∧ t.ao.heldLost = satInc8 s.ao.heldLost)) ∧
    t = { s with ao := t.ao, evt := t.evt }

/-- Reset leaves the values that the register tables give: a bound of 900 per mille for commits with the overlap compared, no
image, slots EMPTY, engines capped at 40 and allowed 50, timebases FREE, serial ports STOPPED with their default lead and ramp,
amplifiers OFF, the crossbar's priorities and aging, banks requested ON, MSI-X vectors masked, and nothing waiting. -/
def Claim.ResetValues : Prop :=
  let s := State.reset
  (s.placer.state = .idle ∧ s.placer.commit = 900 ∧ s.placer.overlapCompare = true ∧ s.placer.freeze = false ∧
    s.placer.epoch = 0) ∧
  (s.img.loaded = none ∧ s.img.req = none ∧ ∀ k : Fin 4, s.scene.slots[k].state = .empty) ∧
  (∀ e : Fin 24, (s.engine e).cap = 40 ∧ (s.engine e).allow = 50 ∧ (s.engine e).actual = 40 ∧ (s.engine e).halted = false) ∧
  (∀ b : Fin 4, s.tbState b = .free ∧ (s.tb b).slewPpm = 10 ∧ (s.tb b).holdWindow = 3 ∧ (s.tb b).jumpThr = 1000) ∧
  (∀ p : Fin 32, (s.sap p).state = .stopped ∧ (s.sap p).zcTimeout = 10 ∧ (s.sap p).leadBlocks = 8 ∧
    (s.sap p).rampBlocks = 12) ∧
  (∀ a : Fin 16, (s.amp a).state = .off ∧ (s.amp a).period = 2048 ∧ (s.amp a).minPulse = 40 ∧ (s.amp a).en = false ∧
    (s.amp a).ocThr = 128 ∧ (s.amp a).shortM = 1000 ∧ (s.amp a).openM = 200000) ∧
  (s.xbar.ageStep = 32 ∧ s.xbar.fenced = 0 ∧ s.xbar.scrub = true ∧ ∀ b : Fin 256, s.xbar.bankReq[b] = 2) ∧
  (s.power.lowest = Vector.replicate 9 0xFFFF ∧ s.power.temp = 0x80 ∧ s.power.hotThr = 100) ∧
  (s.host.enable = false ∧ s.evt.qEnable = false ∧ s.evt.mEnable = false ∧ s.evt.msixMask = BitVec.allOnes 64) ∧
  s.pending = [] ∧ s.ao.bbQueue = []

/-- Words written out from the encoding tables read as their instructions: the spec's worked example, a word with an operand
in memory and two post-modifies, a control word; a word of zeros is three nops, and an unlisted opcode, a reserved register
code and an immediate in a mode without one are undefined (R179, R180, R182, R184, R187, R188, R192, R202). -/
def Obligations.WordsRead : Prop :=
  readWord 0x000000AF7C19B150 = some { c := .nop, m0 := .lda (.b 6) 62 1, m1 := .ldi (.l 6) 1 80 } ∧
  readWord 0x251CC115580781A2 = some {
    c := .mac 2 3 (.mem { p := 1, mode := .postImm, imm := 1 })
    m0 := .vld 5 { p := 2, mode := .postMod, imm := 0 }
    m1 := .st (.lc 0) { p := 3, mode := .ofs, imm := 2 } } ∧
  readWord 0x0C600500000C8700 = some { c := .bc .notAll 5, m0 := .nop, m1 := .vmov 8 7 } ∧
  readWord 0 = some { c := .nop, m0 := .nop, m1 := .nop } ∧
  readWord 0x1C00000000000000 = none ∧
  readWord 0x00000000000B8C00 = none ∧
  readWord 0x0000000000010001 = none

/-! ## The statements that join several claims -/

/-- Every command answers a next state and consumes exactly one command; an empty queue idles: EveryCommandAnswers,
StepConsumesOne, EmptyQueueIdles. -/
def Obligations.EveryCommandCompletes : Prop :=
  Claim.EveryCommandAnswers ∧ Claim.StepConsumesOne ∧ Claim.EmptyQueueIdles

/-- Reset leaves the values of the register tables and canonical memories: ResetValues, ResetMemoryCanonical. -/
def Obligations.ResetState : Prop :=
  Claim.ResetValues ∧ Claim.ResetMemoryCanonical

/-- Every row of the instruction table issues its whole word, whose slots act together: EngineRowsIssueWords,
EngineSlotsTogether. -/
def Obligations.EngineWords : Prop :=
  Claim.EngineRowsIssueWords ∧ Claim.EngineSlotsTogether

/-- Lane operations act lane by lane: EngineSaturatingArithmetic, EngineLaneOperations, EngineCompares. -/
def Obligations.EngineLanesAndCompares : Prop :=
  Claim.EngineSaturatingArithmetic ∧ Claim.EngineLaneOperations ∧ Claim.EngineCompares

/-- Register moves, immediates and the scaled move: EngineRegisterMoves, EngineScaledMove. -/
def Obligations.EngineMoves : Prop :=
  Claim.EngineRegisterMoves ∧ Claim.EngineScaledMove

/-- Branches, calls, returns and loops, when they are suppressed and when they are stack faults: EngineControl,
EngineSuppressedControl, EngineStackFaults. -/
def Obligations.EngineControlTransfers : Prop :=
  Claim.EngineControl ∧ Claim.EngineSuppressedControl ∧ Claim.EngineStackFaults

/-- Block work starts and ends, and a loop returns: LoopReturn, BlockWorkStart, EngineDone. -/
def Obligations.BlockWorkAndLoops : Prop :=
  Claim.LoopReturn ∧ Claim.BlockWorkStart ∧ Claim.EngineDone

/-- Address modes and the loads that use them: EngineAddressModes, EngineLoads. -/
def Obligations.EngineAddressedLoads : Prop :=
  Claim.EngineAddressModes ∧ Claim.EngineLoads

/-- Memory operands of the compute slot and atomic loads: EngineMemoryOperand, EngineAtomicLoad. -/
def Obligations.EngineMemoryReads : Prop :=
  Claim.EngineMemoryOperand ∧ Claim.EngineAtomicLoad

/-- Stores write exactly their bytes, locally and in shared memory: EngineStores, EngineStoreLands, EngineSharedMemory. -/
def Obligations.EngineStoring : Prop :=
  Claim.EngineStores ∧ Claim.EngineStoreLands ∧ Claim.EngineSharedMemory

/-- A faulting access takes no effect but its record: EngineFaults. -/
def Obligations.EngineFaulting : Prop :=
  Claim.EngineFaults

/-- Commands and measurements of a timebase: TimebaseWrites, TimebaseMeasurements. -/
def Obligations.TimebaseControl : Prop :=
  Claim.TimebaseWrites ∧ Claim.TimebaseMeasurements

/-- The band search of an APLL, its lock and its loss: ApllSearch, ApllLock. -/
def Obligations.ApllBandAndLock : Prop :=
  Claim.ApllSearch ∧ Claim.ApllLock

/-- Compare units, capture and handshake channels: CompareAndCapture, HandshakeChannels. -/
def Obligations.CompareCaptureAndHandshake : Prop :=
  Claim.CompareAndCapture ∧ Claim.HandshakeChannels

/-- A SUM is exact, saturates once, and is replaced when late: FabricSum, FabricCompletion. -/
def Obligations.SummingFabric : Prop :=
  Claim.FabricSum ∧ Claim.FabricCompletion

/-- Ramps reach their target exactly, and timed ends act once: RampBlocks, TimedEnds. -/
def Obligations.Transitions : Prop :=
  Claim.RampBlocks ∧ Claim.TimedEnds

/-- Meter records are produced, and the meter ring is controlled: MeterPeriod, MeterRingControl. -/
def Obligations.MeterRecords : Prop :=
  Claim.MeterPeriod ∧ Claim.MeterRingControl

/-- Maquette slots load, capture and clear: SlotOperationsBegin, SlotOperationsRefused, SlotOperationDone. -/
def Obligations.MaquetteSlots : Prop :=
  Claim.SlotOperationsBegin ∧ Claim.SlotOperationsRefused ∧ Claim.SlotOperationDone

/-- Casts are cancelled and agreed between chips: CastCancel, CastMessages, CastFrames. -/
def Obligations.CastExchange : Prop :=
  Claim.CastCancel ∧ Claim.CastMessages ∧ Claim.CastFrames

/-- Load requests and the validation of an image in order: ImageRequests, ValidationSteps. -/
def Obligations.ImageValidation : Prop :=
  Claim.ImageRequests ∧ Claim.ValidationSteps

/-- Plans are triggered, built, copied and controlled: PlanTriggers, PlacerControl, PlanBuilt, CopyUnit. -/
def Obligations.Planning : Prop :=
  Claim.PlanTriggers ∧ Claim.PlacerControl ∧ Claim.PlanBuilt ∧ Claim.CopyUnit

/-- Engines are admitted, clocked, tested and taken out: EngineAdmit, EngineClocks, EngineWatch. -/
def Obligations.EngineRoles : Prop :=
  Claim.EngineAdmit ∧ Claim.EngineClocks ∧ Claim.EngineWatch

/-- The lines, frame slips and clock trouble of a serial audio port: SapLines, SapFrameSlips, SapClockTrouble. -/
def Obligations.SapTrouble : Prop :=
  Claim.SapLines ∧ Claim.SapFrameSlips ∧ Claim.SapClockTrouble

/-- PTP messages and timers: PtpMessages, PtpTimers. -/
def Obligations.PtpTime : Prop :=
  Claim.PtpMessages ∧ Claim.PtpTimers

/-- Lane states and retransmission: LaneStates, LaneRetransmission. -/
def Obligations.LanesAndRetransmission : Prop :=
  Claim.LaneStates ∧ Claim.LaneRetransmission

/-- Breaths and messages of a redundant pair: PairBreath, PairMessages. -/
def Obligations.PairTraffic : Prop :=
  Claim.PairBreath ∧ Claim.PairMessages

/-- Commands, gates and diagnostics of an amplifier channel: AmpControl, GateOutputs, DiagnosticRun. -/
def Obligations.AmpCommands : Prop :=
  Claim.AmpControl ∧ Claim.GateOutputs ∧ Claim.DiagnosticRun

/-- Arbitration at the banks, responses, fences and remote windows of the crossbar: BankArbitration, CrossbarResponses,
RemoteWindows. -/
def Obligations.CrossbarResponsesAndWindows : Prop :=
  Claim.BankArbitration ∧ Claim.CrossbarResponses ∧ Claim.RemoteWindows

/-- What each source of reset keeps and clears: Resets, PinAndSupplyResets. -/
def Obligations.ResetSources : Prop :=
  Claim.Resets ∧ Claim.PinAndSupplyResets

/-- Power states, the brace and the junction temperature: PowerStates, BraceAndTemperature. -/
def Obligations.PowerAndBrace : Prop :=
  Claim.PowerStates ∧ Claim.BraceAndTemperature

/-- Non-volatile writes, the life cycle and tamper: NonVolatileWrites, LifeCycleAndTamper. -/
def Obligations.NonVolatileAndLifeCycle : Prop :=
  Claim.NonVolatileWrites ∧ Claim.LifeCycleAndTamper

/-- Events reach the black box and the event queue, and meter records the meter ring: BlackBox, EventQueue, EventRaised,
MeterRecordWrite. -/
def Obligations.EventRecords : Prop :=
  Claim.BlackBox ∧ Claim.EventQueue ∧ Claim.EventRaised ∧ Claim.MeterRecordWrite

/-- Mailbox slots and the commands of the ring: MailboxSlots, MailboxPart. -/
def Obligations.MailboxRing : Prop :=
  Claim.MailboxSlots ∧ Claim.MailboxPart

/-- The PCIe port and the SPI slave: PciePort, SpiSlave. -/
def Obligations.HostPorts : Prop :=
  Claim.PciePort ∧ Claim.SpiSlave

/-- Stream packets that arrive and that leave: StreamDatagrams, StreamHeaders. -/
def Obligations.StreamPackets : Prop :=
  Claim.StreamDatagrams ∧ Claim.StreamHeaders
end

