-- ==== Sys2Proof/Laws/Mem.lean ====
section
/-! SUPPORT. The byte stores: every operation keeps the canonical form, a byte read after a write is the byte
written, and a write leaves every other address alone. -/

namespace Sys2Proof.Machine

/-! ### Strictly rising addresses -/

theorem Mem.rising_cons (c : Host.Cell) (m : Mem) :
    Mem.rising (c :: m) = true ↔ (∀ d ∈ m, c.1 < d.1) ∧ Mem.rising m = true := by
  induction m generalizing c with
  | nil => simp [Mem.rising]
  | cons d t ih =>
    rw [Mem.rising, Bool.and_eq_true, ih d]
    simp only [decide_eq_true_eq, List.mem_cons, forall_eq_or_imp]
    constructor
    · rintro ⟨h, h1, h2⟩
      exact ⟨⟨h, fun x hx => Nat.lt_trans h (h1 x hx)⟩, h1, h2⟩
    · rintro ⟨⟨h, -⟩, h1, h2⟩
      exact ⟨h, h1, h2⟩

/-- A cell of the list after an insertion: the new one, or one that was there. -/
theorem Mem.mem_ins {m : Mem} {a : Nat} {o : Option Byte} {c : Host.Cell} (h : c ∈ m.ins a o) :
    (c.1 = a ∧ o = some c.2) ∨ c ∈ m := by
  induction m with
  | nil => cases o <;> simp_all [Mem.ins]
  | cons d t ih =>
    obtain ⟨a', b'⟩ := d
    simp only [Mem.ins] at h
    split at h
    · cases o <;> simp_all
      rcases h with rfl | h <;> simp_all
    · split at h
      · cases o <;> simp_all
        rcases h with rfl | h <;> simp_all
      · simp only [List.mem_cons] at h ⊢
        rcases h with h | h
        · exact Or.inr (Or.inl h)
        · exact (ih h).imp id Or.inr

theorem Mem.ins_rising {m : Mem} (a : Nat) (o : Option Byte) (h : m.rising = true) :
    (m.ins a o).rising = true := by
  induction m with
  | nil => cases o <;> simp [Mem.ins, Mem.rising]
  | cons d t ih =>
    obtain ⟨a', b'⟩ := d
    obtain ⟨h1, h2⟩ := (Mem.rising_cons _ _).1 h
    simp only [Mem.ins]
    split
    · rename_i hlt
      cases o with
      | none => exact h
      | some b =>
        refine (Mem.rising_cons _ _).2 ⟨?_, h⟩
        intro x hx
        rcases List.mem_cons.1 hx with rfl | hx
        · exact hlt
        · exact Nat.lt_trans hlt (h1 x hx)
    · split
      · rename_i heq
        cases o with
        | none => exact h2
        | some b => exact (Mem.rising_cons _ _).2 ⟨fun x hx => heq ▸ h1 x hx, h2⟩
      · rename_i hlt hne
        refine (Mem.rising_cons _ _).2 ⟨?_, ih h2⟩
        intro x hx
        rcases Mem.mem_ins hx with ⟨hx, -⟩ | hx
        · show a' < x.1
          omega
        · exact h1 x hx

/-! ### No listed zero -/

theorem Mem.put_wf {m : Mem} (a : Nat) (b : Byte) (h : m.wf = true) : (m.put a b).wf = true := by
  simp only [Mem.wf, Bool.and_eq_true, List.all_eq_true] at h ⊢
  refine ⟨Mem.ins_rising _ _ h.1, fun c hc => ?_⟩
  rcases Mem.mem_ins hc with ⟨-, hb⟩ | hc
  · by_cases hz : b = 0
    · simp [hz] at hb
    · simp only [hz, if_false, Option.some.injEq] at hb
      simpa [← hb] using hz
  · exact h.2 c hc

theorem Mem.putN_wf {m : Mem} (a : Nat) (bs : List Byte) (h : m.wf = true) : (m.putN a bs).wf = true := by
  induction bs generalizing m a with
  | nil => exact h
  | cons b bs ih => exact ih _ (Mem.put_wf a b h)

theorem Mem.putStrobed_wf {m : Mem} (a : Nat) (bs : List (Option Byte)) (h : m.wf = true) :
    (m.putStrobed a bs).wf = true := by
  induction bs generalizing m a with
  | nil => exact h
  | cons o bs ih =>
    cases o with
    | none => exact ih _ h
    | some b => exact ih _ (Mem.put_wf a b h)

theorem Mem.filter_rising {m : Mem} (p : Host.Cell → Bool) (h : m.rising = true) :
    Mem.rising (m.filter p) = true := by
  induction m with
  | nil => rfl
  | cons c t ih =>
    obtain ⟨h1, h2⟩ := (Mem.rising_cons _ _).1 h
    rw [List.filter_cons]
    split
    · exact (Mem.rising_cons _ _).2 ⟨fun x hx => h1 x (List.mem_filter.1 hx).1, ih h2⟩
    · exact ih h2

theorem Mem.filter_wf {m : Mem} (p : Host.Cell → Bool) (h : m.wf = true) : Mem.wf (m.filter p) = true := by
  simp only [Mem.wf, Bool.and_eq_true, List.all_eq_true] at h ⊢
  exact ⟨Mem.filter_rising p h.1, fun c hc => h.2 c (List.mem_filter.1 hc).1⟩

theorem Mem.clear_wf {m : Mem} (lo hi : Nat) (h : m.wf = true) : (m.clear lo hi).wf = true :=
  Mem.filter_wf _ h

theorem Mem.store_rising {m : Mem} (a : Nat) (bs : List Byte) (h : m.rising = true) :
    (m.store a bs).rising = true := by
  induction bs generalizing m a with
  | nil => exact h
  | cons b bs ih => exact ih _ (Mem.ins_rising a (some b) h)

/-! ### What a byte reads as -/

theorem Mem.at?_below {m : Mem} {a : Nat} (h : ∀ c ∈ m, a < c.1) : m.at? a = none := by
  cases m with
  | nil => rfl
  | cons c t =>
    have := h c (List.mem_cons_self ..)
    obtain ⟨a', b'⟩ := c
    have h1 : a ≠ a' := fun e => by simp [e] at this
    simp [Mem.at?, h1]
    intro hle
    exact absurd this (Nat.not_lt.2 hle)

theorem Mem.at?_ins {m : Mem} (a : Nat) (o : Option Byte) (x : Nat) (h : m.rising = true) :
    (m.ins a o).at? x = if x = a then o else m.at? x := by
  induction m with
  | nil =>
    cases o with
    | none => simp [Mem.ins, Mem.at?]
    | some b =>
      simp only [Mem.ins, Mem.at?]
      by_cases hx : x = a <;> simp [hx]
  | cons d t ih =>
    obtain ⟨a', b'⟩ := d
    obtain ⟨h1, h2⟩ := (Mem.rising_cons _ _).1 h
    have ht : a ≤ a' → Mem.at? t a = none := fun hle => Mem.at?_below fun c hc => Nat.lt_of_le_of_lt hle (h1 c hc)
    simp only [Mem.ins]
    split
    · rename_i hlt
      cases o with
      | none =>
        by_cases hx : x = a
        · subst hx
          simp [Mem.at?, Nat.ne_of_lt hlt, hlt]
        · simp [hx]
      | some b =>
        by_cases hx : x = a
        · simp [Mem.at?, hx]
        · by_cases hxa : x < a
          · have : x ≠ a' := by omega
            simp [Mem.at?, hx, hxa, this]
            omega
          · simp [Mem.at?, hx, hxa]
    · split
      · rename_i heq
        subst heq
        cases o with
        | none =>
          by_cases hx : x = a
          · subst hx; simpa using ht (Nat.le_refl _)
          · by_cases hxa : x < a
            · simp only [hx, if_false, Mem.at?, hxa, if_true]
              exact Mem.at?_below fun c hc => Nat.lt_trans hxa (h1 c hc)
            · simp [Mem.at?, hx, hxa]
        | some b => by_cases hx : x = a <;> simp [Mem.at?, hx]
      · rename_i hlt hne
        by_cases hx' : x = a'
        · have : x ≠ a := by omega
          simp [Mem.at?, hx']
          intro e; omega
        · by_cases hxa : x < a'
          · have : x ≠ a := by omega
            simp [Mem.at?, hx', hxa, this]
          · simp only [Mem.at?, hx', hxa, if_false, ih h2]

/-- Reading the byte just written. -/
theorem Mem.get_put_same {m : Mem} (a : Nat) (b : Byte) (h : m.rising = true) : (m.put a b).get a = b := by
  simp only [Mem.get, Mem.put, Mem.at?_ins _ _ _ h, if_true]
  split <;> simp_all

/-- A write leaves every other byte alone. -/
theorem Mem.get_put_other {m : Mem} (a : Nat) (b : Byte) (x : Nat) (h : m.rising = true) (hx : x ≠ a) :
    (m.put a b).get x = m.get x := by
  simp [Mem.get, Mem.put, Mem.at?_ins _ _ _ h, hx]

theorem Mem.put_rising {m : Mem} (a : Nat) (b : Byte) (h : m.rising = true) : (m.put a b).rising = true :=
  Mem.ins_rising _ _ h

/-- Writing bytes from an address on leaves every address outside them alone. -/
theorem Mem.get_putN_other {m : Mem} (a : Nat) (bs : List Byte) (x : Nat) (h : m.rising = true)
    (hx : x < a ∨ a + bs.length ≤ x) : (m.putN a bs).get x = m.get x := by
  induction bs generalizing m a with
  | nil => rfl
  | cons b bs ih =>
    simp only [List.length_cons] at hx
    rw [Mem.putN, ih (a + 1) (Mem.put_rising a b h) (by omega), Mem.get_put_other a b x h (by omega)]

/-- Reading back the bytes just written. -/
theorem Mem.getN_putN {m : Mem} (a : Nat) (bs : List Byte) (h : m.rising = true) :
    (m.putN a bs).getN a bs.length = bs := by
  induction bs generalizing m a with
  | nil => rfl
  | cons b bs ih =>
    simp only [Mem.putN, List.length_cons, Mem.getN]
    rw [ih (a + 1) (Mem.put_rising a b h), Mem.get_putN_other (a + 1) bs a (Mem.put_rising a b h) (by omega),
      Mem.get_put_same a b h]

end Sys2Proof.Machine
end

