-- ==== Sys2Proof/Laws/State.lean ====
section
/-! SUPPORT. What each update of Machine/Ops.lean leaves in each field of State: one lemma per field per update,
true by computation, so that no proof unfolds a record update; and the accessors of vector fields after them. -/

namespace Sys2Proof.Machine

variable (s : State)

/-! ### onAo -/

@[simp] theorem State.onAo_ao (f : Ao → Ao) : (s.onAo f).ao = f s.ao := rfl
@[simp] theorem State.onAo_power (f : Ao → Ao) : (s.onAo f).power = s.power := rfl
@[simp] theorem State.onAo_img (f : Ao → Ao) : (s.onAo f).img = s.img := rfl
@[simp] theorem State.onAo_scene (f : Ao → Ao) : (s.onAo f).scene = s.scene := rfl
@[simp] theorem State.onAo_procs (f : Ao → Ao) : (s.onAo f).procs = s.procs := rfl
@[simp] theorem State.onAo_outs (f : Ao → Ao) : (s.onAo f).outs = s.outs := rfl
@[simp] theorem State.onAo_placer (f : Ao → Ao) : (s.onAo f).placer = s.placer := rfl
@[simp] theorem State.onAo_engines (f : Ao → Ao) : (s.onAo f).engines = s.engines := rfl
@[simp] theorem State.onAo_fabric (f : Ao → Ao) : (s.onAo f).fabric = s.fabric := rfl
@[simp] theorem State.onAo_evt (f : Ao → Ao) : (s.onAo f).evt = s.evt := rfl
@[simp] theorem State.onAo_clk (f : Ao → Ao) : (s.onAo f).clk = s.clk := rfl
@[simp] theorem State.onAo_saps (f : Ao → Ao) : (s.onAo f).saps = s.saps := rfl
@[simp] theorem State.onAo_net (f : Ao → Ao) : (s.onAo f).net = s.net := rfl
@[simp] theorem State.onAo_xbar (f : Ao → Ao) : (s.onAo f).xbar = s.xbar := rfl
@[simp] theorem State.onAo_drams (f : Ao → Ao) : (s.onAo f).drams = s.drams := rfl
@[simp] theorem State.onAo_mem (f : Ao → Ao) : (s.onAo f).mem = s.mem := rfl
@[simp] theorem State.onAo_hostMem (f : Ao → Ao) : (s.onAo f).hostMem = s.hostMem := rfl
@[simp] theorem State.onAo_hs (f : Ao → Ao) : (s.onAo f).hs = s.hs := rfl
@[simp] theorem State.onAo_red (f : Ao → Ao) : (s.onAo f).red = s.red := rfl
@[simp] theorem State.onAo_amps (f : Ao → Ao) : (s.onAo f).amps = s.amps := rfl
@[simp] theorem State.onAo_patina (f : Ao → Ao) : (s.onAo f).patina = s.patina := rfl
@[simp] theorem State.onAo_lc (f : Ao → Ao) : (s.onAo f).lc = s.lc := rfl
@[simp] theorem State.onAo_host (f : Ao → Ao) : (s.onAo f).host = s.host := rfl
@[simp] theorem State.onAo_flash (f : Ao → Ao) : (s.onAo f).flash = s.flash := rfl
@[simp] theorem State.onAo_free (f : Ao → Ao) : (s.onAo f).free = s.free := rfl
@[simp] theorem State.onAo_pending (f : Ao → Ao) : (s.onAo f).pending = s.pending := rfl

/-! ### onPower -/

@[simp] theorem State.onPower_ao (f : Power → Power) : (s.onPower f).ao = s.ao := rfl
@[simp] theorem State.onPower_power (f : Power → Power) : (s.onPower f).power = f s.power := rfl
@[simp] theorem State.onPower_img (f : Power → Power) : (s.onPower f).img = s.img := rfl
@[simp] theorem State.onPower_scene (f : Power → Power) : (s.onPower f).scene = s.scene := rfl
@[simp] theorem State.onPower_procs (f : Power → Power) : (s.onPower f).procs = s.procs := rfl
@[simp] theorem State.onPower_outs (f : Power → Power) : (s.onPower f).outs = s.outs := rfl
@[simp] theorem State.onPower_placer (f : Power → Power) : (s.onPower f).placer = s.placer := rfl
@[simp] theorem State.onPower_engines (f : Power → Power) : (s.onPower f).engines = s.engines := rfl
@[simp] theorem State.onPower_fabric (f : Power → Power) : (s.onPower f).fabric = s.fabric := rfl
@[simp] theorem State.onPower_evt (f : Power → Power) : (s.onPower f).evt = s.evt := rfl
@[simp] theorem State.onPower_clk (f : Power → Power) : (s.onPower f).clk = s.clk := rfl
@[simp] theorem State.onPower_saps (f : Power → Power) : (s.onPower f).saps = s.saps := rfl
@[simp] theorem State.onPower_net (f : Power → Power) : (s.onPower f).net = s.net := rfl
@[simp] theorem State.onPower_xbar (f : Power → Power) : (s.onPower f).xbar = s.xbar := rfl
@[simp] theorem State.onPower_drams (f : Power → Power) : (s.onPower f).drams = s.drams := rfl
@[simp] theorem State.onPower_mem (f : Power → Power) : (s.onPower f).mem = s.mem := rfl
@[simp] theorem State.onPower_hostMem (f : Power → Power) : (s.onPower f).hostMem = s.hostMem := rfl
@[simp] theorem State.onPower_hs (f : Power → Power) : (s.onPower f).hs = s.hs := rfl
@[simp] theorem State.onPower_red (f : Power → Power) : (s.onPower f).red = s.red := rfl
@[simp] theorem State.onPower_amps (f : Power → Power) : (s.onPower f).amps = s.amps := rfl
@[simp] theorem State.onPower_patina (f : Power → Power) : (s.onPower f).patina = s.patina := rfl
@[simp] theorem State.onPower_lc (f : Power → Power) : (s.onPower f).lc = s.lc := rfl
@[simp] theorem State.onPower_host (f : Power → Power) : (s.onPower f).host = s.host := rfl
@[simp] theorem State.onPower_flash (f : Power → Power) : (s.onPower f).flash = s.flash := rfl
@[simp] theorem State.onPower_free (f : Power → Power) : (s.onPower f).free = s.free := rfl
@[simp] theorem State.onPower_pending (f : Power → Power) : (s.onPower f).pending = s.pending := rfl

/-! ### onStart -/

@[simp] theorem State.onStart_ao (f : Start → Start) : (s.onStart f).ao = s.ao := rfl
@[simp] theorem State.onStart_power (f : Start → Start) : (s.onStart f).power = { s.power with start := f s.power.start } := rfl
@[simp] theorem State.onStart_img (f : Start → Start) : (s.onStart f).img = s.img := rfl
@[simp] theorem State.onStart_scene (f : Start → Start) : (s.onStart f).scene = s.scene := rfl
@[simp] theorem State.onStart_procs (f : Start → Start) : (s.onStart f).procs = s.procs := rfl
@[simp] theorem State.onStart_outs (f : Start → Start) : (s.onStart f).outs = s.outs := rfl
@[simp] theorem State.onStart_placer (f : Start → Start) : (s.onStart f).placer = s.placer := rfl
@[simp] theorem State.onStart_engines (f : Start → Start) : (s.onStart f).engines = s.engines := rfl
@[simp] theorem State.onStart_fabric (f : Start → Start) : (s.onStart f).fabric = s.fabric := rfl
@[simp] theorem State.onStart_evt (f : Start → Start) : (s.onStart f).evt = s.evt := rfl
@[simp] theorem State.onStart_clk (f : Start → Start) : (s.onStart f).clk = s.clk := rfl
@[simp] theorem State.onStart_saps (f : Start → Start) : (s.onStart f).saps = s.saps := rfl
@[simp] theorem State.onStart_net (f : Start → Start) : (s.onStart f).net = s.net := rfl
@[simp] theorem State.onStart_xbar (f : Start → Start) : (s.onStart f).xbar = s.xbar := rfl
@[simp] theorem State.onStart_drams (f : Start → Start) : (s.onStart f).drams = s.drams := rfl
@[simp] theorem State.onStart_mem (f : Start → Start) : (s.onStart f).mem = s.mem := rfl
@[simp] theorem State.onStart_hostMem (f : Start → Start) : (s.onStart f).hostMem = s.hostMem := rfl
@[simp] theorem State.onStart_hs (f : Start → Start) : (s.onStart f).hs = s.hs := rfl
@[simp] theorem State.onStart_red (f : Start → Start) : (s.onStart f).red = s.red := rfl
@[simp] theorem State.onStart_amps (f : Start → Start) : (s.onStart f).amps = s.amps := rfl
@[simp] theorem State.onStart_patina (f : Start → Start) : (s.onStart f).patina = s.patina := rfl
@[simp] theorem State.onStart_lc (f : Start → Start) : (s.onStart f).lc = s.lc := rfl
@[simp] theorem State.onStart_host (f : Start → Start) : (s.onStart f).host = s.host := rfl
@[simp] theorem State.onStart_flash (f : Start → Start) : (s.onStart f).flash = s.flash := rfl
@[simp] theorem State.onStart_free (f : Start → Start) : (s.onStart f).free = s.free := rfl
@[simp] theorem State.onStart_pending (f : Start → Start) : (s.onStart f).pending = s.pending := rfl

/-! ### onImg -/

@[simp] theorem State.onImg_ao (f : ImgUnit → ImgUnit) : (s.onImg f).ao = s.ao := rfl
@[simp] theorem State.onImg_power (f : ImgUnit → ImgUnit) : (s.onImg f).power = s.power := rfl
@[simp] theorem State.onImg_img (f : ImgUnit → ImgUnit) : (s.onImg f).img = f s.img := rfl
@[simp] theorem State.onImg_scene (f : ImgUnit → ImgUnit) : (s.onImg f).scene = s.scene := rfl
@[simp] theorem State.onImg_procs (f : ImgUnit → ImgUnit) : (s.onImg f).procs = s.procs := rfl
@[simp] theorem State.onImg_outs (f : ImgUnit → ImgUnit) : (s.onImg f).outs = s.outs := rfl
@[simp] theorem State.onImg_placer (f : ImgUnit → ImgUnit) : (s.onImg f).placer = s.placer := rfl
@[simp] theorem State.onImg_engines (f : ImgUnit → ImgUnit) : (s.onImg f).engines = s.engines := rfl
@[simp] theorem State.onImg_fabric (f : ImgUnit → ImgUnit) : (s.onImg f).fabric = s.fabric := rfl
@[simp] theorem State.onImg_evt (f : ImgUnit → ImgUnit) : (s.onImg f).evt = s.evt := rfl
@[simp] theorem State.onImg_clk (f : ImgUnit → ImgUnit) : (s.onImg f).clk = s.clk := rfl
@[simp] theorem State.onImg_saps (f : ImgUnit → ImgUnit) : (s.onImg f).saps = s.saps := rfl
@[simp] theorem State.onImg_net (f : ImgUnit → ImgUnit) : (s.onImg f).net = s.net := rfl
@[simp] theorem State.onImg_xbar (f : ImgUnit → ImgUnit) : (s.onImg f).xbar = s.xbar := rfl
@[simp] theorem State.onImg_drams (f : ImgUnit → ImgUnit) : (s.onImg f).drams = s.drams := rfl
@[simp] theorem State.onImg_mem (f : ImgUnit → ImgUnit) : (s.onImg f).mem = s.mem := rfl
@[simp] theorem State.onImg_hostMem (f : ImgUnit → ImgUnit) : (s.onImg f).hostMem = s.hostMem := rfl
@[simp] theorem State.onImg_hs (f : ImgUnit → ImgUnit) : (s.onImg f).hs = s.hs := rfl
@[simp] theorem State.onImg_red (f : ImgUnit → ImgUnit) : (s.onImg f).red = s.red := rfl
@[simp] theorem State.onImg_amps (f : ImgUnit → ImgUnit) : (s.onImg f).amps = s.amps := rfl
@[simp] theorem State.onImg_patina (f : ImgUnit → ImgUnit) : (s.onImg f).patina = s.patina := rfl
@[simp] theorem State.onImg_lc (f : ImgUnit → ImgUnit) : (s.onImg f).lc = s.lc := rfl
@[simp] theorem State.onImg_host (f : ImgUnit → ImgUnit) : (s.onImg f).host = s.host := rfl
@[simp] theorem State.onImg_flash (f : ImgUnit → ImgUnit) : (s.onImg f).flash = s.flash := rfl
@[simp] theorem State.onImg_free (f : ImgUnit → ImgUnit) : (s.onImg f).free = s.free := rfl
@[simp] theorem State.onImg_pending (f : ImgUnit → ImgUnit) : (s.onImg f).pending = s.pending := rfl

/-! ### onScene -/

@[simp] theorem State.onScene_ao (f : Scene → Scene) : (s.onScene f).ao = s.ao := rfl
@[simp] theorem State.onScene_power (f : Scene → Scene) : (s.onScene f).power = s.power := rfl
@[simp] theorem State.onScene_img (f : Scene → Scene) : (s.onScene f).img = s.img := rfl
@[simp] theorem State.onScene_scene (f : Scene → Scene) : (s.onScene f).scene = f s.scene := rfl
@[simp] theorem State.onScene_procs (f : Scene → Scene) : (s.onScene f).procs = s.procs := rfl
@[simp] theorem State.onScene_outs (f : Scene → Scene) : (s.onScene f).outs = s.outs := rfl
@[simp] theorem State.onScene_placer (f : Scene → Scene) : (s.onScene f).placer = s.placer := rfl
@[simp] theorem State.onScene_engines (f : Scene → Scene) : (s.onScene f).engines = s.engines := rfl
@[simp] theorem State.onScene_fabric (f : Scene → Scene) : (s.onScene f).fabric = s.fabric := rfl
@[simp] theorem State.onScene_evt (f : Scene → Scene) : (s.onScene f).evt = s.evt := rfl
@[simp] theorem State.onScene_clk (f : Scene → Scene) : (s.onScene f).clk = s.clk := rfl
@[simp] theorem State.onScene_saps (f : Scene → Scene) : (s.onScene f).saps = s.saps := rfl
@[simp] theorem State.onScene_net (f : Scene → Scene) : (s.onScene f).net = s.net := rfl
@[simp] theorem State.onScene_xbar (f : Scene → Scene) : (s.onScene f).xbar = s.xbar := rfl
@[simp] theorem State.onScene_drams (f : Scene → Scene) : (s.onScene f).drams = s.drams := rfl
@[simp] theorem State.onScene_mem (f : Scene → Scene) : (s.onScene f).mem = s.mem := rfl
@[simp] theorem State.onScene_hostMem (f : Scene → Scene) : (s.onScene f).hostMem = s.hostMem := rfl
@[simp] theorem State.onScene_hs (f : Scene → Scene) : (s.onScene f).hs = s.hs := rfl
@[simp] theorem State.onScene_red (f : Scene → Scene) : (s.onScene f).red = s.red := rfl
@[simp] theorem State.onScene_amps (f : Scene → Scene) : (s.onScene f).amps = s.amps := rfl
@[simp] theorem State.onScene_patina (f : Scene → Scene) : (s.onScene f).patina = s.patina := rfl
@[simp] theorem State.onScene_lc (f : Scene → Scene) : (s.onScene f).lc = s.lc := rfl
@[simp] theorem State.onScene_host (f : Scene → Scene) : (s.onScene f).host = s.host := rfl
@[simp] theorem State.onScene_flash (f : Scene → Scene) : (s.onScene f).flash = s.flash := rfl
@[simp] theorem State.onScene_free (f : Scene → Scene) : (s.onScene f).free = s.free := rfl
@[simp] theorem State.onScene_pending (f : Scene → Scene) : (s.onScene f).pending = s.pending := rfl

/-! ### onPlacer -/

@[simp] theorem State.onPlacer_ao (f : Placer → Placer) : (s.onPlacer f).ao = s.ao := rfl
@[simp] theorem State.onPlacer_power (f : Placer → Placer) : (s.onPlacer f).power = s.power := rfl
@[simp] theorem State.onPlacer_img (f : Placer → Placer) : (s.onPlacer f).img = s.img := rfl
@[simp] theorem State.onPlacer_scene (f : Placer → Placer) : (s.onPlacer f).scene = s.scene := rfl
@[simp] theorem State.onPlacer_procs (f : Placer → Placer) : (s.onPlacer f).procs = s.procs := rfl
@[simp] theorem State.onPlacer_outs (f : Placer → Placer) : (s.onPlacer f).outs = s.outs := rfl
@[simp] theorem State.onPlacer_placer (f : Placer → Placer) : (s.onPlacer f).placer = f s.placer := rfl
@[simp] theorem State.onPlacer_engines (f : Placer → Placer) : (s.onPlacer f).engines = s.engines := rfl
@[simp] theorem State.onPlacer_fabric (f : Placer → Placer) : (s.onPlacer f).fabric = s.fabric := rfl
@[simp] theorem State.onPlacer_evt (f : Placer → Placer) : (s.onPlacer f).evt = s.evt := rfl
@[simp] theorem State.onPlacer_clk (f : Placer → Placer) : (s.onPlacer f).clk = s.clk := rfl
@[simp] theorem State.onPlacer_saps (f : Placer → Placer) : (s.onPlacer f).saps = s.saps := rfl
@[simp] theorem State.onPlacer_net (f : Placer → Placer) : (s.onPlacer f).net = s.net := rfl
@[simp] theorem State.onPlacer_xbar (f : Placer → Placer) : (s.onPlacer f).xbar = s.xbar := rfl
@[simp] theorem State.onPlacer_drams (f : Placer → Placer) : (s.onPlacer f).drams = s.drams := rfl
@[simp] theorem State.onPlacer_mem (f : Placer → Placer) : (s.onPlacer f).mem = s.mem := rfl
@[simp] theorem State.onPlacer_hostMem (f : Placer → Placer) : (s.onPlacer f).hostMem = s.hostMem := rfl
@[simp] theorem State.onPlacer_hs (f : Placer → Placer) : (s.onPlacer f).hs = s.hs := rfl
@[simp] theorem State.onPlacer_red (f : Placer → Placer) : (s.onPlacer f).red = s.red := rfl
@[simp] theorem State.onPlacer_amps (f : Placer → Placer) : (s.onPlacer f).amps = s.amps := rfl
@[simp] theorem State.onPlacer_patina (f : Placer → Placer) : (s.onPlacer f).patina = s.patina := rfl
@[simp] theorem State.onPlacer_lc (f : Placer → Placer) : (s.onPlacer f).lc = s.lc := rfl
@[simp] theorem State.onPlacer_host (f : Placer → Placer) : (s.onPlacer f).host = s.host := rfl
@[simp] theorem State.onPlacer_flash (f : Placer → Placer) : (s.onPlacer f).flash = s.flash := rfl
@[simp] theorem State.onPlacer_free (f : Placer → Placer) : (s.onPlacer f).free = s.free := rfl
@[simp] theorem State.onPlacer_pending (f : Placer → Placer) : (s.onPlacer f).pending = s.pending := rfl

/-! ### onEngine -/

@[simp] theorem State.onEngine_ao (e : Fin 24) (f : Engine → Engine) : (s.onEngine e f).ao = s.ao := rfl
@[simp] theorem State.onEngine_power (e : Fin 24) (f : Engine → Engine) : (s.onEngine e f).power = s.power := rfl
@[simp] theorem State.onEngine_img (e : Fin 24) (f : Engine → Engine) : (s.onEngine e f).img = s.img := rfl
@[simp] theorem State.onEngine_scene (e : Fin 24) (f : Engine → Engine) : (s.onEngine e f).scene = s.scene := rfl
@[simp] theorem State.onEngine_procs (e : Fin 24) (f : Engine → Engine) : (s.onEngine e f).procs = s.procs := rfl
@[simp] theorem State.onEngine_outs (e : Fin 24) (f : Engine → Engine) : (s.onEngine e f).outs = s.outs := rfl
@[simp] theorem State.onEngine_placer (e : Fin 24) (f : Engine → Engine) : (s.onEngine e f).placer = s.placer := rfl
@[simp] theorem State.onEngine_engines (e : Fin 24) (f : Engine → Engine) : (s.onEngine e f).engines = upd s.engines e f := rfl
@[simp] theorem State.onEngine_fabric (e : Fin 24) (f : Engine → Engine) : (s.onEngine e f).fabric = s.fabric := rfl
@[simp] theorem State.onEngine_evt (e : Fin 24) (f : Engine → Engine) : (s.onEngine e f).evt = s.evt := rfl
@[simp] theorem State.onEngine_clk (e : Fin 24) (f : Engine → Engine) : (s.onEngine e f).clk = s.clk := rfl
@[simp] theorem State.onEngine_saps (e : Fin 24) (f : Engine → Engine) : (s.onEngine e f).saps = s.saps := rfl
@[simp] theorem State.onEngine_net (e : Fin 24) (f : Engine → Engine) : (s.onEngine e f).net = s.net := rfl
@[simp] theorem State.onEngine_xbar (e : Fin 24) (f : Engine → Engine) : (s.onEngine e f).xbar = s.xbar := rfl
@[simp] theorem State.onEngine_drams (e : Fin 24) (f : Engine → Engine) : (s.onEngine e f).drams = s.drams := rfl
@[simp] theorem State.onEngine_mem (e : Fin 24) (f : Engine → Engine) : (s.onEngine e f).mem = s.mem := rfl
@[simp] theorem State.onEngine_hostMem (e : Fin 24) (f : Engine → Engine) : (s.onEngine e f).hostMem = s.hostMem := rfl
@[simp] theorem State.onEngine_hs (e : Fin 24) (f : Engine → Engine) : (s.onEngine e f).hs = s.hs := rfl
@[simp] theorem State.onEngine_red (e : Fin 24) (f : Engine → Engine) : (s.onEngine e f).red = s.red := rfl
@[simp] theorem State.onEngine_amps (e : Fin 24) (f : Engine → Engine) : (s.onEngine e f).amps = s.amps := rfl
@[simp] theorem State.onEngine_patina (e : Fin 24) (f : Engine → Engine) : (s.onEngine e f).patina = s.patina := rfl
@[simp] theorem State.onEngine_lc (e : Fin 24) (f : Engine → Engine) : (s.onEngine e f).lc = s.lc := rfl
@[simp] theorem State.onEngine_host (e : Fin 24) (f : Engine → Engine) : (s.onEngine e f).host = s.host := rfl
@[simp] theorem State.onEngine_flash (e : Fin 24) (f : Engine → Engine) : (s.onEngine e f).flash = s.flash := rfl
@[simp] theorem State.onEngine_free (e : Fin 24) (f : Engine → Engine) : (s.onEngine e f).free = s.free := rfl
@[simp] theorem State.onEngine_pending (e : Fin 24) (f : Engine → Engine) : (s.onEngine e f).pending = s.pending := rfl

/-! ### onEngines -/

@[simp] theorem State.onEngines_ao (f : Engine → Engine) : (s.onEngines f).ao = s.ao := rfl
@[simp] theorem State.onEngines_power (f : Engine → Engine) : (s.onEngines f).power = s.power := rfl
@[simp] theorem State.onEngines_img (f : Engine → Engine) : (s.onEngines f).img = s.img := rfl
@[simp] theorem State.onEngines_scene (f : Engine → Engine) : (s.onEngines f).scene = s.scene := rfl
@[simp] theorem State.onEngines_procs (f : Engine → Engine) : (s.onEngines f).procs = s.procs := rfl
@[simp] theorem State.onEngines_outs (f : Engine → Engine) : (s.onEngines f).outs = s.outs := rfl
@[simp] theorem State.onEngines_placer (f : Engine → Engine) : (s.onEngines f).placer = s.placer := rfl
@[simp] theorem State.onEngines_engines (f : Engine → Engine) : (s.onEngines f).engines = s.engines.map f := rfl
@[simp] theorem State.onEngines_fabric (f : Engine → Engine) : (s.onEngines f).fabric = s.fabric := rfl
@[simp] theorem State.onEngines_evt (f : Engine → Engine) : (s.onEngines f).evt = s.evt := rfl
@[simp] theorem State.onEngines_clk (f : Engine → Engine) : (s.onEngines f).clk = s.clk := rfl
@[simp] theorem State.onEngines_saps (f : Engine → Engine) : (s.onEngines f).saps = s.saps := rfl
@[simp] theorem State.onEngines_net (f : Engine → Engine) : (s.onEngines f).net = s.net := rfl
@[simp] theorem State.onEngines_xbar (f : Engine → Engine) : (s.onEngines f).xbar = s.xbar := rfl
@[simp] theorem State.onEngines_drams (f : Engine → Engine) : (s.onEngines f).drams = s.drams := rfl
@[simp] theorem State.onEngines_mem (f : Engine → Engine) : (s.onEngines f).mem = s.mem := rfl
@[simp] theorem State.onEngines_hostMem (f : Engine → Engine) : (s.onEngines f).hostMem = s.hostMem := rfl
@[simp] theorem State.onEngines_hs (f : Engine → Engine) : (s.onEngines f).hs = s.hs := rfl
@[simp] theorem State.onEngines_red (f : Engine → Engine) : (s.onEngines f).red = s.red := rfl
@[simp] theorem State.onEngines_amps (f : Engine → Engine) : (s.onEngines f).amps = s.amps := rfl
@[simp] theorem State.onEngines_patina (f : Engine → Engine) : (s.onEngines f).patina = s.patina := rfl
@[simp] theorem State.onEngines_lc (f : Engine → Engine) : (s.onEngines f).lc = s.lc := rfl
@[simp] theorem State.onEngines_host (f : Engine → Engine) : (s.onEngines f).host = s.host := rfl
@[simp] theorem State.onEngines_flash (f : Engine → Engine) : (s.onEngines f).flash = s.flash := rfl
@[simp] theorem State.onEngines_free (f : Engine → Engine) : (s.onEngines f).free = s.free := rfl
@[simp] theorem State.onEngines_pending (f : Engine → Engine) : (s.onEngines f).pending = s.pending := rfl

/-! ### onFabric -/

@[simp] theorem State.onFabric_ao (f : Fabric → Fabric) : (s.onFabric f).ao = s.ao := rfl
@[simp] theorem State.onFabric_power (f : Fabric → Fabric) : (s.onFabric f).power = s.power := rfl
@[simp] theorem State.onFabric_img (f : Fabric → Fabric) : (s.onFabric f).img = s.img := rfl
@[simp] theorem State.onFabric_scene (f : Fabric → Fabric) : (s.onFabric f).scene = s.scene := rfl
@[simp] theorem State.onFabric_procs (f : Fabric → Fabric) : (s.onFabric f).procs = s.procs := rfl
@[simp] theorem State.onFabric_outs (f : Fabric → Fabric) : (s.onFabric f).outs = s.outs := rfl
@[simp] theorem State.onFabric_placer (f : Fabric → Fabric) : (s.onFabric f).placer = s.placer := rfl
@[simp] theorem State.onFabric_engines (f : Fabric → Fabric) : (s.onFabric f).engines = s.engines := rfl
@[simp] theorem State.onFabric_fabric (f : Fabric → Fabric) : (s.onFabric f).fabric = f s.fabric := rfl
@[simp] theorem State.onFabric_evt (f : Fabric → Fabric) : (s.onFabric f).evt = s.evt := rfl
@[simp] theorem State.onFabric_clk (f : Fabric → Fabric) : (s.onFabric f).clk = s.clk := rfl
@[simp] theorem State.onFabric_saps (f : Fabric → Fabric) : (s.onFabric f).saps = s.saps := rfl
@[simp] theorem State.onFabric_net (f : Fabric → Fabric) : (s.onFabric f).net = s.net := rfl
@[simp] theorem State.onFabric_xbar (f : Fabric → Fabric) : (s.onFabric f).xbar = s.xbar := rfl
@[simp] theorem State.onFabric_drams (f : Fabric → Fabric) : (s.onFabric f).drams = s.drams := rfl
@[simp] theorem State.onFabric_mem (f : Fabric → Fabric) : (s.onFabric f).mem = s.mem := rfl
@[simp] theorem State.onFabric_hostMem (f : Fabric → Fabric) : (s.onFabric f).hostMem = s.hostMem := rfl
@[simp] theorem State.onFabric_hs (f : Fabric → Fabric) : (s.onFabric f).hs = s.hs := rfl
@[simp] theorem State.onFabric_red (f : Fabric → Fabric) : (s.onFabric f).red = s.red := rfl
@[simp] theorem State.onFabric_amps (f : Fabric → Fabric) : (s.onFabric f).amps = s.amps := rfl
@[simp] theorem State.onFabric_patina (f : Fabric → Fabric) : (s.onFabric f).patina = s.patina := rfl
@[simp] theorem State.onFabric_lc (f : Fabric → Fabric) : (s.onFabric f).lc = s.lc := rfl
@[simp] theorem State.onFabric_host (f : Fabric → Fabric) : (s.onFabric f).host = s.host := rfl
@[simp] theorem State.onFabric_flash (f : Fabric → Fabric) : (s.onFabric f).flash = s.flash := rfl
@[simp] theorem State.onFabric_free (f : Fabric → Fabric) : (s.onFabric f).free = s.free := rfl
@[simp] theorem State.onFabric_pending (f : Fabric → Fabric) : (s.onFabric f).pending = s.pending := rfl

/-! ### onEvt -/

@[simp] theorem State.onEvt_ao (f : Evt → Evt) : (s.onEvt f).ao = s.ao := rfl
@[simp] theorem State.onEvt_power (f : Evt → Evt) : (s.onEvt f).power = s.power := rfl
@[simp] theorem State.onEvt_img (f : Evt → Evt) : (s.onEvt f).img = s.img := rfl
@[simp] theorem State.onEvt_scene (f : Evt → Evt) : (s.onEvt f).scene = s.scene := rfl
@[simp] theorem State.onEvt_procs (f : Evt → Evt) : (s.onEvt f).procs = s.procs := rfl
@[simp] theorem State.onEvt_outs (f : Evt → Evt) : (s.onEvt f).outs = s.outs := rfl
@[simp] theorem State.onEvt_placer (f : Evt → Evt) : (s.onEvt f).placer = s.placer := rfl
@[simp] theorem State.onEvt_engines (f : Evt → Evt) : (s.onEvt f).engines = s.engines := rfl
@[simp] theorem State.onEvt_fabric (f : Evt → Evt) : (s.onEvt f).fabric = s.fabric := rfl
@[simp] theorem State.onEvt_evt (f : Evt → Evt) : (s.onEvt f).evt = f s.evt := rfl
@[simp] theorem State.onEvt_clk (f : Evt → Evt) : (s.onEvt f).clk = s.clk := rfl
@[simp] theorem State.onEvt_saps (f : Evt → Evt) : (s.onEvt f).saps = s.saps := rfl
@[simp] theorem State.onEvt_net (f : Evt → Evt) : (s.onEvt f).net = s.net := rfl
@[simp] theorem State.onEvt_xbar (f : Evt → Evt) : (s.onEvt f).xbar = s.xbar := rfl
@[simp] theorem State.onEvt_drams (f : Evt → Evt) : (s.onEvt f).drams = s.drams := rfl
@[simp] theorem State.onEvt_mem (f : Evt → Evt) : (s.onEvt f).mem = s.mem := rfl
@[simp] theorem State.onEvt_hostMem (f : Evt → Evt) : (s.onEvt f).hostMem = s.hostMem := rfl
@[simp] theorem State.onEvt_hs (f : Evt → Evt) : (s.onEvt f).hs = s.hs := rfl
@[simp] theorem State.onEvt_red (f : Evt → Evt) : (s.onEvt f).red = s.red := rfl
@[simp] theorem State.onEvt_amps (f : Evt → Evt) : (s.onEvt f).amps = s.amps := rfl
@[simp] theorem State.onEvt_patina (f : Evt → Evt) : (s.onEvt f).patina = s.patina := rfl
@[simp] theorem State.onEvt_lc (f : Evt → Evt) : (s.onEvt f).lc = s.lc := rfl
@[simp] theorem State.onEvt_host (f : Evt → Evt) : (s.onEvt f).host = s.host := rfl
@[simp] theorem State.onEvt_flash (f : Evt → Evt) : (s.onEvt f).flash = s.flash := rfl
@[simp] theorem State.onEvt_free (f : Evt → Evt) : (s.onEvt f).free = s.free := rfl
@[simp] theorem State.onEvt_pending (f : Evt → Evt) : (s.onEvt f).pending = s.pending := rfl

/-! ### onClk -/

@[simp] theorem State.onClk_ao (f : Clk → Clk) : (s.onClk f).ao = s.ao := rfl
@[simp] theorem State.onClk_power (f : Clk → Clk) : (s.onClk f).power = s.power := rfl
@[simp] theorem State.onClk_img (f : Clk → Clk) : (s.onClk f).img = s.img := rfl
@[simp] theorem State.onClk_scene (f : Clk → Clk) : (s.onClk f).scene = s.scene := rfl
@[simp] theorem State.onClk_procs (f : Clk → Clk) : (s.onClk f).procs = s.procs := rfl
@[simp] theorem State.onClk_outs (f : Clk → Clk) : (s.onClk f).outs = s.outs := rfl
@[simp] theorem State.onClk_placer (f : Clk → Clk) : (s.onClk f).placer = s.placer := rfl
@[simp] theorem State.onClk_engines (f : Clk → Clk) : (s.onClk f).engines = s.engines := rfl
@[simp] theorem State.onClk_fabric (f : Clk → Clk) : (s.onClk f).fabric = s.fabric := rfl
@[simp] theorem State.onClk_evt (f : Clk → Clk) : (s.onClk f).evt = s.evt := rfl
@[simp] theorem State.onClk_clk (f : Clk → Clk) : (s.onClk f).clk = f s.clk := rfl
@[simp] theorem State.onClk_saps (f : Clk → Clk) : (s.onClk f).saps = s.saps := rfl
@[simp] theorem State.onClk_net (f : Clk → Clk) : (s.onClk f).net = s.net := rfl
@[simp] theorem State.onClk_xbar (f : Clk → Clk) : (s.onClk f).xbar = s.xbar := rfl
@[simp] theorem State.onClk_drams (f : Clk → Clk) : (s.onClk f).drams = s.drams := rfl
@[simp] theorem State.onClk_mem (f : Clk → Clk) : (s.onClk f).mem = s.mem := rfl
@[simp] theorem State.onClk_hostMem (f : Clk → Clk) : (s.onClk f).hostMem = s.hostMem := rfl
@[simp] theorem State.onClk_hs (f : Clk → Clk) : (s.onClk f).hs = s.hs := rfl
@[simp] theorem State.onClk_red (f : Clk → Clk) : (s.onClk f).red = s.red := rfl
@[simp] theorem State.onClk_amps (f : Clk → Clk) : (s.onClk f).amps = s.amps := rfl
@[simp] theorem State.onClk_patina (f : Clk → Clk) : (s.onClk f).patina = s.patina := rfl
@[simp] theorem State.onClk_lc (f : Clk → Clk) : (s.onClk f).lc = s.lc := rfl
@[simp] theorem State.onClk_host (f : Clk → Clk) : (s.onClk f).host = s.host := rfl
@[simp] theorem State.onClk_flash (f : Clk → Clk) : (s.onClk f).flash = s.flash := rfl
@[simp] theorem State.onClk_free (f : Clk → Clk) : (s.onClk f).free = s.free := rfl
@[simp] theorem State.onClk_pending (f : Clk → Clk) : (s.onClk f).pending = s.pending := rfl

/-! ### onTb -/

@[simp] theorem State.onTb_ao (t : Fin 4) (f : Timebase → Timebase) : (s.onTb t f).ao = s.ao := rfl
@[simp] theorem State.onTb_power (t : Fin 4) (f : Timebase → Timebase) : (s.onTb t f).power = s.power := rfl
@[simp] theorem State.onTb_img (t : Fin 4) (f : Timebase → Timebase) : (s.onTb t f).img = s.img := rfl
@[simp] theorem State.onTb_scene (t : Fin 4) (f : Timebase → Timebase) : (s.onTb t f).scene = s.scene := rfl
@[simp] theorem State.onTb_procs (t : Fin 4) (f : Timebase → Timebase) : (s.onTb t f).procs = s.procs := rfl
@[simp] theorem State.onTb_outs (t : Fin 4) (f : Timebase → Timebase) : (s.onTb t f).outs = s.outs := rfl
@[simp] theorem State.onTb_placer (t : Fin 4) (f : Timebase → Timebase) : (s.onTb t f).placer = s.placer := rfl
@[simp] theorem State.onTb_engines (t : Fin 4) (f : Timebase → Timebase) : (s.onTb t f).engines = s.engines := rfl
@[simp] theorem State.onTb_fabric (t : Fin 4) (f : Timebase → Timebase) : (s.onTb t f).fabric = s.fabric := rfl
@[simp] theorem State.onTb_evt (t : Fin 4) (f : Timebase → Timebase) : (s.onTb t f).evt = s.evt := rfl
@[simp] theorem State.onTb_clk (t : Fin 4) (f : Timebase → Timebase) : (s.onTb t f).clk = { s.clk with tbs := upd s.clk.tbs t f } := rfl
@[simp] theorem State.onTb_saps (t : Fin 4) (f : Timebase → Timebase) : (s.onTb t f).saps = s.saps := rfl
@[simp] theorem State.onTb_net (t : Fin 4) (f : Timebase → Timebase) : (s.onTb t f).net = s.net := rfl
@[simp] theorem State.onTb_xbar (t : Fin 4) (f : Timebase → Timebase) : (s.onTb t f).xbar = s.xbar := rfl
@[simp] theorem State.onTb_drams (t : Fin 4) (f : Timebase → Timebase) : (s.onTb t f).drams = s.drams := rfl
@[simp] theorem State.onTb_mem (t : Fin 4) (f : Timebase → Timebase) : (s.onTb t f).mem = s.mem := rfl
@[simp] theorem State.onTb_hostMem (t : Fin 4) (f : Timebase → Timebase) : (s.onTb t f).hostMem = s.hostMem := rfl
@[simp] theorem State.onTb_hs (t : Fin 4) (f : Timebase → Timebase) : (s.onTb t f).hs = s.hs := rfl
@[simp] theorem State.onTb_red (t : Fin 4) (f : Timebase → Timebase) : (s.onTb t f).red = s.red := rfl
@[simp] theorem State.onTb_amps (t : Fin 4) (f : Timebase → Timebase) : (s.onTb t f).amps = s.amps := rfl
@[simp] theorem State.onTb_patina (t : Fin 4) (f : Timebase → Timebase) : (s.onTb t f).patina = s.patina := rfl
@[simp] theorem State.onTb_lc (t : Fin 4) (f : Timebase → Timebase) : (s.onTb t f).lc = s.lc := rfl
@[simp] theorem State.onTb_host (t : Fin 4) (f : Timebase → Timebase) : (s.onTb t f).host = s.host := rfl
@[simp] theorem State.onTb_flash (t : Fin 4) (f : Timebase → Timebase) : (s.onTb t f).flash = s.flash := rfl
@[simp] theorem State.onTb_free (t : Fin 4) (f : Timebase → Timebase) : (s.onTb t f).free = s.free := rfl
@[simp] theorem State.onTb_pending (t : Fin 4) (f : Timebase → Timebase) : (s.onTb t f).pending = s.pending := rfl

/-! ### onApll -/

@[simp] theorem State.onApll_ao (a : Fin 4) (f : Apll → Apll) : (s.onApll a f).ao = s.ao := rfl
@[simp] theorem State.onApll_power (a : Fin 4) (f : Apll → Apll) : (s.onApll a f).power = s.power := rfl
@[simp] theorem State.onApll_img (a : Fin 4) (f : Apll → Apll) : (s.onApll a f).img = s.img := rfl
@[simp] theorem State.onApll_scene (a : Fin 4) (f : Apll → Apll) : (s.onApll a f).scene = s.scene := rfl
@[simp] theorem State.onApll_procs (a : Fin 4) (f : Apll → Apll) : (s.onApll a f).procs = s.procs := rfl
@[simp] theorem State.onApll_outs (a : Fin 4) (f : Apll → Apll) : (s.onApll a f).outs = s.outs := rfl
@[simp] theorem State.onApll_placer (a : Fin 4) (f : Apll → Apll) : (s.onApll a f).placer = s.placer := rfl
@[simp] theorem State.onApll_engines (a : Fin 4) (f : Apll → Apll) : (s.onApll a f).engines = s.engines := rfl
@[simp] theorem State.onApll_fabric (a : Fin 4) (f : Apll → Apll) : (s.onApll a f).fabric = s.fabric := rfl
@[simp] theorem State.onApll_evt (a : Fin 4) (f : Apll → Apll) : (s.onApll a f).evt = s.evt := rfl
@[simp] theorem State.onApll_clk (a : Fin 4) (f : Apll → Apll) : (s.onApll a f).clk = { s.clk with aplls := upd s.clk.aplls a f } := rfl
@[simp] theorem State.onApll_saps (a : Fin 4) (f : Apll → Apll) : (s.onApll a f).saps = s.saps := rfl
@[simp] theorem State.onApll_net (a : Fin 4) (f : Apll → Apll) : (s.onApll a f).net = s.net := rfl
@[simp] theorem State.onApll_xbar (a : Fin 4) (f : Apll → Apll) : (s.onApll a f).xbar = s.xbar := rfl
@[simp] theorem State.onApll_drams (a : Fin 4) (f : Apll → Apll) : (s.onApll a f).drams = s.drams := rfl
@[simp] theorem State.onApll_mem (a : Fin 4) (f : Apll → Apll) : (s.onApll a f).mem = s.mem := rfl
@[simp] theorem State.onApll_hostMem (a : Fin 4) (f : Apll → Apll) : (s.onApll a f).hostMem = s.hostMem := rfl
@[simp] theorem State.onApll_hs (a : Fin 4) (f : Apll → Apll) : (s.onApll a f).hs = s.hs := rfl
@[simp] theorem State.onApll_red (a : Fin 4) (f : Apll → Apll) : (s.onApll a f).red = s.red := rfl
@[simp] theorem State.onApll_amps (a : Fin 4) (f : Apll → Apll) : (s.onApll a f).amps = s.amps := rfl
@[simp] theorem State.onApll_patina (a : Fin 4) (f : Apll → Apll) : (s.onApll a f).patina = s.patina := rfl
@[simp] theorem State.onApll_lc (a : Fin 4) (f : Apll → Apll) : (s.onApll a f).lc = s.lc := rfl
@[simp] theorem State.onApll_host (a : Fin 4) (f : Apll → Apll) : (s.onApll a f).host = s.host := rfl
@[simp] theorem State.onApll_flash (a : Fin 4) (f : Apll → Apll) : (s.onApll a f).flash = s.flash := rfl
@[simp] theorem State.onApll_free (a : Fin 4) (f : Apll → Apll) : (s.onApll a f).free = s.free := rfl
@[simp] theorem State.onApll_pending (a : Fin 4) (f : Apll → Apll) : (s.onApll a f).pending = s.pending := rfl

/-! ### onCmp -/

@[simp] theorem State.onCmp_ao (u : Fin 16) (f : Cmp → Cmp) : (s.onCmp u f).ao = s.ao := rfl
@[simp] theorem State.onCmp_power (u : Fin 16) (f : Cmp → Cmp) : (s.onCmp u f).power = s.power := rfl
@[simp] theorem State.onCmp_img (u : Fin 16) (f : Cmp → Cmp) : (s.onCmp u f).img = s.img := rfl
@[simp] theorem State.onCmp_scene (u : Fin 16) (f : Cmp → Cmp) : (s.onCmp u f).scene = s.scene := rfl
@[simp] theorem State.onCmp_procs (u : Fin 16) (f : Cmp → Cmp) : (s.onCmp u f).procs = s.procs := rfl
@[simp] theorem State.onCmp_outs (u : Fin 16) (f : Cmp → Cmp) : (s.onCmp u f).outs = s.outs := rfl
@[simp] theorem State.onCmp_placer (u : Fin 16) (f : Cmp → Cmp) : (s.onCmp u f).placer = s.placer := rfl
@[simp] theorem State.onCmp_engines (u : Fin 16) (f : Cmp → Cmp) : (s.onCmp u f).engines = s.engines := rfl
@[simp] theorem State.onCmp_fabric (u : Fin 16) (f : Cmp → Cmp) : (s.onCmp u f).fabric = s.fabric := rfl
@[simp] theorem State.onCmp_evt (u : Fin 16) (f : Cmp → Cmp) : (s.onCmp u f).evt = s.evt := rfl
@[simp] theorem State.onCmp_clk (u : Fin 16) (f : Cmp → Cmp) : (s.onCmp u f).clk = { s.clk with cmps := upd s.clk.cmps u f } := rfl
@[simp] theorem State.onCmp_saps (u : Fin 16) (f : Cmp → Cmp) : (s.onCmp u f).saps = s.saps := rfl
@[simp] theorem State.onCmp_net (u : Fin 16) (f : Cmp → Cmp) : (s.onCmp u f).net = s.net := rfl
@[simp] theorem State.onCmp_xbar (u : Fin 16) (f : Cmp → Cmp) : (s.onCmp u f).xbar = s.xbar := rfl
@[simp] theorem State.onCmp_drams (u : Fin 16) (f : Cmp → Cmp) : (s.onCmp u f).drams = s.drams := rfl
@[simp] theorem State.onCmp_mem (u : Fin 16) (f : Cmp → Cmp) : (s.onCmp u f).mem = s.mem := rfl
@[simp] theorem State.onCmp_hostMem (u : Fin 16) (f : Cmp → Cmp) : (s.onCmp u f).hostMem = s.hostMem := rfl
@[simp] theorem State.onCmp_hs (u : Fin 16) (f : Cmp → Cmp) : (s.onCmp u f).hs = s.hs := rfl
@[simp] theorem State.onCmp_red (u : Fin 16) (f : Cmp → Cmp) : (s.onCmp u f).red = s.red := rfl
@[simp] theorem State.onCmp_amps (u : Fin 16) (f : Cmp → Cmp) : (s.onCmp u f).amps = s.amps := rfl
@[simp] theorem State.onCmp_patina (u : Fin 16) (f : Cmp → Cmp) : (s.onCmp u f).patina = s.patina := rfl
@[simp] theorem State.onCmp_lc (u : Fin 16) (f : Cmp → Cmp) : (s.onCmp u f).lc = s.lc := rfl
@[simp] theorem State.onCmp_host (u : Fin 16) (f : Cmp → Cmp) : (s.onCmp u f).host = s.host := rfl
@[simp] theorem State.onCmp_flash (u : Fin 16) (f : Cmp → Cmp) : (s.onCmp u f).flash = s.flash := rfl
@[simp] theorem State.onCmp_free (u : Fin 16) (f : Cmp → Cmp) : (s.onCmp u f).free = s.free := rfl
@[simp] theorem State.onCmp_pending (u : Fin 16) (f : Cmp → Cmp) : (s.onCmp u f).pending = s.pending := rfl

/-! ### onSap -/

@[simp] theorem State.onSap_ao (p : Fin 32) (f : Sap → Sap) : (s.onSap p f).ao = s.ao := rfl
@[simp] theorem State.onSap_power (p : Fin 32) (f : Sap → Sap) : (s.onSap p f).power = s.power := rfl
@[simp] theorem State.onSap_img (p : Fin 32) (f : Sap → Sap) : (s.onSap p f).img = s.img := rfl
@[simp] theorem State.onSap_scene (p : Fin 32) (f : Sap → Sap) : (s.onSap p f).scene = s.scene := rfl
@[simp] theorem State.onSap_procs (p : Fin 32) (f : Sap → Sap) : (s.onSap p f).procs = s.procs := rfl
@[simp] theorem State.onSap_outs (p : Fin 32) (f : Sap → Sap) : (s.onSap p f).outs = s.outs := rfl
@[simp] theorem State.onSap_placer (p : Fin 32) (f : Sap → Sap) : (s.onSap p f).placer = s.placer := rfl
@[simp] theorem State.onSap_engines (p : Fin 32) (f : Sap → Sap) : (s.onSap p f).engines = s.engines := rfl
@[simp] theorem State.onSap_fabric (p : Fin 32) (f : Sap → Sap) : (s.onSap p f).fabric = s.fabric := rfl
@[simp] theorem State.onSap_evt (p : Fin 32) (f : Sap → Sap) : (s.onSap p f).evt = s.evt := rfl
@[simp] theorem State.onSap_clk (p : Fin 32) (f : Sap → Sap) : (s.onSap p f).clk = s.clk := rfl
@[simp] theorem State.onSap_saps (p : Fin 32) (f : Sap → Sap) : (s.onSap p f).saps = upd s.saps p f := rfl
@[simp] theorem State.onSap_net (p : Fin 32) (f : Sap → Sap) : (s.onSap p f).net = s.net := rfl
@[simp] theorem State.onSap_xbar (p : Fin 32) (f : Sap → Sap) : (s.onSap p f).xbar = s.xbar := rfl
@[simp] theorem State.onSap_drams (p : Fin 32) (f : Sap → Sap) : (s.onSap p f).drams = s.drams := rfl
@[simp] theorem State.onSap_mem (p : Fin 32) (f : Sap → Sap) : (s.onSap p f).mem = s.mem := rfl
@[simp] theorem State.onSap_hostMem (p : Fin 32) (f : Sap → Sap) : (s.onSap p f).hostMem = s.hostMem := rfl
@[simp] theorem State.onSap_hs (p : Fin 32) (f : Sap → Sap) : (s.onSap p f).hs = s.hs := rfl
@[simp] theorem State.onSap_red (p : Fin 32) (f : Sap → Sap) : (s.onSap p f).red = s.red := rfl
@[simp] theorem State.onSap_amps (p : Fin 32) (f : Sap → Sap) : (s.onSap p f).amps = s.amps := rfl
@[simp] theorem State.onSap_patina (p : Fin 32) (f : Sap → Sap) : (s.onSap p f).patina = s.patina := rfl
@[simp] theorem State.onSap_lc (p : Fin 32) (f : Sap → Sap) : (s.onSap p f).lc = s.lc := rfl
@[simp] theorem State.onSap_host (p : Fin 32) (f : Sap → Sap) : (s.onSap p f).host = s.host := rfl
@[simp] theorem State.onSap_flash (p : Fin 32) (f : Sap → Sap) : (s.onSap p f).flash = s.flash := rfl
@[simp] theorem State.onSap_free (p : Fin 32) (f : Sap → Sap) : (s.onSap p f).free = s.free := rfl
@[simp] theorem State.onSap_pending (p : Fin 32) (f : Sap → Sap) : (s.onSap p f).pending = s.pending := rfl

/-! ### onEth -/

@[simp] theorem State.onEth_ao (n : Fin 4) (f : Eth → Eth) : (s.onEth n f).ao = s.ao := rfl
@[simp] theorem State.onEth_power (n : Fin 4) (f : Eth → Eth) : (s.onEth n f).power = s.power := rfl
@[simp] theorem State.onEth_img (n : Fin 4) (f : Eth → Eth) : (s.onEth n f).img = s.img := rfl
@[simp] theorem State.onEth_scene (n : Fin 4) (f : Eth → Eth) : (s.onEth n f).scene = s.scene := rfl
@[simp] theorem State.onEth_procs (n : Fin 4) (f : Eth → Eth) : (s.onEth n f).procs = s.procs := rfl
@[simp] theorem State.onEth_outs (n : Fin 4) (f : Eth → Eth) : (s.onEth n f).outs = s.outs := rfl
@[simp] theorem State.onEth_placer (n : Fin 4) (f : Eth → Eth) : (s.onEth n f).placer = s.placer := rfl
@[simp] theorem State.onEth_engines (n : Fin 4) (f : Eth → Eth) : (s.onEth n f).engines = s.engines := rfl
@[simp] theorem State.onEth_fabric (n : Fin 4) (f : Eth → Eth) : (s.onEth n f).fabric = s.fabric := rfl
@[simp] theorem State.onEth_evt (n : Fin 4) (f : Eth → Eth) : (s.onEth n f).evt = s.evt := rfl
@[simp] theorem State.onEth_clk (n : Fin 4) (f : Eth → Eth) : (s.onEth n f).clk = s.clk := rfl
@[simp] theorem State.onEth_saps (n : Fin 4) (f : Eth → Eth) : (s.onEth n f).saps = s.saps := rfl
@[simp] theorem State.onEth_net (n : Fin 4) (f : Eth → Eth) : (s.onEth n f).net = { s.net with eths := upd s.net.eths n f } := rfl
@[simp] theorem State.onEth_xbar (n : Fin 4) (f : Eth → Eth) : (s.onEth n f).xbar = s.xbar := rfl
@[simp] theorem State.onEth_drams (n : Fin 4) (f : Eth → Eth) : (s.onEth n f).drams = s.drams := rfl
@[simp] theorem State.onEth_mem (n : Fin 4) (f : Eth → Eth) : (s.onEth n f).mem = s.mem := rfl
@[simp] theorem State.onEth_hostMem (n : Fin 4) (f : Eth → Eth) : (s.onEth n f).hostMem = s.hostMem := rfl
@[simp] theorem State.onEth_hs (n : Fin 4) (f : Eth → Eth) : (s.onEth n f).hs = s.hs := rfl
@[simp] theorem State.onEth_red (n : Fin 4) (f : Eth → Eth) : (s.onEth n f).red = s.red := rfl
@[simp] theorem State.onEth_amps (n : Fin 4) (f : Eth → Eth) : (s.onEth n f).amps = s.amps := rfl
@[simp] theorem State.onEth_patina (n : Fin 4) (f : Eth → Eth) : (s.onEth n f).patina = s.patina := rfl
@[simp] theorem State.onEth_lc (n : Fin 4) (f : Eth → Eth) : (s.onEth n f).lc = s.lc := rfl
@[simp] theorem State.onEth_host (n : Fin 4) (f : Eth → Eth) : (s.onEth n f).host = s.host := rfl
@[simp] theorem State.onEth_flash (n : Fin 4) (f : Eth → Eth) : (s.onEth n f).flash = s.flash := rfl
@[simp] theorem State.onEth_free (n : Fin 4) (f : Eth → Eth) : (s.onEth n f).free = s.free := rfl
@[simp] theorem State.onEth_pending (n : Fin 4) (f : Eth → Eth) : (s.onEth n f).pending = s.pending := rfl

/-! ### onSrx -/

@[simp] theorem State.onSrx_ao (u : Fin 256) (f : Srx → Srx) : (s.onSrx u f).ao = s.ao := rfl
@[simp] theorem State.onSrx_power (u : Fin 256) (f : Srx → Srx) : (s.onSrx u f).power = s.power := rfl
@[simp] theorem State.onSrx_img (u : Fin 256) (f : Srx → Srx) : (s.onSrx u f).img = s.img := rfl
@[simp] theorem State.onSrx_scene (u : Fin 256) (f : Srx → Srx) : (s.onSrx u f).scene = s.scene := rfl
@[simp] theorem State.onSrx_procs (u : Fin 256) (f : Srx → Srx) : (s.onSrx u f).procs = s.procs := rfl
@[simp] theorem State.onSrx_outs (u : Fin 256) (f : Srx → Srx) : (s.onSrx u f).outs = s.outs := rfl
@[simp] theorem State.onSrx_placer (u : Fin 256) (f : Srx → Srx) : (s.onSrx u f).placer = s.placer := rfl
@[simp] theorem State.onSrx_engines (u : Fin 256) (f : Srx → Srx) : (s.onSrx u f).engines = s.engines := rfl
@[simp] theorem State.onSrx_fabric (u : Fin 256) (f : Srx → Srx) : (s.onSrx u f).fabric = s.fabric := rfl
@[simp] theorem State.onSrx_evt (u : Fin 256) (f : Srx → Srx) : (s.onSrx u f).evt = s.evt := rfl
@[simp] theorem State.onSrx_clk (u : Fin 256) (f : Srx → Srx) : (s.onSrx u f).clk = s.clk := rfl
@[simp] theorem State.onSrx_saps (u : Fin 256) (f : Srx → Srx) : (s.onSrx u f).saps = s.saps := rfl
@[simp] theorem State.onSrx_net (u : Fin 256) (f : Srx → Srx) : (s.onSrx u f).net = { s.net with rx := upd s.net.rx u f } := rfl
@[simp] theorem State.onSrx_xbar (u : Fin 256) (f : Srx → Srx) : (s.onSrx u f).xbar = s.xbar := rfl
@[simp] theorem State.onSrx_drams (u : Fin 256) (f : Srx → Srx) : (s.onSrx u f).drams = s.drams := rfl
@[simp] theorem State.onSrx_mem (u : Fin 256) (f : Srx → Srx) : (s.onSrx u f).mem = s.mem := rfl
@[simp] theorem State.onSrx_hostMem (u : Fin 256) (f : Srx → Srx) : (s.onSrx u f).hostMem = s.hostMem := rfl
@[simp] theorem State.onSrx_hs (u : Fin 256) (f : Srx → Srx) : (s.onSrx u f).hs = s.hs := rfl
@[simp] theorem State.onSrx_red (u : Fin 256) (f : Srx → Srx) : (s.onSrx u f).red = s.red := rfl
@[simp] theorem State.onSrx_amps (u : Fin 256) (f : Srx → Srx) : (s.onSrx u f).amps = s.amps := rfl
@[simp] theorem State.onSrx_patina (u : Fin 256) (f : Srx → Srx) : (s.onSrx u f).patina = s.patina := rfl
@[simp] theorem State.onSrx_lc (u : Fin 256) (f : Srx → Srx) : (s.onSrx u f).lc = s.lc := rfl
@[simp] theorem State.onSrx_host (u : Fin 256) (f : Srx → Srx) : (s.onSrx u f).host = s.host := rfl
@[simp] theorem State.onSrx_flash (u : Fin 256) (f : Srx → Srx) : (s.onSrx u f).flash = s.flash := rfl
@[simp] theorem State.onSrx_free (u : Fin 256) (f : Srx → Srx) : (s.onSrx u f).free = s.free := rfl
@[simp] theorem State.onSrx_pending (u : Fin 256) (f : Srx → Srx) : (s.onSrx u f).pending = s.pending := rfl

/-! ### onStx -/

@[simp] theorem State.onStx_ao (u : Fin 256) (f : Stx → Stx) : (s.onStx u f).ao = s.ao := rfl
@[simp] theorem State.onStx_power (u : Fin 256) (f : Stx → Stx) : (s.onStx u f).power = s.power := rfl
@[simp] theorem State.onStx_img (u : Fin 256) (f : Stx → Stx) : (s.onStx u f).img = s.img := rfl
@[simp] theorem State.onStx_scene (u : Fin 256) (f : Stx → Stx) : (s.onStx u f).scene = s.scene := rfl
@[simp] theorem State.onStx_procs (u : Fin 256) (f : Stx → Stx) : (s.onStx u f).procs = s.procs := rfl
@[simp] theorem State.onStx_outs (u : Fin 256) (f : Stx → Stx) : (s.onStx u f).outs = s.outs := rfl
@[simp] theorem State.onStx_placer (u : Fin 256) (f : Stx → Stx) : (s.onStx u f).placer = s.placer := rfl
@[simp] theorem State.onStx_engines (u : Fin 256) (f : Stx → Stx) : (s.onStx u f).engines = s.engines := rfl
@[simp] theorem State.onStx_fabric (u : Fin 256) (f : Stx → Stx) : (s.onStx u f).fabric = s.fabric := rfl
@[simp] theorem State.onStx_evt (u : Fin 256) (f : Stx → Stx) : (s.onStx u f).evt = s.evt := rfl
@[simp] theorem State.onStx_clk (u : Fin 256) (f : Stx → Stx) : (s.onStx u f).clk = s.clk := rfl
@[simp] theorem State.onStx_saps (u : Fin 256) (f : Stx → Stx) : (s.onStx u f).saps = s.saps := rfl
@[simp] theorem State.onStx_net (u : Fin 256) (f : Stx → Stx) : (s.onStx u f).net = { s.net with tx := upd s.net.tx u f } := rfl
@[simp] theorem State.onStx_xbar (u : Fin 256) (f : Stx → Stx) : (s.onStx u f).xbar = s.xbar := rfl
@[simp] theorem State.onStx_drams (u : Fin 256) (f : Stx → Stx) : (s.onStx u f).drams = s.drams := rfl
@[simp] theorem State.onStx_mem (u : Fin 256) (f : Stx → Stx) : (s.onStx u f).mem = s.mem := rfl
@[simp] theorem State.onStx_hostMem (u : Fin 256) (f : Stx → Stx) : (s.onStx u f).hostMem = s.hostMem := rfl
@[simp] theorem State.onStx_hs (u : Fin 256) (f : Stx → Stx) : (s.onStx u f).hs = s.hs := rfl
@[simp] theorem State.onStx_red (u : Fin 256) (f : Stx → Stx) : (s.onStx u f).red = s.red := rfl
@[simp] theorem State.onStx_amps (u : Fin 256) (f : Stx → Stx) : (s.onStx u f).amps = s.amps := rfl
@[simp] theorem State.onStx_patina (u : Fin 256) (f : Stx → Stx) : (s.onStx u f).patina = s.patina := rfl
@[simp] theorem State.onStx_lc (u : Fin 256) (f : Stx → Stx) : (s.onStx u f).lc = s.lc := rfl
@[simp] theorem State.onStx_host (u : Fin 256) (f : Stx → Stx) : (s.onStx u f).host = s.host := rfl
@[simp] theorem State.onStx_flash (u : Fin 256) (f : Stx → Stx) : (s.onStx u f).flash = s.flash := rfl
@[simp] theorem State.onStx_free (u : Fin 256) (f : Stx → Stx) : (s.onStx u f).free = s.free := rfl
@[simp] theorem State.onStx_pending (u : Fin 256) (f : Stx → Stx) : (s.onStx u f).pending = s.pending := rfl

/-! ### onXbar -/

@[simp] theorem State.onXbar_ao (f : Xbar → Xbar) : (s.onXbar f).ao = s.ao := rfl
@[simp] theorem State.onXbar_power (f : Xbar → Xbar) : (s.onXbar f).power = s.power := rfl
@[simp] theorem State.onXbar_img (f : Xbar → Xbar) : (s.onXbar f).img = s.img := rfl
@[simp] theorem State.onXbar_scene (f : Xbar → Xbar) : (s.onXbar f).scene = s.scene := rfl
@[simp] theorem State.onXbar_procs (f : Xbar → Xbar) : (s.onXbar f).procs = s.procs := rfl
@[simp] theorem State.onXbar_outs (f : Xbar → Xbar) : (s.onXbar f).outs = s.outs := rfl
@[simp] theorem State.onXbar_placer (f : Xbar → Xbar) : (s.onXbar f).placer = s.placer := rfl
@[simp] theorem State.onXbar_engines (f : Xbar → Xbar) : (s.onXbar f).engines = s.engines := rfl
@[simp] theorem State.onXbar_fabric (f : Xbar → Xbar) : (s.onXbar f).fabric = s.fabric := rfl
@[simp] theorem State.onXbar_evt (f : Xbar → Xbar) : (s.onXbar f).evt = s.evt := rfl
@[simp] theorem State.onXbar_clk (f : Xbar → Xbar) : (s.onXbar f).clk = s.clk := rfl
@[simp] theorem State.onXbar_saps (f : Xbar → Xbar) : (s.onXbar f).saps = s.saps := rfl
@[simp] theorem State.onXbar_net (f : Xbar → Xbar) : (s.onXbar f).net = s.net := rfl
@[simp] theorem State.onXbar_xbar (f : Xbar → Xbar) : (s.onXbar f).xbar = f s.xbar := rfl
@[simp] theorem State.onXbar_drams (f : Xbar → Xbar) : (s.onXbar f).drams = s.drams := rfl
@[simp] theorem State.onXbar_mem (f : Xbar → Xbar) : (s.onXbar f).mem = s.mem := rfl
@[simp] theorem State.onXbar_hostMem (f : Xbar → Xbar) : (s.onXbar f).hostMem = s.hostMem := rfl
@[simp] theorem State.onXbar_hs (f : Xbar → Xbar) : (s.onXbar f).hs = s.hs := rfl
@[simp] theorem State.onXbar_red (f : Xbar → Xbar) : (s.onXbar f).red = s.red := rfl
@[simp] theorem State.onXbar_amps (f : Xbar → Xbar) : (s.onXbar f).amps = s.amps := rfl
@[simp] theorem State.onXbar_patina (f : Xbar → Xbar) : (s.onXbar f).patina = s.patina := rfl
@[simp] theorem State.onXbar_lc (f : Xbar → Xbar) : (s.onXbar f).lc = s.lc := rfl
@[simp] theorem State.onXbar_host (f : Xbar → Xbar) : (s.onXbar f).host = s.host := rfl
@[simp] theorem State.onXbar_flash (f : Xbar → Xbar) : (s.onXbar f).flash = s.flash := rfl
@[simp] theorem State.onXbar_free (f : Xbar → Xbar) : (s.onXbar f).free = s.free := rfl
@[simp] theorem State.onXbar_pending (f : Xbar → Xbar) : (s.onXbar f).pending = s.pending := rfl

/-! ### onDram -/

@[simp] theorem State.onDram_ao (c : Fin 2) (f : Dram → Dram) : (s.onDram c f).ao = s.ao := rfl
@[simp] theorem State.onDram_power (c : Fin 2) (f : Dram → Dram) : (s.onDram c f).power = s.power := rfl
@[simp] theorem State.onDram_img (c : Fin 2) (f : Dram → Dram) : (s.onDram c f).img = s.img := rfl
@[simp] theorem State.onDram_scene (c : Fin 2) (f : Dram → Dram) : (s.onDram c f).scene = s.scene := rfl
@[simp] theorem State.onDram_procs (c : Fin 2) (f : Dram → Dram) : (s.onDram c f).procs = s.procs := rfl
@[simp] theorem State.onDram_outs (c : Fin 2) (f : Dram → Dram) : (s.onDram c f).outs = s.outs := rfl
@[simp] theorem State.onDram_placer (c : Fin 2) (f : Dram → Dram) : (s.onDram c f).placer = s.placer := rfl
@[simp] theorem State.onDram_engines (c : Fin 2) (f : Dram → Dram) : (s.onDram c f).engines = s.engines := rfl
@[simp] theorem State.onDram_fabric (c : Fin 2) (f : Dram → Dram) : (s.onDram c f).fabric = s.fabric := rfl
@[simp] theorem State.onDram_evt (c : Fin 2) (f : Dram → Dram) : (s.onDram c f).evt = s.evt := rfl
@[simp] theorem State.onDram_clk (c : Fin 2) (f : Dram → Dram) : (s.onDram c f).clk = s.clk := rfl
@[simp] theorem State.onDram_saps (c : Fin 2) (f : Dram → Dram) : (s.onDram c f).saps = s.saps := rfl
@[simp] theorem State.onDram_net (c : Fin 2) (f : Dram → Dram) : (s.onDram c f).net = s.net := rfl
@[simp] theorem State.onDram_xbar (c : Fin 2) (f : Dram → Dram) : (s.onDram c f).xbar = s.xbar := rfl
@[simp] theorem State.onDram_drams (c : Fin 2) (f : Dram → Dram) : (s.onDram c f).drams = upd s.drams c f := rfl
@[simp] theorem State.onDram_mem (c : Fin 2) (f : Dram → Dram) : (s.onDram c f).mem = s.mem := rfl
@[simp] theorem State.onDram_hostMem (c : Fin 2) (f : Dram → Dram) : (s.onDram c f).hostMem = s.hostMem := rfl
@[simp] theorem State.onDram_hs (c : Fin 2) (f : Dram → Dram) : (s.onDram c f).hs = s.hs := rfl
@[simp] theorem State.onDram_red (c : Fin 2) (f : Dram → Dram) : (s.onDram c f).red = s.red := rfl
@[simp] theorem State.onDram_amps (c : Fin 2) (f : Dram → Dram) : (s.onDram c f).amps = s.amps := rfl
@[simp] theorem State.onDram_patina (c : Fin 2) (f : Dram → Dram) : (s.onDram c f).patina = s.patina := rfl
@[simp] theorem State.onDram_lc (c : Fin 2) (f : Dram → Dram) : (s.onDram c f).lc = s.lc := rfl
@[simp] theorem State.onDram_host (c : Fin 2) (f : Dram → Dram) : (s.onDram c f).host = s.host := rfl
@[simp] theorem State.onDram_flash (c : Fin 2) (f : Dram → Dram) : (s.onDram c f).flash = s.flash := rfl
@[simp] theorem State.onDram_free (c : Fin 2) (f : Dram → Dram) : (s.onDram c f).free = s.free := rfl
@[simp] theorem State.onDram_pending (c : Fin 2) (f : Dram → Dram) : (s.onDram c f).pending = s.pending := rfl

/-! ### onRed -/

@[simp] theorem State.onRed_ao (f : Red → Red) : (s.onRed f).ao = s.ao := rfl
@[simp] theorem State.onRed_power (f : Red → Red) : (s.onRed f).power = s.power := rfl
@[simp] theorem State.onRed_img (f : Red → Red) : (s.onRed f).img = s.img := rfl
@[simp] theorem State.onRed_scene (f : Red → Red) : (s.onRed f).scene = s.scene := rfl
@[simp] theorem State.onRed_procs (f : Red → Red) : (s.onRed f).procs = s.procs := rfl
@[simp] theorem State.onRed_outs (f : Red → Red) : (s.onRed f).outs = s.outs := rfl
@[simp] theorem State.onRed_placer (f : Red → Red) : (s.onRed f).placer = s.placer := rfl
@[simp] theorem State.onRed_engines (f : Red → Red) : (s.onRed f).engines = s.engines := rfl
@[simp] theorem State.onRed_fabric (f : Red → Red) : (s.onRed f).fabric = s.fabric := rfl
@[simp] theorem State.onRed_evt (f : Red → Red) : (s.onRed f).evt = s.evt := rfl
@[simp] theorem State.onRed_clk (f : Red → Red) : (s.onRed f).clk = s.clk := rfl
@[simp] theorem State.onRed_saps (f : Red → Red) : (s.onRed f).saps = s.saps := rfl
@[simp] theorem State.onRed_net (f : Red → Red) : (s.onRed f).net = s.net := rfl
@[simp] theorem State.onRed_xbar (f : Red → Red) : (s.onRed f).xbar = s.xbar := rfl
@[simp] theorem State.onRed_drams (f : Red → Red) : (s.onRed f).drams = s.drams := rfl
@[simp] theorem State.onRed_mem (f : Red → Red) : (s.onRed f).mem = s.mem := rfl
@[simp] theorem State.onRed_hostMem (f : Red → Red) : (s.onRed f).hostMem = s.hostMem := rfl
@[simp] theorem State.onRed_hs (f : Red → Red) : (s.onRed f).hs = s.hs := rfl
@[simp] theorem State.onRed_red (f : Red → Red) : (s.onRed f).red = f s.red := rfl
@[simp] theorem State.onRed_amps (f : Red → Red) : (s.onRed f).amps = s.amps := rfl
@[simp] theorem State.onRed_patina (f : Red → Red) : (s.onRed f).patina = s.patina := rfl
@[simp] theorem State.onRed_lc (f : Red → Red) : (s.onRed f).lc = s.lc := rfl
@[simp] theorem State.onRed_host (f : Red → Red) : (s.onRed f).host = s.host := rfl
@[simp] theorem State.onRed_flash (f : Red → Red) : (s.onRed f).flash = s.flash := rfl
@[simp] theorem State.onRed_free (f : Red → Red) : (s.onRed f).free = s.free := rfl
@[simp] theorem State.onRed_pending (f : Red → Red) : (s.onRed f).pending = s.pending := rfl

/-! ### onLane -/

@[simp] theorem State.onLane_ao (l : Fin 4) (f : LaneSt → LaneSt) : (s.onLane l f).ao = s.ao := rfl
@[simp] theorem State.onLane_power (l : Fin 4) (f : LaneSt → LaneSt) : (s.onLane l f).power = s.power := rfl
@[simp] theorem State.onLane_img (l : Fin 4) (f : LaneSt → LaneSt) : (s.onLane l f).img = s.img := rfl
@[simp] theorem State.onLane_scene (l : Fin 4) (f : LaneSt → LaneSt) : (s.onLane l f).scene = s.scene := rfl
@[simp] theorem State.onLane_procs (l : Fin 4) (f : LaneSt → LaneSt) : (s.onLane l f).procs = s.procs := rfl
@[simp] theorem State.onLane_outs (l : Fin 4) (f : LaneSt → LaneSt) : (s.onLane l f).outs = s.outs := rfl
@[simp] theorem State.onLane_placer (l : Fin 4) (f : LaneSt → LaneSt) : (s.onLane l f).placer = s.placer := rfl
@[simp] theorem State.onLane_engines (l : Fin 4) (f : LaneSt → LaneSt) : (s.onLane l f).engines = s.engines := rfl
@[simp] theorem State.onLane_fabric (l : Fin 4) (f : LaneSt → LaneSt) : (s.onLane l f).fabric = s.fabric := rfl
@[simp] theorem State.onLane_evt (l : Fin 4) (f : LaneSt → LaneSt) : (s.onLane l f).evt = s.evt := rfl
@[simp] theorem State.onLane_clk (l : Fin 4) (f : LaneSt → LaneSt) : (s.onLane l f).clk = s.clk := rfl
@[simp] theorem State.onLane_saps (l : Fin 4) (f : LaneSt → LaneSt) : (s.onLane l f).saps = s.saps := rfl
@[simp] theorem State.onLane_net (l : Fin 4) (f : LaneSt → LaneSt) : (s.onLane l f).net = s.net := rfl
@[simp] theorem State.onLane_xbar (l : Fin 4) (f : LaneSt → LaneSt) : (s.onLane l f).xbar = s.xbar := rfl
@[simp] theorem State.onLane_drams (l : Fin 4) (f : LaneSt → LaneSt) : (s.onLane l f).drams = s.drams := rfl
@[simp] theorem State.onLane_mem (l : Fin 4) (f : LaneSt → LaneSt) : (s.onLane l f).mem = s.mem := rfl
@[simp] theorem State.onLane_hostMem (l : Fin 4) (f : LaneSt → LaneSt) : (s.onLane l f).hostMem = s.hostMem := rfl
@[simp] theorem State.onLane_hs (l : Fin 4) (f : LaneSt → LaneSt) : (s.onLane l f).hs = s.hs := rfl
@[simp] theorem State.onLane_red (l : Fin 4) (f : LaneSt → LaneSt) : (s.onLane l f).red = { s.red with lanes := upd s.red.lanes l f } := rfl
@[simp] theorem State.onLane_amps (l : Fin 4) (f : LaneSt → LaneSt) : (s.onLane l f).amps = s.amps := rfl
@[simp] theorem State.onLane_patina (l : Fin 4) (f : LaneSt → LaneSt) : (s.onLane l f).patina = s.patina := rfl
@[simp] theorem State.onLane_lc (l : Fin 4) (f : LaneSt → LaneSt) : (s.onLane l f).lc = s.lc := rfl
@[simp] theorem State.onLane_host (l : Fin 4) (f : LaneSt → LaneSt) : (s.onLane l f).host = s.host := rfl
@[simp] theorem State.onLane_flash (l : Fin 4) (f : LaneSt → LaneSt) : (s.onLane l f).flash = s.flash := rfl
@[simp] theorem State.onLane_free (l : Fin 4) (f : LaneSt → LaneSt) : (s.onLane l f).free = s.free := rfl
@[simp] theorem State.onLane_pending (l : Fin 4) (f : LaneSt → LaneSt) : (s.onLane l f).pending = s.pending := rfl

/-! ### onAmp -/

@[simp] theorem State.onAmp_ao (c : Fin 16) (f : Amp → Amp) : (s.onAmp c f).ao = s.ao := rfl
@[simp] theorem State.onAmp_power (c : Fin 16) (f : Amp → Amp) : (s.onAmp c f).power = s.power := rfl
@[simp] theorem State.onAmp_img (c : Fin 16) (f : Amp → Amp) : (s.onAmp c f).img = s.img := rfl
@[simp] theorem State.onAmp_scene (c : Fin 16) (f : Amp → Amp) : (s.onAmp c f).scene = s.scene := rfl
@[simp] theorem State.onAmp_procs (c : Fin 16) (f : Amp → Amp) : (s.onAmp c f).procs = s.procs := rfl
@[simp] theorem State.onAmp_outs (c : Fin 16) (f : Amp → Amp) : (s.onAmp c f).outs = s.outs := rfl
@[simp] theorem State.onAmp_placer (c : Fin 16) (f : Amp → Amp) : (s.onAmp c f).placer = s.placer := rfl
@[simp] theorem State.onAmp_engines (c : Fin 16) (f : Amp → Amp) : (s.onAmp c f).engines = s.engines := rfl
@[simp] theorem State.onAmp_fabric (c : Fin 16) (f : Amp → Amp) : (s.onAmp c f).fabric = s.fabric := rfl
@[simp] theorem State.onAmp_evt (c : Fin 16) (f : Amp → Amp) : (s.onAmp c f).evt = s.evt := rfl
@[simp] theorem State.onAmp_clk (c : Fin 16) (f : Amp → Amp) : (s.onAmp c f).clk = s.clk := rfl
@[simp] theorem State.onAmp_saps (c : Fin 16) (f : Amp → Amp) : (s.onAmp c f).saps = s.saps := rfl
@[simp] theorem State.onAmp_net (c : Fin 16) (f : Amp → Amp) : (s.onAmp c f).net = s.net := rfl
@[simp] theorem State.onAmp_xbar (c : Fin 16) (f : Amp → Amp) : (s.onAmp c f).xbar = s.xbar := rfl
@[simp] theorem State.onAmp_drams (c : Fin 16) (f : Amp → Amp) : (s.onAmp c f).drams = s.drams := rfl
@[simp] theorem State.onAmp_mem (c : Fin 16) (f : Amp → Amp) : (s.onAmp c f).mem = s.mem := rfl
@[simp] theorem State.onAmp_hostMem (c : Fin 16) (f : Amp → Amp) : (s.onAmp c f).hostMem = s.hostMem := rfl
@[simp] theorem State.onAmp_hs (c : Fin 16) (f : Amp → Amp) : (s.onAmp c f).hs = s.hs := rfl
@[simp] theorem State.onAmp_red (c : Fin 16) (f : Amp → Amp) : (s.onAmp c f).red = s.red := rfl
@[simp] theorem State.onAmp_amps (c : Fin 16) (f : Amp → Amp) : (s.onAmp c f).amps = upd s.amps c f := rfl
@[simp] theorem State.onAmp_patina (c : Fin 16) (f : Amp → Amp) : (s.onAmp c f).patina = s.patina := rfl
@[simp] theorem State.onAmp_lc (c : Fin 16) (f : Amp → Amp) : (s.onAmp c f).lc = s.lc := rfl
@[simp] theorem State.onAmp_host (c : Fin 16) (f : Amp → Amp) : (s.onAmp c f).host = s.host := rfl
@[simp] theorem State.onAmp_flash (c : Fin 16) (f : Amp → Amp) : (s.onAmp c f).flash = s.flash := rfl
@[simp] theorem State.onAmp_free (c : Fin 16) (f : Amp → Amp) : (s.onAmp c f).free = s.free := rfl
@[simp] theorem State.onAmp_pending (c : Fin 16) (f : Amp → Amp) : (s.onAmp c f).pending = s.pending := rfl

/-! ### onPat -/

@[simp] theorem State.onPat_ao (i : Fin 59) (f : PatIsland → PatIsland) : (s.onPat i f).ao = s.ao := rfl
@[simp] theorem State.onPat_power (i : Fin 59) (f : PatIsland → PatIsland) : (s.onPat i f).power = s.power := rfl
@[simp] theorem State.onPat_img (i : Fin 59) (f : PatIsland → PatIsland) : (s.onPat i f).img = s.img := rfl
@[simp] theorem State.onPat_scene (i : Fin 59) (f : PatIsland → PatIsland) : (s.onPat i f).scene = s.scene := rfl
@[simp] theorem State.onPat_procs (i : Fin 59) (f : PatIsland → PatIsland) : (s.onPat i f).procs = s.procs := rfl
@[simp] theorem State.onPat_outs (i : Fin 59) (f : PatIsland → PatIsland) : (s.onPat i f).outs = s.outs := rfl
@[simp] theorem State.onPat_placer (i : Fin 59) (f : PatIsland → PatIsland) : (s.onPat i f).placer = s.placer := rfl
@[simp] theorem State.onPat_engines (i : Fin 59) (f : PatIsland → PatIsland) : (s.onPat i f).engines = s.engines := rfl
@[simp] theorem State.onPat_fabric (i : Fin 59) (f : PatIsland → PatIsland) : (s.onPat i f).fabric = s.fabric := rfl
@[simp] theorem State.onPat_evt (i : Fin 59) (f : PatIsland → PatIsland) : (s.onPat i f).evt = s.evt := rfl
@[simp] theorem State.onPat_clk (i : Fin 59) (f : PatIsland → PatIsland) : (s.onPat i f).clk = s.clk := rfl
@[simp] theorem State.onPat_saps (i : Fin 59) (f : PatIsland → PatIsland) : (s.onPat i f).saps = s.saps := rfl
@[simp] theorem State.onPat_net (i : Fin 59) (f : PatIsland → PatIsland) : (s.onPat i f).net = s.net := rfl
@[simp] theorem State.onPat_xbar (i : Fin 59) (f : PatIsland → PatIsland) : (s.onPat i f).xbar = s.xbar := rfl
@[simp] theorem State.onPat_drams (i : Fin 59) (f : PatIsland → PatIsland) : (s.onPat i f).drams = s.drams := rfl
@[simp] theorem State.onPat_mem (i : Fin 59) (f : PatIsland → PatIsland) : (s.onPat i f).mem = s.mem := rfl
@[simp] theorem State.onPat_hostMem (i : Fin 59) (f : PatIsland → PatIsland) : (s.onPat i f).hostMem = s.hostMem := rfl
@[simp] theorem State.onPat_hs (i : Fin 59) (f : PatIsland → PatIsland) : (s.onPat i f).hs = s.hs := rfl
@[simp] theorem State.onPat_red (i : Fin 59) (f : PatIsland → PatIsland) : (s.onPat i f).red = s.red := rfl
@[simp] theorem State.onPat_amps (i : Fin 59) (f : PatIsland → PatIsland) : (s.onPat i f).amps = s.amps := rfl
@[simp] theorem State.onPat_patina (i : Fin 59) (f : PatIsland → PatIsland) : (s.onPat i f).patina = upd s.patina i f := rfl
@[simp] theorem State.onPat_lc (i : Fin 59) (f : PatIsland → PatIsland) : (s.onPat i f).lc = s.lc := rfl
@[simp] theorem State.onPat_host (i : Fin 59) (f : PatIsland → PatIsland) : (s.onPat i f).host = s.host := rfl
@[simp] theorem State.onPat_flash (i : Fin 59) (f : PatIsland → PatIsland) : (s.onPat i f).flash = s.flash := rfl
@[simp] theorem State.onPat_free (i : Fin 59) (f : PatIsland → PatIsland) : (s.onPat i f).free = s.free := rfl
@[simp] theorem State.onPat_pending (i : Fin 59) (f : PatIsland → PatIsland) : (s.onPat i f).pending = s.pending := rfl

/-! ### onLc -/

@[simp] theorem State.onLc_ao (f : Lc → Lc) : (s.onLc f).ao = s.ao := rfl
@[simp] theorem State.onLc_power (f : Lc → Lc) : (s.onLc f).power = s.power := rfl
@[simp] theorem State.onLc_img (f : Lc → Lc) : (s.onLc f).img = s.img := rfl
@[simp] theorem State.onLc_scene (f : Lc → Lc) : (s.onLc f).scene = s.scene := rfl
@[simp] theorem State.onLc_procs (f : Lc → Lc) : (s.onLc f).procs = s.procs := rfl
@[simp] theorem State.onLc_outs (f : Lc → Lc) : (s.onLc f).outs = s.outs := rfl
@[simp] theorem State.onLc_placer (f : Lc → Lc) : (s.onLc f).placer = s.placer := rfl
@[simp] theorem State.onLc_engines (f : Lc → Lc) : (s.onLc f).engines = s.engines := rfl
@[simp] theorem State.onLc_fabric (f : Lc → Lc) : (s.onLc f).fabric = s.fabric := rfl
@[simp] theorem State.onLc_evt (f : Lc → Lc) : (s.onLc f).evt = s.evt := rfl
@[simp] theorem State.onLc_clk (f : Lc → Lc) : (s.onLc f).clk = s.clk := rfl
@[simp] theorem State.onLc_saps (f : Lc → Lc) : (s.onLc f).saps = s.saps := rfl
@[simp] theorem State.onLc_net (f : Lc → Lc) : (s.onLc f).net = s.net := rfl
@[simp] theorem State.onLc_xbar (f : Lc → Lc) : (s.onLc f).xbar = s.xbar := rfl
@[simp] theorem State.onLc_drams (f : Lc → Lc) : (s.onLc f).drams = s.drams := rfl
@[simp] theorem State.onLc_mem (f : Lc → Lc) : (s.onLc f).mem = s.mem := rfl
@[simp] theorem State.onLc_hostMem (f : Lc → Lc) : (s.onLc f).hostMem = s.hostMem := rfl
@[simp] theorem State.onLc_hs (f : Lc → Lc) : (s.onLc f).hs = s.hs := rfl
@[simp] theorem State.onLc_red (f : Lc → Lc) : (s.onLc f).red = s.red := rfl
@[simp] theorem State.onLc_amps (f : Lc → Lc) : (s.onLc f).amps = s.amps := rfl
@[simp] theorem State.onLc_patina (f : Lc → Lc) : (s.onLc f).patina = s.patina := rfl
@[simp] theorem State.onLc_lc (f : Lc → Lc) : (s.onLc f).lc = f s.lc := rfl
@[simp] theorem State.onLc_host (f : Lc → Lc) : (s.onLc f).host = s.host := rfl
@[simp] theorem State.onLc_flash (f : Lc → Lc) : (s.onLc f).flash = s.flash := rfl
@[simp] theorem State.onLc_free (f : Lc → Lc) : (s.onLc f).free = s.free := rfl
@[simp] theorem State.onLc_pending (f : Lc → Lc) : (s.onLc f).pending = s.pending := rfl

/-! ### onHost -/

@[simp] theorem State.onHost_ao (f : HostIf → HostIf) : (s.onHost f).ao = s.ao := rfl
@[simp] theorem State.onHost_power (f : HostIf → HostIf) : (s.onHost f).power = s.power := rfl
@[simp] theorem State.onHost_img (f : HostIf → HostIf) : (s.onHost f).img = s.img := rfl
@[simp] theorem State.onHost_scene (f : HostIf → HostIf) : (s.onHost f).scene = s.scene := rfl
@[simp] theorem State.onHost_procs (f : HostIf → HostIf) : (s.onHost f).procs = s.procs := rfl
@[simp] theorem State.onHost_outs (f : HostIf → HostIf) : (s.onHost f).outs = s.outs := rfl
@[simp] theorem State.onHost_placer (f : HostIf → HostIf) : (s.onHost f).placer = s.placer := rfl
@[simp] theorem State.onHost_engines (f : HostIf → HostIf) : (s.onHost f).engines = s.engines := rfl
@[simp] theorem State.onHost_fabric (f : HostIf → HostIf) : (s.onHost f).fabric = s.fabric := rfl
@[simp] theorem State.onHost_evt (f : HostIf → HostIf) : (s.onHost f).evt = s.evt := rfl
@[simp] theorem State.onHost_clk (f : HostIf → HostIf) : (s.onHost f).clk = s.clk := rfl
@[simp] theorem State.onHost_saps (f : HostIf → HostIf) : (s.onHost f).saps = s.saps := rfl
@[simp] theorem State.onHost_net (f : HostIf → HostIf) : (s.onHost f).net = s.net := rfl
@[simp] theorem State.onHost_xbar (f : HostIf → HostIf) : (s.onHost f).xbar = s.xbar := rfl
@[simp] theorem State.onHost_drams (f : HostIf → HostIf) : (s.onHost f).drams = s.drams := rfl
@[simp] theorem State.onHost_mem (f : HostIf → HostIf) : (s.onHost f).mem = s.mem := rfl
@[simp] theorem State.onHost_hostMem (f : HostIf → HostIf) : (s.onHost f).hostMem = s.hostMem := rfl
@[simp] theorem State.onHost_hs (f : HostIf → HostIf) : (s.onHost f).hs = s.hs := rfl
@[simp] theorem State.onHost_red (f : HostIf → HostIf) : (s.onHost f).red = s.red := rfl
@[simp] theorem State.onHost_amps (f : HostIf → HostIf) : (s.onHost f).amps = s.amps := rfl
@[simp] theorem State.onHost_patina (f : HostIf → HostIf) : (s.onHost f).patina = s.patina := rfl
@[simp] theorem State.onHost_lc (f : HostIf → HostIf) : (s.onHost f).lc = s.lc := rfl
@[simp] theorem State.onHost_host (f : HostIf → HostIf) : (s.onHost f).host = f s.host := rfl
@[simp] theorem State.onHost_flash (f : HostIf → HostIf) : (s.onHost f).flash = s.flash := rfl
@[simp] theorem State.onHost_free (f : HostIf → HostIf) : (s.onHost f).free = s.free := rfl
@[simp] theorem State.onHost_pending (f : HostIf → HostIf) : (s.onHost f).pending = s.pending := rfl

/-! ### onProcs -/

@[simp] theorem State.onProcs_ao (f : ProcSt → ProcSt) : (s.onProcs f).ao = s.ao := rfl
@[simp] theorem State.onProcs_power (f : ProcSt → ProcSt) : (s.onProcs f).power = s.power := rfl
@[simp] theorem State.onProcs_img (f : ProcSt → ProcSt) : (s.onProcs f).img = s.img := rfl
@[simp] theorem State.onProcs_scene (f : ProcSt → ProcSt) : (s.onProcs f).scene = s.scene := rfl
@[simp] theorem State.onProcs_procs (f : ProcSt → ProcSt) : (s.onProcs f).procs = s.procs.map f := rfl
@[simp] theorem State.onProcs_outs (f : ProcSt → ProcSt) : (s.onProcs f).outs = s.outs := rfl
@[simp] theorem State.onProcs_placer (f : ProcSt → ProcSt) : (s.onProcs f).placer = s.placer := rfl
@[simp] theorem State.onProcs_engines (f : ProcSt → ProcSt) : (s.onProcs f).engines = s.engines := rfl
@[simp] theorem State.onProcs_fabric (f : ProcSt → ProcSt) : (s.onProcs f).fabric = s.fabric := rfl
@[simp] theorem State.onProcs_evt (f : ProcSt → ProcSt) : (s.onProcs f).evt = s.evt := rfl
@[simp] theorem State.onProcs_clk (f : ProcSt → ProcSt) : (s.onProcs f).clk = s.clk := rfl
@[simp] theorem State.onProcs_saps (f : ProcSt → ProcSt) : (s.onProcs f).saps = s.saps := rfl
@[simp] theorem State.onProcs_net (f : ProcSt → ProcSt) : (s.onProcs f).net = s.net := rfl
@[simp] theorem State.onProcs_xbar (f : ProcSt → ProcSt) : (s.onProcs f).xbar = s.xbar := rfl
@[simp] theorem State.onProcs_drams (f : ProcSt → ProcSt) : (s.onProcs f).drams = s.drams := rfl
@[simp] theorem State.onProcs_mem (f : ProcSt → ProcSt) : (s.onProcs f).mem = s.mem := rfl
@[simp] theorem State.onProcs_hostMem (f : ProcSt → ProcSt) : (s.onProcs f).hostMem = s.hostMem := rfl
@[simp] theorem State.onProcs_hs (f : ProcSt → ProcSt) : (s.onProcs f).hs = s.hs := rfl
@[simp] theorem State.onProcs_red (f : ProcSt → ProcSt) : (s.onProcs f).red = s.red := rfl
@[simp] theorem State.onProcs_amps (f : ProcSt → ProcSt) : (s.onProcs f).amps = s.amps := rfl
@[simp] theorem State.onProcs_patina (f : ProcSt → ProcSt) : (s.onProcs f).patina = s.patina := rfl
@[simp] theorem State.onProcs_lc (f : ProcSt → ProcSt) : (s.onProcs f).lc = s.lc := rfl
@[simp] theorem State.onProcs_host (f : ProcSt → ProcSt) : (s.onProcs f).host = s.host := rfl
@[simp] theorem State.onProcs_flash (f : ProcSt → ProcSt) : (s.onProcs f).flash = s.flash := rfl
@[simp] theorem State.onProcs_free (f : ProcSt → ProcSt) : (s.onProcs f).free = s.free := rfl
@[simp] theorem State.onProcs_pending (f : ProcSt → ProcSt) : (s.onProcs f).pending = s.pending := rfl

/-! ### onProc -/

@[simp] theorem State.onProc_ao (n : Nat) (e : Fin 24) (f : ProcSt → ProcSt) : (s.onProc n e f).ao = s.ao := rfl
@[simp] theorem State.onProc_power (n : Nat) (e : Fin 24) (f : ProcSt → ProcSt) : (s.onProc n e f).power = s.power := rfl
@[simp] theorem State.onProc_img (n : Nat) (e : Fin 24) (f : ProcSt → ProcSt) : (s.onProc n e f).img = s.img := rfl
@[simp] theorem State.onProc_scene (n : Nat) (e : Fin 24) (f : ProcSt → ProcSt) : (s.onProc n e f).scene = s.scene := rfl
@[simp] theorem State.onProc_procs (n : Nat) (e : Fin 24) (f : ProcSt → ProcSt) : (s.onProc n e f).procs = mapIf (fun p => p.node == n && p.engine == e) f s.procs := rfl
@[simp] theorem State.onProc_outs (n : Nat) (e : Fin 24) (f : ProcSt → ProcSt) : (s.onProc n e f).outs = s.outs := rfl
@[simp] theorem State.onProc_placer (n : Nat) (e : Fin 24) (f : ProcSt → ProcSt) : (s.onProc n e f).placer = s.placer := rfl
@[simp] theorem State.onProc_engines (n : Nat) (e : Fin 24) (f : ProcSt → ProcSt) : (s.onProc n e f).engines = s.engines := rfl
@[simp] theorem State.onProc_fabric (n : Nat) (e : Fin 24) (f : ProcSt → ProcSt) : (s.onProc n e f).fabric = s.fabric := rfl
@[simp] theorem State.onProc_evt (n : Nat) (e : Fin 24) (f : ProcSt → ProcSt) : (s.onProc n e f).evt = s.evt := rfl
@[simp] theorem State.onProc_clk (n : Nat) (e : Fin 24) (f : ProcSt → ProcSt) : (s.onProc n e f).clk = s.clk := rfl
@[simp] theorem State.onProc_saps (n : Nat) (e : Fin 24) (f : ProcSt → ProcSt) : (s.onProc n e f).saps = s.saps := rfl
@[simp] theorem State.onProc_net (n : Nat) (e : Fin 24) (f : ProcSt → ProcSt) : (s.onProc n e f).net = s.net := rfl
@[simp] theorem State.onProc_xbar (n : Nat) (e : Fin 24) (f : ProcSt → ProcSt) : (s.onProc n e f).xbar = s.xbar := rfl
@[simp] theorem State.onProc_drams (n : Nat) (e : Fin 24) (f : ProcSt → ProcSt) : (s.onProc n e f).drams = s.drams := rfl
@[simp] theorem State.onProc_mem (n : Nat) (e : Fin 24) (f : ProcSt → ProcSt) : (s.onProc n e f).mem = s.mem := rfl
@[simp] theorem State.onProc_hostMem (n : Nat) (e : Fin 24) (f : ProcSt → ProcSt) : (s.onProc n e f).hostMem = s.hostMem := rfl
@[simp] theorem State.onProc_hs (n : Nat) (e : Fin 24) (f : ProcSt → ProcSt) : (s.onProc n e f).hs = s.hs := rfl
@[simp] theorem State.onProc_red (n : Nat) (e : Fin 24) (f : ProcSt → ProcSt) : (s.onProc n e f).red = s.red := rfl
@[simp] theorem State.onProc_amps (n : Nat) (e : Fin 24) (f : ProcSt → ProcSt) : (s.onProc n e f).amps = s.amps := rfl
@[simp] theorem State.onProc_patina (n : Nat) (e : Fin 24) (f : ProcSt → ProcSt) : (s.onProc n e f).patina = s.patina := rfl
@[simp] theorem State.onProc_lc (n : Nat) (e : Fin 24) (f : ProcSt → ProcSt) : (s.onProc n e f).lc = s.lc := rfl
@[simp] theorem State.onProc_host (n : Nat) (e : Fin 24) (f : ProcSt → ProcSt) : (s.onProc n e f).host = s.host := rfl
@[simp] theorem State.onProc_flash (n : Nat) (e : Fin 24) (f : ProcSt → ProcSt) : (s.onProc n e f).flash = s.flash := rfl
@[simp] theorem State.onProc_free (n : Nat) (e : Fin 24) (f : ProcSt → ProcSt) : (s.onProc n e f).free = s.free := rfl
@[simp] theorem State.onProc_pending (n : Nat) (e : Fin 24) (f : ProcSt → ProcSt) : (s.onProc n e f).pending = s.pending := rfl

/-! ### onParam -/

@[simp] theorem State.onParam_ao (p : PAddr) (f : ParamSt → ParamSt) : (s.onParam p f).ao = s.ao := rfl
@[simp] theorem State.onParam_power (p : PAddr) (f : ParamSt → ParamSt) : (s.onParam p f).power = s.power := rfl
@[simp] theorem State.onParam_img (p : PAddr) (f : ParamSt → ParamSt) : (s.onParam p f).img = s.img := rfl
@[simp] theorem State.onParam_scene (p : PAddr) (f : ParamSt → ParamSt) : (s.onParam p f).scene = { s.scene with params := mapIf (fun q => q.decl.paddr == p) f s.scene.params } := rfl
@[simp] theorem State.onParam_procs (p : PAddr) (f : ParamSt → ParamSt) : (s.onParam p f).procs = s.procs := rfl
@[simp] theorem State.onParam_outs (p : PAddr) (f : ParamSt → ParamSt) : (s.onParam p f).outs = s.outs := rfl
@[simp] theorem State.onParam_placer (p : PAddr) (f : ParamSt → ParamSt) : (s.onParam p f).placer = s.placer := rfl
@[simp] theorem State.onParam_engines (p : PAddr) (f : ParamSt → ParamSt) : (s.onParam p f).engines = s.engines := rfl
@[simp] theorem State.onParam_fabric (p : PAddr) (f : ParamSt → ParamSt) : (s.onParam p f).fabric = s.fabric := rfl
@[simp] theorem State.onParam_evt (p : PAddr) (f : ParamSt → ParamSt) : (s.onParam p f).evt = s.evt := rfl
@[simp] theorem State.onParam_clk (p : PAddr) (f : ParamSt → ParamSt) : (s.onParam p f).clk = s.clk := rfl
@[simp] theorem State.onParam_saps (p : PAddr) (f : ParamSt → ParamSt) : (s.onParam p f).saps = s.saps := rfl
@[simp] theorem State.onParam_net (p : PAddr) (f : ParamSt → ParamSt) : (s.onParam p f).net = s.net := rfl
@[simp] theorem State.onParam_xbar (p : PAddr) (f : ParamSt → ParamSt) : (s.onParam p f).xbar = s.xbar := rfl
@[simp] theorem State.onParam_drams (p : PAddr) (f : ParamSt → ParamSt) : (s.onParam p f).drams = s.drams := rfl
@[simp] theorem State.onParam_mem (p : PAddr) (f : ParamSt → ParamSt) : (s.onParam p f).mem = s.mem := rfl
@[simp] theorem State.onParam_hostMem (p : PAddr) (f : ParamSt → ParamSt) : (s.onParam p f).hostMem = s.hostMem := rfl
@[simp] theorem State.onParam_hs (p : PAddr) (f : ParamSt → ParamSt) : (s.onParam p f).hs = s.hs := rfl
@[simp] theorem State.onParam_red (p : PAddr) (f : ParamSt → ParamSt) : (s.onParam p f).red = s.red := rfl
@[simp] theorem State.onParam_amps (p : PAddr) (f : ParamSt → ParamSt) : (s.onParam p f).amps = s.amps := rfl
@[simp] theorem State.onParam_patina (p : PAddr) (f : ParamSt → ParamSt) : (s.onParam p f).patina = s.patina := rfl
@[simp] theorem State.onParam_lc (p : PAddr) (f : ParamSt → ParamSt) : (s.onParam p f).lc = s.lc := rfl
@[simp] theorem State.onParam_host (p : PAddr) (f : ParamSt → ParamSt) : (s.onParam p f).host = s.host := rfl
@[simp] theorem State.onParam_flash (p : PAddr) (f : ParamSt → ParamSt) : (s.onParam p f).flash = s.flash := rfl
@[simp] theorem State.onParam_free (p : PAddr) (f : ParamSt → ParamSt) : (s.onParam p f).free = s.free := rfl
@[simp] theorem State.onParam_pending (p : PAddr) (f : ParamSt → ParamSt) : (s.onParam p f).pending = s.pending := rfl

/-! ### fresh -/

@[simp] theorem State.fresh_fst : s.fresh.1 = s.free := rfl
@[simp] theorem State.fresh_ao : s.fresh.2.ao = s.ao := rfl
@[simp] theorem State.fresh_power : s.fresh.2.power = s.power := rfl
@[simp] theorem State.fresh_img : s.fresh.2.img = s.img := rfl
@[simp] theorem State.fresh_scene : s.fresh.2.scene = s.scene := rfl
@[simp] theorem State.fresh_procs : s.fresh.2.procs = s.procs := rfl
@[simp] theorem State.fresh_outs : s.fresh.2.outs = s.outs := rfl
@[simp] theorem State.fresh_placer : s.fresh.2.placer = s.placer := rfl
@[simp] theorem State.fresh_engines : s.fresh.2.engines = s.engines := rfl
@[simp] theorem State.fresh_fabric : s.fresh.2.fabric = s.fabric := rfl
@[simp] theorem State.fresh_evt : s.fresh.2.evt = s.evt := rfl
@[simp] theorem State.fresh_clk : s.fresh.2.clk = s.clk := rfl
@[simp] theorem State.fresh_saps : s.fresh.2.saps = s.saps := rfl
@[simp] theorem State.fresh_net : s.fresh.2.net = s.net := rfl
@[simp] theorem State.fresh_xbar : s.fresh.2.xbar = s.xbar := rfl
@[simp] theorem State.fresh_drams : s.fresh.2.drams = s.drams := rfl
@[simp] theorem State.fresh_mem : s.fresh.2.mem = s.mem := rfl
@[simp] theorem State.fresh_hostMem : s.fresh.2.hostMem = s.hostMem := rfl
@[simp] theorem State.fresh_hs : s.fresh.2.hs = s.hs := rfl
@[simp] theorem State.fresh_red : s.fresh.2.red = s.red := rfl
@[simp] theorem State.fresh_amps : s.fresh.2.amps = s.amps := rfl
@[simp] theorem State.fresh_patina : s.fresh.2.patina = s.patina := rfl
@[simp] theorem State.fresh_lc : s.fresh.2.lc = s.lc := rfl
@[simp] theorem State.fresh_host : s.fresh.2.host = s.host := rfl
@[simp] theorem State.fresh_flash : s.fresh.2.flash = s.flash := rfl
@[simp] theorem State.fresh_free : s.fresh.2.free = s.free + 1 := rfl
@[simp] theorem State.fresh_pending : s.fresh.2.pending = s.pending := rfl

/-! ### Accessors of the vector fields -/

@[simp] theorem upd_get_self {α : Type} {n : Nat} (v : Vector α n) (i : Fin n) (f : α → α) :
    (upd v i f).get i = f (v.get i) := by
  show (v.set i.1 (f (v.get i)) i.2)[i.1] = f (v.get i)
  simp

theorem upd_get_other {α : Type} {n : Nat} (v : Vector α n) (i j : Fin n) (f : α → α) (h : i ≠ j) :
    (upd v i f).get j = v.get j := by
  have h' : i.val ≠ j.val := fun e => h (Fin.ext e)
  show (v.set i.1 (f (v.get i)) i.2)[j.1] = v[j.1]
  simp [h']

@[simp] theorem State.onEngine_engine_self (e : Fin 24) (f : Engine → Engine) :
    (s.onEngine e f).engine e = f (s.engine e) := by simp [State.engine]
theorem State.onEngine_engine_other (e y : Fin 24) (f : Engine → Engine) (h : e ≠ y) :
    (s.onEngine e f).engine y = s.engine y := by simp [State.engine, upd_get_other _ _ _ _ h]
@[simp] theorem State.onTb_tb_self (t : Fin 4) (f : Timebase → Timebase) :
    (s.onTb t f).tb t = f (s.tb t) := by simp [State.tb]
theorem State.onTb_tb_other (t y : Fin 4) (f : Timebase → Timebase) (h : t ≠ y) :
    (s.onTb t f).tb y = s.tb y := by simp [State.tb, upd_get_other _ _ _ _ h]
@[simp] theorem State.onApll_apll_self (a : Fin 4) (f : Apll → Apll) :
    (s.onApll a f).apll a = f (s.apll a) := by simp [State.apll]
theorem State.onApll_apll_other (a y : Fin 4) (f : Apll → Apll) (h : a ≠ y) :
    (s.onApll a f).apll y = s.apll y := by simp [State.apll, upd_get_other _ _ _ _ h]
@[simp] theorem State.onSap_sap_self (p : Fin 32) (f : Sap → Sap) :
    (s.onSap p f).sap p = f (s.sap p) := by simp [State.sap]
theorem State.onSap_sap_other (p y : Fin 32) (f : Sap → Sap) (h : p ≠ y) :
    (s.onSap p f).sap y = s.sap y := by simp [State.sap, upd_get_other _ _ _ _ h]
@[simp] theorem State.onEth_eth_self (n : Fin 4) (f : Eth → Eth) :
    (s.onEth n f).eth n = f (s.eth n) := by simp [State.eth]
theorem State.onEth_eth_other (n y : Fin 4) (f : Eth → Eth) (h : n ≠ y) :
    (s.onEth n f).eth y = s.eth y := by simp [State.eth, upd_get_other _ _ _ _ h]
@[simp] theorem State.onSrx_srx_self (u : Fin 256) (f : Srx → Srx) :
    (s.onSrx u f).srx u = f (s.srx u) := by simp [State.srx]
theorem State.onSrx_srx_other (u y : Fin 256) (f : Srx → Srx) (h : u ≠ y) :
    (s.onSrx u f).srx y = s.srx y := by simp [State.srx, upd_get_other _ _ _ _ h]
@[simp] theorem State.onStx_stx_self (u : Fin 256) (f : Stx → Stx) :
    (s.onStx u f).stx u = f (s.stx u) := by simp [State.stx]
theorem State.onStx_stx_other (u y : Fin 256) (f : Stx → Stx) (h : u ≠ y) :
    (s.onStx u f).stx y = s.stx y := by simp [State.stx, upd_get_other _ _ _ _ h]
@[simp] theorem State.onLane_lane_self (l : Fin 4) (f : LaneSt → LaneSt) :
    (s.onLane l f).lane l = f (s.lane l) := by simp [State.lane]
theorem State.onLane_lane_other (l y : Fin 4) (f : LaneSt → LaneSt) (h : l ≠ y) :
    (s.onLane l f).lane y = s.lane y := by simp [State.lane, upd_get_other _ _ _ _ h]
@[simp] theorem State.onAmp_amp_self (c : Fin 16) (f : Amp → Amp) :
    (s.onAmp c f).amp c = f (s.amp c) := by simp [State.amp]
theorem State.onAmp_amp_other (c y : Fin 16) (f : Amp → Amp) (h : c ≠ y) :
    (s.onAmp c f).amp y = s.amp y := by simp [State.amp, upd_get_other _ _ _ _ h]

/-! ### when -/

@[simp] theorem State.when_true (f : State → State) : s.when true f = f s := rfl
@[simp] theorem State.when_false (f : State → State) : s.when false f = s := rfl

end Sys2Proof.Machine
end

