-- ==== Sys2Proof/Laws/Ops.lean ====
section
/-! SUPPORT. What the shared operations of Machine/Ops.lean and the staging of Machine/Clocks.lean can do, once for each:
raising an event reaches the always-on domain and the event controller and nothing else; a non-volatile write reaches the
always-on domain and the power unit's count; staging reaches one timebase; `each` keeps what its step keeps. -/

namespace Sys2Proof.Machine

/-! ## Raising an event (R512, R522, R527, R573) -/

/-- Everything a raise can do. -/
theorem raise_eq (code : Nat) (vals : Vals) (s : State) :
    raise code vals s = { s with ao := (raise code vals s).ao, evt := (raise code vals s).evt } := by
  unfold raise hostOffer bbOffer
  dsimp only
  split <;> rfl

theorem raiseIf_eq (b : Bool) (code : Nat) (vals : Vals) (s : State) :
    raiseIf b code vals s = { s with ao := (raiseIf b code vals s).ao, evt := (raiseIf b code vals s).evt } := by
  cases b
  · rfl
  · exact raise_eq code vals s

@[simp] theorem raiseIf_true (code : Nat) (vals : Vals) (s : State) : raiseIf true code vals s = raise code vals s := rfl
@[simp] theorem raiseIf_false (code : Nat) (vals : Vals) (s : State) : raiseIf false code vals s = s := rfl

@[simp] theorem raise_power (code : Nat) (vals : Vals) (s : State) : (raise code vals s).power = s.power := by
  rw [raise_eq]
@[simp] theorem raise_img (code : Nat) (vals : Vals) (s : State) : (raise code vals s).img = s.img := by
  rw [raise_eq]
@[simp] theorem raise_scene (code : Nat) (vals : Vals) (s : State) : (raise code vals s).scene = s.scene := by
  rw [raise_eq]
@[simp] theorem raise_procs (code : Nat) (vals : Vals) (s : State) : (raise code vals s).procs = s.procs := by
  rw [raise_eq]
@[simp] theorem raise_outs (code : Nat) (vals : Vals) (s : State) : (raise code vals s).outs = s.outs := by
  rw [raise_eq]
@[simp] theorem raise_placer (code : Nat) (vals : Vals) (s : State) : (raise code vals s).placer = s.placer := by
  rw [raise_eq]
@[simp] theorem raise_engines (code : Nat) (vals : Vals) (s : State) : (raise code vals s).engines = s.engines := by
  rw [raise_eq]
@[simp] theorem raise_fabric (code : Nat) (vals : Vals) (s : State) : (raise code vals s).fabric = s.fabric := by
  rw [raise_eq]
@[simp] theorem raise_clk (code : Nat) (vals : Vals) (s : State) : (raise code vals s).clk = s.clk := by
  rw [raise_eq]
@[simp] theorem raise_saps (code : Nat) (vals : Vals) (s : State) : (raise code vals s).saps = s.saps := by
  rw [raise_eq]
@[simp] theorem raise_net (code : Nat) (vals : Vals) (s : State) : (raise code vals s).net = s.net := by
  rw [raise_eq]
@[simp] theorem raise_xbar (code : Nat) (vals : Vals) (s : State) : (raise code vals s).xbar = s.xbar := by
  rw [raise_eq]
@[simp] theorem raise_drams (code : Nat) (vals : Vals) (s : State) : (raise code vals s).drams = s.drams := by
  rw [raise_eq]
@[simp] theorem raise_mem (code : Nat) (vals : Vals) (s : State) : (raise code vals s).mem = s.mem := by
  rw [raise_eq]
@[simp] theorem raise_hostMem (code : Nat) (vals : Vals) (s : State) : (raise code vals s).hostMem = s.hostMem := by
  rw [raise_eq]
@[simp] theorem raise_hs (code : Nat) (vals : Vals) (s : State) : (raise code vals s).hs = s.hs := by
  rw [raise_eq]
@[simp] theorem raise_red (code : Nat) (vals : Vals) (s : State) : (raise code vals s).red = s.red := by
  rw [raise_eq]
@[simp] theorem raise_amps (code : Nat) (vals : Vals) (s : State) : (raise code vals s).amps = s.amps := by
  rw [raise_eq]
@[simp] theorem raise_patina (code : Nat) (vals : Vals) (s : State) : (raise code vals s).patina = s.patina := by
  rw [raise_eq]
@[simp] theorem raise_lc (code : Nat) (vals : Vals) (s : State) : (raise code vals s).lc = s.lc := by
  rw [raise_eq]
@[simp] theorem raise_host (code : Nat) (vals : Vals) (s : State) : (raise code vals s).host = s.host := by
  rw [raise_eq]
@[simp] theorem raise_flash (code : Nat) (vals : Vals) (s : State) : (raise code vals s).flash = s.flash := by
  rw [raise_eq]
@[simp] theorem raise_free (code : Nat) (vals : Vals) (s : State) : (raise code vals s).free = s.free := by
  rw [raise_eq]
@[simp] theorem raise_pending (code : Nat) (vals : Vals) (s : State) : (raise code vals s).pending = s.pending := by
  rw [raise_eq]

/-- After S3 a raise offers exactly one record to the host, the one that the black box gets (R512, R522). -/
theorem raise_offered (code : Nat) (vals : Vals) (s : State) (h : s.early = false) :
    (raise code vals s).evt.offered = s.evt.offered ++ [mkEvent s code vals] := by
  have h' : (bbOffer (mkEvent s code vals) s).early = false := h
  unfold raise hostOffer
  simp only [h']
  rfl

/-- The black box takes a record while fewer than 256 wait, with the brace as it stands (R527). -/
theorem bbOffer_room (e : EventRec) (s : State) (h : s.ao.bbQueue.length < 256) :
    (bbOffer e s).ao.bbQueue = s.ao.bbQueue ++ [(e, s.power.braced)] ∧ (bbOffer e s).ao.bbLost = s.ao.bbLost := by
  simp [bbOffer, h]

/-- With 256 waiting the record is lost and counted (R527). -/
theorem bbOffer_full (e : EventRec) (s : State) (h : 256 ≤ s.ao.bbQueue.length) :
    (bbOffer e s).ao.bbQueue = s.ao.bbQueue ∧ (bbOffer e s).ao.bbLost = satInc16 s.ao.bbLost := by
  simp [bbOffer, Nat.not_lt.mpr h]

/-! ## Non-volatile writes (R492, R506, R520) -/

theorem nvBegin_eq (s : State) : nvBegin s = { s with ao := (nvBegin s).ao, power := (nvBegin s).power } := by
  unfold nvBegin
  split
  · dsimp only
    split
    · rfl
    · split <;> rfl
  · rfl

/-- Asking for a write reaches the queue of the always-on domain and the count of R506, and nothing else. -/
theorem nvAsk_eq (w : NvWrite) (s : State) :
    nvAsk w s = { s with ao := (nvAsk w s).ao, power := (nvAsk w s).power } := nvBegin_eq _

/-- With an idle store and no brace a write begins at once. -/
theorem nvAsk_idle (w : NvWrite) (s : State) (hb : s.ao.nvBusy = none) (hq : s.ao.nvQueue = [])
    (hp : s.power.braced = false) :
    nvAsk w s = s.onAo fun a => { a with nvBusy := some w, nvQueue := [] } := by
  simp [nvAsk, nvBegin, hb, hq, hp, State.onAo]

/-! ## Free values and staging -/

@[simp] theorem fresh_fst (s : State) : s.fresh.1 = s.free := rfl
@[simp] theorem fresh_snd (s : State) : s.fresh.2 = { s with free := s.free + 1 } := rfl

/-- Staging an item reaches the staged list of its timebase: due at the next boundary while staging is open, else at the one
after it (R27). -/
theorem stage_eq (t : Fin 4) (i : StageItem) (s : State) :
    stage t i s = s.onTb t fun x => { x with staged := x.staged ++ [⟨b2n (!x.open_), i⟩] } := rfl

@[simp] theorem stage_pending (t : Fin 4) (i : StageItem) (s : State) : (stage t i s).pending = s.pending := rfl
@[simp] theorem stage_mem (t : Fin 4) (i : StageItem) (s : State) : (stage t i s).mem = s.mem := rfl
@[simp] theorem stage_hostMem (t : Fin 4) (i : StageItem) (s : State) : (stage t i s).hostMem = s.hostMem := rfl

/-! ## Acting on each of a list -/

@[simp] theorem each_nil {α σ : Type} (f : α → σ → σ) (s : σ) : each [] f s = s := rfl
@[simp] theorem each_cons {α σ : Type} (a : α) (l : List α) (f : α → σ → σ) (s : σ) :
    each (a :: l) f s = each l f (f a s) := rfl

/-- What every step of an `each` keeps, the whole keeps: the induction of every multi-unit operation. -/
theorem each_keeps {α σ : Type} (P : σ → Prop) (l : List α) (f : α → σ → σ) (hf : ∀ a ∈ l, ∀ s, P s → P (f a s))
    (s : σ) (hs : P s) : P (each l f s) := by
  induction l generalizing s with
  | nil => exact hs
  | cons a l ih =>
    exact ih (fun b hb => hf b (List.mem_cons_of_mem _ hb)) _ (hf a List.mem_cons_self s hs)

/-- A field that no step of an `each` changes stays as it was. -/
theorem each_field {α β σ : Type} (g : σ → β) (l : List α) (f : α → σ → σ) (hf : ∀ a ∈ l, ∀ s, g (f a s) = g s) (s : σ) :
    g (each l f s) = g s :=
  each_keeps (fun t => g t = g s) l f (fun a ha t ht => (hf a ha t).trans ht) s rfl

end Sys2Proof.Machine
end

