-- ==== Sys2Proof/Tests/Fixtures.lean ====
section
/-! SUPPORT. Small states for the tests and the witnesses: one image of a few nodes, and the states built from it. -/

namespace Sys2Proof.Tests

open Sys2Proof.Machine

/-- A node with one output in domain 0 and tier 1. -/
def node (id : Nat) (type : NodeType) (inputs : List (Nat × Nat)) (ref : Nat) : NodeRec :=
  { id := id, type := type, domain := 0, tier := 1, critical := false, before := false, bridge := false,
    inputs := inputs, outputs := 1, bodyRef := ref, bodyA := 0, bodyB := 0 }

def src : NodeRec := { node 1 .source [] 0 with tier := 0 }
def proc : NodeRec := { node 16 .proc [(1, 0)] 7 with bodyB := 4096 }
def send : NodeRec := node 32 .send [(1, 0)] 48
def sum : NodeRec := node 48 .sum [] 0
def meter : NodeRec := { node 80 .meter [(1, 0)] 3 with outputs := 0 }
def detect : NodeRec := { node 96 .detect [(1, 0)] 0 with outputs := 0 }

/-- A program of eight words, the second of which is a vector sum. -/
def prog : ProgRec :=
  { id := 7, code := [0, 0x4004400000000000, 0, 0, 0, 0, 0, 0x0400000000000000], data := [], cycles := 100, mac := 16,
    entry := 1, bridgeLat := 0 }

def region (atomic : Bool) : RegionRec :=
  { id := 5, size := 4096, align := 6, cls := 2, zeroFill := true, persist := false, atomic := atomic, owner := 16,
    init := [] }

def dom0 : DomainRec := { dom := 0, rate := 3, tb := 0, apll := 0 }

def image : Image :=
  { cluster := false, clusterSize := 1, clusterPos := 0, mirrored := false, debug := true, buildId := 0xB11D,
    serial := 3, keySlot := 0, encrypted := false,
    cap := { minEngines := 1, spares := 2, engineLoad := 100, fabricLoad := 100, sramBytes := 0, dramBytes := 0 },
    domains := [dom0], nodes := [src, proc, send, sum, meter, detect], muxLists := [], ports := [], programs := [prog],
    regions := [region false, region true, region false], params := [], symbols := [], evMap := [], maquettes := [],
    hints := [] }

/-- A started part in RUN with the image loaded. -/
def run : State :=
  { State.reset with
    img := { State.reset.img with loaded := some image }
    power := { State.reset.power with state := 4, start := { Start.reset with step := 15, result := 1 } } }

/-- A copy of a process on engine 0. -/
def procSt (n : Nat) : ProcSt :=
  { node := n, engine := 0, gStart := 0, sel := 0, fade := none, hist := [], histCap := 0, mPeak := 0, mSum := 0,
    mCount := 0, mBlocks := 0, mOver := false, mFull := false, mDone := [], silentRun := 0, silent := false, inst := [],
    ringCount := 0, ring := [], out := none, digest := 0, heldOut := none, last := [], misses := 0, missedNow := false,
    unresolved := false, overrun := false, rampIn := 0, rampLen := 0, isNew := false, stopped := false,
    raw := [], restore := { missed := false, rampIn := 0, rampLen := 0 } }

/-- Region 0 lies in engine 0's local memory, region 1 in shared bank 3, region 2 in staged pages elsewhere. -/
def homed : State :=
  { run with placer := { run.placer with table :=
      [(0, { state := 1, kind := .engineLocal, unit := 0, base := 16, size := 4096, slot := 0 }),
       (1, { state := 1, kind := .shared, unit := 3, base := 0, size := 4096, slot := 0 })] } }

/-- A register bank in block work of node 16, its vectors and accumulators distinct. -/
def bank : Ctx :=
  { Ctx.reset with
    node := some 16
    v := #v[List.replicate 16 0x7FFFFFF0, (List.range 16).map fun k => BitVec.ofNat 32 (0x30 * k), List.replicate 16 0x80000000,
            [], [], [], [], [], [], [], [], [], [], [], [], []]
    accC := upd Ctx.reset.accC 1 fun _ => List.replicate 16 { v := BitVec.ofInt 80 (2 ^ 79 - 5), held := false }
    accM := upd Ctx.reset.accM 1 fun _ => { v := BitVec.ofInt 80 (-(2 ^ 79)), held := true } ::
      List.replicate 15 { v := 1234567, held := false }
    p := #v[0x80000040, 0x82000040, 0xF8000000, 0xFC000000, 0x80000042, 0x84000000, 0, 0]
    m := #v[16, 32, 0x40, 4, 0, 0, 0, 0xFFFFFFFC]
    l := #v[0, 0, 0, 0, 48, 0, 0, 0]
    b := #v[0, 0, 0, 0, 0x80000040, 0, 0, 0]
    lc := #v[2, 0]
    bexpEn := true
    cmask := 0x5555
    cmaskBr := 0x5555
    inFrame := (List.range 128).map fun k => BitVec.ofNat 32 (k + 7)
    outFrame := (List.range 128).map fun k => BitVec.ofNat 32 (k + 1000) }

/-- Engine 0 in block work of node 16 with a register bank. -/
def work (c : Ctx) : State :=
  { homed with
    procs := [procSt 16]
    engines := upd homed.engines 0 fun g => { g with fg := c } }

/-! ## Engines -/

/-- A bank with register writes in flight, a transfer that waits and a return index. -/
def flightBank : Ctx :=
  { bank with flight := [⟨1, .sreg (.m 0) 77⟩, ⟨3, .vec 5 []⟩], transfer := some (5, 2), stack := [3] }

def ad (p : Fin 8) (m : AddrMode) (i : Int) : Addr := ⟨p, m, i⟩

/-- Engine 0 in block work with p0 at a given word and no flight. -/
def at0 (w : Word) : Ctx := { bank with p := #v[w, 0, 0, 0, 0, 0, 0, 0] }

/-- Process 16 placed on engine 0, with its input published. -/
def readyProc : State :=
  { homed with
    procs := [procSt 16]
    outs := [{ node := 1, frames := [(0, [[1, 2, 3, 4, 5, 6, 7, 8]])], last := [], misses := 0 }]
    clk := { homed.clk with tbs := upd homed.clk.tbs 0 fun t => { t with ivl := 1 } } }

def workNow (c : Ctx) : State := { work c with clk := readyProc.clk }

/-- The locations that an access of engine 0 reaches. -/
def reached (s : State) (a : Addr) (words : Nat) (st ld : Bool) : List Loc :=
  match (readState s 0 proc).locs 0 proc
    { addrs := (accessOf (readCtx s 0 proc) a (4 * words) words).1, vec := decide (1 < words), store := st, ld := ld } with
  | .ok l => l
  | .error _ => []

def inFlight (a : Word) (bs : List Byte) : State := work { bank with flight := [⟨1, .store a bs⟩] }

def writing : State :=
  { work bank with engines := upd (work bank).engines 0 fun g =>
      { g with wbuf := [(0x90040, [1, 2, 3, 4]), (0x90044, [5])], fg := { g.fg with readWait := true } } }

def haltedEng : State := (work { bank with pc := 1 }).onEngine 0 fun g => { g with halted := true }

/-- The part with both configuration copies changed. -/
def cfgd (f : CfgCopy → CfgCopy) (s : State) : State :=
  { s with ao := { s.ao with cfgA := { f s.ao.cfgA with valid := true }, cfgB := { f s.ao.cfgB with valid := true } } }

def inLc (l : LcState) (s : State) : State := cfgd (fun c => { c with lcState := l }) s

def engines (f : Engine → Engine) (s : State) : State := { s with engines := Vector.replicate 24 (f Engine.reset) }

def parkedOn (r : Nat) : State :=
  (work bank).onEngine 0 fun g => { g with bg := { bank with pc := 3 }, parked := some ⟨r, 4, 16⟩ }

/-! ## Clocks -/

def tb0 (f : Timebase → Timebase) : State := run.onTb 0 f
def apll0 (f : Apll → Apll) : State := run.onApll 0 f
def cmp3 (f : Cmp → Cmp) : State := (tb0 fun t => { t with blk := 100 }).onCmp 3 f
def instant : TbTime := ⟨1, 2, 3⟩

/-- A capture FIFO of n entries that takes rising edges of pin 5. -/
def captured (n : Nat) : State :=
  run.onClk fun c => { c with capRise := 0x20, caps := List.replicate n ⟨5, true, 0, instant⟩ }

/-- A handshake channel from island 2 to 3 with n items. -/
def channelOf (n : Nat) : State :=
  { run with hs := [{ run.channel 2 3 with fifo := (List.range n).map fun k => [BitVec.ofNat 8 k] }] }

/-! ## Signal -/

/-- Interval 2, with two blocks of the SOURCE published. -/
def ivl2 : State :=
  { run with outs := [{ node := 1, misses := 0, last := [8], frames :=
      [(0, [[1, 2, 3, 4, 5, 6, 7, 8]]), (1, [[0x7FFFFFFF, 0x80000000, 3, 4, 0x7FFFFFFF, 6, 7, 0x7FFFFFFF]])] }] }.onTb 0
    fun t => { t with ivl := 2 }

def late : State := { ivl2 with procs := [{ procSt 16 with last := [801] }] }
def sumSt : SumSt := { SumSt.fresh 48 with acc := [1, 2, 3, -4, 5, 6, 7, 8] }
def sendSt : SendSt := { cStart := 0x08000000, cEnd := 0x04000001, target := 0x04000001, trans := .steady }

def summed : State :=
  { ivl2 with
    fabric := { run.fabric with sums := [sumSt], sends := [(32, sendSt)] }
    outs := ivl2.outs ++ [{ node := 48, frames := [], last := [77], misses := 0 }] }

def send2 : NodeRec := node 33 .send [(2, 0)] 48

def summed2 : State := { summed with img := { run.img with loaded := some { image with nodes := image.nodes ++ [send2] } } }

def sendless : State :=
  { summed with img := { run.img with loaded := some { image with nodes := [src, proc, sum] } }
                fabric := { run.fabric with sums := [SumSt.fresh 48], sends := [] } }

def loud : List Frame := [[0x7FFFFFFF, 0x80000000, 3, 4, 0x7FFFFFFF, 6, 7, 0x7FFFFFFF]]

def paramRec : ParamRec :=
  { paddr := paddrOf 16 1, init := 0, min := 0xFFFFFF00, max := 500, cls := .ramp, dbLaw := false, time := 10 }

def paramSt (t : Trans) : ParamSt := { decl := paramRec, target := 5, start := 5, value := 5, trans := t }

def timed : State := { ivl2 with procs := [{ procSt 96 with silentRun := 12000 }] }

def meterVal : MeterVal := ⟨5, 6, 0, 240, 30⟩

def metered : State :=
  { ivl2 with procs := [{ procSt 80 with mDone := [meterVal] }], evt := { run.evt with mEnable := true } }

/-- Another METER beside the first, whose last closed period is block 240; the first holds the periods before and after too. -/
def meter2 : NodeRec := { meter with id := 81, bodyRef := 1 }

def metered2 (done : List MeterVal) : State :=
  { metered with
    img := { run.img with loaded := some { image with nodes := image.nodes ++ [meter2] } }
    procs := [{ procSt 80 with mDone := [{ meterVal with block := 200 }, meterVal, { meterVal with block := 280 }] },
      { procSt 81 with mDone := done }] }

/-- A domain without METER nodes at the first block of a period. -/
def unmetered : State :=
  { metered with img := { run.img with loaded := some { image with nodes := [src, proc, sum] } }, procs := [] }.onTb 0
    fun t => { t with blk := 240 }

def meterRec (k : Nat) : MeterRec :=
  { dom := 0, block := 240, seq := 7, samples := 1920, entries := (List.range k).map fun i => (i, 5, 6, 0) }

def meterRing (wr rd : Word) (k : Nat) : State :=
  { metered with evt := { metered.evt with mRecs := [meterRec k], mLog2 := 8, mBase := 0x10000, mWr := wr, mRd := rd } }

/-! ## Scenes, images, placement -/

/-- The image with one declared parameter, steady at its target. -/
def declared : State :=
  { run with img := { run.img with loaded := some { image with params := [paramRec] } }
             scene := { run.scene with params := [paramSt .steady] } }

def scened (f : Scene → Scene) : State := { declared with scene := f declared.scene }

def castSt : CastSt :=
  { castId := 7, slot := 1, mqId := 9, tb := 0, block := 50, isNext := false, caster := true, deferrals := 0, transfer := 1,
    ready := [], notReady := none, go := false, held := false, applyOn := [], entries := [], asked := false, known := true }

def slotOp : SlotOp :=
  { slot := 2, capture := true, addr := 0x1000, mqId := 5, first := 0, last := 0, len := none,
    taken := some [⟨paddrOf 16 1, 5, none⟩] }

/-- A maquette of one entry, as a buffer in host memory at 0x1000. -/
def mqBytes : List Byte :=
  let e := leBytes 4 (paddrOf 16 1).toNat ++ leBytes 4 77 ++ [0, 0, 0, 0]
  [0x4D, 0x41, 0x51, 0x54, 1, 0, 2, 0] ++ leBytes 4 9 ++ leBytes 4 1 ++ leBytes 8 0xB11D ++ leBytes 4 (crc32 e) ++
    leBytes 4 76 ++ List.replicate 32 0 ++ e

def loading (m : Mem) : State :=
  { scened fun c => { c with op := some { slotOp with capture := false } } with hostMem := m }

def mqMem : Mem := mqBytes.zipIdx.map fun p => ⟨0x1000 + p.2, p.1⟩

def maquette : Maquette := { slot := 1, id := 9, buildId := 0xB11D, label := [], entries := [⟨paddrOf 16 1, 5, none⟩] }

/-- Slot 1 holds a maquette, and a cast of it is asked for at block 3. -/
def casting (f : Scene → Scene) : State :=
  scened fun c => f { c with
    slots := upd c.slots 1 fun _ => ⟨.valid, some maquette⟩, castSlot := 1, castMq := 9, castBlk := 3, seq := 0xFFF }

def casts (l : List CastSt) : State := scened fun c => { c with casts := l }

def castMsg : CastMsg :=
  { kind := .ready, position := 3, castId := 7, slot := 1, timebase := 0, reason := 2, deferrals := 1, block := 60, mqId := 9 }

/-- Every message of the cast has been seen. -/
def seenAll : State :=
  scened fun c => { c with seen := [CastKind.announce, .ready, .notReady, .go, .defer, .abort].map fun k => (3, 7, k, 60) }

/-- All four lanes of role 2 in service. -/
def lanesUp (s : State) : State :=
  let l : LaneSt := { LaneSt.reset with state := .up, cfg := { LaneSt.reset.cfg with role := 2 }, agreed := true }
  s.onRed fun r => { r with lanes := Vector.replicate 4 l }

def inPower (k : Fin 5) (s : State) : State := s.onPower fun p => { p with state := k }

def imgReq (verify : Bool) (step : Nat) : ImgReq :=
  { verify := verify, source := 0, addr := 0, step := step, image := none, boot := false, placed := none }

/-- A header that passes the first checks, in boot flash. -/
def header : List Byte :=
  imgMagic ++ [1, 0] ++ [0, 0] ++ leBytes 4 128 ++ leBytes 4 128 ++ [1] ++ List.replicate 111 0

def checked (verify : Bool) (step : Nat) : ImgReq := { imgReq verify step with copy := header }

def checking (verify : Bool) (step : Nat) : State :=
  { inPower 3 run with flash := { run.flash with images := #v[header, [], []] }
                       img := { run.img with req := some (if step = 1 ∨ step = 6 then imgReq verify step else checked verify step) } }

def plan (e : Fin 24) : Plan :=
  { sites := [⟨16, e, none⟩, ⟨80, e, none⟩, ⟨96, e, none⟩]
    homes := [⟨0, .shared, 3, 0, 0⟩, ⟨1, .shared, 3, 64, 0⟩, ⟨2, .shared, 3, 128, 0⟩], shed := [] }

def pendingPlan : Pending := Pending.of (plan 1) .load [] false false []

def loadReq : ImgReq := { imgReq false 12 with image := some image, placed := some true }

def placedLoad : State :=
  { inPower 3 run with
    img := { State.reset.img with req := some loadReq }
    placer := { State.reset.placer with pending := some pendingPlan, state := .building, trigger := some .load } }

def placing (f : Placer → Placer) : State := { homed with placer := f homed.placer }

/-- Every engine at 1 GHz and every bank ON. -/
def banksOn (s : State) : State :=
  { engines (fun g => { g with actual := 40 }) s with xbar := { s.xbar with bank := Vector.replicate 256 .on } }

def building : State :=
  banksOn (placing fun p => { p with state := .building, trigger := some .host, current := some (plan 0) })

def copying (mark : Nat) : State :=
  { run with placer := { run.placer with slots := upd run.placer.slots 5 fun c =>
      { c with kind := 1, region := 0, mark := mark, old := ⟨2, .shared, 3, 0, 100, 5⟩, new := ⟨2, .shared, 4, 0, 100, 5⟩ } } }

def pool0 : PoolHome := { engine := 0, unit := 9, base := 0, pages := 64 }

/-- The copy goes to DRAM, and a page of it is in engine 0's staging pool. -/
def copyingPaged : State :=
  { copying 1 with placer := { (copying 1).placer with
      current := some { plan 0 with pools := [pool0] }, pages := [⟨0, 0, 0, false, 3⟩]
      slots := upd (copying 1).placer.slots 5 fun c => { c with new := ⟨2, .dram, 0, 0, 100, 5⟩ } } }

/-- Engine 0 waits for a page of region 2, whose DRAM is ready or not. -/
def pageFault (ready : Bool) : State :=
  { parkedOn 2 with
    drams := if ready then upd run.drams 0 fun d => { d with state := .ready } else run.drams
    placer := { (parkedOn 2).placer with current := some { plan 0 with pools := [pool0] }, table :=
      [(2, { state := 4, kind := .dram, unit := 0, base := 0, size := 4096, slot := 0 })] } }

/-! ## Ports, streams, lanes, channels -/

/-- Port 5 present in domain 0 with 8 slots of 32 bits. -/
def sap5 (f : Sap → Sap) : State :=
  run.onSap 5 fun x => f { x with present := true, cfg := { x.cfg with slots := 8, slotWidth := 32, domain := 0 } }

def sapCfg (format : Fin 3) : SapRec :=
  { (run.sap 5).cfg with format := format, slots := 8, slotWidth := 32, dataWidth := 24, fsDelay := true }

/-- A running slave that has taken sample 100. -/
def slave (f : Sap → Sap) : State :=
  sap5 fun x => f { x with cfg := { x.cfg with master := false }, state := .running, lastSample := some 100, lastStart := some 17 }

/-- The frame of sample k + 1 with a phase in 10^-12 of a period. -/
def sapFrame (k : Nat) (phase : Int) (period : Nat) : SapFrame :=
  { startPs := ((((k : Int) + 1) * 1000000000000 + phase) / 96000).toNat, bits := 256, periodPs := period, lines := [] }

def rxRec : RxRec :=
  { format := 1, domain := 0, channels := 2, samples := 6, pt := 97, enabled := true, rxDelay := 24, tsOffset := 0,
    legA := ⟨0xE0000107, 5004, 1, 0x0A000001, 0⟩, legB := some ⟨0x0A0000FF, 5006, 2, 0, 0⟩ }

def txRec : TxRec :=
  { format := 1, domain := 0, channels := 2, samples := 6, pt := 97, enabled := true, ttl := 1, dscp := 34, tsOffset := 0,
    ssrc := 5, seqOffset := 0, legA := ⟨0xE0000108, 5004, 5004, 1, []⟩, legB := none }

/-- Every Ethernet port up, stream 9 enabled on ports 1 and 2, timebase 0 fed by the PTP of port 1. -/
def netted (fe : Eth → Eth) (fs : Srx → Srx) : State :=
  let s := (List.finRange 4).foldl (fun s n => s.onEth n fun e =>
    fe { e with present := true, linkUp := true, cfg := { e.cfg with mode := 2, ptpEn := true, ip := 0x0A0000FF } }) run
  (s.onSrx 9 fun x => fs { x with cfg := some rxRec, enable := true, enableReg := true }).onTb 0 fun t =>
    { t with source := 1, index := 1, sourceValid := true, state := .locked, blk := 1000 }

def ptpMsg (type : BitVec 4) : PtpMsg :=
  { version := 2, majorSdo := 0, msgType := type, domain := 0, lengthOk := true, twoStep := false, seqId := 7, source := 77,
    origin := 1000000, rxOrTx := 1000500, corrNs := 13, gmId := 99, logPeriod := 0, sent := false }

def ptpEth (st : Fin 7) (e : Eth) : Eth :=
  { e with ptpState := st, parentSrc := 77, syncWait := some (7, 1, 2), delayWait := some (7, 100),
           pdelayWait := some (7, 2, -5, 3), lastSync := some (1, 2) }

/-- The same port under profile 3. -/
def p2pEth (st : Fin 7) (e : Eth) : Eth := let x := ptpEth st e; { x with cfg := { x.cfg with profile := 3 } }

def packet : RtpPkt :=
  { destIp := 0xE0000107, destUdp := 5004, srcIp := 0x0A000001, version := 2, pt := 97, seq := 100, ts := 8002,
    payload := List.replicate 36 0x11, sinceNs := 1000 }

def linkRec (role : Fin 7) : LinkRec := { role := role, timeXfer := true, domain := 0, rxCh := 2, txCh := 1, asym := 1777 }

def laneImage (role : Fin 7) : Image :=
  { image with nodes := [{ src with bodyA := 1 }, proc, sum], ports := [{ unit := 2, body := .link (linkRec role) }],
               mirrored := true, clusterSize := 4, clusterPos := 1 }

/-- Lane 2 of a role; timebase 0 takes it as its source. -/
def laned (role : Fin 7) (f : LaneSt → LaneSt) (g : Red → Red) : State :=
  let s : State := { run with img := { run.img with loaded := some (laneImage role) }, ao := { run.ao with now := 1000000000000 } }
  ((s.onLane 2 fun x => f { x with cfg := linkRec role, gap := ⟨0, 8, [100, 200]⟩ }).onRed g).onTb 0 fun t =>
    { t with source := 5, index := 2, sourceValid := true, state := .locked, blk := 1000, ivl := 900 }

def inState (st : LaneState) (x : LaneSt) : LaneSt := { x with state := st }

def hello (role : Fin 7) : HelloMsg := { role := role, position := 2, size := 4, rank := true, buildId := 0xB11D, serial := 3 }

def window (n : Nat) : List (BitVec 16 × LinkOut) := (List.range n).map fun k => (BitVec.ofNat 16 (k + 5), .time)

def paired (st : PairState) (f : Red → Red) : State :=
  laned 4 (inState .up) fun r => f { r with pair := st, digests := [(5, 0xAA), (6, 0xBB)], healths := [(5, 1), (6, 0)] }

def breath (b : BitVec 48) (d h : Word) : BreathMsg :=
  { block := b, rank := true, pairState := 4, lost := false, transmitting := true, buildId := 5, digest := d, health := h,
    paramEpoch := 4, lastBlock := 6 }

def amp3 (f : Amp → Amp) : State := run.onAmp 3 fun a => f { a with present := true, width := 1024 }

/-- A channel at half its period, with dead times of 20. -/
def driving (on : Bool) : Amp := { run.amp 3 with en := on, width := 1024, dead := 20 }

def diagPoints (k z : Nat) : List DiagPoint := (List.range k).map fun i => ⟨z + i, -700 + 100 * i, 5⟩

/-! ## Crossbar, power, records -/

/-- Every bank ON, with bytes in bank 3. -/
def xbared (f : Xbar → Xbar) : State :=
  { run with mem := Mem.putN [] 0x90000 [1, 2, 3, 4, 0xFF, 0xFF, 0xFF, 0x7F]
             xbar := f { run.xbar with bank := Vector.replicate 256 .on } }

def xout (f : XOut → XOut) : XOut :=
  f { master := 30, id := 3, addr := 0x90000, target := some 0, write := false, beats := 0, resp := some (.okay [7]) }
def owaiting (f : XOut → XOut) : State := xbared fun x => { x with outstanding := [xout f] }

def queuedReq (m : Fin 37) (lost : Nat) (op : BankOp) (since : Nat) : BankReq := ⟨m, 3, 0x90000, op, since, lost⟩

/-- A request of master 30 and a write of master 29 wait at bank 3; master 24 is fenced. -/
def queued (lost : Nat) (op : BankOp) (since : Nat) : State :=
  xbared fun x => { x with fenced := 0x1000000, bankQ := [queuedReq 30 lost op since,
    queuedReq 29 7 (.write [some 5, some 6, some 7, some 8]) 9] }

def windowed (f : Xbar → Xbar) : State :=
  (xbared f).onLane 2 fun x => { x with state := .up, cfg := linkRec 1, peerPos := 1 }

def wout : XOut :=
  { master := 31, id := 3, addr := 0x88000000, target := some 20, write := false, beats := 0, resp := none, lane := some 2 }

def starting (f : Start → Start) (g : Power → Power) : State :=
  run.onPower fun p => g { p with state := 3, start := f { p.start with result := 0 } }

def stepEnd (ok : Bool) : StepEnd := ⟨ok, 5, [], [], []⟩

def aged (f : PatIsland → PatIsland) : State :=
  cfgd (fun c => { c with floorPs := 10, warnPs := 20 })
    (engines (fun g => { g with actual := 30 }) { homed with patina := Vector.replicate 59 (f PatIsland.reset) })

def event (c : BitVec 16) : EventRec :=
  { code := c, tb := 0, locked := false, startCount := 1, uptimeMs := 2, ns := 3, sec := 4, data := [1, 2] }

def boxed (c : BitVec 16) (ws : List SuppressWin) (l : LcState) : State :=
  inLc l (homed.onAo fun a => { a with bbQueue := [(event c, false), (event 5, true)], bbWins := ws })

def offered (f : Evt → Evt) : State :=
  (homed.onAo fun a => { a with now := 100000 }).onEvt fun v =>
    f { v with offered := [event 0x2001, event 3], msixPend := 0x30 }

def routeOvr (w : Word) (v : Evt) : Evt := { v with ovr := upd v.ovr 3 fun _ => w }

/-! ## Host interface -/

def text (s : String) : List Byte := s.toList.map fun c => BitVec.ofNat 8 c.toNat

/-- An image with symbols and two parameters, a LIMIT node and host bytes. -/
def hosted : State :=
  let syms : List SymRec := [⟨text "GAIN", paddrOf 16 1, 0⟩, ⟨text "DET", paddrOf 96 0, 0⟩, ⟨text "LIM", paddrOf 112 0, 0⟩]
  { homed with
    img := { homed.img with loaded := some { image with symbols := syms, nodes := image.nodes ++ [node 112 .limit [(1, 0)] 0] } }
    scene := { homed.scene with params := [{ paramSt .steady with value := 7 }] }
    fabric := { homed.fabric with limits := [LimitSt.fresh 112] }
    procs := [{ procSt 96 with silent := true }]
    hostMem := (List.range 64).map fun i => ⟨0x1000 + i, BitVec.ofNat 8 (i + 1)⟩ }

/-- The ring holds one command, in its last slot, with an extension in its first. -/
def ringed (op : Nat) (a0 a1 : Word) (data : List Byte) (flags : Byte) (s : State) : State :=
  let slot := [BitVec.ofNat 8 op, 1, 0, flags] ++ leBytes 4 0 ++ leBytes 4 a0.toNat ++ leBytes 4 a1.toNat ++ data ++
    List.replicate (48 - data.length) 0
  s.onHost fun h => { h with
    enable := true, head := 255, tail := 257
    ring := (Mem.putN [] (64 * 255) slot).putN 0 ([0xFF, 1] ++ List.replicate 14 0 ++ text "DET") }

/-- Host memory holds a DRAM configuration block, its CRC as zlib computes it. -/
def dramOffered : State :=
  let block : List Byte := [0x44, 0x52, 0x41, 0x4D, 0, 0, 0, 1] ++ List.replicate 20 0 ++ leBytes 4 0xBF1A628E
  { hosted with hostMem := block.zipIdx.map fun p => ⟨0x2000 + p.2, p.1⟩ }

def callOf (s : State) : MbCall := ((s.mbCall .ring).map (·.2)).getD ⟨0, 0, [], []⟩

def bar4 : State := banksOn (homed.onHost fun h => { h with wins := upd h.wins 5 fun _ => 0x80000001 })

def spiFrame (op len : Byte) (addr : Word) (pl : List Byte) (wrong : BitVec 16) : SpiFrame :=
  let f : SpiFrame := ⟨op, len, addr, pl, 0⟩
  { f with crc := BitVec.ofNat 16 (crc16 (SpiFrame.bytes f)) + wrong }

/-- Start step `k`, with `n` events waiting for the black box and `h` held. -/
def heldAt (k : Fin 10) (n h : Nat) : State :=
  (starting (fun x => { x with step := k }) id).onAo fun a =>
    { a with bbQueue := List.replicate n (event 1, false), held := List.replicate h (event 1) }

/-- The state a step goes on in. -/
def nextOf : Host.Outcome State Fault Refusal → State
  | .next t => t
  | .fault _ => State.reset
  | .refused _ => State.reset

end Sys2Proof.Tests
end

