-- ==== Sys2Proof/Tests/Slice0.lean ====
section
/-! SUPPORT. Tests of the model. What each expects comes from the rule or the worked example of spec/ that its comment
names, or from a calculation by hand from it. -/

namespace Sys2Proof.Tests
open Sys2Proof.Machine

set_option maxRecDepth 20000

/-! ## Well-formed instruction words: one that passes, and one ill-formed term for each check -/

def word (c : ComputeOp) (m0 : MoveOp := .nop) (m1 : MoveOp := .nop) : Insn := { c := c, m0 := m0, m1 := m1 }

theorem test_wf_worked_example : (word .nop (.lda (.b 6) 62 1) (.ldi (.l 6) 1 80)).wf 8 0 = true := by decide

/-- R184, R202: modes 0 and 3 carry no immediate. -/
theorem test_wf_ptr_immediate : (word .nop (.vld 0 ⟨0, .ptr, 1⟩)).wf 8 0 = false := by decide
theorem test_wf_postmod_immediate : (word .nop (.ld .sr ⟨0, .postMod, -1⟩)).wf 8 0 = false := by decide

/-- R185, R192: the immediates' fields are 7, 5 and 3 bits wide. -/
theorem test_wf_vld_range :
    (word .nop (.vld 0 ⟨0, .ofs, 63⟩)).wf 8 0 = true ∧ (word .nop (.vld 0 ⟨0, .ofs, 64⟩)).wf 8 0 = false ∧
    (word .nop (.vld 0 ⟨0, .postImm, -65⟩)).wf 8 0 = false := by decide
theorem test_wf_ld_range :
    (word .nop (.st .sr ⟨0, .ofs, 15⟩)).wf 8 0 = true ∧ (word .nop (.st .sr ⟨0, .ofs, 16⟩)).wf 8 0 = false := by decide
theorem test_wf_vldl_range :
    (word .nop (.vldl 0 15 ⟨0, .ofs, -4⟩)).wf 8 0 = true ∧ (word .nop (.vstl 0 15 ⟨0, .ofs, 4⟩)).wf 8 0 = false := by decide
theorem test_wf_mac_range : (word (.mac 0 0 (.mem ⟨0, .postImm, 16⟩))).wf 8 0 = false := by decide

/-- R187: a target lies in the program, and a loop ends after its start. -/
theorem test_wf_branch_target : (word (.br 7)).wf 8 0 = true ∧ (word (.br 8)).wf 8 0 = false := by decide
theorem test_wf_conditional_target : (word (.bc .any 8)).wf 8 0 = false ∧ (word (.call 8)).wf 8 0 = false := by decide
theorem test_wf_loop_target : (word (.loop 0 4)).wf 8 3 = true ∧ (word (.loop 0 4)).wf 8 4 = false := by decide

/-- R192: ldi and lda name P, M, L and B registers; immediates of ldi, adv and mova. -/
theorem test_wf_ldi_register : (word .nop (.ldi .sr 0 0)).wf 8 0 = false ∧ (word .nop (.lda (.lc 0) 0 0)).wf 8 0 = false := by
  decide
theorem test_wf_ldi_range : (word .nop (.ldi (.p 0) 7 (-128))).wf 8 0 = true ∧ (word .nop (.ldi (.p 0) 0 128)).wf 8 0 = false := by
  decide
theorem test_wf_adv_range : (word .nop (.adv 0 (.imm (-2048)))).wf 8 0 = true ∧ (word .nop (.adv 0 (.imm 2048))).wf 8 0 = false := by
  decide
theorem test_wf_mova_range :
    (word .nop (.mova 0 0 (.imm (-17)))).wf 8 0 = false ∧ (word .nop (.mova 0 0 (.imm 64))).wf 8 0 = false := by decide

/-- R200, rule by rule: a common destination, a written pointer that another slot post-modifies, a modifier, length or base
that another slot addresses through, SR beside a compare, LC beside a control opcode. -/
theorem test_pair_destinations :
    (word (.vadd 3 0 1) (.vld 3 ⟨0, .ptr, 0⟩)).wf 8 0 = false ∧
    (word (.clr 2) .nop (.mvta 2 0 0)).wf 8 0 = false ∧
    (word .nop (.ld (.m 1) ⟨0, .ptr, 0⟩) (.mov (.m 1) .sr)).wf 8 0 = false := by decide
theorem test_pair_post_modify :
    (word .nop (.vld 0 ⟨1, .postImm, 1⟩) (.mov (.p 1) .sr)).wf 8 0 = false ∧
    (word .nop (.vld 0 ⟨1, .ofs, 1⟩) (.mov (.p 1) .sr)).wf 8 0 = true := by decide
theorem test_pair_circular :
    (word (.mul 0 0 (.mem ⟨2, .ptr, 0⟩)) (.mov (.l 2) .sr)).wf 8 0 = false ∧
    (word .nop (.adv 2 .mod) (.ldi (.m 2) 0 1)).wf 8 0 = false := by decide
theorem test_pair_compare : (word (.vcmplt 0 1) (.mov .sr (.p 0))).wf 8 0 = false := by decide
theorem test_pair_control :
    (word (.loop 0 4) (.ldc 1 5)).wf 8 0 = false ∧ (word .done (.ldc 1 5)).wf 8 0 = true := by decide

/-! ## Words written out from the encoding tables -/

/-- The first word of the spec's worked encoding example, field by field (chapter 05). -/
theorem test_worked_word :
    (0b000000 * 2 ^ 58 + 0b1010_11110_111110_00001 * 2 ^ 20 + 0b1001_10110_001_01010000 : Nat) = 0x000000AF7C19B150 ∧
    readWord 0x000000AF7C19B150 = some (word .nop (.lda (.b 6) 62 1) (.ldi (.l 6) 1 80)) := by decide

/-- The eighth instruction's compute slot, format M: mul a0, v2, c[p6]+=64 (chapter 05, worked example). -/
theorem test_worked_mul :
    readCompute 0b001000_000_0010_1_110_10_00001 = some (.mul 0 2 (.mem ⟨6, .postImm, 1⟩)) := by decide

/-! ## Worked examples of the spec -/

/-- Chapter 06, a peak at the end of a block: kq, the gains of samples 0 to 5, the output of sample 5, the gain reduction. -/
def peak : Frame := [0, 0, 0, 0, 0, 16777216, 4000000, 4000000]
/-- kq is 447,345.83 before rounding: 447,346 by the rne of R220, where the worked example prints 447,345 (assumption 9). -/
theorem test_limit_release : limitKq 96000 50 = 447346 := by decide
theorem test_limit_gains :
    (limitGains 2147483648 447346 (peak.map (limitR 8292584)) 8 0 2147483648).take 6 =
      [1966478166, 1785472683, 1604467200, 1423461718, 1242456235, 1061450752] := by decide
theorem test_limit_output : nth (limitBlock 8292584 447346 peak (LimitSt.fresh 64)).1 5 0 = 8292584 := by decide
theorem test_limit_reduction : gainReduction 1061450752 = 612 := by decide

/-- Chapter 07, a third source in mid-fade (R244): at c = 720 of 960, A gives way to C and c becomes 240. -/
theorem test_third_source :
    ({ procSt 16 with fade := some ⟨720, 960, true, 0, 1⟩ }.fadeTo 2 960 true).fade = some ⟨240, 960, true, 1, 2⟩ := by decide

/-- Chapter 14, a compression driver behind its capacitor (R483, R484): class CAP_COUPLED, 10,000 nF. -/
theorem test_capacitor_class :
    classOf 1000 200000 [⟨795800, -896, 795770⟩, ⟨79806, -857, 79580⟩, ⟨17009, -693, 15920⟩, ⟨6792, -279, 3180⟩,
      ⟨6053, -76, 800⟩] = 4 ∧ capNf 20 795770 = some 10000 := by decide
/-- Chapter 14, a shorted speaker wire: every point below short_mohm is SHORT. -/
theorem test_shorted_wire : classOf 1000 200000 [⟨150, 0, 0⟩, ⟨150, 0, 0⟩, ⟨160, 0, 0⟩] = 2 := by decide

/-- Chapter 05: 320 = 80 × 4 and 128,000 = 125 × 4^5 as ldi forms them (R192). -/
theorem test_ldi_constants : (80 * 4 ^ 1 : Int) = 320 ∧ (125 * 4 ^ 5 : Int) = 128000 := by decide

/-! ## Single commands from reset -/

/-- A command is taken from the front, and the rest stays. -/
theorem test_step_takes_front :
    ((nextOf (step { run with pending := [.apllReacquire 0, .sysRstCtlReset 0] })).pending) = [.sysRstCtlReset 0] := by decide

end Sys2Proof.Tests
end

