-- ==== Sys2Proof/Tests/Witnesses.lean ====
section
/-! SUPPORT. No claim is empty: for every clause of a claim that has hypotheses, one concrete state and operands that meet
all of them together. `witness_<Claim>` lists them in the order of the claim's clauses. -/

namespace Sys2Proof.Tests
open Sys2Proof.Machine

set_option maxRecDepth 50000

theorem witness_EngineSaturatingArithmetic :
    ∃ (s : State) (e : Fin 24) (n : NodeRec),
    CanIssue s e n :=
  ⟨work bank, 0, proc, by unfold CanIssue; decide⟩

theorem witness_EngineLaneOperations :
    ∃ (s : State) (e : Fin 24) (n : NodeRec),
    CanIssue s e n :=
  ⟨work bank, 0, proc, by unfold CanIssue; decide⟩

theorem witness_EngineCompares :
    ∃ (s : State) (e : Fin 24) (n : NodeRec),
    CanIssue s e n :=
  ⟨work bank, 0, proc, by unfold CanIssue; decide⟩

theorem witness_EngineAccumulators :
    ∃ (s : State) (e : Fin 24) (n : NodeRec),
    CanIssue s e n :=
  ⟨work bank, 0, proc, by unfold CanIssue; decide⟩

theorem witness_EngineRegisterMoves :
    ∃ (s : State) (e : Fin 24) (n : NodeRec),
    CanIssue s e n :=
  ⟨work flightBank, 0, proc, by unfold CanIssue; decide⟩

theorem witness_EngineScaledMove :
    ∃ (s : State) (e : Fin 24) (n : NodeRec),
    CanIssue s e n :=
  ⟨work bank, 0, proc, by unfold CanIssue; decide⟩

theorem witness_EngineControl :
    (∃ (s : State) (e : Fin 24) (n : NodeRec),
     let c := readCtx s e n
     CanIssue s e n ∧ c.transfer = none ∧ (∀ l ∈ c.loops, c.pc ≠ l.last ∧ c.pc + 1 ≠ l.last) ∧ c.stack.length < 8) ∧
    (∃ (s : State) (e : Fin 24) (n : NodeRec),
     let c := readCtx s e n
     ∃ r rest,
     CanIssue s e n ∧ c.transfer = none ∧ (∀ l ∈ c.loops, c.pc ≠ l.last ∧ c.pc + 1 ≠ l.last) ∧ c.stack = r :: rest) ∧
    (∃ (s : State) (e : Fin 24) (n : NodeRec),
     let c := readCtx s e n
     ∃ (k : Fin 2),
     CanIssue s e n ∧ c.transfer = none ∧ (∀ l ∈ c.loops, c.pc ≠ l.last ∧ c.pc + 1 ≠ l.last) ∧ c.loops.length = k.val) :=
  ⟨⟨work { bank with stack := [9, 2] }, 0, proc, by dsimp only; unfold CanIssue; decide⟩,
   ⟨work { bank with stack := [9, 2] }, 0, proc, 9, [2], by dsimp only; unfold CanIssue; decide⟩,
   ⟨work { bank with stack := [9, 2] }, 0, proc, 0, by dsimp only; unfold CanIssue; decide⟩⟩

theorem witness_EngineSuppressedControl :
    ∃ (s : State) (e : Fin 24) (n : NodeRec),
    let c := readCtx s e n
    CanIssue s e n ∧ (c.transfer.isSome = true ∨ ∃ l ∈ c.loops, c.pc = l.last ∨ c.pc + 1 = l.last) :=
  ⟨work flightBank, 0, proc, by dsimp only; unfold CanIssue; decide⟩

theorem witness_LoopReturn :
    ∃ (s : State) (e : Fin 24) (l : LoopSt) (outer : List LoopSt),
    (s.engine e).fg.atEnd = true ∧ (s.engine e).fg.loops = l :: outer ∧
    (∀ o ∈ outer, o.first ≤ l.first ∧ l.last ≤ o.last) :=
  ⟨work { bank with atEnd := true, loops := [⟨1, 1, 3⟩, ⟨0, 1, 3⟩] }, 0, ⟨1, 1, 3⟩, [⟨0, 1, 3⟩], by decide⟩

theorem witness_BlockWorkStart :
    ∃ (s : State) (e : Fin 24) (n : NodeRec) (p : ProcSt) (w : Nat),
    (s.engine e).idle = true ∧ s.nextReady e = some (n, p, w) ∧ n.type = .proc :=
  ⟨readyProc, 0, proc, procSt 16, 0, by decide⟩

theorem witness_EngineDone :
    (∃ (s : State) (e : Fin 24) (n : NodeRec) (p : ProcSt) (w : Nat),
     let c := readCtx s e n
     CanIssue s e n ∧ (s.engine e).fg.flight = [] ∧ (s.engine e).fg.stale = false ∧ s.proc? n.id e = some p ∧ workIdx (s.ivl n) n = some w ∧
     p.misses = 0 ∧ p.rampIn = 0 ∧ s.released n p = true ∧ c.cycles + 6 ≤ ((s.progOf n).map (·.cycles)).getD 0 ∧
     (s.engine e).bg.node = none) ∧
    (∃ (s : State) (e : Fin 24) (n : NodeRec) (p : ProcSt) (w : Nat),
     let c := readCtx s e n
     CanIssue s e n ∧ (s.engine e).fg.flight = [] ∧ (s.engine e).fg.stale = false ∧ s.proc? n.id e = some p ∧ workIdx (s.ivl n) n = some w ∧
     p.misses = 0 ∧ p.rampIn = 0 ∧ s.released n p = true ∧ c.cycles + 6 ≤ ((s.progOf n).map (·.cycles)).getD 0 ∧
     (s.engine e).bg.node ≠ none ∧ (s.engine e).parked = none) :=
  ⟨⟨workNow bank, 0, proc, procSt 16, 0, by dsimp only; unfold CanIssue; decide⟩,
   ⟨(workNow bank).onEngine 0 fun g => { g with bg := bank }, 0, proc, procSt 16, 0,
    by dsimp only; unfold CanIssue; decide⟩⟩

theorem witness_EngineAddressModes :
    ∃ (words k : Nat),
    k < words :=
  ⟨16, 15, by decide⟩

theorem witness_EngineLoads :
    (∃ (s : State) (e : Fin 24) (n : NodeRec) (a : Addr),
     let u := readState s e n
     let c := readCtx s e n
     ∃ ls,
     CanIssue s e n ∧ u.xbar.badUe = [] ∧ u.xbar.badCe = [] ∧
     u.locs e n { addrs := (accessOf c a 64 16).1, vec := true, store := false, ld := false } = .ok ls) ∧
    (∃ (s : State) (e : Fin 24) (n : NodeRec) (a : Addr),
     let u := readState s e n
     let c := readCtx s e n
     ∃ x,
     CanIssue s e n ∧ u.xbar.badUe = [] ∧ u.xbar.badCe = [] ∧
     u.locs e n { addrs := (accessOf c a 4 1).1, vec := false, store := false, ld := false } = .ok [x]) ∧
    (∃ (s : State) (e : Fin 24) (n : NodeRec) (a : Addr),
     let u := readState s e n
     let c := readCtx s e n
     ∃ x,
     CanIssue s e n ∧ u.xbar.badUe = [] ∧ u.xbar.badCe = [] ∧ (∀ op rd wr, x ≠ .atomic op rd wr) ∧
     u.locs e n { addrs := (accessOf c a 4 1).1, vec := false, store := false, ld := true } = .ok [x]) :=
  ⟨⟨work bank, 0, proc, ad 0 .ptr 0, reached (work bank) (ad 0 .ptr 0) 16 false false,
    by unfold CanIssue; decide⟩,
   ⟨work bank, 0, proc, ad 0 .ptr 0, (reached (work bank) (ad 0 .ptr 0) 1 false false).headD (.input 0),
    by unfold CanIssue; decide⟩,
   ⟨work bank, 0, proc, ad 0 .ptr 0, .mem 0x60000440 [0x60000440] false,
    by unfold CanIssue; decide, by decide, by decide, fun _ _ _ => Loc.noConfusion, by decide⟩⟩

theorem witness_EngineMemoryOperand :
    ∃ (s : State) (e : Fin 24) (n : NodeRec) (a : Addr) (ls : List Loc),
    let u := readState s e n
    let c := readCtx s e n
    CanIssue s e n ∧ u.xbar.badUe = [] ∧ u.xbar.badCe = [] ∧
    u.locs e n { addrs := (accessOf c a 64 16).1, vec := true, store := false, ld := false } = .ok ls :=
  ⟨work bank, 0, proc, ad 1 .postImm 2, reached (work bank) (ad 1 .postImm 2) 16 false false,
    by dsimp only; unfold CanIssue; decide⟩

theorem witness_EngineAtomicLoad :
    ∃ (s : State) (e : Fin 24) (n : NodeRec) (a : Addr) (op rd : Nat) (wr : List Nat),
    let u := readState s e n
    let c := readCtx s e n
    CanIssue s e n ∧ u.xbar.badUe = [] ∧ (u.engine e).wbuf = [] ∧ (u.engine e).wbufWait = [] ∧ (op = 1 ∨ op = 2 ∨ op = 3) ∧
    u.locs e n { addrs := (accessOf c a 4 1).1, vec := false, store := false, ld := true } = .ok [.atomic op rd wr] :=
  ⟨work (at0 0x82800040), 0, proc, ad 0 .ptr 0, 1, 0x90040, [0x90040], by dsimp only; unfold CanIssue; decide⟩

theorem witness_EngineStores :
    (∃ (s : State) (e : Fin 24) (n : NodeRec) (v : Fin 16) (a : Addr),
     let u := readState s e n
     let c := readCtx s e n
     ∃ ls a0,
     CanIssue s e n ∧
     u.locs e n { addrs := (accessOf c a 64 16).1, vec := true, store := true, ld := false } = .ok ls ∧
     (accessOf c a 64 16).1.head? = some a0 ∧ a0.toNat % 4096 ≤ 4032 ∧ (c.v.get v).length = 16 ∧
     (∀ k, k < 16 → ((accessOf c a 64 16).1[k]?.map fun x => x.toNat / 4 * 4) = some (a0.toNat / 4 * 4 + 4 * k))) ∧
    (∃ (s : State) (e : Fin 24) (n : NodeRec) (a : Addr),
     let u := readState s e n
     let c := readCtx s e n
     ∃ x a0,
     CanIssue s e n ∧
     u.locs e n { addrs := (accessOf c a 4 1).1, vec := false, store := true, ld := false } = .ok [x] ∧
     (accessOf c a 4 1).1 = [a0]) :=
  ⟨⟨work bank, 0, proc, 0, ad 0 .ptr 0, reached (work bank) (ad 0 .ptr 0) 16 true false, 0x80000040,
    by unfold CanIssue; decide⟩,
   ⟨work bank, 0, proc, ad 0 .ptr 0, (reached (work bank) (ad 0 .ptr 0) 1 true false).headD (.input 0), 0x80000040,
    by unfold CanIssue; decide⟩⟩

theorem witness_EngineStoreLands :
    (∃ (s : State) (e : Fin 24) (n : NodeRec) (a : Word) (bs : List Byte) (rd x : Nat),
     CanIssue s e n ∧ (s.engine e).fg.flight = [{ left := 1, dest := .store a bs }] ∧ s.mem.wf = true ∧
     s.red.seedSrc ≠ 3 ∧ s.translate e n a true false = .ok (.mem rd [x] false)) ∧
    (∃ (s : State) (e : Fin 24) (n : NodeRec) (a : Word) (bs : List Byte) (rd x : Nat),
     CanIssue s e n ∧ (s.engine e).fg.flight = [{ left := 1, dest := .store a bs }] ∧ s.mem.wf = true ∧
     s.red.seedSrc ≠ 3 ∧ s.translate e n a true false = .ok (.mem rd [x] true) ∧ (s.engine e).wbuf.length < 8 ∧
     (s.engine e).wbufWait = []) :=
  ⟨⟨inFlight 0x80000040 [1, 2, 3, 4], 0, proc, 0x80000040, [1, 2, 3, 4], 0x60000440, 0x60000440,
    by unfold CanIssue; decide⟩,
   ⟨inFlight 0x82000040 [1, 2, 3, 4], 0, proc, 0x82000040, [1, 2, 3, 4], 0x90040, 0x90040,
    by unfold CanIssue; decide⟩⟩

theorem witness_EngineSharedMemory :
    (∃ (s : State) (e : Fin 24) (a : Nat) (bs : List Byte) (rest : List (Nat × List Byte)),
     let g := s.engine e
     g.wbuf = (a, bs) :: rest ∧ s.mem.wf = true ∧ s.mirrorOf a = [] ∧ g.fg.ended = false ∧ g.bg.ended = false ∧
     g.bg.storeWait = false ∧ g.wbufWait = []) ∧
    (∃ (s : State) (e : Fin 24) (a : Nat) (bs : List Byte) (rest more : List (Nat × List Byte)) (q : Nat × List Byte),
     let g := s.engine e
     g.wbuf = (a, bs) :: rest ∧ s.mem.wf = true ∧ s.mirrorOf a = [] ∧ g.fg.ended = false ∧ g.bg.ended = false ∧
     g.bg.storeWait = false ∧ g.wbufWait = q :: more) ∧
    (∃ (s : State) (e : Fin 24),
     let g := s.engine e
     g.fg.readWait = true ∧ g.bg.readWait = false ∧ g.fg.ended = false ∧ g.bg.ended = false) ∧
    (∃ (s : State) (e : Fin 24),
     let g := s.engine e
     g.fg.readWait = true ∧ g.bg.readWait = false ∧ g.fg.storeWait = false ∧ g.fg.ended = true) :=
  ⟨⟨writing, 0, 0x90040, [1, 2, 3, 4], [(0x90044, [5])], by dsimp only; decide⟩,
   ⟨writing.onEngine 0 fun g => { g with wbufWait := [(0x90048, [6])], fg := { g.fg with storeWait := true } }, 0, 0x90040,
    [1, 2, 3, 4], [(0x90044, [5])], [], (0x90048, [6]), by dsimp only; decide⟩,
   ⟨writing, 0, by dsimp only; decide⟩,
   ⟨writing.onEngine 0 fun g => { g with fg := { g.fg with ended := true } }, 0, by dsimp only; decide⟩⟩


theorem witness_EngineFaults :
    (∃ (s : State) (e : Fin 24) (n : NodeRec) (a : Addr) (win ofs : Nat),
     let c := readCtx s e n
     let access : Access := { addrs := (accessOf c a 64 16).1, vec := true, store := false, ld := false }
     CanIssue s e n ∧ (readState s e n).locs e n access = .error (.addr win ofs)) ∧
    (∃ (s : State) (e : Fin 24) (n : NodeRec) (a : Addr) (win ofs r : Nat),
     let c := readCtx s e n
     let access : Access := { addrs := (accessOf c a 64 16).1, vec := true, store := false, ld := false }
     CanIssue s e n ∧ (readState s e n).locs e n access = .error (.region win r ofs) ∧ (s.engine e).parked = none ∧
     (s.engine e).bg.node = none) :=
  ⟨⟨work (at0 0x80001000), 0, proc, ad 0 .ptr 0, 0, 0x1000, by dsimp only; unfold CanIssue; decide⟩,
   ⟨work (at0 0x84000040), 0, proc, ad 0 .ptr 0, 2, 0x40, 2, by dsimp only; unfold CanIssue; decide⟩⟩

theorem witness_EngineSlotsTogether :
    (∃ (s : State) (e : Fin 24) (n : NodeRec) (c : ComputeOp) (m0 m1 : MoveOp),
     CanIssue s e n ∧ c.addrs = [] ∧ m0.uses = [] ∧ m1.uses = [] ∧ c ≠ .done ∧ flowOf (readCtx s e n) c ≠ .stack) :=
  ⟨work bank, 0, proc, .vadd 1 2 3, .mov (.p 0) .sr, .vmov 4 5, by unfold CanIssue; decide, rfl, rfl, rfl,
   by decide, fun h => Machine.Flow.noConfusion (show Machine.Flow.fall = .stack from h)⟩

theorem witness_EngineStackFaults :
    (∃ (s : State) (e : Fin 24) (n : NodeRec),
     let c := readCtx s e n
     CanIssue s e n ∧ c.transfer = none ∧ (∀ l ∈ c.loops, c.pc ≠ l.last ∧ c.pc + 1 ≠ l.last) ∧ 8 ≤ c.stack.length) ∧
    (∃ (s : State) (e : Fin 24) (n : NodeRec),
     let c := readCtx s e n
     CanIssue s e n ∧ c.transfer = none ∧ (∀ l ∈ c.loops, c.pc ≠ l.last ∧ c.pc + 1 ≠ l.last) ∧ c.stack = []) ∧
    (∃ (s : State) (e : Fin 24) (n : NodeRec) (k : Fin 2),
     let c := readCtx s e n
     CanIssue s e n ∧ c.transfer = none ∧ (∀ l ∈ c.loops, c.pc ≠ l.last ∧ c.pc + 1 ≠ l.last) ∧ c.loops.length ≠ k.val) :=
  ⟨⟨work { bank with stack := List.range 8 }, 0, proc, by dsimp only; unfold CanIssue; decide⟩,
   ⟨work bank, 0, proc, by dsimp only; unfold CanIssue; decide⟩,
   ⟨work { bank with stack := List.range 8 }, 0, proc, 1, by dsimp only; unfold CanIssue; decide⟩⟩

theorem witness_EngineDebug :
    (∃ (s : State) (e : Fin 24),
     let permitted := (s.cfg.lcState = .develop ∨ s.cfg.lcState = .ret) ∧ (s.img.loaded.map (·.debug)) = some true
     permitted ∧ (s.engine e).halted = false) ∧
    (∃ (s : State),
     let permitted := (s.cfg.lcState = .develop ∨ s.cfg.lcState = .ret) ∧ (s.img.loaded.map (·.debug)) = some true
     ¬ permitted) ∧
    (∃ (s : State) (e : Fin 24),
     (s.engine e).fg.stale = false ∧ (s.engine e).bg.stale = false) ∧
    (∃ (s : State) (e : Fin 24),
     (s.engine e).fg.stale = true) ∧
    (∃ (s : State) (e : Fin 24) (n : NodeRec) (p : ProgRec) (x : BitVec 64) (i : Insn),
     (s.engine e).halted = true ∧ (s.engine e).free = true ∧ s.fgNode e = some n ∧ s.progOf n = some p ∧
     p.code[(s.engine e).fg.settle.pc]? = some x ∧ readWord x = some i) :=
  ⟨⟨inLc .develop (work bank), 0, by dsimp only; decide⟩,
   ⟨work bank, by dsimp only; decide⟩,
   ⟨haltedEng, 0, by decide⟩,
   ⟨haltedEng.onEngine 0 fun g => { g with fg := { g.fg with stale := true } }, 0, by decide⟩,
   ⟨haltedEng, 0, proc, prog, 0x4004400000000000, (readWord 0x4004400000000000).getD ⟨.nop, .nop, .nop⟩, by decide⟩⟩

theorem witness_BlockBoundaryCounts :
    ∃ (s : State) (tb : Fin 4) (r : DomainRec),
    s.domOfTb tb = some r ∧ 2 ≤ s.power.state.val ∧
    (∀ i ∈ (s.tb tb).staged, i.wait = 0 → i.item.isTime = false ∧ ∀ a b, i.item ≠ .tbSource a b) :=
  ⟨tb0 fun t => { t with blk := 0xFFFFFFFFFFFF }, 0, dom0,
    by decide, by decide, fun _ h => absurd h List.not_mem_nil⟩

theorem witness_TimebaseWrites :
    (∃ (s : State) (tb : Fin 4) (source : BitVec 3) (index : BitVec 5),
     s.sourceOk tb source.toNat index.toNat = true) ∧
    (∃ (s : State) (tb : Fin 4),
     let x := s.tb tb
     x.state = .refused ∧ x.follows = none) ∧
    (∃ (s : State) (tb : Fin 4),
     let x := s.tb tb
     x.state ≠ .refused) ∧
    (∃ (s : State) (tb : Fin 4),
     let x := s.tb tb
     x.source = 0) ∧
    (∃ (s : State) (tb : Fin 4),
     let x := s.tb tb
     x.source ≠ 0) :=
  ⟨⟨tb0 fun t => { t with state := .refused, source := 1 }, 0, 2, 1, by decide⟩,
   ⟨tb0 fun t => { t with state := .refused, source := 1 }, 0, by dsimp only; decide⟩,
   ⟨run, 0, by dsimp only; decide⟩,
   ⟨run, 0, by dsimp only; decide⟩,
   ⟨tb0 fun t => { t with state := .refused, source := 1 }, 0, by dsimp only; decide⟩⟩

theorem witness_TimebaseMeasurements :
    (∃ (s : State) (tb : Fin 4) (o : Int),
     let x := s.tb tb
     x.follows = none ∧ (x.source = 1 ∨ x.source = 5) ∧ x.state = .locked ∧ (x.jumpThr : Int) < |o| ∧
     x.outRun < 3) ∧
    (∃ (s : State) (tb : Fin 4) (o : Int),
     let x := s.tb tb
     x.follows = none ∧ (x.source = 1 ∨ x.source = 5) ∧ x.state = .locked ∧ (x.jumpThr : Int) < |o| ∧
     3 ≤ x.outRun) ∧
    (∃ (s : State) (tb : Fin 4) (o : Int),
     let x := s.tb tb
     x.follows = none ∧ (x.source = 1 ∨ x.source = 5) ∧ x.state = .locked ∧ |o| ≤ (x.jumpThr : Int)) ∧
    (∃ (s : State) (tb : Fin 4),
     let x := s.tb tb
     x.follows = none ∧ (x.source = 1 ∨ x.source = 5) ∧ x.state = .acquiring ∧ x.stepped = false) ∧
    (∃ (s : State) (tb : Fin 4) (o : Int),
     let x := s.tb tb
     x.follows = none ∧ (x.source = 1 ∨ x.source = 5) ∧ x.state = .acquiring ∧ x.stepped = true ∧ |o| ≤ 250 ∧
     7 ≤ x.goodRun) ∧
    (∃ (s : State) (tb : Fin 4) (o : Int),
     let x := s.tb tb
     x.follows = none ∧ (x.source = 1 ∨ x.source = 5) ∧ x.state = .holdover ∧ 63 ≤ x.validRun ∧ |o| ≤ (x.jumpThr : Int)) :=
  ⟨⟨tb0 fun t => { t with source := 1, state := .locked, outRun := 2 }, 0, 1001, by dsimp only; decide⟩,
   ⟨tb0 fun t => { t with source := 1, state := .locked, outRun := 3 }, 0, (-1001), by dsimp only; decide⟩,
   ⟨tb0 fun t => { t with source := 1, state := .locked }, 0, 1000, by dsimp only; decide⟩,
   ⟨tb0 fun t => { t with source := 1, state := .acquiring }, 0, by dsimp only; decide⟩,
   ⟨tb0 fun t => { t with source := 1, state := .acquiring, stepped := true, goodRun := 7 }, 0, (-250),
    by dsimp only; decide⟩,
   ⟨tb0 fun t => { t with source := 5, state := .holdover, validRun := 63 }, 0, (-1000), by dsimp only; decide⟩⟩

theorem witness_ApllSearch :
    (∃ (s : State) (a : Fin 4),
     let x := s.apll a
     x.enable = false) ∧
    (∃ (s : State) (a : Fin 4),
     let x := s.apll a
     x.enable = true) ∧
    (∃ (s : State) (a : Fin 4),
     let x := s.apll a
     x.state = .searching ∧ x.step < 6) ∧
    (∃ (s : State) (a : Fin 4),
     let x := s.apll a
     x.state = .searching ∧ 6 ≤ x.step) ∧
    (∃ (s : State) (a : Fin 4),
     let x := s.apll a
     x.state = .acquiring ∧ x.lastGood = true) :=
  ⟨⟨run, 0, by dsimp only; decide⟩,
   ⟨apll0 fun y => { y with enable := true }, 0, by dsimp only; decide⟩,
   ⟨apll0 fun y => { y with state := .searching, step := 5 }, 0, by dsimp only; decide⟩,
   ⟨apll0 fun y => { y with state := .searching, step := 6 }, 0, by dsimp only; decide⟩,
   ⟨apll0 fun y => { y with state := .acquiring, lastGood := true }, 0, by dsimp only; decide⟩⟩

theorem witness_ApllLock :
    (∃ (s : State) (a : Fin 4) (err : Int),
     let x := s.apll a
     x.state = .acquiring ∧ |err| ≤ 2000 ∧ x.good < 255) ∧
    (∃ (s : State) (a : Fin 4) (err : Int),
     let x := s.apll a
     x.state = .acquiring ∧ |err| ≤ 2000 ∧ 255 ≤ x.good) ∧
    (∃ (s : State) (a : Fin 4) (err : Int),
     let x := s.apll a
     x.state = .acquiring ∧ 2000 < |err|) ∧
    (∃ (s : State) (a : Fin 4) (err : Int),
     let x := s.apll a
     x.state = .locked ∧ x.aligned = false ∧ |err| ≤ 50000 ∧ s.apllBlock a % 64 = 0) ∧
    (∃ (s : State) (a : Fin 4) (err : Int),
     let x := s.apll a
     x.state = .locked ∧ x.aligned = true ∧ |err| ≤ 50000) ∧
    (∃ (s : State) (a : Fin 4) (err : Int),
     let x := s.apll a
     x.state = .locked ∧ 50000 < |err| ∧ 3 ≤ x.bad) ∧
    (∃ (s : State) (a : Fin 4),
     let x := s.apll a
     x.state = .freeze) ∧
    (∃ (s : State) (a : Fin 4) (err : Int),
     let x := s.apll a
     x.state = .freeze ∧ |err| ≤ 2000 ∧ 255 ≤ x.good) :=
  ⟨⟨apll0 fun y => { y with state := .acquiring, good := 254 }, 0, 2000, by dsimp only; decide⟩,
   ⟨apll0 fun y => { y with state := .acquiring, good := 255 }, 0, (-2000), by dsimp only; decide⟩,
   ⟨apll0 fun y => { y with state := .acquiring }, 0, (-2001), by dsimp only; decide⟩,
   ⟨apll0 fun y => { y with state := .locked }, 0, 50000, by dsimp only; decide⟩,
   ⟨apll0 fun y => { y with state := .locked, aligned := true }, 0, (-50000), by dsimp only; decide⟩,
   ⟨apll0 fun y => { y with state := .locked, bad := 3 }, 0, 50001, by dsimp only; decide⟩,
   ⟨apll0 fun y => { y with state := .freeze, frac := 5 }, 0, by dsimp only; decide⟩,
   ⟨apll0 fun y => { y with state := .freeze, aligned := true, good := 255 }, 0, 2000, by dsimp only; decide⟩⟩

theorem witness_CompareAndCapture :
    (∃ (s : State) (u : Fin 16),
     let c := s.clk.cmps.get u
     let first := (s.tb c.tb).blk.toNat + (if (s.tb c.tb).open_ then 1 else 2)
     s.isCluster = false ∧ first ≤ c.blk.toNat) ∧
    (∃ (s : State) (u : Fin 16),
     let c := s.clk.cmps.get u
     let first := (s.tb c.tb).blk.toNat + (if (s.tb c.tb).open_ then 1 else 2)
     s.isCluster = false ∧ c.blk.toNat < first ∧ c.period ≠ 0) ∧
    (∃ (s : State) (pin : Fin 32) (rising : Bool),
     let enabled := if rising then s.clk.capRise.getLsbD pin.val else s.clk.capFall.getLsbD pin.val
     enabled = true ∧ s.clk.caps.length < 64) ∧
    (∃ (s : State) (pin : Fin 32) (rising : Bool),
     let enabled := if rising then s.clk.capRise.getLsbD pin.val else s.clk.capFall.getLsbD pin.val
     enabled = true ∧ 64 ≤ s.clk.caps.length ∧ s.clk.capRun = true) ∧
    (∃ (s : State) (pin : Fin 32) (rising : Bool),
     let enabled := if rising then s.clk.capRise.getLsbD pin.val else s.clk.capFall.getLsbD pin.val
     enabled = true ∧ 64 ≤ s.clk.caps.length ∧ s.clk.capRun = false) ∧
    (∃ (s : State) (pin : Fin 32) (rising : Bool),
     let enabled := if rising then s.clk.capRise.getLsbD pin.val else s.clk.capFall.getLsbD pin.val
     enabled = false) :=
  ⟨⟨cmp3 fun x => { x with blk := 101, period := 7 }, 3, by dsimp only; decide⟩,
   ⟨cmp3 fun x => { x with blk := 100, period := 7 }, 3, by dsimp only; decide⟩,
   ⟨captured 63, 5, true, by dsimp only; decide⟩,
   ⟨(captured 64).onClk fun c => { c with capRun := true }, 5, true, by dsimp only; decide⟩,
   ⟨captured 64, 5, true, by dsimp only; decide⟩,
   ⟨cmp3 fun x => { x with blk := 101, period := 7 }, 5, true, by dsimp only; decide⟩⟩

theorem witness_HandshakeChannels :
    (∃ (s : State) (src dst : Fin 59),
     let c := s.channel src dst
     let up := s.islandDown src.val = false ∧ s.islandDown dst.val = false
     up ∧ c.wait = none ∧ c.fifo.length < fifoDepth src dst) ∧
    (∃ (s : State) (src dst : Fin 59),
     let c := s.channel src dst
     let up := s.islandDown src.val = false ∧ s.islandDown dst.val = false
     up ∧ c.wait = none ∧ fifoDepth src dst ≤ c.fifo.length) ∧
    (∃ (s : State) (src dst : Fin 59),
     let c := s.channel src dst
     let up := s.islandDown src.val = false ∧ s.islandDown dst.val = false
     ∃ x rest,
     up ∧ c.fifo = x :: rest) ∧
    (∃ (s : State) (src dst : Fin 59),
     let up := s.islandDown src.val = false ∧ s.islandDown dst.val = false
     ¬ up) :=
  ⟨⟨channelOf 2, 2, 3,
    ⟨by decide, by decide⟩, by decide, Nat.lt_of_lt_of_le (by decide : 2 < 4) (Nat.le_add_right _ _)⟩,
   ⟨channelOf 16, 2, 3, ⟨by decide, by decide⟩, by decide, Nat.add_le_add_left (Nat.le_of_lt_succ (Fin.is_lt _)) 4⟩,
   ⟨channelOf 2, 2, 3, [0], [[1]], by decide⟩,
   ⟨inPower 1 (channelOf 2), 2, 3, by dsimp only; decide⟩⟩

theorem witness_IntervalCommands :
    (∃ (s : State) (tb : Fin 4), ∃ r,
     s.domOfTb tb = some r ∧ s.asleep = false ∧ (s.tb tb).srcClosed = false) ∧
    (∃ (s : State) (tb : Fin 4),
     (s.tb tb).srcClosed = true) ∧
    (∃ (s : State),
     2 ≤ s.power.state.val) :=
  ⟨⟨run, 0, dom0, by decide⟩,
   ⟨tb0 fun t => { t with srcClosed := true }, 0, by decide⟩,
   ⟨run, by decide⟩⟩

theorem witness_SendDeadline :
    (∃ (s : State) (tb : Fin 4) (r : DomainRec) (p : ProcSt) (n : NodeRec) (w : Nat),
    s.domOfTb tb = some r ∧ 3 ≤ s.power.state.val ∧ s.procs = [p] ∧ s.red.pairs = [] ∧ s.placer.moves = [] ∧
    s.node? p.node = some n ∧ n.domain = r.dom ∧ n.type = .proc ∧ (∀ k ∈ s.nodes, k.id = n.id → k = n) ∧
    n.before = false ∧ p.isNew = false ∧ p.out = none ∧ p.stopped = false ∧ workIdx (s.ivl n) n = some w ∧ (s.engine p.engine).halted = false) ∧
    (∃ (s : State) (tb : Fin 4) (r : DomainRec) (p : ProcSt) (n : NodeRec) (w : Nat),
    s.domOfTb tb = some r ∧ 3 ≤ s.power.state.val ∧ s.procs = [p] ∧ s.red.pairs = [] ∧ s.placer.moves = [] ∧
    s.node? p.node = some n ∧ n.domain = r.dom ∧ n.type = .proc ∧ (∀ k ∈ s.nodes, k.id = n.id → k = n) ∧
    n.before = false ∧ p.isNew = false ∧ p.out = none ∧ p.stopped = false ∧ workIdx (s.ivl n) n = some w ∧
    (s.engine p.engine).halted = true ∧ (s.engine p.engine).fg.node.isSome = true) :=
  ⟨⟨late, 0, dom0, { procSt 16 with last := [801] }, proc, 1, by decide⟩,
   ⟨late.onEngine 0 fun g => { g with halted := true, fg := bank }, 0, dom0, { procSt 16 with last := [801] }, proc, 1,
    by decide⟩⟩

theorem witness_FabricSum :
    (∃ (s : State) (node out : Nat) (sum k : NodeRec) (x : SumSt) (w : Nat) (fs : List Frame),
     let c := s.sendSt k.id
     let sample := fun i => (nth (nth fs out silence) i 0).toInt
     let acc := (List.range 8).map fun i => x.acc.getD i 0 + sample i * (c.cStart.toInt + rne ((c.cEnd.toInt -
         c.cStart.toInt) * (i + 1)) 8)
     let x' : SumSt := { x with acc := acc, got := (node, out) :: x.got }
     let all := ∀ n ∈ s.sendsOf sum.id, ∀ e ∈ n.inputs, e ∈ x'.got
     s.sumsOfEdge (node, out) = [sum] ∧ s.sumSt? sum.id = some x ∧ workIdx (s.ivl sum) sum = some w ∧ x.done = false ∧
     (node, out) ∉ x.got ∧ s.framesAt node w = some fs ∧
     (s.sendsOf sum.id).filter (fun n => n.inputs.contains (node, out)) = [k] ∧ aget s.fabric.spilled k.id = none ∧ ¬ all) ∧
    (∃ (s : State) (node out : Nat) (sum k : NodeRec) (x : SumSt) (w : Nat) (fs : List Frame),
     let c := s.sendSt k.id
     let sample := fun i => (nth (nth fs out silence) i 0).toInt
     let acc := (List.range 8).map fun i => x.acc.getD i 0 + sample i * (c.cStart.toInt + rne ((c.cEnd.toInt -
         c.cStart.toInt) * (i + 1)) 8)
     let x' : SumSt := { x with acc := acc, got := (node, out) :: x.got }
     let all := ∀ n ∈ s.sendsOf sum.id, ∀ e ∈ n.inputs, e ∈ x'.got
     let y := fun i => rne (acc.getD i 0) (2 ^ 27)
     s.sumsOfEdge (node, out) = [sum] ∧ s.sumSt? sum.id = some x ∧ workIdx (s.ivl sum) sum = some w ∧ x.done = false ∧
     (node, out) ∉ x.got ∧ s.framesAt node w = some fs ∧
     (s.sendsOf sum.id).filter (fun n => n.inputs.contains (node, out)) = [k] ∧ aget s.fabric.spilled k.id = none ∧ all ∧ s.limitsOf sum.id = [] ∧
     s.sumMisses sum.id = 0 ∧ (∃ i, i < 8 ∧ (y i < -(2 ^ 31) ∨ 2 ^ 31 ≤ y i)) ∧ s.sumIndex sum.id < 1024) ∧
    (∃ (s : State) (node out : Nat) (sum k : NodeRec) (x : SumSt) (w : Nat) (fs : List Frame),
     let c := s.sendSt k.id
     let sample := fun i => (nth (nth fs out silence) i 0).toInt
     let acc := (List.range 8).map fun i => x.acc.getD i 0 + sample i * (c.cStart.toInt + rne ((c.cEnd.toInt -
         c.cStart.toInt) * (i + 1)) 8)
     let x' : SumSt := { x with acc := acc, got := (node, out) :: x.got }
     let all := ∀ n ∈ s.sendsOf sum.id, ∀ e ∈ n.inputs, e ∈ x'.got
     let y := fun i => rne (acc.getD i 0) (2 ^ 27)
     s.sumsOfEdge (node, out) = [sum] ∧ s.sumSt? sum.id = some x ∧ workIdx (s.ivl sum) sum = some w ∧ x.done = false ∧
     (node, out) ∉ x.got ∧ s.framesAt node w = some fs ∧
     (s.sendsOf sum.id).filter (fun n => n.inputs.contains (node, out)) = [k] ∧ aget s.fabric.spilled k.id = none ∧ all ∧ s.limitsOf sum.id = [] ∧
     s.sumMisses sum.id = 0 ∧ (∀ i, i < 8 → -(2 ^ 31) ≤ y i ∧ y i < 2 ^ 31)) :=
  ⟨⟨summed2, 1, 0, sum, send, sumSt, 1, loud, by dsimp only; decide⟩,
   ⟨{ summed with fabric := { summed.fabric with sends := [(32, { sendSt with cStart := 0x7FFFFFFF })] } }, 1, 0, sum,
    send, sumSt, 1, loud, by dsimp only; decide⟩,
   ⟨summed, 1, 0, sum, send, sumSt, 1, loud, by dsimp only; decide⟩⟩

theorem witness_SendInterpolation :
    ∃ i,
    i < 8 :=
  ⟨7, by decide⟩

theorem witness_LimitNeverExceeds :
    ∃ (thr : Nat),
    256 ≤ thr ∧ thr ≤ 2 ^ 31 - 1 :=
  ⟨256, by decide⟩

theorem witness_FabricCompletion :
    (∃ (s : State) (tb : Fin 4) (r : DomainRec) (n : NodeRec) (x : SumSt) (w : Nat),
     s.domOfTb tb = some r ∧ 3 ≤ s.power.state.val ∧
     s.nodes.filter (fun n => n.type == .sum && n.domain == r.dom) = [n] ∧ s.sumSt? n.id = some x ∧
     workIdx (s.ivl n) n = some w ∧ x.done = false ∧ s.limitsOf n.id = [] ∧ s.sendsOf n.id ≠ []) ∧
    (∃ (s : State) (tb : Fin 4) (r : DomainRec) (n : NodeRec) (x : SumSt) (w : Nat),
     s.domOfTb tb = some r ∧ 3 ≤ s.power.state.val ∧
     s.nodes.filter (fun n => n.type == .sum && n.domain == r.dom) = [n] ∧ s.sumSt? n.id = some x ∧
     workIdx (s.ivl n) n = some w ∧ x.done = false ∧ s.limitsOf n.id = [] ∧ s.sendsOf n.id = [] ∧
     x.acc = List.replicate 8 0) :=
  ⟨⟨summed, 0, dom0, sum, sumSt, 1, by decide⟩,
   ⟨sendless, 0, dom0, sum, SumSt.fresh 48, 1, by decide⟩⟩

theorem witness_RampBlocks :
    ∃ (q : ParamSt) (v0 : Word) (n k : Nat),
    q.trans = .ramp v0 0 n false ∧ 1 ≤ k ∧ k ≤ n ∧ k = n :=
  ⟨paramSt (.ramp 7 0 4 false), 7, 4, 4, by decide⟩

theorem witness_TimedEnds :
    ∃ (s : State) (node : Nat), ∃ n q,
    s.node? node = some n ∧ n.type = .detect ∧ q ∈ s.procs ∧ q.node = node ∧ q.silent = false ∧
    (s.pval n 2).toNat ≤ q.silentRun :=
  ⟨timed, 96, detect, { procSt 96 with silentRun := 12000 }, by decide⟩

theorem witness_MeterPeriod :
    (∃ (s : State) (dom : Fin 4) (b : BitVec 48) (val : NodeRec × List MeterVal → MeterVal) (n : NodeRec)
       (early late : List MeterVal) (v : MeterVal) (rest : List (NodeRec × List MeterVal)),
     let ms := s.meters dom
     let fresh := ∀ r ∈ s.evt.mRecs, ¬ (r.dom = dom ∧ r.block = b)
     ms = (n, early ++ v :: late) :: rest ∧ v.block = b ∧
     (∀ u ∈ early, u.block ≠ b ∧ ∃ m ∈ rest, ∀ x ∈ m.2, x.block ≠ u.block) ∧
     (∀ m ∈ ms, m.2.find? (fun x => x.block == b) = some (val m)) ∧ fresh ∧ s.evt.mEnable = false) ∧
    (∃ (s : State) (dom : Fin 4) (b : BitVec 48) (val : NodeRec × List MeterVal → MeterVal) (n : NodeRec)
       (early late : List MeterVal) (v : MeterVal) (rest : List (NodeRec × List MeterVal)),
     let ms := s.meters dom
     let fresh := ∀ r ∈ s.evt.mRecs, ¬ (r.dom = dom ∧ r.block = b)
     ms = (n, early ++ v :: late) :: rest ∧ v.block = b ∧
     (∀ u ∈ early, u.block ≠ b ∧ ∃ m ∈ rest, ∀ x ∈ m.2, x.block ≠ u.block) ∧
     (∀ m ∈ ms, m.2.find? (fun x => x.block == b) = some (val m)) ∧ fresh ∧ s.evt.mEnable = true ∧ early ≠ [] ∧ late ≠ []) ∧
    (∃ (s : State) (dom : Fin 4) (n : NodeRec) (vs : List MeterVal) (rest : List (NodeRec × List MeterVal)),
     let ms := s.meters dom
     ms = (n, vs) :: rest ∧ vs ≠ [] ∧ ∀ u ∈ vs, ∃ m ∈ rest, ∀ x ∈ m.2, x.block ≠ u.block) ∧
    (∃ (s : State) (dom : Fin 4) (b : BitVec 48),
     let ms := s.meters dom
     let fresh := ∀ r ∈ s.evt.mRecs, ¬ (r.dom = dom ∧ r.block = b)
     ms = [] ∧ (s.domain? dom).isSome = true ∧ (s.tb (s.tbOf dom)).blk.toNat % s.evt.period = 0 ∧
     b = (s.tb (s.tbOf dom)).blk - 1 ∧ fresh ∧ aget s.evt.mLast dom.val ≠ some b.toNat ∧ s.evt.mEnable = true) :=
  ⟨⟨metered.onEvt fun v => { v with mEnable := false }, 0, 240, fun _ => meterVal, meter, [], [], meterVal, [],
    by dsimp only; decide⟩,
   ⟨metered2 [meterVal], 0, 240, fun _ => meterVal, meter, [{ meterVal with block := 200 }], [{ meterVal with block := 280 }],
    meterVal, [(meter2, [meterVal])], by dsimp only; decide⟩,
   ⟨metered2 [], 0, meter, [{ meterVal with block := 200 }, meterVal, { meterVal with block := 280 }], [(meter2, [])],
    by dsimp only; decide⟩,
   ⟨unmetered, 0, 239, by dsimp only; decide⟩⟩


theorem witness_MeterRecordWrite :
    (∃ (s : State) (dom : Fin 4),
     s.evt.mRecs.find? (fun x => x.dom == dom) = none) ∧
    (∃ (s : State) (dom : Fin 4) (r : MeterRec),
     let size := 2 ^ s.evt.mLog2
     let wr := s.evt.mWr.toNat
     let len := r.bytes.length
     let pad := if size < wr + len then size - wr else 0
     let free := size - 64 - (wr + size - s.evt.mRd.toNat % size) % size
     s.evt.mEnable = true ∧ s.hostMem.rising = true ∧ s.evt.mRecs.find? (fun x => x.dom == dom) = some r ∧ wr < size ∧
     wr % 64 = 0 ∧ len < size ∧ 6 ≤ s.evt.mLog2 ∧ s.evt.mLog2 ≤ 32 ∧ pad + len ≤ free ∧ pad = 0) ∧
    (∃ (s : State) (dom : Fin 4) (r : MeterRec),
     let size := 2 ^ s.evt.mLog2
     let wr := s.evt.mWr.toNat
     let len := r.bytes.length
     let pad := if size < wr + len then size - wr else 0
     let free := size - 64 - (wr + size - s.evt.mRd.toNat % size) % size
     s.evt.mEnable = true ∧ s.hostMem.rising = true ∧ s.evt.mRecs.find? (fun x => x.dom == dom) = some r ∧ wr < size ∧
     wr % 64 = 0 ∧ len < size ∧ 6 ≤ s.evt.mLog2 ∧ s.evt.mLog2 ≤ 32 ∧ pad + len ≤ free ∧ 0 < pad) ∧
    (∃ (s : State) (dom : Fin 4) (r : MeterRec),
     let size := 2 ^ s.evt.mLog2
     let wr := s.evt.mWr.toNat
     let len := r.bytes.length
     let pad := if size < wr + len then size - wr else 0
     let free := size - 64 - (wr + size - s.evt.mRd.toNat % size) % size
     s.evt.mEnable = true ∧ s.hostMem.rising = true ∧ s.evt.mRecs.find? (fun x => x.dom == dom) = some r ∧ wr < size ∧
     wr % 64 = 0 ∧ len < size ∧ 6 ≤ s.evt.mLog2 ∧ s.evt.mLog2 ≤ 32 ∧ free < pad + len ∧ s.evt.mDropRun = true) :=
  ⟨⟨metered, 0, by decide⟩,
   ⟨meterRing 192 192 1, 0, meterRec 1, by dsimp only; decide⟩,
   ⟨meterRing 192 192 5, 0, meterRec 5, by dsimp only; decide⟩,
   ⟨(meterRing 64 128 1).onEvt fun v => { v with mDropRun := true }, 0, meterRec 1, by dsimp only; decide⟩⟩

theorem witness_MeterRingControl :
    (∃ (s : State),
     s.evt.mEnable = false) ∧
    (∃ (s : State),
     s.evt.mEnable = true) :=
  ⟨⟨run, by decide⟩,
   ⟨metered, by decide⟩⟩

theorem witness_SlotOperationsBegin :
    ∃ (s : State) (k : Fin 4),
    s.img.loaded.isSome = true ∧ s.scene.op = none ∧ (∀ c ∈ s.scene.casts, c.applyOn = [] → c.slot ≠ k) ∧
    s.scene.arg ≠ 0 ∧ s.paramsIn s.scene.capFirst s.scene.capLast ≠ [] ∧
    (s.paramsIn s.scene.capFirst s.scene.capLast).length ≤ 262144 :=
  ⟨scened fun c => { c with arg := 3, capLast := 0xFFFFFFFF, casts := [castSt] }, 2, by decide⟩

theorem witness_SlotOperationsRefused :
    ∃ (s : State) (k : Fin 4) (i : Instr),
    s.img.loaded.isSome = true ∧ (s.scene.op.isSome = true ∨ ∃ c ∈ s.scene.casts, c.applyOn = [] ∧ c.slot = k) ∧
    (i = .sceneMqLoad k ∨ i = .sceneMqCapture k ∨ i = .sceneMqClear k) :=
  ⟨casts [castSt], 1, .sceneMqCapture 1, by decide⟩

theorem witness_SlotOperationDone :
    (∃ (s : State) (m : Image) (op : SlotOp), ∃ es,
     s.img.loaded = some m ∧ s.scene.op = some op ∧ op.capture = true ∧ op.taken = some es) ∧
    (∃ (s : State) (m : Image) (op : SlotOp),
     s.img.loaded = some m ∧ s.scene.op = some op ∧ op.capture = false ∧ s.hostMem.readAll op.addr.toNat 64 = none) ∧
    (∃ (s : State) (m : Image) (op : SlotOp), ∃ bs,
     s.img.loaded = some m ∧ s.scene.op = some op ∧ op.capture = false ∧
     readHostMaquette m.mqEnv s.hostMem op = .ok bs) :=
  ⟨⟨scened fun c => { c with op := some slotOp }, { image with params := [paramRec] }, slotOp,
    [⟨paddrOf 16 1, 5, none⟩], by decide⟩,
   ⟨loading [], { image with params := [paramRec] }, { slotOp with capture := false }, by decide⟩,
   ⟨loading mqMem, { image with params := [paramRec] }, { slotOp with capture := false }, mqBytes, by decide⟩⟩

theorem witness_CastRequest :
    (∃ (s : State) (es : List MqEntry),
     let c := s.scene
     let lead := (s.tb c.castTb).blk.toNat + 3
     s.group = [0] ∧ 3 ≤ s.power.state.val ∧ s.slotEntries c.castSlot c.castMq = some es ∧
     (s.domOfTb c.castTb).isSome = true ∧ (c.castNext = true ∨ lead ≤ c.castBlk.toNat) ∧ s.castCount < 8 ∧
     s.entriesDue c.castTb (if c.castNext then s.openBoundary c.castTb else c.castBlk) + es.length ≤ 1048576 ∧
     c.castNext = false) ∧
    (∃ (s : State) (es : List MqEntry),
     let c := s.scene
     let lead := (s.tb c.castTb).blk.toNat + 3
     s.group = [0] ∧ 3 ≤ s.power.state.val ∧ s.slotEntries c.castSlot c.castMq = some es ∧
     (s.domOfTb c.castTb).isSome = true ∧ (c.castNext = true ∨ lead ≤ c.castBlk.toNat) ∧ s.castCount < 8 ∧
     s.entriesDue c.castTb (if c.castNext then s.openBoundary c.castTb else c.castBlk) + es.length ≤ 1048576 ∧
     c.castNext = true) ∧
    (∃ (s : State),
     s.group = [0] ∧ s.power.state.val < 3) ∧
    (∃ (s : State),
     let c := s.scene
     s.group = [0] ∧ 3 ≤ s.power.state.val ∧ s.slotEntries c.castSlot c.castMq = none) ∧
    (∃ (s : State),
     let c := s.scene
     let lead := (s.tb c.castTb).blk.toNat + 3
     s.group = [0] ∧ 3 ≤ s.power.state.val ∧ c.castNext = false ∧ c.castBlk.toNat < lead) ∧
    (∃ (s : State) (es : List MqEntry),
     let c := s.scene
     let lead := (s.tb c.castTb).blk.toNat + 3
     s.group = [0] ∧ 3 ≤ s.power.state.val ∧ s.slotEntries c.castSlot c.castMq = some es ∧
     (s.domOfTb c.castTb).isSome = true ∧ (c.castNext = true ∨ lead ≤ c.castBlk.toNat) ∧ 8 ≤ s.castCount) :=
  ⟨⟨casting id, maquette.entries, by dsimp only; decide⟩,
   ⟨casting fun c => { c with castNext := true, castBlk := 0 }, maquette.entries, by dsimp only; decide⟩,
   ⟨inPower 2 (casting id), by decide⟩,
   ⟨casting fun c => { c with castMq := 2 }, by dsimp only; decide⟩,
   ⟨casting fun c => { c with castBlk := 2 }, by dsimp only; decide⟩,
   ⟨casting fun c => { c with casts := List.replicate 8 castSt }, maquette.entries, by dsimp only; decide⟩⟩

theorem witness_CastCancel :
    (∃ (s : State) (id : BitVec 16) (c : CastSt),
     s.group = [0] ∧ s.castsWaiting.find? (fun x => x.castId == id) = some c ∧ c.go = false ∧ c.held = false ∧
     c.isNext = false ∧ ((s.tb c.tb).open_ = true ∨ (s.tb c.tb).blk.toNat + 1 < c.block.toNat)) ∧
    (∃ (s : State) (id : BitVec 16),
     s.group = [0] ∧ s.castsWaiting.find? (fun x => x.castId == id) = none) ∧
    (∃ (s : State) (id : BitVec 16) (c : CastSt),
     s.group = [0] ∧ s.castsWaiting.find? (fun x => x.castId == id) = some c ∧ c.isNext = false ∧
     (s.tb c.tb).open_ = false ∧ c.block.toNat ≤ (s.tb c.tb).blk.toNat + 1) ∧
    (∃ (s : State) (id : BitVec 16) (c : CastSt),
     s.group = [0] ∧ s.castsWaiting.find? (fun x => x.castId == id) = some c ∧ c.held = true) ∧
    (∃ (s : State) (id : BitVec 16) (c : CastSt), ∃ rest,
     s.group = [0] ∧ s.scene.casts = c :: rest ∧ c.castId = id ∧ c.transfer = 1 ∧ (∀ x ∈ rest, x.castId ≠ id)) :=
  ⟨⟨casts [castSt], 7, castSt, by decide⟩,
   ⟨casts [castSt], 8, by decide⟩,
   ⟨(casts [castSt]).onTb 0 fun t => { t with open_ := false, blk := 49 }, 7, castSt, by decide⟩,
   ⟨casts [{ castSt with held := true }], 7, { castSt with held := true }, by decide⟩,
   ⟨casts [castSt], 7, castSt, [], by decide⟩⟩

theorem witness_CastMessages :
    (∃ (s : State) (m : CastMsg),
     let fresh := fun (k : CastKind) => s.castSeen { m with kind := k } = false
     fresh .announce ∧ (∀ x ∈ s.scene.casts, x.castId ≠ m.castId)) ∧
    (∃ (s : State) (m : CastMsg) (c : CastSt) (rest : List CastSt),
     let fresh := fun (k : CastKind) => s.castSeen { m with kind := k } = false
     s.scene.casts = c :: rest ∧ c.applyOn = [] ∧ c.castId = m.castId ∧ (∀ x ∈ rest, x.castId ≠ m.castId) ∧
     fresh .ready) ∧
    (∃ (s : State) (m : CastMsg) (c : CastSt) (rest : List CastSt),
     let fresh := fun (k : CastKind) => s.castSeen { m with kind := k } = false
     s.scene.casts = c :: rest ∧ c.applyOn = [] ∧ c.castId = m.castId ∧ (∀ x ∈ rest, x.castId ≠ m.castId) ∧
     fresh .notReady ∧ c.notReady = none) ∧
    (∃ (s : State) (m : CastMsg) (c : CastSt) (rest : List CastSt),
     let fresh := fun (k : CastKind) => s.castSeen { m with kind := k } = false
     s.scene.casts = c :: rest ∧ c.applyOn = [] ∧ c.castId = m.castId ∧ (∀ x ∈ rest, x.castId ≠ m.castId) ∧ fresh .go) ∧
    (∃ (s : State) (m : CastMsg) (c : CastSt) (rest : List CastSt),
     let fresh := fun (k : CastKind) => s.castSeen { m with kind := k } = false
     s.scene.casts = c :: rest ∧ c.applyOn = [] ∧ c.castId = m.castId ∧ (∀ x ∈ rest, x.castId ≠ m.castId) ∧
     fresh .defer) ∧
    (∃ (s : State) (m : CastMsg) (c : CastSt) (rest : List CastSt),
     let fresh := fun (k : CastKind) => s.castSeen { m with kind := k } = false
     s.scene.casts = c :: rest ∧ c.applyOn = [] ∧ c.castId = m.castId ∧ (∀ x ∈ rest, x.castId ≠ m.castId) ∧
     fresh .abort) ∧
    (∃ (s : State) (m : CastMsg),
     let fresh := fun (k : CastKind) => s.castSeen { m with kind := k } = false
     (∀ x ∈ s.scene.casts, x.castId ≠ m.castId) ∧ fresh .defer) ∧
    (∃ (s : State) (m : CastMsg),
     let fresh := fun (k : CastKind) => s.castSeen { m with kind := k } = false
     (∀ x ∈ s.scene.casts, x.castId ≠ m.castId) ∧ fresh .abort) ∧
    (∃ (s : State) (m : CastMsg), ∃ k,
     s.castSeen { m with kind := k } = true ∧ k = .ready) ∧
    (∃ (s : State) (m : CastMsg), ∃ k,
     s.castSeen { m with kind := k } = true ∧ k = .announce) ∧
    (∃ (s : State) (m : CastMsg), ∃ k,
     s.castSeen { m with kind := k } = true ∧ k = .notReady) ∧
    (∃ (s : State) (m : CastMsg), ∃ k,
     s.castSeen { m with kind := k } = true ∧ k = .go) ∧
    (∃ (s : State) (m : CastMsg), ∃ k,
     s.castSeen { m with kind := k } = true ∧ k = .defer) ∧
    (∃ (s : State) (m : CastMsg), ∃ k,
     s.castSeen { m with kind := k } = true ∧ k = .abort) :=
  ⟨⟨declared, castMsg, by dsimp only; decide⟩,
   ⟨casts [castSt], castMsg, castSt, [], by dsimp only; decide⟩,
   ⟨casts [castSt], castMsg, castSt, [], by dsimp only; decide⟩,
   ⟨casts [castSt], castMsg, castSt, [], by dsimp only; decide⟩,
   ⟨casts [castSt], castMsg, castSt, [], by dsimp only; decide⟩,
   ⟨casts [castSt], castMsg, castSt, [], by dsimp only; decide⟩,
   ⟨declared, castMsg, by dsimp only; decide⟩,
   ⟨declared, castMsg, by dsimp only; decide⟩,
   ⟨seenAll, castMsg, .ready, by decide⟩,
   ⟨seenAll, castMsg, .announce, by decide⟩,
   ⟨seenAll, castMsg, .notReady, by decide⟩,
   ⟨seenAll, castMsg, .go, by decide⟩,
   ⟨seenAll, castMsg, .defer, by decide⟩,
   ⟨seenAll, castMsg, .abort, by decide⟩⟩

theorem witness_CastFrames :
    (∃ (s : State) (l : Fin 4),
     (s.lane l).state ≠ .up) ∧
    (∃ (s : State) (l : Fin 4) (m : CastMsg),
     (s.lane l).state = .up ∧ s.castSeen m = true) ∧
    (∃ (s : State) (l : Fin 4) (m : CastMsg),
     (s.lane l).state = .up ∧ s.castSeen m = false ∧ m.kind = .ready ∧ (∀ x ∈ s.scene.casts, x.castId ≠ m.castId)) :=
  ⟨⟨run, 1, by decide⟩,
   ⟨lanesUp seenAll, 1, castMsg, by decide⟩,
   ⟨lanesUp declared, 1, castMsg, by decide⟩⟩

theorem witness_ImageRequests :
    (∃ (s : State),
     s.power.state = 3 ∧ s.img.req = none) ∧
    (∃ (s : State),
     3 ≤ s.power.state.val ∧ s.img.req = none) ∧
    (∃ (s : State),
     (s.power.state ≠ 3 ∨ s.img.req.isSome = true)) ∧
    (∃ (s : State),
     (s.power.state.val < 3 ∨ s.img.req.isSome = true)) :=
  ⟨⟨inPower 3 run, by decide⟩,
   ⟨inPower 3 run, by decide⟩,
   ⟨run, by decide⟩,
   ⟨inPower 2 run, by decide⟩⟩

theorem witness_ValidationSteps :
    (∃ (s : State) (q : ImgReq),
     let bs := if q.step = 1 ∨ q.step = 6 then s.sourceBytes q else q.copy
     let check := checkStep s.chkEnv bs q.step
     s.img.req = some q ∧ 1 ≤ q.step ∧ q.step ≤ 11 ∧ (q.verify = true ∨ q.step ≤ 5) ∧ s.xbar.secState ≠ 1 ∧
     max 128 (hdrSize bs) ≤ bs.length ∧ check = .ok () ∧ q.step < 11) ∧
    (∃ (s : State) (q : ImgReq),
     let bs := if q.step = 1 ∨ q.step = 6 then s.sourceBytes q else q.copy
     let check := checkStep s.chkEnv bs q.step
     s.img.req = some q ∧ 1 ≤ q.step ∧ q.step ≤ 11 ∧ (q.verify = true ∨ q.step ≤ 5) ∧ s.xbar.secState ≠ 1 ∧
     max 128 (hdrSize bs) ≤ bs.length ∧ check = .ok () ∧ q.step = 11) ∧
    (∃ (s : State) (q : ImgReq),
     let bs := if q.step = 1 ∨ q.step = 6 then s.sourceBytes q else q.copy
     let check := checkStep s.chkEnv bs q.step
     ∃ code detail,
     s.img.req = some q ∧ 1 ≤ q.step ∧ q.step ≤ 11 ∧ (q.verify = true ∨ q.step ≤ 5) ∧ s.xbar.secState ≠ 1 ∧
     max 128 (hdrSize bs) ≤ bs.length ∧ check = .error (code, detail) ∧ q.boot = false) :=
  ⟨⟨checking true 1, imgReq true 1, by dsimp only; decide⟩,
   ⟨checking true 11, checked true 11, by dsimp only; decide⟩,
   ⟨checking false 3, checked false 3, 513, 36, by decide⟩⟩

theorem witness_LoadCompletes :
    ∃ (s : State) (q : ImgReq) (m : Image) (c : Pending),
    s.img.req = some q ∧ q.image = some m ∧ q.placed = some true ∧ s.placer.pending = some c ∧
    (m.domains.map (·.tb)).Nodup :=
  ⟨placedLoad, loadReq, image, pendingPlan, by decide⟩

theorem witness_PlanTriggers :
    (∃ (s : State) (g : Trigger),
     s.img.loaded.isSome = true ∧ s.power.state ≠ 2 ∧ g ≠ .load ∧ g ≠ .engineOut ∧ s.placer.freeze = false ∧
     s.placer.state = .idle) ∧
    (∃ (s : State) (g : Trigger),
     s.img.loaded.isSome = true ∧ s.power.state ≠ 2 ∧ g = .host ∧ s.placer.freeze = false ∧ s.placer.state = .building) ∧
    (∃ (s : State) (g : Trigger),
     s.img.loaded.isSome = true ∧ s.power.state ≠ 2 ∧ g = .host ∧ s.placer.freeze = false ∧ s.placer.state ≠ .idle ∧
     s.placer.state ≠ .building) ∧
    (∃ (s : State) (g : Trigger),
     s.img.loaded.isSome = true ∧ s.power.state ≠ 2 ∧ g = .host ∧ s.placer.freeze = true ∧
     s.placer.queued.contains g = true) ∧
    (∃ (s : State) (g : Trigger),
     s.img.loaded.isSome = true ∧ s.power.state ≠ 2 ∧ g = .host ∧ s.placer.freeze = true ∧
     s.placer.queued.contains g = false) ∧
    (∃ (s : State),
     s.img.loaded.isSome = true ∧ s.power.state ≠ 2 ∧ s.placer.state = .idle) ∧
    (∃ (s : State),
     s.img.loaded.isSome = true ∧ s.power.state ≠ 2 ∧ s.placer.state = .evacuating) ∧
    (∃ (s : State),
     s.img.loaded.isSome = true ∧ s.power.state ≠ 2 ∧ s.placer.state ≠ .idle ∧ s.placer.state ≠ .evacuating ∧
     s.placer.trigger ≠ some .load) :=
  ⟨⟨homed, .patina, by decide⟩,
   ⟨building, .host, by decide⟩,
   ⟨placing fun p => { p with state := .copying }, .host, by decide⟩,
   ⟨placing fun p => { p with freeze := true, queued := [.host] }, .host, by decide⟩,
   ⟨placing fun p => { p with freeze := true, queued := [.memory] }, .host, by decide⟩,
   ⟨homed, by decide⟩,
   ⟨placing fun p => { p with state := .evacuating }, by decide⟩,
   ⟨building, by decide⟩⟩


theorem witness_PlacerControl :
    (∃ (s : State),
     s.placer.queued = []) ∧
    (∃ (s : State), ∃ g rest,
     s.placer.queued = g :: rest ∧ s.placer.state = .idle ∧ s.power.state ≠ 2 ∧ s.img.loaded.isSome = true) ∧
    (∃ (s : State) (d : DomainRec),
     s.pacing = some d) :=
  ⟨⟨homed, by decide⟩,
   ⟨placing fun p => { p with freeze := true, queued := [.patina, .host] }, .patina, [.host], by decide⟩,
   ⟨homed, dom0, by decide⟩⟩

theorem witness_PlanBuilt :
    (∃ (s : State) (m : Image) (cur : Plan), ∃ new,
     s.placer.state = .building ∧ s.placer.pending = none ∧ s.placer.trigger = some .host ∧ s.placer.merged = [] ∧
     s.placer.queued = [] ∧ s.img.loaded = some m ∧ s.placer.current = some cur ∧ (∀ e, (s.engine e).freqDue = none) ∧
     (m.planMoves cur new = none ∨ (s.hostEnv m new).planOk new = false ∨
       (s.hostEnv m new).freshApart cur new s.freeing = false)) ∧
    (∃ (s : State) (m : Image) (cur : Plan), ∃ new ms,
     s.placer.state = .building ∧ s.placer.pending = none ∧ s.placer.trigger = some .host ∧ s.placer.merged = [] ∧
     s.placer.queued = [] ∧ s.img.loaded = some m ∧ s.placer.current = some cur ∧ (∀ e, (s.engine e).freqDue = none) ∧
     (s.hostEnv m new).planOk new = true ∧ m.planMoves cur new = some ms ∧ s.triggersAllow m cur new ms = true ∧
     s.leavesDown m new = true ∧ (s.hostEnv m new).shortOk new s.stillSeeding = true ∧ (s.hostEnv m new).freshApart cur new s.freeing = true) :=
  ⟨⟨building, image, plan 0, { plan 0 with sites := [] }, by decide⟩,
   ⟨building, image, plan 0, plan 1, (image.planMoves (plan 0) (plan 1)).getD [], by decide⟩⟩

theorem witness_CopyUnit :
    (∃ (s : State) (k : Fin 64),
     let c := s.placer.slots.get k
     let ofs := 64 * c.mark
     let pages := if c.new.kind = .dram ∧ (s.entry c.region).state ≠ 4 then s.poolPages none c.region (pageOf ofs) else []
     s.mem.wf = true ∧ c.kind ≠ 0 ∧ ofs < c.bytes ∧ pages.length = 0) ∧
    (∃ (s : State) (k : Fin 64),
     let c := s.placer.slots.get k
     let ofs := 64 * c.mark
     let pages := if c.new.kind = .dram ∧ (s.entry c.region).state ≠ 4 then s.poolPages none c.region (pageOf ofs) else []
     s.mem.wf = true ∧ c.kind ≠ 0 ∧ ofs < c.bytes ∧ pages.length = 1) ∧
    (∃ (s : State) (k : Fin 64),
     let c := s.placer.slots.get k
     let ofs := 64 * c.mark
     s.mem.wf = true ∧ c.kind ≠ 0 ∧ c.bytes ≤ ofs) :=
  ⟨⟨copying 1, 5, by dsimp only; decide⟩,
   ⟨copyingPaged, 5, by dsimp only; decide⟩,
   ⟨copying 2, 5, by dsimp only; decide⟩⟩


theorem witness_EngineAdmit :
    (∃ (s : State) (mask : BitVec 24) (e : Fin 24),
     let g := s.engine e
     let may := mask.getLsbD e.val = true ∧ g.out = true ∧ g.passFail = false ∧ (g.outCause = 2 ∨ g.outCause = 3 ∨
         g.outCause = 4 → g.causeCleared = true)
     may) ∧
    (∃ (s : State) (mask : BitVec 24) (e : Fin 24),
     let g := s.engine e
     let may := mask.getLsbD e.val = true ∧ g.out = true ∧ g.passFail = false ∧ (g.outCause = 2 ∨ g.outCause = 3 ∨
         g.outCause = 4 → g.causeCleared = true)
     ¬ may) :=
  ⟨⟨run.onEngine 3 fun g => { g with out := true, outCause := 2, causeCleared := true }, 0xFFFFFF, 3,
    by dsimp only; decide⟩,
   ⟨run, 8, 3, by dsimp only; decide⟩⟩

theorem witness_FaultService :
    (∃ (s : State) (e : Fin 24) (f : FaultSt),
     (s.engine e).parked = some f ∧ (s.engine e).stalled = none ∧ (s.engine e).orphan = none ∧
     (s.entry f.region).state = 1) ∧
    (∃ (s : State) (e : Fin 24) (f : FaultSt),
     (s.engine e).parked = some f ∧ (s.engine e).stalled = none ∧ (s.engine e).orphan = none ∧
     s.resolvable e f = true ∧ s.pageMissing e f = false) ∧
    (∃ (s : State) (e : Fin 24) (f : FaultSt),
     (s.engine e).parked = some f ∧ (s.engine e).stalled = none ∧ (s.engine e).orphan = none ∧
     s.resolvable e f = true ∧ s.pageMissing e f = true) ∧
    (∃ (s : State) (e : Fin 24) (f : FaultSt),
     (s.engine e).parked = some f ∧ (s.engine e).stalled = none ∧ (s.engine e).orphan = none ∧
     (s.entry f.region).state = 0) ∧
    (∃ (s : State) (e : Fin 24) (f : FaultSt),
     (s.engine e).parked = some f ∧ (s.engine e).stalled = none ∧ (s.engine e).orphan = none ∧
     s.resolvable e f = false ∧ (s.entry f.region).state = 4) :=
  ⟨⟨parkedOn 1, 0, ⟨1, 4, 16⟩, by decide⟩,
   ⟨parkedOn 1, 0, ⟨1, 4, 16⟩, by decide⟩,
   ⟨pageFault true, 0, ⟨2, 4, 16⟩, by decide⟩,
   ⟨parkedOn 2, 0, ⟨2, 4, 16⟩, by decide⟩,
   ⟨pageFault false, 0, ⟨2, 4, 16⟩, by decide⟩⟩


theorem witness_EngineClocks :
    (∃ (s : State) (e : Fin 24) (cap : Byte),
     let c := max 24 (min 50 cap.toNat)
     let f := min c (s.engine e).allow.toNat
     ((s.engine e).actual.toNat ≤ f ∨ s.fitsAt e f = true)) ∧
    (∃ (s : State) (e : Fin 24) (cap : Byte),
     let c := max 24 (min 50 cap.toNat)
     let f := min c (s.engine e).allow.toNat
     f < (s.engine e).actual.toNat ∧ s.fitsAt e f = false ∧ s.placer.state = .idle ∧ s.placer.freeze = false ∧
     s.power.state ≠ 2 ∧ s.img.loaded.isSome = true) ∧
    (∃ (s : State) (e : Fin 24) (i : Fin 59),
     i.val = e.val ∧ (s.engine e).out = false ∧ (s.engine e).outDue = none) ∧
    (∃ (i : Fin 59),
     24 ≤ i.val) :=
  ⟨⟨building, 0, 255, by dsimp only; decide⟩,
   ⟨placing fun p => { p with commit := 0, current := some (plan 1) }, 1, 0, by dsimp only; decide⟩,
   ⟨building, 0, 0, by decide⟩,
   ⟨24, by decide⟩⟩

theorem witness_SapControl :
    (∃ (s : State) (p : Fin 32),
     (s.sap p).state = .rateMismatch) ∧
    (∃ (s : State) (p : Fin 32),
     (s.sap p).state ≠ .rateMismatch) ∧
    (∃ (s : State) (p : Fin 32),
     let tb := s.tbOf (s.sap p).cfg.domain
     (∀ r ∈ (s.sap p).ramps, r.first + 2 * r.r ≤ (s.tb tb).blk.toNat + 1)) :=
  ⟨⟨sap5 fun x => { x with state := .rateMismatch, ramps := [⟨0, 1, 2, 3, 4⟩] }, 5, by decide⟩,
   ⟨sap5 fun x => { x with ramps := [⟨0, 1, 2, 1, 0⟩] }, 5, by decide⟩,
   ⟨sap5 fun x => { x with ramps := [⟨0, 1, 2, 1, 0⟩] }, 5, by dsimp only; decide⟩⟩

theorem witness_SapLines :
    (∃ (r : SapRec) (lines : List (List Bool)) (k t i : Nat),
     k < 4 ∧ t < r.slots ∧ r.slots ≤ 32 ∧ i < r.slotWidth ∧ r.dataWidth ≤ r.slotWidth ∧ r.slotWidth ≤ 32 ∧ r.format = 0 ∧
     r.firstBit + r.slots * r.slotWidth ≤ (nth lines k []).length ∧ i < r.dataWidth) ∧
    (∃ (r : SapRec) (k t i b : Nat),
     k < 4 ∧ t < r.slots ∧ r.slots ≤ 32 ∧ i < r.slotWidth ∧ r.dataWidth ≤ r.slotWidth ∧ r.slotWidth ≤ 32 ∧ r.format = 1 ∧
     r.dataWidth ≤ b) ∧
    (∃ (r : SapRec) (f : TxFrame) (k t i : Nat) (d : Option Word),
     k < 4 ∧ t < r.slots ∧ r.slots ≤ 32 ∧ i < r.slotWidth ∧ r.dataWidth ≤ r.slotWidth ∧ r.slotWidth ≤ 32 ∧ r.format = 2 ∧
     f.bits = none ∧ f.words.find? (fun w => w.1 == 32 * k + t) = some (32 * k + t, d)) :=
  ⟨⟨sapCfg 0, [[], [], [], List.replicate 257 true], 3, 7, 23, by decide⟩,
   ⟨sapCfg 1, 0, 0, 31, 24, by decide⟩,
   ⟨sapCfg 2, ⟨none, [(39, some 5)], none⟩, 1, 7, 31, some 5, by decide⟩⟩


theorem witness_SapFrameSlips :
    (∃ (s : State) (p : Fin 32) (f : SapFrame) (k0 t0 : Nat),
     let x := s.sap p
     let k := if x.missing = 1 then k0 + 1 else k0
    let fs := s.fsOf x.cfg.domain
     let phase : Int := (f.startPs * fs : Nat) - ((k + 1) * 1000000000000 : Nat)
     x.present = true ∧ x.cfg.master = false ∧ x.state = .running ∧ x.lastSample = some k0 ∧ x.lastStart = some t0 ∧
     f.bits = x.cfg.slots * x.cfg.slotWidth ∧ (periodOk fs f.periodPs = true ∨ x.badPeriods < 7) ∧ -3000000000000 ≤ 4 * phase ∧
     4 * phase < 3000000000000) ∧
    (∃ (s : State) (p : Fin 32) (f : SapFrame) (k0 t0 : Nat),
     let x := s.sap p
     let k := if x.missing = 1 then k0 + 1 else k0
    let fs := s.fsOf x.cfg.domain
     let phase : Int := (f.startPs * fs : Nat) - ((k + 1) * 1000000000000 : Nat)
     x.present = true ∧ x.cfg.master = false ∧ x.state = .running ∧ x.lastSample = some k0 ∧ x.lastStart = some t0 ∧
     f.bits = x.cfg.slots * x.cfg.slotWidth ∧ (periodOk fs f.periodPs = true ∨ x.badPeriods < 7) ∧ 3000000000000 ≤ 4 * phase) ∧
    (∃ (s : State) (p : Fin 32) (f : SapFrame) (k0 t0 : Nat),
     let x := s.sap p
     let k := if x.missing = 1 then k0 + 1 else k0
    let fs := s.fsOf x.cfg.domain
     let phase : Int := (f.startPs * fs : Nat) - ((k + 1) * 1000000000000 : Nat)
     x.present = true ∧ x.cfg.master = false ∧ x.state = .running ∧ x.lastSample = some k0 ∧ x.lastStart = some t0 ∧
     f.bits = x.cfg.slots * x.cfg.slotWidth ∧ (periodOk fs f.periodPs = true ∨ x.badPeriods < 7) ∧ 4 * phase < -3000000000000) ∧
    (∃ (s : State) (p : Fin 32) (f : SapFrame) (k0 t0 : Nat),
    let x := s.sap p
    let k := if x.missing = 1 then k0 + 1 else k0
    let fs := s.fsOf x.cfg.domain
    let phase : Int := (f.startPs * fs : Nat) - ((k + 1) * 1000000000000 : Nat)
    x.present = true ∧ x.cfg.master = false ∧ x.state = .running ∧ x.lastSample = some k0 ∧ x.lastStart = some t0 ∧
    f.bits = x.cfg.slots * x.cfg.slotWidth ∧ (periodOk fs f.periodPs = true ∨ x.badPeriods < 7) ∧ -3000000000000 ≤ 4 * phase ∧
    4 * phase < 3000000000000 ∧ x.missing = 1) :=
  ⟨⟨slave id, 5, sapFrame 100 (-749999904000) 10416666, 100, 17, by dsimp only; decide⟩,
   ⟨slave id, 5, sapFrame 100 750000096000 10416666, 100, 17, by dsimp only; decide⟩,
   ⟨slave id, 5, sapFrame 100 (-750000096000) 10416666, 100, 17, by dsimp only; decide⟩,
   ⟨slave fun x => { x with missing := 1 }, 5, sapFrame 101 0 20833332, 100, 17, by dsimp only; decide⟩⟩

theorem witness_SapClockTrouble :
    (∃ (s : State) (p : Fin 32),
     let x := s.sap p
     x.present = true ∧ x.cfg.master = false ∧ x.state = .running ∧ x.lastStart.isSome = true ∧ x.missing = 0) ∧
    (∃ (s : State) (p : Fin 32),
     let x := s.sap p
     x.present = true ∧ x.cfg.master = false ∧ x.state = .running ∧ x.lastStart.isSome = true ∧ 1 ≤ x.missing) ∧
    (∃ (s : State) (p : Fin 32),
     let x := s.sap p
     ∃ (f : SapFrame),
     x.present = true ∧ x.cfg.master = false ∧ x.state = .running ∧ x.lastStart.isSome = true ∧
     x.lastSample.isSome = true ∧ periodOk (s.fsOf x.cfg.domain) f.periodPs = false ∧ x.badPeriods = 7 ∧
     f.bits = x.cfg.slots * x.cfg.slotWidth) ∧
    (∃ (s : State) (p : Fin 32),
     let x := s.sap p
     ∃ (f : SapFrame),
     x.present = true ∧ x.cfg.master = true ∧ x.clocks = true ∧
     x.clkFirst ≤ nearestSample (s.fsOf x.cfg.domain) f.startPs) :=
  ⟨⟨slave id, 5, by dsimp only; decide⟩,
   ⟨slave fun x => { x with missing := 1 }, 5, by dsimp only; decide⟩,
   ⟨slave fun x => { x with badPeriods := 7 }, 5, sapFrame 100 0 30000000, by decide⟩,
   ⟨sap5 fun x => { x with cfg := { x.cfg with master := true }, clocks := true }, 5, sapFrame 100 0 30000000,
    by dsimp only; decide⟩⟩

theorem witness_NetLinks :
    (∃ (s : State) (n : Fin 4),
     let e := s.eth n
     e.linkUp = false ∧ e.present = true ∧ e.cfg.mode ≠ 0) ∧
    (∃ (s : State) (n : Fin 4) (w : Word),
     let e := s.eth n
     e.linkUp = true ∧ e.cfg.ip = w) ∧
    (∃ (s : State) (n : Fin 4) (w : Word),
     let e := s.eth n
     e.linkUp = true ∧ e.cfg.ip ≠ w) ∧
    (∃ (s : State) (u : Fin 256) (b : Bool),
     (s.srx u).legUp b = true) ∧
    (∃ (s : State) (n : Fin 4) (w : Word),
     let e := s.eth n
     e.linkUp = true ∧ (s.legsOn n).filter (fun q => w == 0 || q.2.2.group == w) = []) ∧
    (∃ (s : State) (n : Fin 4) (w : Word),
     let e := s.eth n
     ∃ q,
     e.linkUp = true ∧ (s.legsOn n).filter (fun q => w == 0 || q.2.2.group == w) = [q] ∧ isMcast q.2.2.group = true) ∧
    (∃ (s : State) (u : Fin 256) (b : Bool), ∃ r l,
     (s.srx u).cfg = some r ∧ r.leg b = some l ∧ (s.srx u).enable = true ∧ (s.eth l.port).linkUp = true ∧
     isMcast l.group = true) ∧
    (∃ (s : State) (u : Fin 256), ∃ r,
     (s.stx u).cfg = some r) :=
  ⟨⟨netted (fun e => { e with linkUp := false }) id, 1, by dsimp only; decide⟩,
   ⟨netted id id, 1, 0x0A0000FF, by dsimp only; decide⟩,
   ⟨netted id id, 1, 0, by dsimp only; decide⟩,
   ⟨netted id fun x => { x with legB := true }, 9, true, by decide⟩,
   ⟨netted id id, 1, 0x0A0000FF, by dsimp only; decide⟩,
   ⟨netted id id, 1, 0, (9, false, rxRec.legA), by dsimp only; decide⟩,
   ⟨netted id id, 9, false, rxRec, rxRec.legA, by decide⟩,
   ⟨run.onStx 9 fun x => { x with cfg := some txRec }, 9, txRec, by decide⟩⟩

theorem witness_PtpMessages :
    (∃ (s : State) (n : Fin 4) (m : PtpMsg) (q : Instr),
     let e := s.eth n
     let p2p := e.cfg.profile = 3
     e.linkUp = true ∧ e.cfg.ptpEn = true ∧ m.ethernet ≠ decide p2p ∧ m.sent = false ∧ (q = .sync n m ∨ q = .followUp n m ∨
     q = .delayReq n m ∨ q = .delayResp n m ∨ q = .pdelayReq n m ∨ q = .pdelayResp n m ∨ q = .pdelayRespFollowUp n m ∨
     (∃ st b, q = .announce n m st b))) ∧
    (∃ (s : State) (n : Fin 4) (m : PtpMsg),
     let e := s.eth n
     let fits := fun (type : BitVec 4) => e.malformed m type = false
     let parent := (e.ptpState = 2 ∨ e.ptpState = 3) ∧ m.source = e.parentSrc
     let p2p := e.cfg.profile = 3
     e.linkUp = true ∧ e.cfg.ptpEn = true ∧ m.ethernet = decide p2p ∧ fits 0 ∧ parent ∧ m.twoStep = false) ∧
    (∃ (s : State) (n : Fin 4) (m : PtpMsg),
     let e := s.eth n
     let fits := fun (type : BitVec 4) => e.malformed m type = false
     let parent := (e.ptpState = 2 ∨ e.ptpState = 3) ∧ m.source = e.parentSrc
     let p2p := e.cfg.profile = 3
     e.linkUp = true ∧ e.cfg.ptpEn = true ∧ m.ethernet = decide p2p ∧ fits 0 ∧ parent ∧ m.twoStep = true) ∧
    (∃ (s : State) (n : Fin 4) (m : PtpMsg),
     let e := s.eth n
     let fits := fun (type : BitVec 4) => e.malformed m type = false
     let parent := (e.ptpState = 2 ∨ e.ptpState = 3) ∧ m.source = e.parentSrc
     let p2p := e.cfg.profile = 3
     ∃ t2 c,
     e.linkUp = true ∧ e.cfg.ptpEn = true ∧ m.ethernet = decide p2p ∧ fits 8 ∧ parent ∧
     e.syncWait = some (m.seqId, t2, c)) ∧
    (∃ (s : State) (n : Fin 4) (m : PtpMsg) (q : Instr),
     let e := s.eth n
     let fits := fun (type : BitVec 4) => e.malformed m type = false
     let p2p := e.cfg.profile = 3
     e.linkUp = true ∧ e.cfg.ptpEn = true ∧ m.ethernet = decide p2p ∧ 
     (q = .sync n m ∧ ¬fits 0 ∨ q = .followUp n m ∧ ¬fits 8 ∨ q = .delayResp n m ∧ ¬fits 9 ∨
      q = .pdelayRespFollowUp n m ∧ ¬fits 0xA ∨ (∃ st b, q = .announce n m st b) ∧ ¬fits 0xB ∨
      m.sent = false ∧ (q = .delayReq n m ∧ ¬fits 1 ∨ q = .pdelayReq n m ∧ ¬fits 2 ∨ q = .pdelayResp n m ∧ ¬fits 3))) ∧
    (∃ (s : State) (n : Fin 4) (m : PtpMsg),
     let e := s.eth n
     let p2p := e.cfg.profile = 3
     e.linkUp = true ∧ e.cfg.ptpEn = true ∧ m.ethernet = decide p2p ∧ m.sent = true ∧ e.txts.length < 64 ∧ ¬p2p) ∧
    (∃ (s : State) (n : Fin 4) (m : PtpMsg),
     let e := s.eth n
     let p2p := e.cfg.profile = 3
     e.linkUp = true ∧ e.cfg.ptpEn = true ∧ m.ethernet = decide p2p ∧ m.sent = true ∧ e.txts.length < 64 ∧ p2p) ∧
    (∃ (s : State) (n : Fin 4) (m : PtpMsg),
     let e := s.eth n
     let fits := fun (type : BitVec 4) => e.malformed m type = false
     let p2p := e.cfg.profile = 3
     e.linkUp = true ∧ e.cfg.ptpEn = true ∧ m.ethernet = decide p2p ∧ m.sent = false ∧ fits 1 ∧ ¬p2p ∧
     e.ptpState = 4 ∧ s.slaveOnly n = false) ∧
    (∃ (s : State) (n : Fin 4) (m : PtpMsg),
     let e := s.eth n
     let fits := fun (type : BitVec 4) => e.malformed m type = false
     let p2p := e.cfg.profile = 3
     e.linkUp = true ∧ e.cfg.ptpEn = true ∧ m.ethernet = decide p2p ∧ m.sent = false ∧ fits 2) ∧
    (∃ (s : State) (n : Fin 4) (m : PtpMsg),
     let e := s.eth n
     let fits := fun (type : BitVec 4) => e.malformed m type = false
     let p2p := e.cfg.profile = 3
     ∃ t3 t1 t2,
     e.linkUp = true ∧ e.cfg.ptpEn = true ∧ m.ethernet = decide p2p ∧ fits 9 ∧ ¬p2p ∧
     e.delayWait = some (m.seqId, t3) ∧ e.lastSync = some (t1, t2)) ∧
    (∃ (s : State) (n : Fin 4) (m : PtpMsg),
     let e := s.eth n
     let fits := fun (type : BitVec 4) => e.malformed m type = false
     let p2p := e.cfg.profile = 3
     ∃ t1,
     e.linkUp = true ∧ e.cfg.ptpEn = true ∧ m.ethernet = decide p2p ∧ m.sent = false ∧ fits 3 ∧ p2p ∧
     e.delayWait = some (m.seqId, t1)) ∧
    (∃ (s : State) (n : Fin 4) (m : PtpMsg),
     let e := s.eth n
     let fits := fun (type : BitVec 4) => e.malformed m type = false
     let p2p := e.cfg.profile = 3
     ∃ t1 t2 t4 c,
     e.linkUp = true ∧ e.cfg.ptpEn = true ∧ m.ethernet = decide p2p ∧ fits 0xA ∧ p2p ∧
     e.delayWait = some (m.seqId, t1) ∧ e.pdelayWait = some (m.seqId, t2, t4, c)) ∧
    (∃ (s : State) (n : Fin 4) (m : PtpMsg),
     let e := s.eth n
     let fits := fun (type : BitVec 4) => e.malformed m type = false
     let p2p := e.cfg.profile = 3
     ∃ st,
     e.linkUp = true ∧ e.cfg.ptpEn = true ∧ m.ethernet = decide p2p ∧ fits 0xB ∧ st ≠ 4 ∧
     (e.ptpState = 3 → st = 3)) ∧
    (∃ (s : State) (n : Fin 4) (m : PtpMsg),
     let e := s.eth n
     let fits := fun (type : BitVec 4) => e.malformed m type = false
     let p2p := e.cfg.profile = 3
     e.linkUp = true ∧ e.cfg.ptpEn = true ∧ m.ethernet = decide p2p ∧ fits 0xB ∧ s.slaveOnly n = true ∧
     e.ptpState ≠ 4) :=
  ⟨⟨netted (ptpEth 2) id, 1, { ptpMsg 0 with ethernet := true }, .sync 1 { ptpMsg 0 with ethernet := true },
    by dsimp only; decide⟩,
   ⟨netted (ptpEth 2) id, 1, ptpMsg 0, by dsimp only; decide⟩,
   ⟨netted (ptpEth 2) id, 1, { ptpMsg 0 with twoStep := true }, by dsimp only; decide⟩,
   ⟨netted (ptpEth 2) id, 1, ptpMsg 8, 1, 2, by dsimp only; decide⟩,
   ⟨netted (ptpEth 3) id, 1, { ptpMsg 0 with version := 1 }, .sync 1 { ptpMsg 0 with version := 1 },
    by dsimp only; decide⟩,
   ⟨netted (ptpEth 2) id, 1, { ptpMsg 1 with sent := true }, by dsimp only; decide⟩,
   ⟨netted (p2pEth 2) id, 1, { ptpMsg 2 with sent := true, ethernet := true }, by dsimp only; decide⟩,
   ⟨netted (fun e => { ptpEth 4 e with cfg := { e.cfg with master := true } }) id, 2, ptpMsg 1, by dsimp only; decide⟩,
   ⟨netted (ptpEth 2) id, 1, ptpMsg 2, by dsimp only; decide⟩,
   ⟨netted (ptpEth 2) id, 1, ptpMsg 9, 100, 1, 2, by dsimp only; decide⟩,
   ⟨netted (p2pEth 2) id, 1, { ptpMsg 3 with majorSdo := 1, ethernet := true }, 100, by dsimp only; decide⟩,
   ⟨netted (p2pEth 2) id, 1, { ptpMsg 10 with majorSdo := 1, ethernet := true }, 100, 2, (-5), 3, by dsimp only; decide⟩,
   ⟨netted (ptpEth 3) id, 1, ptpMsg 11, 3, by dsimp only; decide⟩,
   ⟨netted (ptpEth 3) id, 1, ptpMsg 11, by dsimp only; decide⟩⟩


theorem witness_PtpTimers :
    (∃ (s : State) (n : Fin 4),
     let e := s.eth n
     e.ptpState = 3 ∧ s.slaveOnly n = true) ∧
    (∃ (s : State) (n : Fin 4),
     let e := s.eth n
     e.linkUp = true ∧ e.cfg.ptpEn = true ∧ e.ptpState = 4 ∧ s.slaveOnly n = false ∧ e.txts.length < 64) ∧
    (∃ (s : State) (n : Fin 4),
     let e := s.eth n
     e.linkUp = true ∧ e.cfg.ptpEn = true ∧ e.ptpState = 4 ∧ s.slaveOnly n = false ∧ 64 ≤ e.txts.length) ∧
    (∃ (s : State) (n : Fin 4),
     let e := s.eth n
     e.ptpState ≠ 4) :=
  ⟨⟨netted (ptpEth 3) id, 1, by dsimp only; decide⟩,
   ⟨netted (fun e => { ptpEth 4 e with cfg := { e.cfg with master := true } }) id, 2, by dsimp only; decide⟩,
   ⟨netted (fun e => { ptpEth 4 e with cfg := { e.cfg with master := true }, txts := List.replicate 64 ⟨1, 2, 3,
    instant⟩ }) id, 2, by dsimp only; decide⟩,
   ⟨netted (ptpEth 3) id, 1, by dsimp only; decide⟩⟩

theorem witness_StreamDatagrams :
    (∃ (s : State) (n : Fin 4) (k : RtpPkt),
     (s.eth n).linkUp = true ∧ (s.eth n).takesFrame k = false) ∧
    (∃ (s : State) (n : Fin 4) (k : RtpPkt),
     let hits := (s.legsOn n).filter fun q => (((s.srx q.1).cfg.map (fun r => legTakes r q.2.2 k)).getD false)
     (s.eth n).linkUp = true ∧ (hits = [] ∨ s.power.state ≠ 4)) ∧
    (∃ (s : State) (n : Fin 4) (k : RtpPkt) (u : Fin 256) (r : RxRec) (l : RxLeg),
     let x := s.srx u
     let hits := (s.legsOn n).filter fun q => (((s.srx q.1).cfg.map (fun r => legTakes r q.2.2 k)).getD false)
     let r0 := nearestIndex (s.mediaIndex r.domain k.sinceNs) (k.ts - r.tsOffset).toNat
     (s.eth n).linkUp = true ∧ (s.eth n).takesFrame k = true ∧ hits = [(u, false, l)] ∧ s.power.state = 4 ∧ x.cfg = some r ∧ r.malformed k r0 = true) ∧
    (∃ (s : State) (n : Fin 4) (k : RtpPkt) (u : Fin 256) (r : RxRec) (l : RxLeg),
     let x := s.srx u
     let hits := (s.legsOn n).filter fun q => (((s.srx q.1).cfg.map (fun r => legTakes r q.2.2 k)).getD false)
     let r0 := nearestIndex (s.mediaIndex r.domain k.sinceNs) (k.ts - r.tsOffset).toNat
     (s.eth n).linkUp = true ∧ (s.eth n).takesFrame k = true ∧ hits = [(u, false, l)] ∧ s.power.state = 4 ∧ x.cfg = some r ∧
     r.malformed k r0 = false ∧ x.newest = some k.seq ∧ k.seq ∈ x.marked ∧ x.legA = false) ∧
    (∃ (s : State) (n : Fin 4) (k : RtpPkt) (u : Fin 256) (r : RxRec) (l : RxLeg),
     let x := s.srx u
     let hits := (s.legsOn n).filter fun q => (((s.srx q.1).cfg.map (fun r => legTakes r q.2.2 k)).getD false)
     let r0 := nearestIndex (s.mediaIndex r.domain k.sinceNs) (k.ts - r.tsOffset).toNat
     (s.eth n).linkUp = true ∧ (s.eth n).takesFrame k = true ∧ hits = [(u, false, l)] ∧ s.power.state = 4 ∧ x.cfg = some r ∧
     r.malformed k r0 = false ∧ x.newest = none ∧ x.legA = false) ∧
    (∃ (s : State) (n : Fin 4) (k : RtpPkt) (u : Fin 256) (r : RxRec) (l : RxLeg),
     let x := s.srx u
     let hits := (s.legsOn n).filter fun q => (((s.srx q.1).cfg.map (fun r => legTakes r q.2.2 k)).getD false)
     let r0 := nearestIndex (s.mediaIndex r.domain k.sinceNs) (k.ts - r.tsOffset).toNat
     let limit := s.mediaIndex r.domain k.sinceNs + r.rxDelay + 2 * r.samples + 16
     (s.eth n).linkUp = true ∧ (s.eth n).takesFrame k = true ∧ hits = [(u, false, l)] ∧ s.power.state = 4 ∧ x.cfg = some r ∧
     r.malformed k r0 = false ∧ x.newest = none ∧
     (∀ i, i < r.samples → s.sourceClosed r.domain (r0 + r.rxDelay + i) = false ∧ r0 + r.rxDelay + i ≤ limit)) :=
  ⟨⟨netted id id, 1, { packet with payload := List.replicate 1461 0 }, by decide⟩,
   ⟨netted id id, 1, { packet with srcIp := 5 }, by dsimp only; decide⟩,
   ⟨netted id id, 1, { packet with version := 1 }, 9, rxRec, rxRec.legA, by dsimp only; decide⟩,
   ⟨netted id fun x => { x with newest := some 100, marked := [100] }, 1, packet, 9, rxRec, rxRec.legA,
    by dsimp only; decide⟩,
   ⟨netted id id, 1, packet, 9, rxRec, rxRec.legA, by dsimp only; decide⟩,
   ⟨netted id id, 1, packet, 9, rxRec, rxRec.legA, by dsimp only; decide⟩⟩

theorem witness_StreamHeaders :
    (∃ (e : Eth) (l : Bool × TxLeg), e.cfg.mac.length = 6 ∧ l.2.mac.length = 6 ∧ isMcast l.2.dest = true) ∧
    (∃ (e : Eth) (l : Bool × TxLeg), e.cfg.mac.length = 6 ∧ l.2.mac.length = 6 ∧ isMcast l.2.dest = false) :=
  ⟨⟨{ Eth.reset with cfg := { Eth.reset.cfg with mac := List.replicate 6 2 } }, (false, ⟨0xE0000108, 5004, 5004, 1, List.replicate 6 0⟩),
    by decide⟩,
   ⟨{ Eth.reset with cfg := { Eth.reset.cfg with mac := List.replicate 6 2 } }, (true, ⟨0x0A000008, 5004, 5004, 1, List.replicate 6 4⟩),
    by decide⟩⟩


theorem witness_LaneStates :
    (∃ (s : State) (l : Fin 4),
     let x := s.lane l
     x.state = .training) ∧
    (∃ (s : State) (l : Fin 4) (h : HelloMsg),
     let x := s.lane l
     let greets := x.state = .hello ∨ x.state = .down ∨ x.state = .refused
     greets ∧ s.helloFault l h = none) ∧
    (∃ (s : State) (l : Fin 4) (h : HelloMsg),
     let x := s.lane l
     let greets := x.state = .hello ∨ x.state = .down ∨ x.state = .refused
     ∃ f,
     greets ∧ s.helloFault l h = some f) ∧
    (∃ (s : State) (l : Fin 4),
     let x := s.lane l
     x.state = .hello ∧ x.agreed = true ∧ (∀ a ∈ x.failAt, a + Config.ms ≤ s.now)) ∧
    (∃ (s : State) (l : Fin 4),
     let x := s.lane l
     let greets := x.state = .hello ∨ x.state = .down ∨ x.state = .refused
     (greets ∨ x.state = .up)) :=
  ⟨⟨laned 1 (inState .training) id, 2, by dsimp only; decide⟩,
   ⟨laned 1 (inState .refused) id, 2, hello 2, by dsimp only; decide⟩,
   ⟨laned 1 (inState .down) id, 2, hello 3, 0, by decide⟩,
   ⟨laned 1 (fun x => { x with state := .hello, agreed := true, failAt := [929440000000] }) id, 2,
    by dsimp only; decide⟩,
   ⟨laned 1 (inState .refused) id, 2, by dsimp only; decide⟩⟩

theorem witness_LaneRetransmission :
    (∃ (s : State) (l : Fin 4) (a : BitVec 16) (j : Nat),
     let x := s.lane l
     x.state = .up ∧ x.window.length ≤ 64 ∧ x.window.findIdx? (fun p => p.1 == a) = some j) ∧
    (∃ (s : State) (l : Fin 4),
     let x := s.lane l
     let recent := x.failAt.filter fun t => s.now < t + Config.ms
     x.state = .up ∧ x.window.length ≤ 64 ∧ x.window ≠ [] ∧ recent.length < 15) ∧
    (∃ (s : State) (l : Fin 4),
     let x := s.lane l
     let recent := x.failAt.filter fun t => s.now < t + Config.ms
     x.state = .up ∧ x.window.length ≤ 64 ∧ x.window ≠ [] ∧ 15 ≤ recent.length) ∧
    (∃ (s : State) (l : Fin 4),
     let x := s.lane l
     let recent := x.failAt.filter fun t => s.now < t + Config.ms
     x.state = .up ∧ x.window.length ≤ 64 ∧ recent.length < 15) ∧
    (∃ (s : State) (l : Fin 4),
     let x := s.lane l
     let recent := x.failAt.filter fun t => s.now < t + Config.ms
     x.state = .up ∧ x.window.length ≤ 64 ∧ 15 ≤ recent.length) :=
  ⟨⟨laned 1 (fun x => { x with state := .up, window := window 64, failAt := List.replicate 14 999999999999 }) id, 2,
    8, 3, by dsimp only; decide⟩,
   ⟨laned 1 (fun x => { x with state := .up, window := window 64, failAt := List.replicate 14 999999999999 }) id, 2,
    by dsimp only; decide⟩,
   ⟨laned 1 (fun x => { x with state := .up, window := window 64, failAt := List.replicate 15 999999999999 }) id, 2,
    by dsimp only; decide⟩,
   ⟨laned 1 (fun x => { x with state := .up, window := window 64, failAt := List.replicate 14 999999999999 }) id, 2,
    by dsimp only; decide⟩,
   ⟨laned 1 (fun x => { x with state := .up, window := window 64, failAt := List.replicate 15 999999999999 }) id, 2,
    by dsimp only; decide⟩⟩

theorem witness_LaneTraffic :
    (∃ (s : State) (l u : Fin 4),
     let x := s.lane l
     x.state = .up ∧ x.cfg.timeXfer = true ∧ (∀ v, ((s.tb v).source = 5 ∧ (s.tb v).index = l.val) ↔ v = u)) ∧
    (∃ (s : State) (l : Fin 4) (b : BitVec 48),
     let x := s.lane l
     let due := (s.tb (s.tbOf x.cfg.domain)).blk.toNat - 1
     x.state = .up ∧ (x.cfg.role = 1 ∨ x.cfg.role = 2 ∨ x.cfg.role = 3 ∨ x.cfg.role = 6) ∧ 0 < x.cfg.rxCh ∧
     (due < b.toNat ∨ (b.toNat = due ∧ x.published = false))) ∧
    (∃ (s : State) (l : Fin 4) (n : NodeRec),
     let x := s.lane l
     let due := (s.tb (s.tbOf x.cfg.domain)).blk.toNat - 1
     x.state = .up ∧ x.published = false ∧ 0 < x.cfg.rxCh ∧ x.gap.run = 0 ∧ x.gap.since = 8 ∧
     s.sourcesOf (isLane l) = [n] ∧ n.bodyA < x.cfg.rxCh ∧ x.rx.find? (fun r => r.1 == due) = none) :=
  ⟨⟨laned 6 (fun x => { x with state := .up }) id, 2, 0, by dsimp only; decide⟩,
   ⟨laned 6 (fun x => { x with state := .up }) id, 2, 999, by dsimp only; decide⟩,
   ⟨laned 6 (fun x => { x with state := .up }) id, 2, { src with bodyA := 1 }, by dsimp only; decide⟩⟩

theorem witness_PairBreath :
    (∃ (s : State),
     s.pairCfg.isSome = true ∧ s.red.pair ≠ .off ∧ s.red.missed < 3) ∧
    (∃ (s : State),
     s.pairCfg.isSome = true ∧ s.red.pair ≠ .off ∧ s.red.missed = 3 ∧ s.red.pair = .paired ∧ s.red.due = none) ∧
    (∃ (s : State) (b : BreathMsg),
     let heard := b.rank ≠ s.red.rank ∧ s.red.pair = .paired ∧ b.lost = false
     s.pairCfg.isSome = true ∧ s.red.pair ≠ .off ∧ heard ∧ s.red.duetBad = none ∧ s.digestMatch b = some true) ∧
    (∃ (s : State) (b : BreathMsg),
     let heard := b.rank ≠ s.red.rank ∧ s.red.pair = .paired ∧ b.lost = false
     s.pairCfg.isSome = true ∧ s.red.pair ≠ .off ∧ heard ∧ s.red.duetBad = none ∧ s.digestMatch b = some false ∧
     b.pairState = 4 ∧ s.red.due = none) ∧
    (∃ (s : State) (b : BreathMsg),
     let heard := b.rank ≠ s.red.rank ∧ s.red.pair = .paired ∧ b.lost = false
     ∃ m o p,
     s.pairCfg.isSome = true ∧ s.red.pair ≠ .off ∧ heard ∧ s.red.duetBad = some (m, o, p) ∧ b.block = m + 1) :=
  ⟨⟨paired .paired id, by decide⟩,
   ⟨paired .paired (fun r => { r with missed := 3 }), by decide⟩,
   ⟨paired .paired id, breath 5 0xAA 0, by dsimp only; decide⟩,
   ⟨paired .paired id, breath 5 0xAB 0, by dsimp only; decide⟩,
   ⟨paired .paired (fun r => { r with duetBad := some (5, true, false) }), breath 6 0xBC 0, 5, true, false,
    by decide⟩⟩

theorem witness_PairMessages :
    (∃ (s : State) (p : PAddr), ∃ n,
     s.pairCfg.isSome = true ∧ s.node? (paddrNode p) = some n) ∧
    (∃ (s : State) (b : BitVec 48) (k : Fin 8),
     s.mirrored = true ∧ (k, b) ∉ s.red.healthSeen) ∧
    (∃ (s : State) (b : BitVec 48) (k : Fin 8),
     (s.mirrored = false ∨ (k, b) ∈ s.red.healthSeen)) ∧
    (∃ (s : State),
     s.pairCfg.isSome = true ∧ s.red.pair.transmits = true ∧ s.red.pair ≠ .off) ∧
    (∃ (s : State),
     s.pairCfg.isSome = true ∧ s.red.pair = .joining ∧ s.red.seedPhase = 1) ∧
    (∃ (s : State),
     s.pairCfg.isSome = true ∧ s.red.pair = .joining ∧ s.red.seedPhase = 2) :=
  ⟨⟨paired .paired id, paddrOf 16 1, proc, by decide⟩,
   ⟨paired .paired id, 1003, 3, by decide⟩,
   ⟨paired .paired (fun r => { r with healthSeen := [(3, 1003)] }), 1003, 3, by decide⟩,
   ⟨paired .paired id, by decide⟩,
   ⟨paired .joining (fun r => { r with seedPhase := 1 }), by decide⟩,
   ⟨paired .joining (fun r => { r with seedPhase := 2 }), by decide⟩⟩

theorem witness_EngineWatch :
    (∃ (s : State) (e : Fin 24) (bad : Bool),
     let g := s.engine e
     bad = true ∧ g.out = false ∧ g.outDue = none) ∧
    (∃ (bad : Bool),
     bad = false) :=
  ⟨⟨homed, 23, true, by dsimp only; decide⟩,
   ⟨false, rfl⟩⟩

theorem witness_AmpControl :
    (∃ (s : State) (c : Fin 16),
     let a := s.amp c
     a.present = true ∧ a.state = .off) ∧
    (∃ (s : State) (c : Fin 16),
     let a := s.amp c
     a.present = true ∧ a.state ≠ .off) ∧
    (∃ (w : BitVec 16), ∃ b, ∃ (i : Instr),
     ((b = true ∧ i = .ampGo w) ∨ (b = false ∧ i = .ampHalt w))) ∧
    (∃ (s : State) (c : Fin 16),
     let a := s.amp c
     (a.state = .shutdown ∨ a.state = .testing)) ∧
    (∃ (s : State) (c : Fin 16),
     let a := s.amp c
     a.state = .latched) ∧
    (∃ (s : State) (c : Fin 16),
     let a := s.amp c
     a.state ≠ .latched) ∧
    (∃ (s : State) (c : Fin 16),
     let a := s.amp c
     a.state = .running) :=
  ⟨⟨amp3 fun a => { a with state := .off }, 3, by dsimp only; decide⟩,
   ⟨amp3 fun a => { a with state := .running }, 3, by dsimp only; decide⟩,
   ⟨0x8, true, .ampGo 8, by decide⟩,
   ⟨amp3 fun a => { a with state := .shutdown }, 3, by dsimp only; decide⟩,
   ⟨amp3 fun a => { a with state := .latched }, 3, by dsimp only; decide⟩,
   ⟨amp3 fun a => { a with state := .off }, 3, by dsimp only; decide⟩,
   ⟨amp3 fun a => { a with state := .running }, 3, by dsimp only; decide⟩⟩

theorem witness_AmpProtection :
    (∃ (s : State) (c : Fin 16) (positive : Bool) (count : Nat),
     let a := s.amp c
     let drives := a.state = .starting ∨ a.state = .running ∨ a.state = .stopping
     drives ∧ a.blanked count = false ∧ a.legHigh count = positive ∧ a.limNow = false) ∧
    (∃ (s : State) (c : Fin 16) (count : Nat),
     let a := s.amp c
     let drives := a.state = .starting ∨ a.state = .running ∨ a.state = .stopping
     drives ∧ a.blanked count = true) ∧
    (∃ (s : State) (c : Fin 16) (positive : Bool) (count : Nat),
     let a := s.amp c
     let drives := a.state = .starting ∨ a.state = .running ∨ a.state = .stopping
     drives ∧ a.blanked count = false ∧ a.legHigh count = positive ∧ a.limNow = true) ∧
    (∃ (s : State) (c : Fin 16),
     let a := s.amp c
     a.state = .running ∧ a.limNow = false ∧ a.limWin.length < 256 ∧ 2 * a.minPulse.toNat ≤ a.period) ∧
    (∃ (s : State) (c : Fin 16),
     let a := s.amp c
     let drives := a.state = .starting ∨ a.state = .running ∨ a.state = .stopping
     drives ∧ a.limNow = true ∧ a.limRun = 63 ∧ a.resumed = false) ∧
    (∃ (s : State) (c : Fin 16),
     let a := s.amp c
     let drives := a.state = .starting ∨ a.state = .running ∨ a.state = .stopping
     drives ∧ a.resumed = false) ∧
    (∃ (s : State) (c : Fin 16),
     let a := s.amp c
     a.state = .shutdown ∧ a.braced = false) ∧
    (∃ (s : State) (c : Fin 16),
     let a := s.amp c
     a.state = .shutdown ∧ a.braced = true) :=
  ⟨⟨amp3 fun a => { a with state := .running }, 3, true, 1024, by dsimp only; decide⟩,
   ⟨amp3 fun a => { a with state := .stopping, blank := 8 }, 3, 516, by dsimp only; decide⟩,
   ⟨amp3 fun a => { a with state := .stopping, limNow := true, limRun := 63 }, 3, true, 1024, by dsimp only; decide⟩,
   ⟨amp3 fun a => { a with state := .running }, 3, by dsimp only; decide⟩,
   ⟨amp3 fun a => { a with state := .stopping, limNow := true, limRun := 63 }, 3, by dsimp only; decide⟩,
   ⟨amp3 fun a => { a with state := .running }, 3, by dsimp only; decide⟩,
   ⟨amp3 fun a => { a with state := .shutdown }, 3, by dsimp only; decide⟩,
   ⟨amp3 fun a => { a with state := .shutdown, braced := true }, 3, by dsimp only; decide⟩⟩

theorem witness_GateOutputs :
    (∃ (a : Amp), a.en = false) ∧
    (∃ (a : Amp) (count j : Nat),
     j ≤ count ∧ count < j + max 1 a.dead.toNat ∧ (a.gates count).aHigh = true ∧ (a.gates count).bLow = true) ∧
    (∃ (a : Amp) (count n : Nat), a.en = true ∧ a.sinceEdge count = some n ∧ a.dead.toNat ≤ n) ∧
    (∃ (a : Amp) (count n : Nat), a.sinceEdge count = some n ∧ n < a.dead.toNat) :=
  ⟨⟨driving false, by decide⟩,
   ⟨driving true, 1024, 1020, by decide⟩,
   ⟨driving true, 532, 20, by decide⟩,
   ⟨driving true, 531, 19, by decide⟩⟩


theorem witness_DiagnosticRun :
    (∃ (s : State) (c : Fin 16),
     let a := s.amp c
     a.state = .diag) ∧
    (∃ (s : State) (c : Fin 16) (points : List DiagPoint),
     let a := s.amp c
     let ps := points.take (if a.runQuick then 3 else 10)
     let cls := classOf a.shortM.toNat a.openM.toNat ps
     a.state = .testing ∧ (cls = 1 ∨ cls = 4) ∧ a.present = true) ∧
    (∃ (s : State) (c : Fin 16) (points : List DiagPoint),
     let a := s.amp c
     let ps := points.take (if a.runQuick then 3 else 10)
     let cls := classOf a.shortM.toNat a.openM.toNat ps
     a.state = .testing ∧ cls ≠ 1 ∧ cls ≠ 4 ∧ a.retries < 7) ∧
    (∃ (s : State) (c : Fin 16) (points : List DiagPoint),
     let a := s.amp c
     let ps := points.take (if a.runQuick then 3 else 10)
     let cls := classOf a.shortM.toNat a.openM.toNat ps
     a.state = .testing ∧ cls ≠ 1 ∧ cls ≠ 4 ∧ 7 ≤ a.retries) :=
  ⟨⟨amp3 fun a => { a with state := .diag }, 3, by dsimp only; decide⟩,
   ⟨amp3 fun a => { a with state := .testing }, 3, diagPoints 3 199995, by dsimp only; decide⟩,
   ⟨amp3 fun a => { a with state := .testing, retries := 6 }, 3, diagPoints 3 500, by dsimp only; decide⟩,
   ⟨amp3 fun a => { a with state := .testing, retries := 7 }, 3, diagPoints 3 999, by dsimp only; decide⟩⟩

theorem witness_CrossbarRequests :
    (∃ (s : State) (r : XRead) (b : Fin 21),
     b.val < 16 ∧ s.xbar.badCe = [] ∧ s.xbar.badUe = [] ∧ s.mem.wf = true ∧ s.xbar.bankQ = [] ∧ r.cycle = none ∧
     s.xTakes r.master r.addr.toNat r.len = true ∧
     s.xRefusal r.master.val r.addr.toNat r.len false false = none ∧ targetOf r.addr.toNat = some b) ∧
    (∃ (s : State) (r : XRead) (b : Fin 21), ∃ c,
     b.val < 16 ∧ s.xbar.badCe = [] ∧ s.xbar.badUe = [] ∧ s.mem.wf = true ∧ s.xbar.bankQ = [] ∧ r.cycle = none ∧
     s.xTakes r.master r.addr.toNat r.len = true ∧
     s.xRefusal r.master.val r.addr.toNat r.len false false = some c ∧ (c ≠ .denied ∨ targetOf r.addr.toNat ≠ some 18)) ∧
    (∃ (s : State) (w : XWrite) (b : Fin 21),
     b.val < 16 ∧ s.xbar.badCe = [] ∧ s.xbar.badUe = [] ∧ s.mem.wf = true ∧ s.xbar.bankQ = [] ∧ w.cycle = none ∧
     s.xTakes w.master w.addr.toNat w.len = true ∧
     s.xRefusal w.master.val w.addr.toNat w.len true false = none ∧ (∀ o ∈ s.xbar.outstanding, o.beats = 0) ∧
     targetOf w.addr.toNat = some b ∧ w.len ≤ 64 ∧ w.bytes.length = w.len) ∧
    (∃ (s : State) (x : XAtomic) (b : Fin 21),
     b.val < 16 ∧ s.xbar.badCe = [] ∧ s.xbar.badUe = [] ∧ s.mem.wf = true ∧ s.xbar.bankQ = [] ∧ x.cycle = none ∧
     s.xTakes x.master x.addr.toNat 4 = true ∧
     s.xRefusal x.master.val x.addr.toNat 4 true true = none ∧ targetOf x.addr.toNat = some b) :=
  ⟨⟨xbared id, ⟨30, 3, 0x90004, 4, none⟩, 0, by decide⟩,
   ⟨xbared id, ⟨30, 3, 0x90002, 4, none⟩, 3, .decode, by decide⟩,
   ⟨xbared id, ⟨30, 3, 0x90004, 4, [none, some 9, some 8, some 7], none⟩, 0, by decide⟩,
   ⟨xbared id, ⟨30, 3, 0x90004, 5, none⟩, 0, by decide⟩⟩

theorem witness_BankArbitration :
    (∃ (s : State) (r : XRead) (w : XWrite) (c : Nat) (b : Fin 21), s.xbar.bankQ = [] ∧ s.xbar.bankFree = [] ∧
     s.xbar.outstanding = [] ∧ s.xbar.badCe = [] ∧ s.xbar.badUe = [] ∧ s.mem.wf = true ∧
     (∀ f ∈ s.xbar.fences, f.1 ≠ r.master) ∧ r.master ≠ w.master ∧ r.cycle = some c ∧ w.cycle = some c ∧ b.val < 16 ∧
     targetOf r.addr.toNat = some b ∧ targetOf w.addr.toNat = some b ∧ r.addr.toNat / bankBytes = w.addr.toNat / bankBytes ∧
     s.xTakes r.master r.addr.toNat r.len = true ∧ s.xTakes w.master w.addr.toNat w.len = true ∧ s.xRefusal r.master.val r.addr.toNat r.len false false = none ∧
     s.xRefusal w.master.val w.addr.toNat w.len true false = none ∧ w.len ≤ 64 ∧ w.bytes.length = w.len) ∧
    (∃ (s : State) (p q : BankReq) (bp bq : List Byte) (b : Fin 21),
     s.xbar.bankQ = [p, q] ∧ s.xbar.bankFree = [] ∧ s.mem.wf = true ∧ p.addr = q.addr ∧ p.since = q.since ∧
     p.master ≠ q.master ∧ targetOf p.addr.toNat = some b ∧ b.val < 16 ∧ p.op = .write (bp.map some) ∧
     q.op = .write (bq.map some) ∧ bp.length = 4 ∧ bq.length = 4 ∧ p.lost = 8 ∧ q.lost = 7) ∧
    (∃ (s : State) (p q : BankReq) (r : XRead) (b : Fin 21), s.xbar.bankQ = [p, q] ∧ s.xbar.bankFree = [] ∧
     q.since = p.since + 1 ∧ targetOf p.addr.toNat = some b ∧ b.val < 16 ∧ targetOf q.addr.toNat = some b ∧
     p.addr.toNat / bankBytes = q.addr.toNat / bankBytes ∧ r.cycle = some (p.since + 2) ∧ s.xTakes r.master r.addr.toNat r.len = false ∧
     p.op = .atomic 1 5) ∧
    (∃ (s : State) (p q : BankReq) (r : XRead) (b : Fin 21), s.xbar.bankQ = [p, q] ∧ s.xbar.bankFree = [] ∧
     q.since = p.since + 1 ∧ targetOf p.addr.toNat = some b ∧ b.val < 16 ∧ targetOf q.addr.toNat = some b ∧
     p.addr.toNat / bankBytes = q.addr.toNat / bankBytes ∧ r.cycle = some (p.since + 2) ∧ s.xTakes r.master r.addr.toNat r.len = false ∧
     p.op = .read 64) :=
  ⟨⟨xbared id, ⟨30, 3, 0x90004, 4, some 7⟩, ⟨29, 3, 0x90004, 4, [none, some 9, some 8, some 7], some 7⟩, 7, 0, by decide⟩,
   ⟨queued 8 (.write [some 1, some 2, some 3, some 4]) 9, queuedReq 30 8 (.write [some 1, some 2, some 3, some 4]) 9,
    queuedReq 29 7 (.write [some 5, some 6, some 7, some 8]) 9, [1, 2, 3, 4], [5, 6, 7, 8], 0, by decide⟩,
   ⟨queued 0 (.atomic 1 5) 8, queuedReq 30 0 (.atomic 1 5) 8, queuedReq 29 7 (.write [some 5, some 6, some 7, some 8]) 9,
    ⟨24, 1, 0x90000, 4, some 10⟩, 0, by decide⟩,
   ⟨queued 0 (.read 64) 8, queuedReq 30 0 (.read 64) 8, queuedReq 29 7 (.write [some 5, some 6, some 7, some 8]) 9,
    ⟨24, 1, 0x90000, 4, some 10⟩, 0, by decide⟩⟩


theorem witness_CrossbarResponses :
    (∃ (s : State) (m : Fin 37) (id : Fin 16) (o : XOut),
     s.xbar.bankQ = [] ∧ s.xbar.bankFree = [] ∧ s.xNext m id = some o ∧ (∀ f ∈ s.xbar.fences, f.1 ≠ m)) ∧
    (∃ (s : State) (m : Fin 37) (id : Fin 16),
     s.xbar.bankQ = [] ∧ s.xbar.bankFree = [] ∧ s.xNext m id = none) ∧
    (∃ (s : State) (m : Fin 37) (t0 : Fin 21) (o : XOut) (rest : List XOut),
     s.xbar.bankQ = [] ∧ s.xbar.bankFree = [] ∧ s.xbar.outstanding = o :: rest ∧ o.master = m ∧ o.target = some t0 ∧ o.beats = 0) ∧
    (∃ (s : State) (m : Fin 37) (o : XOut) (rest : List XOut),
     s.xbar.bankQ = [] ∧ s.xbar.bankFree = [] ∧ s.xbar.outstanding = o :: rest ∧ o.master = m ∧ o.beats ≠ 0) :=
  ⟨⟨owaiting id, 30, 3, xout id, by decide⟩,
   ⟨owaiting id, 30, 4, by decide⟩,
   ⟨owaiting id, 30, 0, xout id, [], by decide⟩,
   ⟨owaiting fun o => { o with beats := 3, resp := none }, 30, xout (fun o => { o with beats := 3, resp := none }), [],
    by decide⟩⟩

theorem witness_RemoteWindows :
    (∃ (s : State) (l : Fin 4) (ofs : BitVec 27) (len : Nat) (b : Fin 21),
     (s.lane l).state = .up ∧ s.xbar.bankQ = [] ∧ s.xbar.bankFree = [] ∧ ofs.toNat + len ≤ 0x3000000 ∧ s.xbar.badCe = [] ∧ s.xbar.badUe = [] ∧
     targetOf ofs.toNat = some b ∧ b.val < 16 ∧ s.xRefusal (windowMaster l).val ofs.toNat len false false = none) ∧
    (∃ (s : State) (l : Fin 4) (ofs : BitVec 27) (len : Nat),
     (s.lane l).state = .up ∧ s.xbar.bankQ = [] ∧ s.xbar.bankFree = [] ∧ 0x3000000 < ofs.toNat + len ∧
     ofs.toNat < 0x4000000) ∧
    (∃ (s : State) (l : Fin 4) (o : XOut) (rest : List XOut),
     (s.lane l).state = .up ∧ s.xbar.bankQ = [] ∧ s.xbar.bankFree = [] ∧ s.xbar.outstanding = o :: rest ∧
     o.target = some 20 ∧ o.resp = none ∧ o.lane = some l ∧ l ∉ s.xbar.lateWin) ∧
    (∃ (s : State) (l : Fin 4),
     (s.lane l).state = .up ∧ s.xbar.bankQ = [] ∧ s.xbar.bankFree = [] ∧ l ∈ s.xbar.lateWin) :=
  ⟨⟨windowed fun x => { x with outstanding := [wout] }, 2, 0, 4, 0, by decide⟩,
   ⟨windowed id, 2, 0x2FFFFFC, 5, by decide⟩,
   ⟨windowed fun x => { x with outstanding := [wout], lateWin := [3] }, 2, wout, [], by decide⟩,
   ⟨windowed fun x => { x with lateWin := [3, 2] }, 2, by decide⟩⟩

theorem witness_MemorySystem :
    (∃ (s : State) (b : Fin 256),
     s.xbar.bankReq.get b = 2 ∧ (s.bank b = .off ∨ s.bank b = .retain)) ∧
    (∃ (s : State) (b : Fin 256) (n : Fin 16) (v : Word),
     b.val / 16 = n.val ∧ s.bank b = .on ∧ s.img.loaded = none ∧ s.mem.wf = true ∧
     (∀ k : Nat, k < 16 → 16 * n.val + k ≠ b.val → fld v (2 * k + 1) (2 * k) = 3) ∧
     fld v (2 * (b.val % 16) + 1) (2 * (b.val % 16)) = 0 ∧ b.val ∉ s.xbar.fixed) ∧
    (∃ (s : State) (b : Fin 256), ∃ y,
     s.xbar.scrub = true ∧ s.bank b = .on ∧ s.xbar.badUe = [] ∧ s.xbar.badCe = [y] ∧ bankBytes * b.val ≤ 8 * y ∧
     8 * y < bankBytes * (b.val + 1)) ∧
    (∃ (s : State) (c : Fin 2),
     let d := s.dram c
     d.state = .training) ∧
    (∃ (s : State) (c : Fin 2),
     let d := s.dram c
     d.state = .ready) ∧
    (∃ (s : State) (c : Fin 2),
     let d := s.dram c
     (d.state = .failed ∨ d.state = .down) ∧ (s.power.state = 3 ∨ s.power.state = 4)) ∧
    (∃ (s : State) (m : Fin 37),
     s.xbar.inReset.getLsbD m.val = false) ∧
    (∃ (s : State) (m : Fin 37),
     (∀ f ∈ s.xbar.fences, f.1 ≠ m)) ∧
    (∃ (s : State),
     s.img.req = none ∧ s.mem.wf = true) :=
  ⟨⟨run, 9, by decide⟩,
   ⟨{ xbared id with img := State.reset.img }, 9, 0, 0xFFF3FFFF, by decide⟩,
   ⟨xbared fun x => { x with badCe := [0x12000] }, 3, 0x12000, by decide⟩,
   ⟨run.onDram 1 fun d => { d with state := .training }, 1, by dsimp only; decide⟩,
   ⟨run.onDram 1 fun d => { d with state := .ready }, 1, by dsimp only; decide⟩,
   ⟨run.onDram 1 fun d => { d with state := .failed }, 1, by dsimp only; decide⟩,
   ⟨run, 30, by decide⟩,
   ⟨run, 30, by decide⟩,
   ⟨run, by decide⟩⟩

theorem witness_Resets :
    ∃ (s : State) (i : Instr) (kind : BitVec 4),
    let x := s.power.start
    let prev := s.ledgerAt s.newestRec
    let alive := 2 ≤ s.power.state.val ∧ x.result ≠ 2 ∧ x.pinHeld = false
    (alive ∧ ((∃ rail, rail ≠ 0 ∧ i = .supply rail ∧ kind = 1) ∨ (i = .sysRstCtlReset 0xA5A5 ∧ kind = 3) ∨ (i =
          .lockstep ∧ kind = 4) ∨ (i = .watchdog ∧ kind = 5 ∧ x.result = 0 ∧ x.waiting = false)) ∨ i = .wake ∧ kind = 6 ∧
          s.power.state = 1 ∧ x.result ≠ 2) ∧
    (prev.safe = false ∨ prev.unfinished = false) :=
  ⟨starting id id, .watchdog, 5, by dsimp only; decide⟩

theorem witness_PinAndSupplyResets :
    (∃ (s : State),
     s.power.state ≠ 0) ∧
    (∃ (s : State),
     s.power.start.pinHeld = true) ∧
    (∃ (key : BitVec 16),
     key ≠ 0xA5A5) ∧
    (∃ (s : State),
     s.power.start.result = 2) :=
  ⟨⟨run, by decide⟩,
   ⟨starting (fun x => { x with pinHeld := true }) id, by decide⟩,
   ⟨0xA5A4, by decide⟩,
   ⟨run.onPower fun p => { p with start := { p.start with result := 2 } }, by decide⟩⟩

theorem witness_StartSteps :
    (∃ (s : State) (g : Fin 4),
     let x := s.power.start
     x.result = 0 ∧ x.pinHeld = false ∧ x.waiting = false ∧ x.step = 1 ∧ s.power.enables.getLsbD g.val = true) ∧
    (∃ (s : State) (r : StepEnd),
     let x := s.power.start
     x.result = 0 ∧ x.pinHeld = false ∧ x.waiting = false ∧ (x.step = 1 ∨ x.step = 6) ∧ r.ok = false) ∧
    (∃ (s : State) (r : StepEnd),
     let x := s.power.start
     x.result = 0 ∧ x.pinHeld = false ∧ x.waiting = false ∧ x.step = 1 ∧ r.ok = true ∧ s.power.braced = false) ∧
    (∃ (s : State) (r : StepEnd),
     let x := s.power.start
     x.result = 0 ∧ x.pinHeld = false ∧ x.waiting = false ∧ x.step = 1 ∧ r.ok = true ∧ s.power.braced = true) ∧
    (∃ (s : State),
     let x := s.power.start
     x.result = 0 ∧ x.pinHeld = false ∧ x.waiting = false ∧ x.step = 9 ∧ s.power.state = 4 ∧ x.s9Set = true) ∧
    (∃ (s : State),
     let x := s.power.start
     x.result = 0 ∧ x.pinHeld = false ∧ x.waiting = false ∧ x.step = 9 ∧ s.power.state = 4 ∧ x.s9Set = false) :=
  ⟨⟨starting (fun x => { x with step := 1 }) (fun p => { p with enables := 15 }), 3, by dsimp only; decide⟩,
   ⟨starting (fun x => { x with step := 6 }) id, stepEnd false, by dsimp only; decide⟩,
   ⟨starting (fun x => { x with step := 1 }) (fun p => { p with enables := 15 }), stepEnd true,
    by dsimp only; decide⟩,
   ⟨starting (fun x => { x with step := 1 }) (fun p => { p with braced := true }), stepEnd true,
    by dsimp only; decide⟩,
   ⟨starting (fun x => { x with step := 9, s9Set := true }) (fun p => { p with state := 4 }), by dsimp only; decide⟩,
   ⟨starting (fun x => { x with step := 9 }) (fun p => { p with state := 4 }), by dsimp only; decide⟩⟩

theorem witness_PowerStates :
    (∃ (s : State),
     let p := s.power
     p.moving = none ∧ p.braced = false ∧ p.state = 3) ∧
    (∃ (s : State),
     let p := s.power
     p.moving = none ∧ p.braced = false ∧ p.state = 4) ∧
    (∃ (s : State),
     let p := s.power
     p.moving = none ∧ p.state = 4) ∧
    (∃ (s : State),
     let p := s.power
     ∃ k,
     p.moving = some k) ∧
    (∃ (s : State),
     let p := s.power
     p.moving = none ∧ p.braced = true ∧ p.state = 4) ∧
    (∃ (s : State),
     let p := s.power
     p.state = 3 ∧ p.moving = some 4) ∧
    (∃ (s : State),
     let p := s.power
     p.state = 4 ∧ p.moving = some 3 ∧ s.portsQuiet = true) ∧
    (∃ (s : State),
     let p := s.power
     p.state = 4 ∧ p.moving = some 3 ∧ s.portsQuiet = false) ∧
    (∃ (s : State),
     let p := s.power
     p.state = 3 ∧ p.moving = some 2) ∧
    (∃ (s : State),
     let p := s.power
     p.offWait = true) :=
  ⟨⟨run.onPower fun p => { p with state := 3 }, by dsimp only; decide⟩,
   ⟨run.onPower fun p => { p with state := 4 }, by dsimp only; decide⟩,
   ⟨run.onPower fun p => { p with state := 4 }, by dsimp only; decide⟩,
   ⟨run.onPower fun p => { p with moving := some 3 }, 3, by decide⟩,
   ⟨run.onPower fun p => { p with braced := true }, by dsimp only; decide⟩,
   ⟨run.onPower fun p => { p with state := 3, moving := some 4 }, by dsimp only; decide⟩,
   ⟨run.onPower fun p => { p with moving := some 3 }, by dsimp only; decide⟩,
   ⟨(run.onPower fun p => { p with moving := some 3 }).onSap 4 fun x => { x with present := true, state := .running },
    by dsimp only; decide⟩,
   ⟨run.onPower fun p => { p with state := 3, moving := some 2 }, by dsimp only; decide⟩,
   ⟨run.onPower fun p => { p with offWait := true }, by dsimp only; decide⟩⟩

theorem witness_BraceAndTemperature :
    (∃ (s : State),
     let p := s.power
     2 ≤ p.state.val ∧ p.braced = false) ∧
    (∃ (s : State),
     let p := s.power
     p.braced = true ∧ p.deferred = none ∧ p.start.waiting = false ∧ p.belowWarn.getLsbD 8 = true) ∧
    (∃ (s : State),
     let p := s.power
     p.braced = false) ∧
    (∃ (s : State) (c : BitVec 8),
     let p := s.power
     p.hotThr.toInt - 5 < c.toInt ∧ p.hotArmed = false) ∧
    (∃ (s : State) (c : BitVec 8),
     let p := s.power
     c.toInt ≤ p.hotThr.toInt - 5) :=
  ⟨⟨run.onPower fun p => { p with state := 2 }, by dsimp only; decide⟩,
   ⟨run.onPower fun p => { p with braced := true, belowWarn := 0x100 }, by dsimp only; decide⟩,
   ⟨run.onPower fun p => { p with state := 2 }, by dsimp only; decide⟩,
   ⟨run.onPower fun p => { p with hotArmed := false }, 96, by dsimp only; decide⟩,
   ⟨run.onPower fun p => { p with state := 2 }, 95, by dsimp only; decide⟩⟩

theorem witness_NonVolatileWrites :
    (∃ (s : State),
     s.power.braced = false ∧ s.ao.nvBusy = none ∧ s.ao.nvQueue = [] ∧ s.cfg.lcState = .develop) ∧
    (∃ (s : State),
     s.power.braced = false ∧ s.ao.nvBusy = none ∧ s.ao.nvQueue = [] ∧ s.cfg.lcState ≠ .develop) ∧
    (∃ (s : State) (x : Word),
     let floor := x.setWidth 8
     let warn := (x >>> 8).setWidth 8
     let margin := (x >>> 16).setWidth 8
     s.power.braced = false ∧ s.ao.nvBusy = none ∧ s.ao.nvQueue = [] ∧ floor < warn ∧ warn < margin) ∧
    (∃ (s : State) (x : Word),
     let floor := x.setWidth 8
     let warn := (x >>> 8).setWidth 8
     let margin := (x >>> 16).setWidth 8
     s.power.braced = false ∧ s.ao.nvBusy = none ∧ s.ao.nvQueue = [] ∧ ¬(floor < warn ∧ warn < margin)) ∧
    (∃ (s : State),
     s.power.braced = false ∧ s.ao.nvBusy = none ∧ s.ao.nvQueue = [] ∧ (s.power.state = 3 ∨ s.power.state = 4)) ∧
    (∃ (s : State),
     s.power.braced = false ∧ s.ao.nvBusy = none ∧ s.ao.nvQueue = [] ∧ s.power.state ≠ 3 ∧ s.power.state ≠ 4) ∧
    (∃ (s : State) (c : CfgItem),
     s.power.braced = false ∧ s.ao.nvBusy = none ∧ s.ao.nvQueue = [] ∧ c ≠ .imageKey none ∧ s.lc.running = none) ∧
    (∃ (s : State),
     s.power.braced = false ∧ s.ao.nvBusy = none ∧ s.ao.nvQueue = [] ∧ s.lc.running = none) :=
  ⟨⟨inPower 3 (inLc .develop homed), by decide⟩,
   ⟨inPower 2 (inLc .ret homed), by decide⟩,
   ⟨inPower 3 (inLc .develop homed), 0x05302010, by dsimp only; decide⟩,
   ⟨inPower 2 (inLc .ret homed), 0x05302020, by dsimp only; decide⟩,
   ⟨inPower 3 (inLc .develop homed), by decide⟩,
   ⟨inPower 2 (inLc .ret homed), by decide⟩,
   ⟨inPower 3 (inLc .develop homed), .imageKey (some []), by decide⟩,
   ⟨inPower 3 (inLc .develop homed), by decide⟩⟩

theorem witness_LifeCycleAndTamper :
    (∃ (key : BitVec 16),
     key ≠ 0xA5A5) ∧
    (∃ (s : State),
     s.lc.running = none ∧ s.power.braced = false ∧ s.power.state = 3 ∧ s.cfg.lcState = .ret ∧ s.mem.wf = true) ∧
    (∃ (s : State),
     s.lc.running = none ∧ s.power.braced = false ∧ s.power.state = 3 ∧ s.cfg.lcState = .production) ∧
    (∃ (s : State),
     s.lc.running.isSome = true) ∧
    (∃ (s : State), ∃ bs,
     s.lc.item = 4 ∧ s.img.req = none ∧ s.power.state = 3 ∧ (s.cfg.lcState = .blank ∨ s.cfg.lcState = .develop) ∧
     s.hostMem.readAll s.lc.addr.toNat 32 = some bs ∧ s.ao.nvBusy = none ∧ s.ao.nvQueue = [] ∧ s.power.braced = false) ∧
    (∃ (s : State),
     s.img.req = none ∧ s.power.state = 3 ∧ s.cfg.lcState = .production) ∧
    (∃ (s : State),
     s.xbar.secState = 1 ∧ s.xbar.secClosed = false ∧ s.lc.running = none) ∧
    (∃ (s : State) (i : Fin 5),
     s.power.state ≠ 0 ∧ s.ao.tamperArmed.getLsbD i.val = true ∧ s.tamperAction i.val = 0) ∧
    (∃ (s : State) (i : Fin 5),
     s.power.state ≠ 0 ∧ s.ao.tamperArmed.getLsbD i.val = true ∧ s.tamperAction i.val = 1 ∧ s.power.state ≠ 1 ∧
     s.mem.wf = true) ∧
    (∃ (s : State) (i : Fin 5),
     s.power.state ≠ 0 ∧ s.ao.tamperArmed.getLsbD i.val = false) :=
  ⟨⟨5, by decide⟩,
   ⟨inPower 3 (inLc .ret hosted), by decide⟩,
   ⟨inPower 3 (inLc .production hosted), by decide⟩,
   ⟨(inLc .ret homed).onLc fun c => { c with running := some .ret }, by decide⟩,
   ⟨(inPower 3 (inLc .blank hosted)).onLc fun c => { c with item := 4, addr := 0x1000 }, (List.range 32).map fun i =>
    BitVec.ofNat 8 (i + 1), by decide⟩,
   ⟨inPower 3 (inLc .production hosted), by decide⟩,
   ⟨(inPower 3 (inLc .blank hosted)).onXbar fun x => { x with secState := 1 }, by decide⟩,
   ⟨inPower 3 (inLc .ret hosted), 4, by decide⟩,
   ⟨cfgd (fun c => { c with lcState := .develop, tamperAct := 0x1E4 }) run, 1, by decide⟩,
   ⟨run.onAo fun a => { a with tamperArmed := 0 }, 4, by decide⟩⟩

theorem witness_PatinaMonitor :
    (∃ (s : State) (i : Fin 59) (slack : BitVec 16),
     i ≠ 58 ∧ s.cfg.floorPs.toNat ≤ slack.toNat ∧ s.cfg.warnPs.toNat < slack.toNat) ∧
    (∃ (s : State) (i : Fin 59) (slack : BitVec 16),
     let x := s.patina.get i
     slack.toNat < s.cfg.floorPs.toNat ∧ i ≠ 58 ∧ x.run < 7) ∧
    (∃ (s : State) (i : Fin 59) (slack : BitVec 16) (e : Fin 24),
     let x := s.patina.get i
     slack.toNat < s.cfg.floorPs.toNat ∧ i.val = e.val ∧ x.run = 7 ∧ (s.engine e).out = false ∧
     24 < (s.engine e).actual.toNat ∧ x.request = none) ∧
    (∃ (s : State) (e : Fin 24),
     let y := s.patina.get ⟨e.val, by omega⟩
     y.lowering = true ∧ y.below = true ∧ (s.engine e).out = false ∧ (s.engine e).outDue = none) ∧
    (∃ (s : State),
     s.power.braced = false ∧ s.ao.nvBusy = none ∧ s.ao.nvQueue = []) :=
  ⟨⟨aged id, 5, 21, by decide⟩,
   ⟨aged fun p => { p with run := 6 }, 57, 9, by dsimp only; decide⟩,
   ⟨aged fun p => { p with run := 7 }, 5, 9, 5, by dsimp only; decide⟩,
   ⟨aged fun p => { p with lowering := true, below := true }, 5, by dsimp only; decide⟩,
   ⟨aged id, by decide⟩⟩

theorem witness_BlackBox :
    (∃ (s : State) (e : EventRec) (q : Bool) (rest : List (EventRec × Bool)),
     let front := s.ao.bbQueue = (e, q) :: rest ∧ s.ao.bbLostRun = 0
     s.power.braced = false ∧ front ∧ neverSuppressed e.code = true) ∧
    (∃ (s : State) (e : EventRec) (q : Bool) (rest : List (EventRec × Bool)) (win : SuppressWin)
       (wins : List SuppressWin),
     let front := s.ao.bbQueue = (e, q) :: rest ∧ s.ao.bbLostRun = 0
     s.power.braced = false ∧ front ∧ neverSuppressed e.code = false ∧ s.ao.bbWins = win :: wins ∧ win.code = e.code ∧
     win.appended = 16 ∧ s.now < win.start + Config.tick) ∧
    (∃ (s : State) (win : SuppressWin),
     s.power.braced = false ∧ s.ao.bbWins.find? (fun w => w.code == win.code) = some win ∧ win.suppressed = 0) ∧
    (∃ (s : State),
     s.power.braced = false ∧ (s.cfg.lcState = .develop ∨ s.cfg.lcState = .ret)) ∧
    (∃ (s : State),
     s.power.braced = false ∧ s.cfg.lcState ≠ .develop ∧ s.cfg.lcState ≠ .ret) ∧
    (∃ (s : State) (key : BitVec 16),
     s.power.braced = false ∧ key ≠ 0xA5A5) :=
  ⟨⟨boxed 0xD001 [] .ret, event 0xD001, false, [(event 5, true)], by dsimp only; decide⟩,
   ⟨boxed 0x2001 [⟨0x2001, 0, 16, 0⟩] .production, event 0x2001, false, [(event 5, true)], ⟨0x2001, 0, 16, 0⟩, [],
    by dsimp only; decide⟩,
   ⟨boxed 0x2001 [⟨0x2001, 0, 16, 0⟩] .production, ⟨0x2001, 0, 16, 0⟩, by decide⟩,
   ⟨boxed 0xD001 [] .ret, by decide⟩,
   ⟨boxed 0x2001 [⟨0x2001, 0, 16, 0⟩] .production, by decide⟩,
   ⟨boxed 0xD001 [] .ret, 4, by decide⟩⟩

theorem witness_EventQueue :
    (∃ (s : State) (e : EventRec) (rest : List EventRec),
     let q := s.evt
     q.offered = e :: rest ∧ q.held = [] ∧ q.qRun = 0 ∧ q.qEnable = true ∧ 64 ≤ q.qFree ∧
     q.routing e.code = (true, 0xFF)) ∧
    (∃ (s : State) (e : EventRec) (rest : List EventRec),
     let q := s.evt
     q.offered = e :: rest ∧ q.held = [] ∧ q.qRun = 0 ∧ q.routing e.code = (false, 0xFF)) ∧
    (∃ (s : State) (v : Fin 64),
     let q := s.evt
     q.msixPend.getLsbD v.val = true ∧ q.msixMask.getLsbD v.val = true) ∧
    (∃ (s : State) (v : Fin 64),
     let q := s.evt
     q.msixPend.getLsbD v.val = true ∧ q.msixMask.getLsbD v.val = false) ∧
    (∃ (s : State),
     let q := s.evt
     q.qEnable = false) ∧
    (∃ (s : State),
     let q := s.evt
     q.qEnable = true) ∧
    (∃ (s : State),
     let q := s.evt
     q.held = [] ∧ q.qRun = 0) :=
  ⟨⟨offered (fun v => { routeOvr 0x80FF2001 v with qEnable := true, qLog2 := 12, qWr := 4032, qRd := 64 }), event
    0x2001, [event 3], by dsimp only; decide⟩,
   ⟨offered (routeOvr 0x81FF2001), event 0x2001, [event 3], by dsimp only; decide⟩,
   ⟨offered (routeOvr 0x80FF2001), 4, by dsimp only; decide⟩,
   ⟨offered (fun v => { v with msixMask := 0x10 }), 5, by dsimp only; decide⟩,
   ⟨offered (routeOvr 0x80FF2001), by dsimp only; decide⟩,
   ⟨offered (fun v => { routeOvr 0x80FF2001 v with qEnable := true, qLog2 := 12, qWr := 4032, qRd := 64 }),
    by dsimp only; decide⟩,
   ⟨offered (routeOvr 0x80FF2001), by dsimp only; decide⟩⟩

theorem witness_MailboxSlots :
    (∃ (m : Mem) (at_ : Nat) (a : MbAns), ∃ y,
     m.rising = true ∧ a.data.length = 48 ∧ (y < at_ + 1 ∨ (at_ + 3 ≤ y ∧ y < at_ + 8) ∨ at_ + 64 ≤ y)) ∧
    (∃ (s : State) (a : MbAns),
     a.status ≠ 2 ∧ a.status ≠ 3 ∧ leAt (s.ringSlot s.host.head.toNat) 3 1 % 2 = 0) ∧
    (∃ (s : State) (r : MbRef),
     s.mbFront = some r ∧ s.mbCall r = none) ∧
    (∃ (s : State) (r : MbRef), ∃ op c,
     s.mbFront = some r ∧ s.mbCall r = some (op, c)) ∧
    (∃ (s : State) (r : MbRef), ∃ c,
     s.mbAt 0x30 = some (r, c) ∧ s.img.loaded = none) ∧
    (∃ (s : State) (v : Word),
     let h := s.host
     2 ≤ s.power.state.val ∧ (h.tail - h.head).toNat ≤ (v - h.head).toNat ∧ (v - h.head).toNat ≤ 256) ∧
    (∃ (s : State) (v : Word),
     let h := s.host
     2 ≤ s.power.state.val ∧ 256 < (v - h.head).toNat) ∧
    (∃ (s : State), ∃ u,
     s.host.flUpd = some u ∧ s.power.braced = false) :=
  ⟨⟨[⟨5, 6⟩], 64, ⟨0, 1, 2, List.replicate 48 3, run⟩, 128, by decide⟩,
   ⟨run.onHost fun h => { h with head := 0xFFFFFFFF, tail := 0, flUpd := some ⟨2, [1, 2]⟩ },
    ⟨0, 1, 2, List.replicate 48 3, run⟩, by decide⟩,
   ⟨ringed 0x77 0 0 [] 1 run, .ring, by decide⟩,
   ⟨ringed 0x30 0 0 [] 1 { run with img := State.reset.img }, .ring, 0x30, callOf (ringed 0x30 0 0 [] 1 { run with img
    := State.reset.img }), by decide⟩,
   ⟨ringed 0x30 0 0 [] 1 { run with img := State.reset.img }, .ring, callOf (ringed 0x30 0 0 [] 1 { run with img :=
    State.reset.img }), by decide⟩,
   ⟨run.onHost fun h => { h with head := 0xFFFFFFFF, tail := 0, flUpd := some ⟨2, [1, 2]⟩ }, 255,
    by dsimp only; decide⟩,
   ⟨run.onHost fun h => { h with head := 0xFFFFFFFF, tail := 0, flUpd := some ⟨2, [1, 2]⟩ }, 256,
    by dsimp only; decide⟩,
   ⟨run.onHost fun h => { h with head := 0xFFFFFFFF, tail := 0, flUpd := some ⟨2, [1, 2]⟩ }, ⟨2, [1, 2]⟩, by decide⟩⟩

theorem witness_MailboxPart :
    (∃ (s : State) (r : MbRef) (c : MbCall),
     let here := fun (op : Nat) => s.mbAt op = some (r, c) ∧ s.mbForbidden op = false
     here 0x01) ∧
    (∃ (s : State) (r : MbRef) (c : MbCall),
     let here := fun (op : Nat) => s.mbAt op = some (r, c) ∧ s.mbForbidden op = false
     here 0x02 ∧ c.a0 = 4 ∧ s.power.state = 3 ∧ s.power.moving = none ∧ s.power.braced = false) ∧
    (∃ (s : State) (r : MbRef) (c : MbCall),
     let here := fun (op : Nat) => s.mbAt op = some (r, c) ∧ s.mbForbidden op = false
     here 0x02 ∧ 4 < c.a0.toNat) ∧
    (∃ (s : State) (r : MbRef) (c : MbCall),
     let here := fun (op : Nat) => s.mbAt op = some (r, c) ∧ s.mbForbidden op = false
     here 0x03 ∧ c.a0 ≠ 0xA5A5) ∧
    (∃ (s : State) (r : MbRef) (c : MbCall),
     let here := fun (op : Nat) => s.mbAt op = some (r, c) ∧ s.mbForbidden op = false
     here 0x03 ∧ c.a0 = 0xA5A5 ∧ s.power.start.result ≠ 2 ∧ s.power.start.pinHeld = false) ∧
    (∃ (s : State) (r : MbRef) (c : MbCall),
     let here := fun (op : Nat) => s.mbAt op = some (r, c) ∧ s.mbForbidden op = false
     here 0x10 ∧ c.a0.toNat ≤ 2 ∧ s.power.state = 3 ∧ s.img.req = none) ∧
    (∃ (s : State) (r : MbRef) (c : MbCall),
     let here := fun (op : Nat) => s.mbAt op = some (r, c) ∧ s.mbForbidden op = false
     here 0x11 ∧ c.a0.toNat ≤ 2 ∧ 3 ≤ s.power.state.val ∧ s.img.req = none) ∧
    (∃ (s : State) (r : MbRef) (c : MbCall),
     let here := fun (op : Nat) => s.mbAt op = some (r, c) ∧ s.mbForbidden op = false
     here 0x12) ∧
    (∃ (s : State) (r : MbRef) (c : MbCall),
     let here := fun (op : Nat) => s.mbAt op = some (r, c) ∧ s.mbForbidden op = false
     here 0x13 ∧ s.power.state = 3 ∧ s.heldSerial.toNat ≤ c.a0.toNat ∧ s.ao.nvBusy = none ∧ s.ao.nvQueue = [] ∧
     s.power.braced = false) ∧
    (∃ (s : State) (r : MbRef) (c : MbCall),
     let here := fun (op : Nat) => s.mbAt op = some (r, c) ∧ s.mbForbidden op = false
     here 0x13 ∧ s.power.state = 3 ∧ c.a0.toNat < s.heldSerial.toNat) ∧
    (∃ (s : State) (r : MbRef) (c : MbCall),
     let here := fun (op : Nat) => s.mbAt op = some (r, c) ∧ s.mbForbidden op = false
     ∃ bs,
     here 0x14 ∧ c.a0.toNat < 6 ∧ c.a0 ≠ 2 ∧ 3 ≤ s.power.state.val ∧ s.host.flUpd = none ∧ s.img.req = none ∧
     c.a1.toNat ≤ flashRoom c.a0.toNat ∧ s.hostMem.readAll c.addr.toNat c.a1.toNat = some bs ∧ bs ≠ [] ∧
     s.flashPasses c.a0.toNat bs = true) ∧
    (∃ (s : State) (r : MbRef) (c : MbCall),
     let here := fun (op : Nat) => s.mbAt op = some (r, c) ∧ s.mbForbidden op = false
     ∃ y q n raw,
     here 0x20 ∧ s.paramSymbol c = some (y, q, n) ∧ toRaw y.unit (s.formatOf y.paddr) c.a0 = some raw ∧ c.a1 = 0 ∧
     isPosition n y.paddr = false ∧ s.mirrors = false) ∧
    (∃ (s : State) (r : MbRef) (c : MbCall),
     let here := fun (op : Nat) => s.mbAt op = some (r, c) ∧ s.mbForbidden op = false
     ∃ y q n,
     here 0x21 ∧ s.paramSymbol c = some (y, q, n)) ∧
    (∃ (s : State) (r : MbRef) (c : MbCall),
     let here := fun (op : Nat) => s.mbAt op = some (r, c) ∧ s.mbForbidden op = false
     ∃ q n,
     here 0x22 ∧ s.param? c.a1 = some q ∧ s.node? (paddrNode c.a1) = some n ∧ isPosition n c.a1 = false ∧
     s.mirrors = false) :=
  ⟨⟨ringed 0x01 0 0 [] 1 hosted, .ring, callOf (ringed 0x01 0 0 [] 1 hosted), by dsimp only; decide⟩,
   ⟨ringed 0x02 4 0 [] 1 (inPower 3 hosted), .ring, callOf (ringed 0x02 4 0 [] 1 (inPower 3 hosted)),
    by dsimp only; decide⟩,
   ⟨ringed 0x02 5 0 [] 1 hosted, .ring, callOf (ringed 0x02 5 0 [] 1 hosted), by dsimp only; decide⟩,
   ⟨ringed 0x03 0 0 [] 1 hosted, .ring, callOf (ringed 0x03 0 0 [] 1 hosted), by dsimp only; decide⟩,
   ⟨ringed 0x03 0xA5A5 0 [] 1 hosted, .ring, callOf (ringed 0x03 0xA5A5 0 [] 1 hosted), by dsimp only; decide⟩,
   ⟨ringed 0x10 2 0 [] 1 (inPower 3 hosted), .ring, callOf (ringed 0x10 2 0 [] 1 (inPower 3 hosted)),
    by dsimp only; decide⟩,
   ⟨ringed 0x11 2 0 [] 1 hosted, .ring, callOf (ringed 0x11 2 0 [] 1 hosted), by dsimp only; decide⟩,
   ⟨ringed 0x12 0 0 [] 1 hosted, .ring, callOf (ringed 0x12 0 0 [] 1 hosted), by dsimp only; decide⟩,
   ⟨ringed 0x13 5 0 [] 1 (inPower 3 hosted), .ring, callOf (ringed 0x13 5 0 [] 1 (inPower 3 hosted)),
    by dsimp only; decide⟩,
   ⟨ringed 0x13 4 0 [] 1 (cfgd (fun c => { c with minSerial := 5 }) (inPower 3 hosted)), .ring, callOf (ringed 0x13 4
    0 [] 1 (cfgd (fun c => { c with minSerial := 5 }) (inPower 3 hosted))), by dsimp only; decide⟩,
   ⟨ringed 0x14 5 32 (leBytes 8 0x2000) 1 (inPower 3 dramOffered), .ring, callOf (ringed 0x14 5 32 (leBytes 8 0x2000)
    1 (inPower 3 dramOffered)), [0x44, 0x52, 0x41, 0x4D, 0, 0, 0, 1] ++ List.replicate 20 0 ++ leBytes 4 0xBF1A628E,
    by dsimp only; decide⟩,
   ⟨ringed 0x20 0xFFFFFFFF 0 (text "GAIN") 1 hosted, .ring, callOf (ringed 0x20 0xFFFFFFFF 0 (text "GAIN") 1 hosted),
    ⟨text "GAIN", paddrOf 16 1, 0⟩, { paramSt .steady with value := 7 }, proc, 0xFFFFFFFF, by dsimp only; decide⟩,
   ⟨ringed 0x21 0 0 (text "GAIN") 1 hosted, .ring, callOf (ringed 0x21 0 0 (text "GAIN") 1 hosted),
    ⟨text "GAIN", paddrOf 16 1, 0⟩, { paramSt .steady with value := 7 }, proc, by dsimp only; decide⟩,
   ⟨ringed 0x22 5 (paddrOf 16 1) [] 1 hosted, .ring, callOf (ringed 0x22 5 (paddrOf 16 1) [] 1 hosted),
    { paramSt .steady with value := 7 }, proc, by dsimp only; decide⟩⟩

theorem witness_MailboxCatalogue :
    (∃ (s : State) (r : MbRef) (c : MbCall),
     let here := fun (op : Nat) => s.mbAt op = some (r, c) ∧ s.mbForbidden op = false
     let k4 : Fin 4 := fin 4 c.a0.toNat
     here 0x30 ∧ c.a0.toNat < 4 ∧ s.slotRefusal k4 = none) ∧
    (∃ (s : State) (r : MbRef) (c : MbCall),
     let here := fun (op : Nat) => s.mbAt op = some (r, c) ∧ s.mbForbidden op = false
     let k4 : Fin 4 := fin 4 c.a0.toNat
     ∃ a b,
     let q := slotCapture k4 c.a1 (paddrOf (paddrNode a.paddr) 1) (paddrOf (paddrNode b.paddr) 0xEFF) s
     here 0x31 ∧ c.a0.toNat < 4 ∧ s.symbol c.data = some a ∧ s.symbol (slice c.ext 16 48) = some b ∧ q.1 = 0) ∧
    (∃ (s : State) (r : MbRef) (c : MbCall),
     let here := fun (op : Nat) => s.mbAt op = some (r, c) ∧ s.mbForbidden op = false
     let k4 : Fin 4 := fin 4 c.a0.toNat
     here 0x32 ∧ c.a0.toNat < 4 ∧ s.slotRefusal k4 = none) ∧
    (∃ (s : State) (r : MbRef) (c : MbCall),
     let here := fun (op : Nat) => s.mbAt op = some (r, c) ∧ s.mbForbidden op = false
     let k4 : Fin 4 := fin 4 c.a0.toNat
     let q := castAsk k4 (fin 4 (leAt c.data 0 1)) c.a1 true (BitVec.ofNat 48 (leAt c.data 8 8)) s
     here 0x33 ∧ c.a0.toNat < 4 ∧ leAt c.data 0 1 < 4 ∧ leAt c.data 1 1 = 1 ∧ q.1 = 0) ∧
    (∃ (s : State) (r : MbRef) (c : MbCall),
     let here := fun (op : Nat) => s.mbAt op = some (r, c) ∧ s.mbForbidden op = false
     here 0x34 ∧ c.a0.toNat < 65536) ∧
    (∃ (s : State) (r : MbRef) (c : MbCall),
     let here := fun (op : Nat) => s.mbAt op = some (r, c) ∧ s.mbForbidden op = false
     here 0x35) ∧
    (∃ (s : State) (r : MbRef) (c : MbCall),
     let here := fun (op : Nat) => s.mbAt op = some (r, c) ∧ s.mbForbidden op = false
     here 0x40 ∧ s.placer.freeze = false ∧ s.placer.state = .idle) ∧
    (∃ (s : State) (r : MbRef) (c : MbCall),
     let here := fun (op : Nat) => s.mbAt op = some (r, c) ∧ s.mbForbidden op = false
     here 0x41 ∧ c.a0.toNat < 2) ∧
    (∃ (s : State) (r : MbRef) (c : MbCall),
     let here := fun (op : Nat) => s.mbAt op = some (r, c) ∧ s.mbForbidden op = false
     let e : Fin 24 := fin 24 c.a0.toNat
     here 0x42 ∧ c.a0.toNat < 24 ∧ (s.engine e).out = true ∧ (s.engine e).passFail = false ∧ (s.engine e).outCause = 6) ∧
    (∃ (s : State) (r : MbRef) (c : MbCall),
     let here := fun (op : Nat) => s.mbAt op = some (r, c) ∧ s.mbForbidden op = false
     here 0x43) ∧
    (∃ (s : State) (r : MbRef) (c : MbCall),
     let here := fun (op : Nat) => s.mbAt op = some (r, c) ∧ s.mbForbidden op = false
     here 0x50) ∧
    (∃ (s : State) (r : MbRef) (c : MbCall),
     let here := fun (op : Nat) => s.mbAt op = some (r, c) ∧ s.mbForbidden op = false
     here 0x51) ∧
    (∃ (s : State) (r : MbRef) (c : MbCall),
     let here := fun (op : Nat) => s.mbAt op = some (r, c) ∧ s.mbForbidden op = false
     here 0x52) ∧
    (∃ (s : State) (r : MbRef) (c : MbCall),
     let here := fun (op : Nat) => s.mbAt op = some (r, c) ∧ s.mbForbidden op = false
     here 0x53 ∧ c.a0.toNat < 32 ∧ (s.sap (fin 32 c.a0.toNat)).state = .rateMismatch) ∧
    (∃ (s : State) (r : MbRef) (c : MbCall),
     let here := fun (op : Nat) => s.mbAt op = some (r, c) ∧ s.mbForbidden op = false
     here 0x54 ∧ c.a0.toNat < 256 ∧ c.a1.toNat < 2) ∧
    (∃ (s : State) (r : MbRef) (c : MbCall),
     let here := fun (op : Nat) => s.mbAt op = some (r, c) ∧ s.mbForbidden op = false
     here 0x54 ∧ 256 ≤ c.a0.toNat ∧ c.a0.toNat < 512 ∧ c.a1.toNat < 2) ∧
    (∃ (s : State) (r : MbRef) (c : MbCall),
     let here := fun (op : Nat) => s.mbAt op = some (r, c) ∧ s.mbForbidden op = false
     here 0x55) ∧
    (∃ (s : State) (r : MbRef) (c : MbCall),
     let here := fun (op : Nat) => s.mbAt op = some (r, c) ∧ s.mbForbidden op = false
     here 0x56) ∧
    (∃ (s : State) (r : MbRef) (c : MbCall),
     let here := fun (op : Nat) => s.mbAt op = some (r, c) ∧ s.mbForbidden op = false
     let amp : Fin 16 := fin 16 c.a0.toNat
     here 0x57 ∧ c.a0.toNat < 16 ∧ (s.amp amp).state = .latched) ∧
    (∃ (s : State) (r : MbRef) (c : MbCall),
     let here := fun (op : Nat) => s.mbAt op = some (r, c) ∧ s.mbForbidden op = false
     let amp : Fin 16 := fin 16 c.a0.toNat
     here 0x57 ∧ c.a0.toNat < 16 ∧ (s.amp amp).state = .shutdown) ∧
    (∃ (s : State) (r : MbRef) (c : MbCall),
     let here := fun (op : Nat) => s.mbAt op = some (r, c) ∧ s.mbForbidden op = false
     let amp : Fin 16 := fin 16 c.a0.toNat
     here 0x58 ∧ c.a0.toNat < 16 ∧ c.a1.toNat < 2 ∧ (s.amp amp).state = .off) ∧
    (∃ (s : State) (r : MbRef) (c : MbCall),
     let here := fun (op : Nat) => s.mbAt op = some (r, c) ∧ s.mbForbidden op = false
     here 0x59 ∧ c.a0.toNat < 16) ∧
    (∃ (s : State) (r : MbRef) (c : MbCall),
     let here := fun (op : Nat) => s.mbAt op = some (r, c) ∧ s.mbForbidden op = false
     here 0x60 ∧ c.a0.toNat < 4) ∧
    (∃ (s : State) (r : MbRef) (c : MbCall),
     let here := fun (op : Nat) => s.mbAt op = some (r, c) ∧ s.mbForbidden op = false
     let k4 : Fin 4 := fin 4 c.a0.toNat
     let tb := s.tb k4
     here 0x61 ∧ c.a0.toNat < 4 ∧ tb.state = .refused ∧ tb.follows = none ∧ c.a1 = 0) ∧
    (∃ (s : State) (r : MbRef) (c : MbCall),
     let here := fun (op : Nat) => s.mbAt op = some (r, c) ∧ s.mbForbidden op = false
     let k4 : Fin 4 := fin 4 c.a0.toNat
     let tb := s.tb k4
     here 0x61 ∧ c.a0.toNat < 4 ∧ tb.state = .refused ∧ tb.follows = none ∧ c.a1 = 1) ∧
    (∃ (s : State) (r : MbRef) (c : MbCall),
     let here := fun (op : Nat) => s.mbAt op = some (r, c) ∧ s.mbForbidden op = false
     let k4 : Fin 4 := fin 4 c.a0.toNat
     here 0x62 ∧ c.a0.toNat < 4 ∧ s.sourceOk k4 (fld c.a1 2 0) (fld c.a1 12 8) = true) ∧
    (∃ (s : State) (r : MbRef) (c : MbCall),
     let here := fun (op : Nat) => s.mbAt op = some (r, c) ∧ s.mbForbidden op = false
     here 0x63 ∧ c.a0.toNat < 16) ∧
    (∃ (s : State) (r : MbRef) (c : MbCall),
     let here := fun (op : Nat) => s.mbAt op = some (r, c) ∧ s.mbForbidden op = false
     here 0x70) ∧
    (∃ (s : State) (r : MbRef) (c : MbCall),
     let here := fun (op : Nat) => s.mbAt op = some (r, c) ∧ s.mbForbidden op = false
     ∃ n l,
     here 0x71 ∧ s.namedNode c .limit = some n ∧ s.fabric.limits.find? (fun l => l.node == n.id) = some l) ∧
    (∃ (s : State) (r : MbRef) (c : MbCall),
     let here := fun (op : Nat) => s.mbAt op = some (r, c) ∧ s.mbForbidden op = false
     ∃ n q,
     here 0x72 ∧ s.namedNode c .detect = some n ∧ s.procs.find? (fun p => p.node == n.id && !p.stopped) = some q) ∧
    (∃ (s : State) (r : MbRef) (c : MbCall),
     let here := fun (op : Nat) => s.mbAt op = some (r, c) ∧ s.mbForbidden op = false
     here 0x80 ∧ 1 ≤ c.a1.toNat ∧ c.a1.toNat ≤ 1024) ∧
    (∃ (s : State) (r : MbRef) (c : MbCall),
     let here := fun (op : Nat) => s.mbAt op = some (r, c) ∧ s.mbForbidden op = false
     here 0x81) ∧
    (∃ (s : State) (r : MbRef) (c : MbCall),
     let here := fun (op : Nat) => s.mbAt op = some (r, c) ∧ s.mbForbidden op = false
     here 0x82) :=
  ⟨⟨ringed 0x30 3 0 [] 1 hosted, .ring, callOf (ringed 0x30 3 0 [] 1 hosted), by dsimp only; decide⟩,
   ⟨ringed 0x31 3 5 (text "GAIN") 3 hosted, .ring, callOf (ringed 0x31 3 5 (text "GAIN") 3 hosted),
    ⟨text "GAIN", paddrOf 16 1, 0⟩, ⟨text "DET", paddrOf 96 0, 0⟩, by dsimp only; decide⟩,
   ⟨ringed 0x32 3 0 [] 1 hosted, .ring, callOf (ringed 0x32 3 0 [] 1 hosted), by dsimp only; decide⟩,
   ⟨ringed 0x33 1 9 [0, 1, 0, 0, 0, 0, 0, 0, 3] 1 (casting id), .ring, callOf (ringed 0x33 1 9 [0, 1, 0, 0, 0, 0, 0,
    0, 3] 1 (casting id)), by dsimp only; decide⟩,
   ⟨ringed 0x34 65535 0 [] 1 hosted, .ring, callOf (ringed 0x34 65535 0 [] 1 hosted), by dsimp only; decide⟩,
   ⟨ringed 0x35 0 0 [] 1 hosted, .ring, callOf (ringed 0x35 0 0 [] 1 hosted), by dsimp only; decide⟩,
   ⟨ringed 0x40 0 0 [] 1 hosted, .ring, callOf (ringed 0x40 0 0 [] 1 hosted), by dsimp only; decide⟩,
   ⟨ringed 0x41 1 0 [] 1 hosted, .ring, callOf (ringed 0x41 1 0 [] 1 hosted), by dsimp only; decide⟩,
   ⟨ringed 0x42 23 0 [] 1 (hosted.onEngine 23 fun g => { g with out := true, outCause := 6 }), .ring, callOf (ringed
    0x42 23 0 [] 1 (hosted.onEngine 23 fun g => { g with out := true, outCause := 6 })), by dsimp only; decide⟩,
   ⟨ringed 0x43 0 0 [] 1 hosted, .ring, callOf (ringed 0x43 0 0 [] 1 hosted), by dsimp only; decide⟩,
   ⟨ringed 0x50 0xFFFFFFFF 0 [] 1 hosted, .ring, callOf (ringed 0x50 0xFFFFFFFF 0 [] 1 hosted),
    by dsimp only; decide⟩,
   ⟨ringed 0x51 1 0 [] 1 hosted, .ring, callOf (ringed 0x51 1 0 [] 1 hosted), by dsimp only; decide⟩,
   ⟨ringed 0x52 0x31F 5 [] 1 hosted, .ring, callOf (ringed 0x52 0x31F 5 [] 1 hosted), by dsimp only; decide⟩,
   ⟨ringed 0x53 5 0 [] 1 (hosted.onSap 5 fun x => { x with state := .rateMismatch }), .ring, callOf (ringed 0x53 5 0
    [] 1 (hosted.onSap 5 fun x => { x with state := .rateMismatch })), by dsimp only; decide⟩,
   ⟨ringed 0x54 255 1 [] 1 hosted, .ring, callOf (ringed 0x54 255 1 [] 1 hosted), by dsimp only; decide⟩,
   ⟨ringed 0x54 511 1 [] 1 hosted, .ring, callOf (ringed 0x54 511 1 [] 1 hosted), by dsimp only; decide⟩,
   ⟨ringed 0x55 0xFFFF 0 [] 1 hosted, .ring, callOf (ringed 0x55 0xFFFF 0 [] 1 hosted), by dsimp only; decide⟩,
   ⟨ringed 0x56 1 0 [] 1 hosted, .ring, callOf (ringed 0x56 1 0 [] 1 hosted), by dsimp only; decide⟩,
   ⟨ringed 0x57 3 0 [] 1 (hosted.onAmp 3 fun a => { a with state := .latched }), .ring, callOf (ringed 0x57 3 0 [] 1
    (hosted.onAmp 3 fun a => { a with state := .latched })), by dsimp only; decide⟩,
   ⟨ringed 0x57 3 0 [] 1 (hosted.onAmp 3 fun a => { a with state := .shutdown }), .ring, callOf (ringed 0x57 3 0 [] 1
    (hosted.onAmp 3 fun a => { a with state := .shutdown })), by dsimp only; decide⟩,
   ⟨ringed 0x58 15 1 [] 1 hosted, .ring, callOf (ringed 0x58 15 1 [] 1 hosted), by dsimp only; decide⟩,
   ⟨ringed 0x59 15 0 [] 1 hosted, .ring, callOf (ringed 0x59 15 0 [] 1 hosted), by dsimp only; decide⟩,
   ⟨ringed 0x60 3 0 [] 1 hosted, .ring, callOf (ringed 0x60 3 0 [] 1 hosted), by dsimp only; decide⟩,
   ⟨ringed 0x61 3 0 [] 1 (hosted.onTb 3 fun t => { t with state := .refused }), .ring, callOf (ringed 0x61 3 0 [] 1
    (hosted.onTb 3 fun t => { t with state := .refused })), by dsimp only; decide⟩,
   ⟨ringed 0x61 3 1 [] 1 (hosted.onTb 3 fun t => { t with state := .refused }), .ring, callOf (ringed 0x61 3 1 [] 1
    (hosted.onTb 3 fun t => { t with state := .refused })), by dsimp only; decide⟩,
   ⟨ringed 0x62 3 1 [] 1 hosted, .ring, callOf (ringed 0x62 3 1 [] 1 hosted), by dsimp only; decide⟩,
   ⟨ringed 0x63 15 0x70003 [] 1 hosted, .ring, callOf (ringed 0x63 15 0x70003 [] 1 hosted), by dsimp only; decide⟩,
   ⟨ringed 0x70 1 12 [] 1 hosted, .ring, callOf (ringed 0x70 1 12 [] 1 hosted), by dsimp only; decide⟩,
   ⟨ringed 0x71 0 0 (text "LIM") 1 hosted, .ring, callOf (ringed 0x71 0 0 (text "LIM") 1 hosted), node 112 .limit
    [(1, 0)] 0, LimitSt.fresh 112, by dsimp only; decide⟩,
   ⟨ringed 0x72 0 0 (text "DET") 1 hosted, .ring, callOf (ringed 0x72 0 0 (text "DET") 1 hosted), detect,
    { procSt 96 with silent := true }, by dsimp only; decide⟩,
   ⟨ringed 0x80 0 1024 [] 1 hosted, .ring, callOf (ringed 0x80 0 1024 [] 1 hosted), by dsimp only; decide⟩,
   ⟨ringed 0x81 0 0 [] 1 hosted, .ring, callOf (ringed 0x81 0 0 [] 1 hosted), by dsimp only; decide⟩,
   ⟨ringed 0x82 0 0 [] 1 hosted, .ring, callOf (ringed 0x82 0 0 [] 1 hosted), by dsimp only; decide⟩⟩

theorem witness_PciePort :
    (∃ (s : State) (x : Nat),
     2 ≤ s.power.state.val ∧ x < 0x2800000 ∧ x % 4 = 0) ∧
    (∃ (s : State) (x : Nat),
     2 ≤ s.power.state.val ∧ 0x2800000 ≤ x) ∧
    (∃ (s : State) (bs : List Byte) (x : Nat),
     2 ≤ s.power.state.val ∧ x < 0x2800000 ∧ bs.length ≠ 4) ∧
    (∃ (s : State) (w : Fin 64) (ofs : BitVec 24) (rgn : Nat) (rec_ : RegionRec) (o a len : Nat) (sh : Bool),
     let mapped := s.window w ofs = some (rgn, rec_, o) ∧ o + len ≤ rec_.size ∧ s.hidden rec_ = false ∧
         s.route rec_.owner rgn o none = Route.plain a [a] sh ∧ a % 4 = 0 ∧ len % 4 = 0 ∧ 0 < len ∧ o % 64 + len ≤ 64 ∧ a
         + len ≤ 0x3000000 ∧ s.xbar.badCe = [] ∧ s.xbar.badUe = [] ∧ s.mem.wf = true
     2 ≤ s.power.state.val ∧ mapped ∧ s.xRefusal 33 a len false false = none) ∧
    (∃ (s : State) (w : Fin 64) (ofs : BitVec 24) (rgn : Nat) (rec_ : RegionRec) (o a len : Nat) (bs : List Byte)
       (sh : Bool),
     let mapped := s.window w ofs = some (rgn, rec_, o) ∧ o + len ≤ rec_.size ∧ s.hidden rec_ = false ∧
         s.route rec_.owner rgn o none = Route.plain a [a] sh ∧ a % 4 = 0 ∧ len % 4 = 0 ∧ 0 < len ∧ o % 64 + len ≤ 64 ∧ a
         + len ≤ 0x3000000 ∧ s.xbar.badCe = [] ∧ s.xbar.badUe = [] ∧ s.mem.wf = true
     2 ≤ s.power.state.val ∧ mapped ∧ bs.length = len ∧ s.xRefusal 33 a len true false = none) ∧
    (∃ (s : State) (w : Fin 64) (ofs : BitVec 24),
     2 ≤ s.power.state.val ∧ s.window w ofs = none) ∧
    (∃ (s : State) (w : Fin 64) (ofs : BitVec 24) (rgn : Nat) (rec_ : RegionRec) (o a len : Nat) (sh : Bool),
     let mapped := s.window w ofs = some (rgn, rec_, o) ∧ o + len ≤ rec_.size ∧ s.hidden rec_ = false ∧
         s.route rec_.owner rgn o none = Route.plain a [a] sh ∧ a % 4 = 0 ∧ len % 4 = 0 ∧ 0 < len ∧ o % 64 + len ≤ 64 ∧ a
         + len ≤ 0x3000000 ∧ s.xbar.badCe = [] ∧ s.xbar.badUe = [] ∧ s.mem.wf = true
     2 ≤ s.power.state.val ∧ mapped ∧ len = 4 ∧ s.xRefusal 33 a 4 true true = none) :=
  ⟨⟨bar4, 0x27FFFFC, by decide⟩,
   ⟨bar4, 0x2800000, by decide⟩,
   ⟨bar4, List.replicate 64 5, 0x27FFFFC, by decide⟩,
   ⟨bar4, 5, 0xFC0, 1, region true, 0xFC0, 0x90FC0, 64, true, by dsimp only; decide⟩,
   ⟨bar4, 5, 0xFC0, 1, region true, 0xFC0, 0x90FC0, 64, List.replicate 64 5, true, by dsimp only; decide⟩,
   ⟨run, 5, 0x40, by decide⟩,
   ⟨bar4, 5, 0x40, 1, region true, 0x40, 0x90040, 4, true, by dsimp only; decide⟩⟩

theorem witness_SpiSlave :
    (∃ (s : State) (f : SpiFrame),
     2 ≤ s.power.state.val ∧ spiCheck f = 0 ∧ f.op = 1) ∧
    (∃ (s : State) (f : SpiFrame),
     2 ≤ s.power.state.val ∧ spiCheck f = 0 ∧ f.op = 2) ∧
    (∃ (s : State) (f : SpiFrame),
     let k : Fin 16 := fin 16 f.addr.toNat
     2 ≤ s.power.state.val ∧ spiCheck f = 0 ∧ f.op = 3 ∧ k ∉ s.host.spiQ) ∧
    (∃ (s : State) (f : SpiFrame),
     let k : Fin 16 := fin 16 f.addr.toNat
     2 ≤ s.power.state.val ∧ spiCheck f = 0 ∧ f.op = 3 ∧ k ∈ s.host.spiQ) ∧
    (∃ (s : State) (f : SpiFrame),
     2 ≤ s.power.state.val ∧ spiCheck f = 0 ∧ f.op = 4) ∧
    (∃ (s : State) (f : SpiFrame),
     2 ≤ s.power.state.val ∧ spiCheck f = 0 ∧ f.op = 5) ∧
    (∃ (s : State) (f : SpiFrame),
     2 ≤ s.power.state.val ∧ crc16 (SpiFrame.bytes f) ≠ f.crc.toNat ∧ f.op = 2) ∧
    (∃ (s : State) (f : SpiFrame),
     2 ≤ s.power.state.val ∧ (f.op = 0 ∨ 5 < f.op.toNat) ∧ crc16 (SpiFrame.bytes f) = f.crc.toNat) :=
  ⟨⟨bar4, spiFrame 1 4 0x100 [] 0, by decide⟩,
   ⟨bar4, spiFrame 2 1 0x100 [1, 2, 3, 4] 0, by decide⟩,
   ⟨bar4, spiFrame 3 16 15 (List.replicate 64 7) 0, by dsimp only; decide⟩,
   ⟨bar4.onHost fun h => { h with spiQ := [3] }, spiFrame 3 16 3 (List.replicate 64 7) 0, by dsimp only; decide⟩,
   ⟨bar4, spiFrame 4 16 3 [] 0, by decide⟩,
   ⟨bar4, spiFrame 5 1 0 [] 0, by decide⟩,
   ⟨bar4, spiFrame 2 1 0x100 [1, 2, 3, 4] 1, by decide⟩,
   ⟨bar4, spiFrame 6 0 0 [] 0, by decide⟩⟩

theorem witness_EventRaised :
    (∃ (s : State),
     s.ao.bbQueue.length < 256) ∧
    (∃ (s : State),
     256 ≤ s.ao.bbQueue.length) ∧
    (∃ (s : State),
     ¬ (s.power.start.result = 0 ∧ s.power.start.step < 4)) ∧
    (∃ (s : State),
     s.power.start.result = 0 ∧ s.power.start.step < 4 ∧ s.ao.held.length < 32) ∧
    (∃ (s : State),
     s.power.start.result = 0 ∧ s.power.start.step < 4 ∧ 32 ≤ s.ao.held.length) :=
  ⟨⟨heldAt 3 255 31, by decide⟩,
   ⟨heldAt 4 256 0, by decide⟩,
   ⟨heldAt 4 256 0, by decide⟩,
   ⟨heldAt 3 255 31, by decide⟩,
   ⟨heldAt 3 256 32, by decide⟩⟩

theorem witness_EmptyQueueIdles :
    ∃ (s : State),
    s.pending = [] :=
  ⟨run, by decide⟩

theorem witness_StepConsumesOne :
    ∃ (c : Instr) (s t : State),
    exec c s = .next t :=
  ⟨.apllReacquire 0, run, nextOf (exec (.apllReacquire 0) run), rfl⟩

theorem witness_StepKeepsMemoryCanonical :
    ∃ (s t : State),
    MemoryCanonical s ∧ step s = .next t :=
  ⟨run, run, ⟨by decide, by decide⟩, rfl⟩

theorem witness_WordRoundTrip :
    ∃ (len pc : Nat) (i : Insn),
    i.wf len pc = true :=
  ⟨8, 1, ⟨.nop, .lda (.b 6) 62 1, .ldi (.l 6) 1 80⟩, by decide⟩

end Sys2Proof.Tests
end

section
/-! Facts about `upd` and the updates of one unit that the proofs of the chapters share. -/

namespace Sys2Proof.Machine

theorem upd_upd {α : Type} {n : Nat} (v : Vector α n) (i : Fin n) (f g : α → α) :
    upd (upd v i f) i g = upd v i (fun x => g (f x)) := by
  show (upd v i f).set i.1 (g ((upd v i f).get i)) i.2 = _
  rw [upd_get_self]
  simp [upd]

/-- An update is known by its value at the element that it replaces. -/
theorem upd_congr {α : Type} {n : Nat} {v : Vector α n} {i : Fin n} {f g : α → α} (h : f (v.get i) = g (v.get i)) :
    upd v i f = upd v i g := by
  simp [upd, h]

theorem upd_fixed {α : Type} {n : Nat} {v : Vector α n} {i : Fin n} {f : α → α} (h : f (v.get i) = v.get i) :
    upd v i f = v := by
  rw [upd, h]
  exact Vector.set_getElem_self ..

theorem State.onTb_onTb (s : State) (t : Fin 4) (f g : Timebase → Timebase) :
    (s.onTb t f).onTb t g = s.onTb t (fun x => g (f x)) := by
  simp [State.onTb, upd_upd]

theorem State.onTb_congr {s : State} {t : Fin 4} {f g : Timebase → Timebase} (h : f (s.tb t) = g (s.tb t)) :
    s.onTb t f = s.onTb t g := by
  simp only [State.onTb, upd_congr h]

theorem State.onCmp_onCmp (s : State) (u : Fin 16) (f g : Cmp → Cmp) :
    (s.onCmp u f).onCmp u g = s.onCmp u (fun x => g (f x)) := by
  simp [State.onCmp, upd_upd]

theorem State.onCmp_congr {s : State} {u : Fin 16} {f g : Cmp → Cmp}
    (h : f (s.clk.cmps.get u) = g (s.clk.cmps.get u)) : s.onCmp u f = s.onCmp u g := by
  simp only [State.onCmp, upd_congr h]

theorem State.onSap_fixed {s : State} {p : Fin 32} {f : Sap → Sap} (h : f (s.sap p) = s.sap p) : s.onSap p f = s := by
  simp only [State.onSap, upd_fixed h]

/-- An update of a port changes that port alone. -/
theorem State.onSap_frame (s : State) (p : Fin 32) (f : Sap → Sap) :
    (∀ q, q ≠ p → (s.onSap p f).sap q = s.sap q) ∧ s.onSap p f = { s with saps := (s.onSap p f).saps } :=
  ⟨fun _ hq => State.onSap_sap_other s p _ f hq.symm, rfl⟩

/-- The number of boundaries that a staged item waits, as the model and the statements write it. -/
theorem b2n_not (b : Bool) : b2n (!b) = if b then 0 else 1 := by cases b <;> rfl

end Sys2Proof.Machine
end

section
/-! Serial audio ports: triggers and masks are staged, the other commands touch their port alone (R335 to R348). -/

namespace Sys2Proof.Machine

/-- What a trigger word stages on timebase u: one trigger for each of its ports that u carries, in rising number. -/
def triggersOn (s : State) (b : Bool) (u : Fin 4) (ports : List (Fin 32)) : List Staged :=
  (ports.filter fun q => decide (s.tbOf (s.sap q).cfg.domain = u)).map fun q => ⟨b2n (!(s.tb u).open_), .sapTrig q b⟩

/-- Staging a trigger for each of a list of ports appends to the staged lists of their timebases and changes nothing else. -/
theorem each_sapTrigger (b : Bool) (ports : List (Fin 32)) (s : State) :
    let t := each ports (fun q => sapTrigger q b) s
    t = { s with clk := t.clk } ∧
      ∀ u, t.tb u = { s.tb u with staged := (s.tb u).staged ++ triggersOn s b u ports } := by
  induction ports generalizing s with
  | nil => exact ⟨rfl, fun u => by simp [triggersOn]⟩
  | cons q ports ih =>
    obtain ⟨hrest, htb⟩ := ih (sapTrigger q b s)
    have htail : ∀ u, triggersOn (sapTrigger q b s) b u ports = triggersOn s b u ports := fun u => by
      have hopen : ((sapTrigger q b s).tb u).open_ = (s.tb u).open_ := by
        by_cases hu : s.tbOf (s.sap q).cfg.domain = u
        · subst hu; simp [sapTrigger, stage_eq]
        · simp [sapTrigger, stage_eq, State.onTb_tb_other _ _ _ _ hu]
      simp only [triggersOn, hopen]
      rfl
    refine ⟨by rw [each_cons, hrest]; rfl, fun u => ?_⟩
    rw [each_cons, htb u, htail u]
    by_cases hu : s.tbOf (s.sap q).cfg.domain = u
    · subst hu; simp [sapTrigger, stage_eq, triggersOn]
    · simp [sapTrigger, stage_eq, State.onTb_tb_other _ _ _ _ hu, triggersOn, hu]

/-- The bits set in a word, as numbers of ports. -/
theorem maskBits_ports (w : Word) :
    (maskBits w.toNat 32).map (fin 32) = (List.finRange 32).filter fun q => w.getLsbD q.val := by
  have hbit : ∀ i : Nat, (w.toNat / 2 ^ i % 2 == 1) = w.getLsbD i := fun i => by
    rw [BitVec.getLsbD, Nat.testBit_eq_decide_div_mod_eq]; rfl
  have hrange : List.range 32 = (List.finRange 32).map Fin.val := by decide
  rw [maskBits, hrange, List.filter_map, List.map_map]
  simp only [Function.comp_def, hbit]
  rw [List.map_congr_left (g := id) (fun q _ => Fin.ext (Nat.mod_eq_of_lt q.isLt))]
  simp

/-- SAP_GO and SAP_HALT stage the triggers of their ports (R335). -/
theorem sapTriggers_stages (w : Word) (b : Bool) (s : State) :
    let t := sapTriggers w.toNat b s
    t = { s with clk := t.clk } ∧ ∀ u, t.tb u = { s.tb u with
      staged := (s.tb u).staged ++ triggersOn s b u ((List.finRange 32).filter fun q => w.getLsbD q.val) } := by
  have h := each_sapTrigger b ((maskBits w.toNat 32).map (fin 32)) s
  rw [maskBits_ports] at h
  have hmap : sapTriggers w.toNat b s = each ((List.finRange 32).filter fun q => w.getLsbD q.val) (fun q => sapTrigger q b) s := by
    rw [← maskBits_ports, each, List.foldl_map]; rfl
  rw [hmap]
  exact h

theorem triggersOn_filter (s : State) (b : Bool) (u : Fin 4) (sel : Fin 32 → Bool) :
    triggersOn s b u ((List.finRange 32).filter sel) = ((List.finRange 32).filter fun q =>
      sel q && decide (s.tbOf (s.sap q).cfg.domain = u)).map fun q =>
        Staged.mk (if (s.tb u).open_ then 0 else 1) (.sapTrig q b) := by
  rw [triggersOn, List.filter_filter, b2n_not]
  simp only [Bool.and_comm]

theorem sapRestart_of_rateMismatch (p : Fin 32) (s : State) (h : (s.sap p).state = .rateMismatch) :
    sapRestart p s =
      s.onSap p fun y => { y with state := .acquiring, badPeriods := 0, badBits := 0, validRun := 0, leadEnd := none } :=
  if_pos h

theorem sapRestart_of_other (p : Fin 32) (s : State) (h : (s.sap p).state ≠ .rateMismatch) : sapRestart p s = s := if_neg h

/-- A mask change is over at a boundary when every one of its ramps is. -/
theorem Sap.maskEnds_iff (x : Sap) (m : Nat) : x.maskEnds m = true ↔ ∀ r ∈ x.ramps, r.first + 2 * r.r ≤ m := by
  simp [Sap.maskEnds]

end Sys2Proof.Machine

open Sys2Proof Sys2Proof.Machine

/-- Settles O37: a trigger word stages its triggers one by one (`each_sapTrigger`), a slot mask is staged and shown, and the
commands of one port touch that port alone. -/
theorem sapControl : Obligations.SapControl := by
  intro s p k w tb wait put all
  have hput : ∀ (i : StageItem) (x : State), x.tb tb = s.tb tb → stage tb i x = put i x := fun i x hx => by
    rw [stage_eq]
    exact State.onTb_congr (by simp only [hx, b2n_not]; rfl)
  have hword : ∀ b, ∃ t, Host.Outcome.next (sapTriggers w.toNat b s) = (.next t : Host.Outcome State Fault Refusal) ∧
      (∀ u, (t.tb u).staged = (s.tb u).staged ++ all b u) ∧ t = { s with clk := t.clk } ∧
      ∀ u, t.tb u = { s.tb u with staged := (t.tb u).staged } := fun b => by
    obtain ⟨hrest, htb⟩ := sapTriggers_stages w b s
    simp only [triggersOn_filter] at htb
    exact ⟨_, rfl, fun u => by rw [htb u], hrest, fun u => by rw [htb u]⟩
  refine ⟨congrArg Host.Outcome.next (hput _ s rfl), congrArg Host.Outcome.next (hput _ s rfl), hword true, hword false,
    congrArg Host.Outcome.next (hput _ _ rfl), ?_, ?_, ?_⟩
  · refine ⟨sapRestart p s, rfl, fun h => ?_, fun h => sapRestart_of_other p s h⟩
    rw [sapRestart_of_rateMismatch p s h]
    obtain ⟨hother, hrest⟩ := State.onSap_frame s p fun y : Sap =>
      { y with state := .acquiring, badPeriods := 0, badBits := 0, validRun := 0, leadEnd := none }
    exact ⟨by simp, by simp, by simp, by simp, hother, hrest⟩
  · refine ⟨_, rfl, fun h => ?_, fun r hr hlate => State.onSap_fixed ?_, ?_, (State.onSap_frame s p _).1, rfl⟩
    · rw [State.onSap_sap_self]
      exact congrArg Sap.maskBusy (if_pos ((Sap.maskEnds_iff _ _).2 h))
    · have hends : (s.sap p).maskEnds ((s.tb tb).blk.toNat + 1) ≠ true := fun h =>
        absurd ((Sap.maskEnds_iff _ _).1 h r hr) (Nat.not_le.2 hlate)
      exact if_neg hends
    · rw [State.onSap_sap_self]
      split <;> rfl
  · refine ⟨_, rfl, ?_, by rw [State.onSap_sap_self], (State.onSap_frame s p _).1, rfl⟩
    simp only [State.onSap_sap_self]
    refine List.map_congr_left fun z _ => ?_
    cases z.from_ <;> rfl

end

section
/-! Compare units, GPIO capture and handshake channels: one lemma for each thing that a command of them can do
(R13, R15, R313 to R317). -/

namespace Sys2Proof.Machine

/-! ### Compare units -/

/-- A number below the first open boundary moves to the first later number of its period that is not below it. -/
theorem nextDue_late {b p n : Nat} (hp : p ≠ 0) (h : b < n) :
    n ≤ nextDue b p n ∧ nextDue b p n < n + p ∧ (nextDue b p n - b) % p = 0 := by
  have hpos : 0 < p := Nat.pos_of_ne_zero hp
  have heq : nextDue b p n = b + (n - b + p - 1) / p * p := if_neg (by omega)
  have hdiv := Nat.div_add_mod (n - b + p - 1) p
  have hmod := Nat.mod_lt (n - b + p - 1) hpos
  rw [Nat.mul_comm] at hdiv
  refine ⟨by omega, by omega, ?_⟩
  rw [heq, Nat.add_sub_cancel_left, Nat.mul_mod_left]

theorem cmpArm_disarm (u : Fin 16) (s : State) :
    cmpArm u false s = s.onCmp u fun x => { x with arm := false, owed := false } :=
  State.onCmp_onCmp s u _ _

/-- The first boundary that a unit armed now can meet, on the timebase of the unit. -/
def State.firstFor (s : State) (u : Fin 16) : Nat := (s.tb (s.clk.cmps.get u).tb).firstOpen

/-- A unit armed in time waits for its number. -/
theorem cmpArm_inTime (u : Fin 16) (s : State) (hc : s.isCluster = false)
    (h : s.firstFor u ≤ (s.clk.cmps.get u).blk.toNat) :
    cmpArm u true s = s.onCmp u fun x => { x with arm := true, due := x.blk, owed := false } := by
  have hcl : (s.onCmp u fun x => { x with owed := false }).isCluster = false := hc
  simp only [cmpArm, hcl, Bool.not_true, Bool.false_and, Bool.false_eq_true, if_false]
  exact (if_pos h).trans (State.onCmp_onCmp s u _ _)

/-- A unit armed too late reports it and, with a period, waits for the first of its numbers that it can meet. -/
theorem cmpArm_late (u : Fin 16) (s : State) (hc : s.isCluster = false)
    (h : (s.clk.cmps.get u).blk.toNat < s.firstFor u) :
    let c := s.clk.cmps.get u
    cmpArm u true s = raise 0x100D [v8 u.val, v64 c.blk.toNat] (s.onCmp u fun x =>
      { x with late := true, arm := decide (x.period ≠ 0),
               due := BitVec.ofNat 48 (nextDue c.blk.toNat c.period.toNat (s.firstFor u)), owed := false }) := by
  have hcl : (s.onCmp u fun x => { x with owed := false }).isCluster = false := hc
  have hzero : decide ((s.clk.cmps.get u).period.toNat ≠ 0) = decide ((s.clk.cmps.get u).period ≠ 0) :=
    decide_eq_decide.2 (not_congr (BitVec.toNat_inj (y := 0#16)))
  simp only [cmpArm, hcl, Bool.not_true, Bool.false_and, Bool.false_eq_true, if_false]
  refine (if_neg (Nat.not_le.2 h)).trans (congrArg _ ?_)
  rw [State.onCmp_onCmp]
  refine State.onCmp_congr ?_
  simp only [hzero]
  rfl

/-! ### GPIO capture -/

theorem captureEdge_disabled (pin : Fin 32) (rising : Bool) (time : TbTime) (s : State)
    (h : (if rising then s.clk.capRise.getLsbD pin.val else s.clk.capFall.getLsbD pin.val) = false) :
    captureEdge pin rising time s = s := by
  simp only [captureEdge, h, Bool.not_false, if_true]

theorem captureEdge_room (pin : Fin 32) (rising : Bool) (time : TbTime) (s : State)
    (h : (if rising then s.clk.capRise.getLsbD pin.val else s.clk.capFall.getLsbD pin.val) = true)
    (hroom : s.clk.caps.length < 64) :
    captureEdge pin rising time s = s.onClk fun x =>
      { x with caps := x.caps ++ [{ pin := pin, rising := rising, tb := x.capTb, time := time }] } := by
  simp only [captureEdge, h, hroom, Bool.not_true, Bool.false_eq_true, if_false, if_true]

/-- A capture that finds the FIFO full is a drop, reported at the first of a run. -/
theorem captureEdge_full (pin : Fin 32) (rising : Bool) (time : TbTime) (s : State)
    (h : (if rising then s.clk.capRise.getLsbD pin.val else s.clk.capFall.getLsbD pin.val) = true)
    (hfull : 64 ≤ s.clk.caps.length) :
    captureEdge pin rising time s = raiseIf (!s.clk.capRun) 0x100F []
      (s.onClk fun c => { c with capDrops := satInc32 c.capDrops, capRun := true }) := by
  simp only [captureEdge, h, Nat.not_lt.2 hfull, Bool.not_true, Bool.false_eq_true, if_false]

/-! ### Handshake channels -/

/-- The channel found for two islands is the one between them. -/
theorem channel_ends (s : State) (src dst : Fin 59) :
    (s.channel src dst).src = src ∧ (s.channel src dst).dst = dst := by
  simp only [State.channel]
  cases hfind : s.hs.find? fun c => c.src == src && c.dst == dst with
  | none => exact ⟨rfl, rfl⟩
  | some c => simpa using List.find?_some hfind

/-- Both ends of a channel are up: it is not fenced. -/
def State.linked (s : State) (src dst : Fin 59) : Prop := s.islandDown src.val = false ∧ s.islandDown dst.val = false

theorem handshake_linked {s : State} {src dst : Fin 59} (op : HsOp) (h : s.linked src dst) :
    handshake src dst op s = setChannel ((s.channel src dst).act op) s := by
  obtain ⟨hsrc, hdst⟩ := h
  simp [handshake, hsrc, hdst]

theorem handshake_fenced {s : State} {src dst : Fin 59} (op : HsOp) (h : ¬ s.linked src dst) :
    handshake src dst op s = setChannel ((s.channel src dst).fenced op) s := by
  have hdown : (s.islandDown src.val || s.islandDown dst.val) = true := by
    simpa [State.linked, ← Bool.not_eq_true, Classical.or_iff_not_imp_left] using h
  simp [handshake, hdown]

/-- A channel takes the place of the one between the same islands. -/
theorem setChannel_of_ends {c : HsChan} {src dst : Fin 59} (hsrc : c.src = src) (hdst : c.dst = dst) (s : State) :
    setChannel c s = { s with hs := c :: s.hs.filter fun x => !(x.src == src && x.dst == dst) } := by
  subst hsrc hdst
  rfl

theorem HsChan.act_send_room {c : HsChan} (data : List Byte) (hw : c.wait = none)
    (h : c.fifo.length < fifoDepth c.src c.dst) : c.act (.send data) = { c with fifo := c.fifo ++ [data] } := by
  simp [HsChan.act, hw, h]

theorem HsChan.act_send_full {c : HsChan} (data : List Byte) (hw : c.wait = none)
    (h : fifoDepth c.src c.dst ≤ c.fifo.length) : c.act (.send data) = { c with wait := some data } := by
  simp [HsChan.act, hw, Nat.not_lt.2 h]

theorem HsChan.act_deliver {c : HsChan} {x : List Byte} {rest : List (List Byte)} (h : c.fifo = x :: rest) :
    c.act .deliver = { c with fifo := rest ++ c.wait.toList, out := x :: c.out, wait := none } := by
  simp [HsChan.act, h]

end Sys2Proof.Machine

open Sys2Proof Sys2Proof.Machine

theorem compareAndCapture : Claim.CompareAndCapture := by
  intro s u pin rising time c first enabled
  refine ⟨congrArg Host.Outcome.next (cmpArm_disarm u s), fun hc h => congrArg Host.Outcome.next (cmpArm_inTime u s hc h),
    fun hc h => ⟨_, congrArg Host.Outcome.next (cmpArm_late u s hc h), fun hp => ?_⟩,
    fun h hroom => congrArg Host.Outcome.next (captureEdge_room pin rising time s h hroom), fun h hfull => ?_,
    fun h => congrArg Host.Outcome.next (captureEdge_disabled pin rising time s h), rfl, rfl⟩
  · have hperiod : c.period.toNat ≠ 0 := fun h0 => hp (BitVec.eq_of_toNat_eq h0)
    exact nextDue_late hperiod h
  · refine ⟨_, congrArg Host.Outcome.next (captureEdge_full pin rising time s h hfull), ?_, fun hrun => ?_, fun hrun => ?_⟩
    · rw [raiseIf_eq]; rfl
    · rw [hrun]; rfl
    · rw [hrun]; simp [State.onClk]

theorem handshakeChannels : Claim.HandshakeChannels := by
  intro s src dst data c up after
  obtain ⟨hsrc, hdst⟩ := channel_ends s src dst
  have hset : ∀ c' : HsChan, c'.src = c.src → c'.dst = c.dst → setChannel c' s = after c' := fun c' h1 h2 =>
    setChannel_of_ends (h1.trans hsrc) (h2.trans hdst) s
  have hdepth : fifoDepth c.src c.dst = fifoDepth src dst := by rw [hsrc, hdst]
  refine ⟨fun hup hw hroom => congrArg Host.Outcome.next ?_, fun hup hw hfull => congrArg Host.Outcome.next ?_,
    fun hup x rest hx => congrArg Host.Outcome.next ?_,
    fun hdown => ⟨congrArg Host.Outcome.next ?_, congrArg Host.Outcome.next ?_⟩⟩
  · rw [handshake_linked _ hup, HsChan.act_send_room data hw (hdepth ▸ hroom)]
    exact hset _ rfl rfl
  · rw [handshake_linked _ hup, HsChan.act_send_full data hw (hdepth ▸ hfull)]
    exact hset _ rfl rfl
  · rw [handshake_linked _ hup, HsChan.act_deliver hx]
    exact hset _ rfl rfl
  · rw [handshake_fenced _ hdown]
    exact hset _ rfl rfl
  · rw [handshake_fenced _ hdown]
    exact hset _ rfl rfl

/-- Settles O22, by its two claims on compare units with capture, and on handshake channels. -/
theorem compareCaptureAndHandshake : Obligations.CompareCaptureAndHandshake := ⟨compareAndCapture, handshakeChannels⟩

end

section
/-! Timebases: what the writes of a timebase do, and what a measurement does in each state (R298 to R306). -/

namespace Sys2Proof.Machine

/-! ### Writes, snaps and reads -/

theorem stage_write (t : Fin 4) (i : StageItem) (s : State) :
    stage t i s = s.onTb t fun y => { y with staged := y.staged ++ [{ wait := if y.open_ then 0 else 1, item := i }] } := by
  simp only [stage_eq, b2n_not]

theorem selectSource_ok {t : Fin 4} {source index : Nat} {s : State} (h : s.sourceOk t source index = true) :
    selectSource t source index s = s.onTb t fun y => { y with
      source := source, index := index
      staged := y.staged ++ [{ wait := if y.open_ then 0 else 1, item := .tbSource source index }] } := by
  rw [selectSource, if_pos h, stage_write, State.onTb_onTb]

theorem acceptJump_refused {t : Fin 4} {s : State} (h : (s.tb t).state = .refused) (hf : (s.tb t).follows = none) :
    acceptJump t s = stage t .tbAccept s := if_pos ⟨h, hf⟩

theorem acceptJump_other {t : Fin 4} {s : State} (h : (s.tb t).state ≠ .refused) : acceptJump t s = s :=
  if_neg fun hr => h hr.1

theorem rejectJump_refused {t : Fin 4} {s : State} (h : (s.tb t).state = .refused) (hf : (s.tb t).follows = none) :
    rejectJump t s = raise 0x1008 [v8 t.val, vI64 (s.tb t).offset]
      (s.onTb t fun y => { y with state := .syntonised, kept := some (s.tb t).offset, outRun := 0 }) := if_pos ⟨h, hf⟩

theorem rejectJump_other {t : Fin 4} {s : State} (h : (s.tb t).state ≠ .refused) : rejectJump t s = s :=
  if_neg fun hr => h hr.1

theorem setTime_free {t : Fin 4} {s : State} (h : (s.tb t).source = 0) :
    setTime t s = stage t (.tbSet ((s.tb t).setS.toNat * 1000000000 + (s.tb t).setNs.toNat)) s := if_pos h

theorem setTime_other {t : Fin 4} {s : State} (h : (s.tb t).source ≠ 0) : setTime t s = s := if_neg h

theorem adjTime_free {t : Fin 4} {s : State} (ns : Int) (h : (s.tb t).source = 0) :
    adjTime t ns s = s.onTb t fun x => { x with slew := x.slew + ns * 2 ^ 48 } := if_pos h

theorem adjTime_other {t : Fin 4} {s : State} (ns : Int) (h : (s.tb t).source ≠ 0) : adjTime t ns s = s := if_neg h

/-- No time passes in no cycles. -/
theorem span_zero (s : State) (t : Fin 4) : s.span t 0 = 0 := by simp [State.span, rateSpan]

/-- A snap holds the seconds, nanoseconds and fraction of the time it is taken at (R306). -/
theorem tbTimeOf_fields (v : Nat) :
    (tbTimeOf v).sec.toNat = v / 2 ^ 48 / 1000000000 % 2 ^ 48 ∧ (tbTimeOf v).ns.toNat = v / 2 ^ 48 % 1000000000 ∧
      (tbTimeOf v).frac.toNat = v / 2 ^ 32 % 2 ^ 16 := by
  have hns : v / 2 ^ 48 % 1000000000 < 2 ^ 32 := by omega
  exact ⟨BitVec.toNat_ofNat .., (BitVec.toNat_ofNat ..).trans (Nat.mod_eq_of_lt hns), BitVec.toNat_ofNat ..⟩

/-- The half that a read of TBn_BLK_LO latches is the upper 16 bits of the counter (R21). -/
theorem latchBlock_eq (t : Fin 4) (s : State) :
    latchBlock t s = s.onTb t fun y => { y with blkHi := y.blk.extractLsb' 32 16 } := by
  simp only [latchBlock, BitVec.extractLsb', Nat.shiftRight_eq_div_pow]

/-! ### Measurements -/

/-- A source without an alignment period: an Ethernet clock or a link (R295). -/
theorem reduceOffset_unaligned {s : State} {t : Fin 4} (o : Int) (h : (s.tb t).source = 1 ∨ (s.tb t).source = 5) :
    s.reduceOffset t o = o := by
  rcases h with h | h <;> simp [State.reduceOffset, State.alignment, h]

/-- The timebase has a source of its own that gives offsets as they are. -/
structure State.Measured (s : State) (t : Fin 4) : Prop where
  follows : (s.tb t).follows = none
  source : (s.tb t).source = 1 ∨ (s.tb t).source = 5

/-- The measurement as noted, before the state of the timebase acts on it. -/
def noted (t : Fin 4) (o : Int) (s : State) : State := s.onTb t fun y => { y with offset := o, sourceValid := true }

variable {s : State} {t : Fin 4} {o : Int}

theorem measure_locked (hm : s.Measured t) (h : (s.tb t).state = .locked) :
    measure t o s =
      if ((s.tb t).jumpThr : Int) < |o| then
        let s' := (noted t o s).onTb t fun y => { y with outliers := satInc16 y.outliers, outRun := (s.tb t).outRun + 1 }
        if 4 ≤ (s.tb t).outRun + 1 then refuse t o s' else s'
      else servo t ((noted t o s).onTb t fun y => { y with outRun := 0 }) := by
  have hsrc : (s.tb t).source ≠ 0 := by have := hm.source; omega
  simp [measure, hm.follows, hsrc, reduceOffset_unaligned o hm.source, h, noted]

theorem measure_acquiring (hm : s.Measured t) (h : (s.tb t).state = .acquiring) :
    measure t o s =
      if (s.tb t).stepped = false then stage t (.tbFirst o) ((noted t o s).onTb t fun y => { y with stepped := true })
      else
        let run := if |o| ≤ 250 then (s.tb t).goodRun + 1 else 0
        let s' := servo t ((noted t o s).onTb t fun y => { y with goodRun := run })
        if 8 ≤ run then raise 0x1004 [v8 t.val] (s'.onTb t fun y => { y with state := .locked, goodRun := 0, outRun := 0 })
        else s' := by
  have hsrc : (s.tb t).source ≠ 0 := by have := hm.source; omega
  have habs : (|o| ≤ 250) = (o.natAbs ≤ 250) := by rw [Int.abs_eq_natAbs]; exact propext (by omega)
  simp [measure, hm.follows, hsrc, reduceOffset_unaligned o hm.source, h, noted, habs]

theorem measure_holdover (hm : s.Measured t) (h : (s.tb t).state = .holdover) (hrun : 63 ≤ (s.tb t).validRun)
    (ho : |o| ≤ ((s.tb t).jumpThr : Int)) :
    measure t o s = raise 0x1004 [v8 t.val] (s.onTb t fun y =>
      { y with offset := o, sourceValid := true, validRun := 0, state := .locked, kept := none, outRun := 0,
               slew := o * 2 ^ 48 }) := by
  have hsrc : (s.tb t).source ≠ 0 := by have := hm.source; omega
  simp [measure, hm.follows, hsrc, reduceOffset_unaligned o hm.source, h, hrun, ho, State.onTb_onTb, nsTime]

/-! ### What the servo and the entry to REFUSED leave alone -/

/-- An update of a timebase changes that timebase alone. -/
theorem State.onTb_frame (s : State) (t : Fin 4) (f : Timebase → Timebase) :
    (∀ u, u ≠ t → (s.onTb t f).tb u = s.tb u) ∧ s.onTb t f = { s with clk := (s.onTb t f).clk } :=
  ⟨fun _ hu => State.onTb_tb_other s t _ f hu.symm, rfl⟩

theorem clampInt_abs {m v : Int} (hm : 0 ≤ m) : |clampInt (-m) m v| ≤ m := by
  rw [abs_le]
  unfold clampInt
  omega

/-- After an update of a timebase the servo takes a rate of at most 200 ppm for it, and notes it (R294, R299). -/
theorem servo_onTb (s : State) (t : Fin 4) (f : Timebase → Timebase) :
    ∃ r : Int, |r| ≤ 219902326 ∧
      servo t (s.onTb t f) = { s with free := s.free + 1 }.onTb t fun x => (f x).noteRate s.now r :=
  ⟨_, clampInt_abs (by decide), State.onTb_onTb { s with free := s.free + 1 } t f _⟩

@[simp] theorem raise_tb (code : Nat) (vals : Vals) (s : State) (u : Fin 4) : (raise code vals s).tb u = s.tb u := by
  rw [State.tb, raise_clk]; rfl

end Sys2Proof.Machine

open Sys2Proof Sys2Proof.Machine

theorem timebaseWrites : Claim.TimebaseWrites := by
  intro s tb x staged
  refine ⟨fun source index h => congrArg Host.Outcome.next (selectSource_ok h),
    fun h hf => congrArg Host.Outcome.next ((acceptJump_refused h hf).trans (stage_write ..)),
    fun h => ⟨congrArg Host.Outcome.next (acceptJump_other h), congrArg Host.Outcome.next (rejectJump_other h)⟩,
    fun h hf => congrArg Host.Outcome.next (rejectJump_refused h hf),
    fun h => congrArg Host.Outcome.next ((setTime_free h).trans (stage_write ..)),
    fun ns h => congrArg Host.Outcome.next (adjTime_free _ h),
    fun ns h => ⟨congrArg Host.Outcome.next (setTime_other h), congrArg Host.Outcome.next (adjTime_other _ h)⟩,
    rfl, ⟨_, congrArg Host.Outcome.next (State.onTb_congr rfl), ?_⟩,
    fun n => ⟨_, congrArg Host.Outcome.next (State.onTb_congr rfl)⟩,
    congrArg Host.Outcome.next (latchBlock_eq tb s)⟩
  rw [span_zero]
  exact tbTimeOf_fields _

theorem timebaseMeasurements : Claim.TimebaseMeasurements := by
  intro s tb o x hf hsrc
  have hm : s.Measured tb := ⟨hf, hsrc⟩
  refine ⟨fun hs ho hrun => congrArg Host.Outcome.next ?_,
    fun hs ho hrun => ⟨_, congrArg Host.Outcome.next (measure_locked hm hs), ?_⟩,
    fun hs ho => ?_, fun hs hstep => congrArg Host.Outcome.next ?_, fun hs hstep ho hrun => ?_,
    fun hs hrun ho => ⟨_, congrArg Host.Outcome.next (measure_holdover hm hs hrun ho), ?_⟩⟩
  · have hfew : ¬ 4 ≤ (s.tb tb).outRun + 1 := Nat.not_le.2 (Nat.succ_lt_succ hrun)
    rw [measure_locked hm hs, if_pos ho]
    simp only [hfew, if_false, noted, State.onTb_onTb]
    exact State.onTb_congr rfl
  · have hmany : 4 ≤ (s.tb tb).outRun + 1 := Nat.succ_le_succ hrun
    rw [if_pos ho]
    simp only [hmany, if_true, noted, refuse, State.onTb_onTb, raise_tb, State.onTb_tb_self]
    refine ⟨trivial, trivial, trivial, rfl, rfl, ?_, (State.onTb_frame s tb _).1⟩
    rw [raise_eq]; rfl
  · have hin : measure tb o s = servo tb (s.onTb tb fun y => { y with offset := o, sourceValid := true, outRun := 0 }) := by
      rw [measure_locked hm hs, if_neg (not_lt.2 ho), noted, State.onTb_onTb]
    obtain ⟨r, hr, hservo⟩ := servo_onTb s tb fun y => { y with offset := o, sourceValid := true, outRun := 0 }
    refine ⟨_, congrArg Host.Outcome.next (hin.trans hservo), ?_⟩
    obtain ⟨hother, -⟩ := State.onTb_frame { s with free := s.free + 1 } tb fun x =>
      ({ x with offset := o, sourceValid := true, outRun := 0 } : Timebase).noteRate s.now r
    rw [State.onTb_tb_self]
    exact ⟨hs, rfl, rfl, hr, rfl, hother⟩
  · rw [measure_acquiring hm hs, if_pos hstep, stage_write, noted, State.onTb_onTb, State.onTb_onTb]
  · obtain ⟨r, -, hservo⟩ := servo_onTb s tb fun y =>
      { y with offset := o, sourceValid := true, goodRun := (s.tb tb).goodRun + 1 }
    have hlocks : 8 ≤ (s.tb tb).goodRun + 1 := Nat.succ_le_succ hrun
    have hnot : ¬(s.tb tb).stepped = false := fun h => Bool.noConfusion (hstep.symm.trans h)
    refine ⟨_, congrArg Host.Outcome.next ((measure_acquiring hm hs).trans (if_neg hnot)), ?_⟩
    simp only [if_pos ho, hlocks, if_true, noted, State.onTb_onTb, hservo, raise_tb, State.onTb_tb_self]
    refine ⟨trivial, rfl, ?_, (State.onTb_frame { s with free := s.free + 1 } tb _).1⟩
    rw [raise_eq]; rfl
  · simp only [raise_tb, State.onTb_tb_self]
    refine ⟨trivial, trivial, rfl, ?_, (State.onTb_frame s tb _).1⟩
    rw [raise_eq]; rfl

/-- Settles O20, by its two claims on the writes and on the measurements of a timebase. -/
theorem timebaseControl : Obligations.TimebaseControl := ⟨timebaseWrites, timebaseMeasurements⟩

end

section
/-! What an interval leaves alone. Block counters move at boundaries alone (R21, R22), staging opens at a boundary and closes by
its own command (R27), absolute time passes at the pacing tick alone (R425), and host memory is written by the host port alone.
The `backdrop` of a state holds these; each operation of a boundary or a tick that keeps it has one lemma that says so. -/

namespace Sys2Proof.Machine

/-- The block counter and the open flag of every timebase, the absolute time, and host memory. -/
structure Backdrop where
  blocks : Fin 4 → BitVec 48 × Bool
  now : Nat
  hostMem : Mem

def State.backdrop (s : State) : Backdrop :=
  { blocks := fun u => ((s.tb u).blk, (s.tb u).open_), now := s.ao.now, hostMem := s.hostMem }

variable (s : State)

@[simp] theorem State.onTb_backdrop (t : Fin 4) (f : Timebase → Timebase) (hb : (f (s.tb t)).blk = (s.tb t).blk)
    (ho : (f (s.tb t)).open_ = (s.tb t).open_) : (s.onTb t f).backdrop = s.backdrop := by
  have hblocks : ∀ u, (((s.onTb t f).tb u).blk, ((s.onTb t f).tb u).open_) = ((s.tb u).blk, (s.tb u).open_) := fun u => by
    by_cases hu : t = u
    · subst hu; rw [State.onTb_tb_self, hb, ho]
    · rw [State.onTb_tb_other s t u f hu]
  simp only [State.backdrop, hblocks]
  rfl

/-- An update of the clock island that does not reach a timebase. -/
@[simp] theorem State.onClk_backdrop (f : Clk → Clk) (h : (f s.clk).tbs = s.clk.tbs) : (s.onClk f).backdrop = s.backdrop := by
  simp only [State.backdrop, State.tb, State.onClk, h]

/-- An update of the always-on domain that does not reach its clock. -/
@[simp] theorem State.onAo_backdrop (f : Ao → Ao) (h : (f s.ao).now = s.ao.now) : (s.onAo f).backdrop = s.backdrop := by
  simp only [State.backdrop, State.tb, State.onAo, h]

@[simp] theorem State.onStart_backdrop (f : Start → Start) : (s.onStart f).backdrop = s.backdrop := (rfl)
@[simp] theorem State.onScene_backdrop (f : Scene → Scene) : (s.onScene f).backdrop = s.backdrop := (rfl)
@[simp] theorem State.onPlacer_backdrop (f : Placer → Placer) : (s.onPlacer f).backdrop = s.backdrop := (rfl)
@[simp] theorem State.onEngine_backdrop (e : Fin 24) (f : Engine → Engine) : (s.onEngine e f).backdrop = s.backdrop := (rfl)
@[simp] theorem State.onFabric_backdrop (f : Fabric → Fabric) : (s.onFabric f).backdrop = s.backdrop := (rfl)
@[simp] theorem State.onEvt_backdrop (f : Evt → Evt) : (s.onEvt f).backdrop = s.backdrop := (rfl)
@[simp] theorem State.onCmp_backdrop (u : Fin 16) (f : Cmp → Cmp) : (s.onCmp u f).backdrop = s.backdrop := (rfl)
@[simp] theorem State.onSap_backdrop (p : Fin 32) (f : Sap → Sap) : (s.onSap p f).backdrop = s.backdrop := (rfl)
@[simp] theorem State.onEth_backdrop (n : Fin 4) (f : Eth → Eth) : (s.onEth n f).backdrop = s.backdrop := (rfl)
@[simp] theorem State.onSrx_backdrop (u : Fin 256) (f : Srx → Srx) : (s.onSrx u f).backdrop = s.backdrop := (rfl)
@[simp] theorem State.onStx_backdrop (u : Fin 256) (f : Stx → Stx) : (s.onStx u f).backdrop = s.backdrop := (rfl)
@[simp] theorem State.onXbar_backdrop (f : Xbar → Xbar) : (s.onXbar f).backdrop = s.backdrop := (rfl)
@[simp] theorem State.onRed_backdrop (f : Red → Red) : (s.onRed f).backdrop = s.backdrop := (rfl)
@[simp] theorem State.onLane_backdrop (l : Fin 4) (f : LaneSt → LaneSt) : (s.onLane l f).backdrop = s.backdrop := (rfl)
@[simp] theorem State.onAmp_backdrop (c : Fin 16) (f : Amp → Amp) : (s.onAmp c f).backdrop = s.backdrop := (rfl)
@[simp] theorem State.onPat_backdrop (i : Fin 59) (f : PatIsland → PatIsland) : (s.onPat i f).backdrop = s.backdrop := (rfl)
@[simp] theorem State.onProcs_backdrop (f : ProcSt → ProcSt) : (s.onProcs f).backdrop = s.backdrop := (rfl)
@[simp] theorem State.onProc_backdrop (node : Nat) (e : Fin 24) (f : ProcSt → ProcSt) :
    (s.onProc node e f).backdrop = s.backdrop := (rfl)
@[simp] theorem State.onParam_backdrop (p : PAddr) (f : ParamSt → ParamSt) : (s.onParam p f).backdrop = s.backdrop := (rfl)
@[simp] theorem State.onNode_backdrop (node : Nat) (f : ProcSt → ProcSt) : (s.onNode node f).backdrop = s.backdrop := (rfl)
@[simp] theorem State.onPair_backdrop (node : Nat) (f : PairSt → PairSt) : (s.onPair node f).backdrop = s.backdrop := (rfl)
@[simp] theorem State.setMem_backdrop (m : Mem) : ({ s with mem := m } : State).backdrop = s.backdrop := (rfl)
@[simp] theorem State.setNet_backdrop (n : Net) : ({ s with net := n } : State).backdrop = s.backdrop := (rfl)
@[simp] theorem State.setFree_backdrop (k : Nat) : ({ s with free := k } : State).backdrop = s.backdrop := (rfl)
@[simp] theorem State.setOuts_backdrop (l : List NodeOut) : ({ s with outs := l } : State).backdrop = s.backdrop := (rfl)

/-! ### Loops and branches -/

@[simp] theorem ite_backdrop (c : Prop) [Decidable c] (s t : State) :
    (if c then s else t).backdrop = if c then s.backdrop else t.backdrop := apply_ite ..

/-- A loop keeps the backdrop where its step does. -/
@[simp] theorem each_backdrop {α : Type} (l : List α) (f : α → State → State)
    (hf : ∀ a s, (f a s).backdrop = s.backdrop) (s : State) : (each l f s).backdrop = s.backdrop :=
  each_field State.backdrop l f (fun a _ => hf a) s

/-- A loop that gathers something beside the state keeps the backdrop where its step does. -/
theorem foldl_backdrop {α β : Type} (l : List α) (f : β × State → α → β × State)
    (hf : ∀ acc a, (f acc a).2.backdrop = acc.2.backdrop) (acc : β × State) :
    (l.foldl f acc).2.backdrop = acc.2.backdrop := by
  induction l generalizing acc with
  | nil => rfl
  | cons a l ih => exact (ih _).trans (hf acc a)

end Sys2Proof.Machine
end

section
/-! The operations of a boundary and of a pacing tick that keep the backdrop, each after those it calls, so that a sequence of
operations is settled by the lemmas before it. -/

namespace Sys2Proof.Machine

/-! ### The instant of a boundary, and events -/

@[simp] theorem ampInstant_backdrop (d : Fin 4) (s : State) : (ampInstant d s).backdrop = s.backdrop := by simp [ampInstant]
@[simp] theorem raisePulses_backdrop (t : Fin 4) (s : State) : (raisePulses t s).backdrop = s.backdrop := by
  refine each_backdrop _ _ (fun u s => ?_) s
  split <;> simp

@[simp] theorem sampleInstant_backdrop (r : DomainRec) (s : State) : (sampleInstant r s).backdrop = s.backdrop := by
  simp [sampleInstant]
@[simp] theorem hostOffer_backdrop (e : EventRec) (s : State) : (hostOffer e s).backdrop = s.backdrop := by
  unfold hostOffer
  split
  · exact State.onAo_backdrop s _ (by split <;> rfl)
  · simp

@[simp] theorem bbOffer_backdrop (e : EventRec) (s : State) : (bbOffer e s).backdrop = s.backdrop :=
  State.onAo_backdrop s _ (by split <;> rfl)
@[simp] theorem raise_backdrop (code : Nat) (vals : Vals) (s : State) : (raise code vals s).backdrop = s.backdrop := by
  simp [raise]
@[simp] theorem raiseIf_backdrop (b : Bool) (code : Nat) (vals : Vals) (s : State) :
    (raiseIf b code vals s).backdrop = s.backdrop := by simp [raiseIf]
@[simp] theorem closeStream_backdrop (u : Fin 256) (r : RxRec) (s : State) : (closeStream u r s).backdrop = s.backdrop := by
  unfold closeStream
  dsimp only
  split <;> simp

@[simp] theorem closeSources_backdrop (d : Fin 4) (s : State) : (closeSources d s).backdrop = s.backdrop := by
  simp [closeSources]

/-! ### Staged items, timebases and their sources -/

@[simp] theorem takeStaged_backdrop (t : Fin 4) (s : State) : (takeStaged t s).2.backdrop = s.backdrop := by simp [takeStaged]
@[simp] theorem takeNumbered_backdrop (t : Fin 4) (s : State) : (takeNumbered t s).2.backdrop = s.backdrop := by
  simp [takeNumbered]
@[simp] theorem rollUnit_backdrop (d : Fin 4) (s : State) : (rollUnit d s).backdrop = s.backdrop := by simp [rollUnit]
@[simp] theorem stage_backdrop (t : Fin 4) (i : StageItem) (s : State) : (stage t i s).backdrop = s.backdrop := by simp [stage]
@[simp] theorem stepFollowers_backdrop (t : Fin 4) (delta : Int) (s : State) :
    (stepFollowers t delta s).backdrop = s.backdrop := by simp [stepFollowers]
@[simp] theorem apllAcquire_backdrop (a : Fin 4) (s : State) : (apllAcquire a s).backdrop = s.backdrop := (rfl)
@[simp] theorem jumpTime_backdrop (t : Fin 4) (o : Int) (m : BitVec 48) (s : State) :
    (jumpTime t o m s).2.2.backdrop = s.backdrop := by
  unfold jumpTime
  split
  · simp
  · split <;> simp

@[simp] theorem setPtp_backdrop (n : Fin 4) (new : Fin 7) (s : State) : (setPtp n new s).backdrop = s.backdrop := by
  simp [setPtp]
@[simp] theorem demoteMasters_backdrop (s : State) : (demoteMasters s).backdrop = s.backdrop := by simp [demoteMasters]
@[simp] theorem timeWithin_backdrop (t : Fin 4) (s : State) : (timeWithin t s).2.backdrop = s.backdrop := (rfl)
@[simp] theorem shiftNumbers_backdrop (r : DomainRec) (k : Int) (s : State) : (shiftNumbers r k s).backdrop = s.backdrop := by
  simp [shiftNumbers]
@[simp] theorem holdover_backdrop (t : Fin 4) (s : State) : (holdover t s).backdrop = s.backdrop := by
  unfold holdover
  dsimp only
  split <;> simp

@[simp] theorem sourceLost_backdrop (t : Fin 4) (s : State) : (sourceLost t s).backdrop = s.backdrop := by simp [sourceLost]
@[simp] theorem loseSources_backdrop (p : Timebase → Bool) (s : State) : (loseSources p s).backdrop = s.backdrop := by
  simp [loseSources]
@[simp] theorem linkLosses_backdrop (s : State) : (linkLosses s).backdrop = s.backdrop := by simp [linkLosses]

/-! ### Scene casts and their messages -/

@[simp] theorem noteCast_backdrop (m : CastMsg) (s : State) : (noteCast m s).backdrop = s.backdrop := (rfl)
@[simp] theorem laneSend_backdrop (l : Fin 4) (f : LinkOut) (s : State) : (laneSend l f s).backdrop = s.backdrop := (rfl)
@[simp] theorem lanesSend_backdrop (ls : List (Fin 4)) (f : LinkOut) (s : State) : (lanesSend ls f s).backdrop = s.backdrop := by
  simp [lanesSend]
@[simp] theorem castSend_backdrop (kind : CastKind) (c : CastSt) (reason : Byte) (s : State) :
    (castSend kind c reason s).backdrop = s.backdrop := by simp [castSend]
@[simp] theorem castRequest_backdrop (k tb : Fin 4) (mq : Word) (next : Bool) (block : BitVec 48) (s : State) :
    (castRequest k tb mq next block s).2.2.backdrop = s.backdrop := by
  unfold castRequest
  split <;> simp

@[simp] theorem castAsk_backdrop (k tb : Fin 4) (mq : Word) (next : Bool) (block : BitVec 48) (s : State) :
    (castAsk k tb mq next block s).2.2.backdrop = s.backdrop := by simp [castAsk]
@[simp] theorem castRegisters_backdrop (s : State) : (castRegisters s).backdrop = s.backdrop := by simp [castRegisters]

/-! ### Triggers and streams -/

@[simp] theorem msixSend_backdrop (v : Nat) (s : State) : (msixSend v s).backdrop = s.backdrop := (rfl)
@[simp] theorem msixSignal_backdrop (v : Nat) (s : State) : (msixSignal v s).backdrop = s.backdrop := by simp [msixSignal]
@[simp] theorem cmpAction_backdrop (u : Fin 16) (s : State) : (cmpAction u s).backdrop = s.backdrop := by
  unfold cmpAction
  dsimp only
  split <;> simp

@[simp] theorem cmpsAtBoundary_backdrop (t : Fin 4) (m : Nat) (s : State) :
    (cmpsAtBoundary t m s).2.backdrop = s.backdrop := by
  refine foldl_backdrop _ _ (fun acc u => ?_) ([], s)
  dsimp only
  split_ifs <;> simp

@[simp] theorem s9Boundary_backdrop (d : Fin 4) (s : State) : (s9Boundary d s).2.backdrop = s.backdrop := by
  unfold s9Boundary
  dsimp only
  split <;> simp

@[simp] theorem abortRetry_backdrop (c : Fin 16) (s : State) : (abortRetry c s).backdrop = s.backdrop := (rfl)
@[simp] theorem netOut_backdrop (n : Fin 4) (o : NetOut) (s : State) : (netOut n o s).backdrop = s.backdrop := (rfl)
@[simp] theorem igmp_backdrop (l : RxLeg) (f : Word → List Word → Bool → NetOut) (s : State) :
    (igmp l f s).backdrop = s.backdrop := by simp [igmp]
@[simp] theorem joinLeg_backdrop (l : RxLeg) (s : State) : (joinLeg l s).backdrop = s.backdrop := by simp [joinLeg]
@[simp] theorem leaveLeg_backdrop (l : RxLeg) (s : State) : (leaveLeg l s).backdrop = s.backdrop := by simp [leaveLeg]
@[simp] theorem srxSet_backdrop (u : Fin 256) (en : Bool) (s : State) : (srxSet u en s).backdrop = s.backdrop := by
  unfold srxSet
  dsimp only
  split <;> simp

@[simp] theorem stopDomain_backdrop (d : Fin 4) (s : State) : (stopDomain d s).2.backdrop = s.backdrop := by simp [stopDomain]
@[simp] theorem streamEnables_backdrop (d : Fin 4) (s : State) : (streamEnables d s).backdrop = s.backdrop := by
  refine (each_backdrop _ _ (fun u s => ?_) _).trans (each_backdrop _ _ (fun u s => ?_) s)
  · split <;> simp
  · split <;> simp

@[simp] theorem stepTriggers_backdrop (r : DomainRec) (items : List StageItem) (s : State) :
    (stepTriggers r items s).2.backdrop = s.backdrop := by
  simp only [stepTriggers, apply_ite Prod.snd, ite_backdrop, streamEnables_backdrop, stopDomain_backdrop, s9Boundary_backdrop,
    ite_self]
  refine (each_backdrop _ _ (fun i s => ?_) _).trans (cmpsAtBoundary_backdrop ..)
  split <;> simp

/-! ### Parameters and casts at a boundary -/

@[simp] theorem takeCapture_backdrop (s : State) : (takeCapture s).backdrop = s.backdrop := by
  unfold takeCapture
  split <;> simp

@[simp] theorem onCast_backdrop (id : BitVec 16) (f : CastSt → CastSt) (s : State) : (onCast id f s).backdrop = s.backdrop :=
  (rfl)
@[simp] theorem State.firstNotReady_backdrop (s : State) (c : CastSt) : (s.firstNotReady c).2.2.backdrop = s.backdrop := by
  unfold State.firstNotReady
  split <;> simp

@[simp] theorem castDeferred_backdrop (c : CastSt) (block : BitVec 48) (deferrals : Nat) (s : State) :
    (castDeferred c block deferrals s).backdrop = s.backdrop := by simp [castDeferred]
@[simp] theorem castLast_backdrop (c : CastSt) (outcome : Fin 6) (block : BitVec 48) (s : State) :
    (castLast c outcome block s).backdrop = s.backdrop := (rfl)
@[simp] theorem dropCast_backdrop (id : BitVec 16) (s : State) : (dropCast id s).backdrop = s.backdrop := (rfl)
@[simp] theorem castAborted_backdrop (c : CastSt) (reason : Byte) (s : State) :
    (castAborted c reason s).backdrop = s.backdrop := by simp [castAborted]
@[simp] theorem castsAtDecision_backdrop (t : Fin 4) (m : BitVec 48) (s : State) :
    (castsAtDecision t m s).backdrop = s.backdrop := by simp [castsAtDecision]
@[simp] theorem advanceParams_backdrop (d : Fin 4) (s : State) : (advanceParams d s).backdrop = s.backdrop := (rfl)
@[simp] theorem stepParams_backdrop (r : DomainRec) (s : State) : (stepParams r s).backdrop = s.backdrop := by
  simp [stepParams]
@[simp] theorem castsAtBoundary_backdrop (t : Fin 4) (m : BitVec 48) (s : State) :
    (castsAtBoundary t m s).2.backdrop = s.backdrop := by
  refine foldl_backdrop _ _ (fun acc c => ?_) ([], s)
  dsimp only
  split_ifs <;> simp

@[simp] theorem castsAtReady_backdrop (t : Fin 4) (m : BitVec 48) (s : State) :
    (castsAtReady t m s).backdrop = s.backdrop := by
  refine each_backdrop _ _ (fun c s => ?_) s
  dsimp only
  split_ifs
  · simp
  · rfl
  · split <;> simp
  · rfl

@[simp] theorem settleNodes_backdrop (d : Fin 4) (s : State) : (settleNodes d s).backdrop = s.backdrop := by
  simp only [settleNodes, State.onProcs_backdrop]
  refine each_backdrop _ _ (fun q s => ?_) s
  split <;> simp

@[simp] theorem latchGains_backdrop (d : Fin 4) (s : State) : (latchGains d s).backdrop = s.backdrop := (rfl)
@[simp] theorem enterParams_backdrop (d : Fin 4) (s : State) : (enterParams d s).backdrop = s.backdrop := by simp [enterParams]

/-! ### Register writes that wait for the boundary -/

@[simp] theorem queueTrigger_backdrop (t : Trigger) (s : State) : (queueTrigger t s).backdrop = s.backdrop := by
  unfold queueTrigger; dsimp only; repeat' split
  all_goals simp

@[simp] theorem commitTakes_backdrop (v : BitVec 10) (s : State) : (commitTakes v s).backdrop = s.backdrop := by
  simp [commitTakes]
@[simp] theorem staticItem_backdrop (i : StageItem) (s : State) : (staticItem i s).backdrop = s.backdrop := by
  unfold staticItem
  split <;> simp

@[simp] theorem tickOutputs_backdrop (s : State) : (tickOutputs s).backdrop = s.backdrop := (rfl)
@[simp] theorem sapMasks_backdrop (p : Fin 32) (m : Nat) (items : List StageItem) (s : State) :
    (sapMasks p m items s).backdrop = s.backdrop := (rfl)
@[simp] theorem ampFields_backdrop (c : Fin 16) (items : List StageItem) (s : State) :
    (ampFields c items s).backdrop = s.backdrop := by
  refine each_backdrop _ _ (fun i s => ?_) s
  split <;> simp

@[simp] theorem stepStatic_backdrop (r : DomainRec) (items : List StageItem) (s : State) :
    (stepStatic r items s).backdrop = s.backdrop := by simp [stepStatic]

/-! ### Parameter writes -/

@[simp] theorem rangeRefused_backdrop (p : PAddr) (v : Word) (s : State) : (rangeRefused p v s).backdrop = s.backdrop := by
  simp [rangeRefused]
@[simp] theorem muxWrite_backdrop (n : NodeRec) (q : ParamSt) (w : PWrite) (s : State) :
    (muxWrite n q w s).backdrop = s.backdrop := by
  unfold muxWrite
  split
  · simp
  · split <;> simp

@[simp] theorem tapMove_backdrop (n : NodeRec) (declTime : Nat) (w : PWrite) (s : State) :
    (tapMove n declTime w s).backdrop = s.backdrop := (rfl)
@[simp] theorem delayWrite_backdrop (n : NodeRec) (q : ParamSt) (w : PWrite) (s : State) :
    (delayWrite n q w s).backdrop = s.backdrop := by simp [delayWrite]
@[simp] theorem applyWrite_backdrop (w0 : PWrite) (s : State) : (applyWrite w0 s).backdrop = s.backdrop := by
  unfold applyWrite
  split <;> simp

@[simp] theorem sendMove_backdrop (n : NodeRec) (ws : List PWrite) (s : State) : (sendMove n ws s).backdrop = s.backdrop := by
  unfold sendMove
  dsimp only
  split <;> simp

@[simp] theorem moveSends_backdrop (ws : List PWrite) (s : State) : (moveSends ws s).backdrop = s.backdrop := by
  refine each_backdrop _ _ (fun k s => ?_) s
  split <;> simp

@[simp] theorem noteWrites_backdrop (d : Fin 4) (ps : List PAddr) (s : State) : (noteWrites d ps s).backdrop = s.backdrop :=
  (rfl)
@[simp] theorem stepWrites_backdrop (r : DomainRec) (items : List StageItem) (s : State) :
    (stepWrites r items s).backdrop = s.backdrop := by simp [stepWrites]

/-! ### Engine clocks, banks and memory copies -/

@[simp] theorem freqTakes_backdrop (e : Fin 24) (s : State) : (freqTakes e s).backdrop = s.backdrop := by
  unfold freqTakes
  dsimp only
  split <;> simp

@[simp] theorem freqBoundary_backdrop (d : Option (Fin 4)) (s : State) : (freqBoundary d s).backdrop = s.backdrop := by
  simp [freqBoundary]
@[simp] theorem memLost_backdrop (lo hi : Nat) (s : State) : (memLost lo hi s).backdrop = s.backdrop := (rfl)
@[simp] theorem bankEnter_backdrop (b : Fin 256) (st : BankState) (s : State) : (bankEnter b st s).backdrop = s.backdrop := by
  simp [bankEnter]
@[simp] theorem banksLeave_backdrop (s : State) : (banksLeave s).backdrop = s.backdrop := by simp [banksLeave]
@[simp] theorem setEntry_backdrop (r : Nat) (f : RegEntry → RegEntry) (s : State) : (setEntry r f s).backdrop = s.backdrop :=
  (rfl)
@[simp] theorem startCopy_backdrop (k : Fin 64) (c : CopySlot) (s : State) : (startCopy k c s).backdrop = s.backdrop := by
  simp [startCopy]
@[simp] theorem startCopies_backdrop (s : State) : (startCopies s).backdrop = s.backdrop := by
  refine each_backdrop _ _ (fun k s => ?_) s
  split <;> simp

@[simp] theorem settleStores_backdrop (lo len : Nat) (e : Fin 24) (s : State) :
    (settleStores lo len e s).backdrop = s.backdrop := by simp [settleStores]
@[simp] theorem dropPages_backdrop (f : Page → Bool) (s : State) : (dropPages f s).backdrop = s.backdrop := by simp [dropPages]
@[simp] theorem writeBack_backdrop (p : Page) (s : State) : (writeBack p s).backdrop = s.backdrop := by
  unfold writeBack
  dsimp only
  split <;> simp

@[simp] theorem flushWhere_backdrop (f : Page → Bool) (s : State) : (flushWhere f s).backdrop = s.backdrop := by
  simp [flushWhere]
@[simp] theorem mirrorBuffered_backdrop (v : Move) (s : State) : (mirrorBuffered v s).backdrop = s.backdrop := by
  simp [mirrorBuffered]
@[simp] theorem addProc_backdrop (p : ProcSt) (s : State) : (addProc p s).backdrop = s.backdrop := (rfl)
@[simp] theorem startOverlap_backdrop (v : Move) (s : State) : (startOverlap v s).backdrop = s.backdrop := by
  unfold startOverlap
  dsimp only
  split <;> simp

@[simp] theorem freeSlot_backdrop (k : Fin 64) (s : State) : (freeSlot k s).backdrop = s.backdrop := (rfl)
@[simp] theorem takeEntry_backdrop (r : Nat) (s : State) : (takeEntry r s).backdrop = s.backdrop := (rfl)
@[simp] theorem setNext_backdrop (r : Nat) (en : RegEntry) (s : State) : (setNext r en s).backdrop = s.backdrop := (rfl)
@[simp] theorem onSite_backdrop (node : Nat) (f : Site → Site) (s : State) : (onSite node f s).backdrop = s.backdrop := (rfl)
@[simp] theorem finishSeed_backdrop (v : Move) (s : State) : (finishSeed v s).backdrop = s.backdrop := by simp [finishSeed]
@[simp] theorem flushPages_backdrop (r : Nat) (s : State) : (flushPages r s).backdrop = s.backdrop := by simp [flushPages]
@[simp] theorem soil_backdrop (a : Nat) (s : State) : (soil a s).backdrop = s.backdrop := (rfl)
@[simp] theorem putCopy_backdrop (c : CopySlot) (ofs : Nat) (bs : List Byte) (s : State) :
    (putCopy c ofs bs s).backdrop = s.backdrop := by simp [putCopy]
@[simp] theorem leaveDown_backdrop (c : CopySlot) (s : State) : (leaveDown c s).backdrop = s.backdrop := by simp [leaveDown]
@[simp] theorem takeNew_backdrop (d : Fin 4) (k : Fin 64) (s : State) : (takeNew d k s).backdrop = s.backdrop := by
  simp [takeNew]
@[simp] theorem movedEntry_backdrop (v : Move) (c : CopySlot) (s : State) : (movedEntry v c s).backdrop = s.backdrop := (rfl)
@[simp] theorem dropProc_backdrop (node : Nat) (e : Fin 24) (s : State) : (dropProc node e s).backdrop = s.backdrop := (rfl)

/-! ### Plans -/

@[simp] theorem finishMove_backdrop (d : Fin 4) (v : Move) (s : State) : (finishMove d v s).backdrop = s.backdrop := by
  simp [finishMove]
@[simp] theorem singleCopy_backdrop (node : Nat) (s : State) : (singleCopy node s).backdrop = s.backdrop := by
  unfold singleCopy; dsimp only; repeat' split
  all_goals simp

@[simp] theorem shedProc_backdrop (node : Nat) (s : State) : (shedProc node s).backdrop = s.backdrop := by simp [shedProc]
@[simp] theorem takeEntries_backdrop (ns : List NodeRec) (s : State) : (takeEntries ns s).backdrop = s.backdrop := by
  simp [takeEntries]
@[simp] theorem initRegion_backdrop (rec : RegionRec) (a : Nat) (s : State) : (initRegion rec a s).backdrop = s.backdrop :=
  (rfl)
@[simp] theorem restartRegion_backdrop (p : Plan) (oldSite : Option (Fin 24)) (o : Nat × RegionRec × NodeRec) (s : State) :
    (restartRegion p oldSite o s).2.backdrop = s.backdrop := by
  unfold restartRegion; dsimp only; repeat' split
  all_goals simp

@[simp] theorem restartProc_backdrop (p : Plan) (n : NodeRec) (s : State) : (restartProc p n s).backdrop = s.backdrop := by
  have hregions : ∀ (old : Option (Fin 24)) (l : List (Nat × RegionRec × NodeRec)) (acc : Bool × State),
      (l.foldl (fun acc o => let x := restartRegion p old o acc.2; (acc.1 || x.1, x.2)) acc).2.backdrop = acc.2.backdrop :=
    fun old l acc => foldl_backdrop l _ (fun acc o => by simp) acc
  unfold restartProc
  split
  · rfl
  · dsimp only
    split <;> simp [hregions]

@[simp] theorem applySites_backdrop (d : Fin 4) (cur new : Plan) (s : State) :
    (applySites d cur new s).backdrop = s.backdrop := by
  unfold applySites
  refine (each_backdrop _ _ (fun n s => ?_) _).trans (by split_ifs <;> simp)
  dsimp only
  split_ifs
  · rfl
  · simp
  · split
    · split_ifs
      · rfl
      · split <;> simp
    · rfl

@[simp] theorem finishResize_backdrop (c : CopySlot) (s : State) : (finishResize c s).backdrop = s.backdrop := by
  unfold finishResize; dsimp only; repeat' split
  all_goals simp

@[simp] theorem finishShorten_backdrop (c : CopySlot) (s : State) : (finishShorten c s).backdrop = s.backdrop := by
  unfold finishShorten
  split <;> simp

@[simp] theorem finishCopies_backdrop (d : Fin 4) (s : State) : (finishCopies d s).backdrop = s.backdrop := by
  simp [finishCopies]
@[simp] theorem poolsMove_backdrop (new : Plan) (s : State) : (poolsMove new s).backdrop = s.backdrop := by simp [poolsMove]
@[simp] theorem nextPlan_backdrop (s : State) : (nextPlan s).backdrop = s.backdrop := by
  unfold nextPlan
  dsimp only
  split <;> simp

@[simp] theorem levelTables_backdrop (s : State) : (levelTables s).backdrop = s.backdrop := (rfl)
@[simp] theorem planCurrent_backdrop (c : Pending) (s : State) : (planCurrent c s).backdrop = s.backdrop := by
  simp [planCurrent]
@[simp] theorem switchDomain_backdrop (d : Fin 4) (s : State) : (switchDomain d s).backdrop = s.backdrop := by
  unfold switchDomain
  split <;> simp

@[simp] theorem countPlan_backdrop (d : Fin 4) (ready : Bool) (s : State) : (countPlan d ready s).backdrop = s.backdrop := by
  unfold countPlan
  split <;> simp

@[simp] theorem planBoundary_backdrop (d : Fin 4) (s : State) : (planBoundary d s).backdrop = s.backdrop := by
  simp [planBoundary]

/-! ### Fences and engines declared out -/

@[simp] theorem abandonCopy_backdrop (k : Fin 64) (s : State) : (abandonCopy k s).backdrop = s.backdrop := by
  simp [abandonCopy]
@[simp] theorem abandonCopies_backdrop (v : Move) (s : State) : (abandonCopies v s).backdrop = s.backdrop := by
  simp [abandonCopies]
@[simp] theorem dropMove_backdrop (v : Move) (s : State) : (dropMove v s).backdrop = s.backdrop := by simp [dropMove]
@[simp] theorem abandonPlan_backdrop (s : State) : (abandonPlan s).backdrop = s.backdrop := by
  unfold abandonPlan
  split <;> simp

@[simp] theorem loseCopy_backdrop (e : Fin 24) (p : ProcSt) (s : State) : (loseCopy e p s).backdrop = s.backdrop := by
  unfold loseCopy; dsimp only; repeat' split
  all_goals simp

@[simp] theorem evacuate_backdrop (e : Fin 24) (s : State) : (evacuate e s).backdrop = s.backdrop := by simp [evacuate]
@[simp] theorem liftFence_backdrop (m : Fin 37) (s : State) : (liftFence m s).backdrop = s.backdrop := by simp [liftFence]
@[simp] theorem endDrain_backdrop (m : Fin 37) (s : State) : (endDrain m s).backdrop = s.backdrop := by
  unfold endDrain
  split <;> simp

@[simp] theorem masterReset_backdrop (m : Fin 37) (s : State) : (masterReset m s).backdrop = s.backdrop := by
  unfold masterReset
  split
  · rfl
  · dsimp only
    split <;> simp

@[simp] theorem declareOut_backdrop (e : Fin 24) (cause : Fin 7) (s : State) : (declareOut e cause s).backdrop = s.backdrop := by
  simp [declareOut]

/-! ### Redundant pairs of processes -/

@[simp] theorem resolvePair_backdrop (node : Nat) (faulty : Fin 24) (replay : Bool) (s : State) :
    (resolvePair node faulty replay s).backdrop = s.backdrop := by simp [resolvePair]
@[simp] theorem publish_backdrop (node w : Nat) (fs : List Frame) (s : State) : (publish node w fs s).backdrop = s.backdrop := by
  simp [publish]
@[simp] theorem markCrossed_backdrop (p : PAddr) (s : State) : (markCrossed p s).backdrop = s.backdrop := (rfl)
@[simp] theorem markProcCrossings_backdrop (n : NodeRec) (x : Frame) (prev : Word) (s : State) :
    (markProcCrossings n x prev s).backdrop = s.backdrop := by simp [markProcCrossings]
@[simp] theorem seedSend_backdrop (m : SeedMsg) (s : State) : (seedSend m s).backdrop = s.backdrop := by
  unfold seedSend
  dsimp only
  split <;> simp

@[simp] theorem markSuspect_backdrop (e : Fin 24) (s : State) : (markSuspect e s).backdrop = s.backdrop := by
  simp [markSuspect]
@[simp] theorem judgePair_backdrop (q : PairSt) (sec : Fin 24) (k : Nat) (s : State) :
    (judgePair q sec k s).backdrop = s.backdrop := by
  unfold judgePair
  split <;> simp

@[simp] theorem unresolvedPair_backdrop (q : PairSt) (sec : Fin 24) (s : State) :
    (unresolvedPair q sec s).backdrop = s.backdrop := by simp [unresolvedPair]
@[simp] theorem endReplay_backdrop (q : PairSt) (sec : Fin 24) (s : State) : (endReplay q sec s).backdrop = s.backdrop := by
  simp [endReplay]
@[simp] theorem pairBoundary_backdrop (d : Fin 4) (node : Nat) (s : State) :
    (pairBoundary d node s).backdrop = s.backdrop := by
  unfold pairBoundary; dsimp only; repeat' split
  all_goals simp

@[simp] theorem pairsBoundary_backdrop (d : Fin 4) (s : State) : (pairsBoundary d s).backdrop = s.backdrop := by
  simp [pairsBoundary]
@[simp] theorem declareOuts_backdrop (s : State) : (declareOuts s).backdrop = s.backdrop := by
  refine each_backdrop _ _ (fun e s => ?_) s
  dsimp only
  split <;> simp

@[simp] theorem releaseHeld_backdrop (d : Fin 4) (s : State) : (releaseHeld d s).backdrop = s.backdrop := by
  refine each_backdrop _ _ (fun p s => ?_) s
  split
  · split_ifs
    · dsimp only
      split <;> simp
    · rfl
  · rfl

@[simp] theorem stepPlan_backdrop (d : Fin 4) (s : State) : (stepPlan d s).backdrop = s.backdrop := by simp [stepPlan]

/-! ### Serial audio ports, network streams and amplifiers -/

@[simp] theorem sapTake_backdrop (p : Fin 32) (b : Nat) (start stop : Bool) (s : State) :
    (sapTake p b start stop s).backdrop = s.backdrop := by simp [sapTake]
@[simp] theorem sapStarted_backdrop (p : Fin 32) (b : Nat) (s : State) : (sapStarted p b s).backdrop = s.backdrop := by
  simp [sapStarted]
@[simp] theorem sapStopped_backdrop (p : Fin 32) (m : Nat) (s : State) : (sapStopped p m s).backdrop = s.backdrop := by
  simp [sapStopped]
@[simp] theorem sapProgress_backdrop (p : Fin 32) (m : Nat) (s : State) : (sapProgress p m s).backdrop = s.backdrop := by
  unfold sapProgress; dsimp only; repeat' split
  all_goals simp

@[simp] theorem sapEnter_backdrop (p : Fin 32) (m : Nat) (items : List StageItem) (s : State) :
    (sapEnter p m items s).backdrop = s.backdrop := by simp [sapEnter]
@[simp] theorem enterPorts_backdrop (r : DomainRec) (items : List StageItem) (s : State) :
    (enterPorts r items s).backdrop = s.backdrop := by simp [enterPorts]
@[simp] theorem sapEmit_backdrop (p : Fin 32) (smp : Option Nat) (s : State) : (sapEmit p smp s).backdrop = s.backdrop := by
  simp [sapEmit]
@[simp] theorem sapEmitLate_backdrop (p : Fin 32) (l : Nat × Option Nat) (s : State) :
    (sapEmitLate p l s).backdrop = s.backdrop := by
  unfold sapEmitLate
  split <;> simp

@[simp] theorem sapOutputs_backdrop (p : Fin 32) (m : Nat) (s : State) : (sapOutputs p m s).backdrop = s.backdrop := by
  simp [sapOutputs]
@[simp] theorem sapClocks_backdrop (p : Fin 32) (s : State) : (sapClocks p s).backdrop = s.backdrop := (rfl)
@[simp] theorem sapZero_backdrop (p : Fin 32) (m : Nat) (s : State) : (sapZero p m s).backdrop = s.backdrop := by
  simp [sapZero]
@[simp] theorem sapSinks_backdrop (p : Fin 32) (m : Nat) (s : State) : (sapSinks p m s).backdrop = s.backdrop := by
  simp [sapSinks]
@[simp] theorem sapBoundary_backdrop (p : Fin 32) (m : Nat) (s : State) : (sapBoundary p m s).backdrop = s.backdrop := by
  simp [sapBoundary]
@[simp] theorem discardLate_backdrop (u : Fin 256) (r : TxRec) (s : State) : (discardLate u r s).backdrop = s.backdrop := by
  simp [discardLate]
@[simp] theorem takeStream_backdrop (u : Fin 256) (r : TxRec) (g : Nat) (s : State) :
    (takeStream u r g s).backdrop = s.backdrop := (rfl)
@[simp] theorem sendCopy_backdrop (u : Fin 256) (r : TxRec) (p g : Nat) (l : Bool × TxLeg) (acc : Vector Nat 4 × State) :
    (sendCopy u r p g l acc).2.backdrop = acc.2.backdrop := by
  simp only [sendCopy]
  split_ifs <;> simp

@[simp] theorem streamsSend_backdrop (d : Fin 4) (g : Nat) (s : State) : (streamsSend d g s).backdrop = s.backdrop := by
  simp only [streamsSend]
  refine (foldl_backdrop _ _ (fun acc q => foldl_backdrop _ _ (fun acc p => foldl_backdrop _ _
    (fun acc l => sendCopy_backdrop ..) acc) acc) _).trans ?_
  simp

@[simp] theorem ampDiagTake_backdrop (c : Fin 16) (quick : Bool) (s : State) : (ampDiagTake c quick s).backdrop = s.backdrop :=
  (rfl)
@[simp] theorem ampWords_backdrop (c : Fin 16) (m : Nat) (s : State) : (ampWords c m s).backdrop = s.backdrop := by
  simp [ampWords]
@[simp] theorem ampRuns_backdrop (c : Fin 16) (m : Nat) (s : State) : (ampRuns c m s).backdrop = s.backdrop := by
  simp [ampRuns]
@[simp] theorem ampTake_backdrop (c : Fin 16) (m : Nat) (start stop : Bool) (s : State) :
    (ampTake c m start stop s).backdrop = s.backdrop := by simp [ampTake]
@[simp] theorem ampBoundary_backdrop (c : Fin 16) (m : Nat) (items : List StageItem) (s : State) :
    (ampBoundary c m items s).backdrop = s.backdrop := by
  simp only [ampBoundary, ampTake_backdrop, ampWords_backdrop, ampRuns_backdrop]
  refine (each_backdrop _ _ (fun i s => ?_) _).trans (State.onAmp_backdrop ..)
  split <;> simp

/-! ### The pair of units and its seed -/

@[simp] theorem setPair_backdrop (new : PairState) (s : State) : (setPair new s).backdrop = s.backdrop := by simp [setPair]
@[simp] theorem enterPair_backdrop (new : PairState) (s : State) : (enterPair new s).backdrop = s.backdrop := by
  simp [enterPair]
@[simp] theorem placeRegion_backdrop (size : Nat → Nat) (p : Plan) (o : Nat × RegionRec × NodeRec) (s : State) :
    (placeRegion size p o s).backdrop = s.backdrop := by
  unfold placeRegion
  split
  · simp
  · split <;> simp

@[simp] theorem takeOver_backdrop (s : State) : (takeOver s).backdrop = s.backdrop := by
  simp only [takeOver, raise_backdrop, State.onRed_backdrop]
  refine (each_backdrop _ _ (fun k s => ?_) _).trans (State.onProcs_backdrop ..)
  split <;> simp

@[simp] theorem stopProcesses_backdrop (s : State) : (stopProcesses s).backdrop = s.backdrop := (rfl)
@[simp] theorem enterDue_backdrop (new : PairState) (s : State) : (enterDue new s).backdrop = s.backdrop := by
  unfold enterDue
  dsimp only
  split <;> simp

@[simp] theorem commitSeed_backdrop (epoch : Word) (at_ : BitVec 48) (s : State) :
    (commitSeed epoch at_ s).backdrop = s.backdrop := by
  simp only [commitSeed, stopProcesses_backdrop, raise_backdrop, State.onRed_backdrop]
  refine (each_backdrop _ _ (fun n s => ?_) _).trans (State.onScene_backdrop ..)
  split <;> simp

@[simp] theorem startSeeded_backdrop (s : State) : (startSeeded s).backdrop = s.backdrop := by simp [startSeeded]
@[simp] theorem joinerBoundary_backdrop (s : State) : (joinerBoundary s).backdrop = s.backdrop := by
  unfold joinerBoundary
  split
  · split <;> simp
  · rfl

@[simp] theorem startSeed_backdrop (s : State) : (startSeed s).backdrop = s.backdrop := by simp [startSeed]
@[simp] theorem heldReseed_backdrop (s : State) : (heldReseed s).backdrop = s.backdrop := by simp [heldReseed]
@[simp] theorem joinPair_backdrop (s : State) : (joinPair s).backdrop = s.backdrop := by simp [joinPair]
@[simp] theorem sendItems_backdrop (n : NodeRec) (s : State) : (sendItems n s).backdrop = s.backdrop := by simp [sendItems]
@[simp] theorem seedSource_backdrop (s : State) : (seedSource s).backdrop = s.backdrop := by
  unfold seedSource
  split <;> simp

@[simp] theorem duetBoundary_backdrop (d : Fin 4) (s : State) : (duetBoundary d s).backdrop = s.backdrop := by
  unfold duetBoundary; dsimp only; repeat' split
  all_goals simp

@[simp] theorem stepPorts_backdrop (r : DomainRec) (items : List StageItem) (s : State) :
    (stepPorts r items s).backdrop = s.backdrop := by simp [stepPorts]

/-! ### The interval that opens -/

@[simp] theorem openSources_backdrop (r : DomainRec) (s : State) : (openSources r s).backdrop = s.backdrop := by
  simp [openSources]
@[simp] theorem feedBridges_backdrop (d : Fin 4) (s : State) : (feedBridges d s).backdrop = s.backdrop := by simp [feedBridges]
@[simp] theorem publishSources_backdrop (d : Fin 4) (s : State) : (publishSources d s).backdrop = s.backdrop := by
  refine each_backdrop _ _ (fun n s => ?_) s
  split <;> simp

@[simp] theorem putTable_backdrop (a : Nat) (bs : List Byte) (s : State) : (putTable a bs s).backdrop = s.backdrop := by
  induction a, bs, s using putTable.induct with
  | case1 o a b c d t s ih => rw [putTable, ih]; simp
  | case2 => simp [putTable]

@[simp] theorem openFabric_backdrop (d : Fin 4) (s : State) : (openFabric d s).backdrop = s.backdrop := by
  simp [openFabric]

@[simp] theorem silentWork_backdrop (d : Fin 4) (s : State) : (silentWork d s).backdrop = s.backdrop := by
  refine each_backdrop _ _ (fun p s => ?_) s
  split
  · split
    · split_ifs <;> simp
    · rfl
  · rfl

@[simp] theorem openInterval_backdrop (d : Fin 4) (s : State) : (openInterval d s).backdrop = s.backdrop := by
  simp [openInterval]
@[simp] theorem beginInterval_backdrop (r : DomainRec) (s : State) : (beginInterval r s).backdrop = s.backdrop := by
  simp [beginInterval]

/-! ### The pacing tick -/

@[simp] theorem freeTime_backdrop (cycles : Nat) (t : Fin 4) (s : State) : (freeTime cycles t s).backdrop = s.backdrop := by
  unfold freeTime; dsimp only; repeat' split
  all_goals simp

@[simp] theorem reportSaturation_backdrop (s : State) : (reportSaturation s).backdrop = s.backdrop := by
  unfold reportSaturation
  split <;> simp

@[simp] theorem reportDetects_backdrop (s : State) : (reportDetects s).backdrop = s.backdrop := by simp [reportDetects]
@[simp] theorem takeTimestamps_backdrop (s : State) : (takeTimestamps s).backdrop = s.backdrop := (rfl)
@[simp] theorem healthTick_backdrop (s : State) : (healthTick s).backdrop = s.backdrop := (rfl)

end Sys2Proof.Machine
end

section
/-! A block boundary counts one block of its timebase (R21, R22, R27); the commands within an interval (R211, R379, R410, R425). -/

namespace Sys2Proof.Machine

theorem State.blk_eq (s : State) (u : Fin 4) : (s.tb u).blk = (s.backdrop.blocks u).1 := rfl
theorem State.open_eq (s : State) (u : Fin 4) : (s.tb u).open_ = (s.backdrop.blocks u).2 := rfl
theorem State.hostMem_eq (s : State) : s.hostMem = s.backdrop.hostMem := rfl

/-! ### What comes before the counter: the streams and the media instant -/

/-- The SOURCE blocks of a stream reach its unit and its events alone. -/
theorem closeStream_eq (u : Fin 256) (r : RxRec) (s : State) :
    closeStream u r s = { s with
      net := (closeStream u r s).net, ao := (closeStream u r s).ao, evt := (closeStream u r s).evt } := by
  unfold closeStream
  dsimp only
  split
  · rw [raiseIf_eq]; rfl
  · rfl

theorem closeSources_eq (d : Fin 4) (s : State) :
    closeSources d s = { s with
      net := (closeSources d s).net, ao := (closeSources d s).ao, evt := (closeSources d s).evt } := by
  refine each_keeps (fun t => t = { s with net := t.net, ao := t.ao, evt := t.evt }) _ _ (fun q _ t ht => ?_) s rfl
  have h := closeStream_eq q.1 q.2 t
  generalize closeStream q.1 q.2 t = t' at h ⊢
  rw [h, ht]

@[simp] theorem closeSources_clk (d : Fin 4) (s : State) : (closeSources d s).clk = s.clk := by rw [closeSources_eq]

theorem raisePulses_clk (t : Fin 4) (s : State) : (raisePulses t s).clk = s.clk := by
  refine each_field State.clk _ _ (fun u _ s => ?_) s
  split
  · split_ifs <;> rfl
  · rfl

theorem ampInstant_clk (d : Fin 4) (s : State) : (ampInstant d s).clk = s.clk := by
  refine each_field State.clk _ _ (fun c _ s => ?_) s
  rw [State.onAmp_clk]

@[simp] theorem sampleInstant_clk (r : DomainRec) (s : State) : (sampleInstant r s).clk = s.clk := by
  rw [sampleInstant, ampInstant_clk, raisePulses_clk]

/-! ### The counter -/

/-- The backdrop after a boundary of timebase t: one block more, and staging is open. -/
def Backdrop.count (b : Backdrop) (t : Fin 4) : Backdrop :=
  { b with blocks := fun u => if u = t then ((b.blocks t).1 + 1, true) else b.blocks u }

/-- No change of time and no new source is among the items of a boundary. -/
def Steady (items : List StageItem) : Prop := ∀ i ∈ items, i.isTime = false ∧ ∀ a b, i ≠ .tbSource a b

theorem countBoundary_backdrop (t : Fin 4) {items : List StageItem} (h : Steady items) (s : State) :
    (countBoundary t items s).backdrop = s.backdrop.count t := by
  have hnone : items.filter StageItem.isTime = [] := List.filter_eq_nil_iff.2 fun i hi => by simp [(h i hi).1]
  have hcount : ∀ f : Timebase → Timebase, (f (s.tb t)).blk = (s.tb t).blk + 1 → (f (s.tb t)).open_ = true →
      (s.onTb t f).backdrop = s.backdrop.count t := fun f hb ho => by
    have hblocks : ∀ u, (((s.onTb t f).tb u).blk, ((s.onTb t f).tb u).open_) = (s.backdrop.count t).blocks u := fun u => by
      by_cases hu : u = t
      · subst hu; simp [hb, ho, Backdrop.count, State.backdrop]
      · simp [State.onTb_tb_other s t u f (Ne.symm hu), hu, Backdrop.count, State.backdrop]
    simp only [State.backdrop, hblocks]
    rfl
  simp only [countBoundary, hnone, each_nil]
  split
  · rw [State.onTb_onTb]; exact hcount _ rfl rfl
  · exact hcount _ rfl rfl

theorem sourceItem_other {t : Fin 4} {i : StageItem} (h : ∀ a b, i ≠ .tbSource a b) (s : State) : sourceItem t i s = s := by
  unfold sourceItem
  split
  · exact absurd rfl (h _ _)
  · rfl

theorem each_sourceItem (t : Fin 4) {items : List StageItem} (h : Steady items) (s : State) :
    each items (sourceItem t) s = s :=
  each_keeps (· = s) items _ (fun i hi u hu => (sourceItem_other (h i hi).2 u).trans hu) s rfl

/-- Step 1 of a boundary without changes of time or source. -/
theorem stepCounter_backdrop (r : DomainRec) {items : List StageItem} (h : Steady items) (s : State) :
    (stepCounter r items s).backdrop = s.backdrop.count r.tb := by
  simp only [stepCounter, each_sourceItem _ h, holdover_backdrop, linkLosses_backdrop, ite_backdrop]
  simp [countBoundary_backdrop _ h]

/-- A boundary counts one block of its own timebase and opens staging there. -/
theorem domainBoundary_backdrop (r : DomainRec) (s : State)
    (h : ∀ i ∈ (s.tb r.tb).staged, i.wait = 0 → i.item.isTime = false ∧ ∀ a b, i.item ≠ .tbSource a b) :
    (domainBoundary r s).backdrop = s.backdrop.count r.tb := by
  have hsteady : ∀ t : State, t.clk = s.clk → Steady (takeStaged r.tb t).1 := fun t ht i hi => by
    have htb : t.tb r.tb = s.tb r.tb := by simp only [State.tb, ht]
    simp only [takeStaged, htb, List.mem_map, List.mem_filter, beq_iff_eq] at hi
    obtain ⟨x, ⟨hx, hwait⟩, rfl⟩ := hi
    exact h x hx hwait
  have hclk : ∀ c : Bool, (sampleInstant r (if c = true then closeSources r.dom s else s)).clk = s.clk := fun c => by
    cases c <;> simp
  simp only [domainBoundary, stepPorts_backdrop, beginInterval_backdrop, enterPorts_backdrop, stepParams_backdrop,
    stepWrites_backdrop, stepPlan_backdrop, stepStatic_backdrop, stepTriggers_backdrop, takeNumbered_backdrop,
    rollUnit_backdrop, ite_backdrop, ite_self]
  rw [stepCounter_backdrop r (hsteady _ (hclk _)), takeStaged_backdrop, sampleInstant_backdrop, ite_backdrop,
    closeSources_backdrop, ite_self]

end Sys2Proof.Machine

open Sys2Proof Sys2Proof.Machine

/-- Settles O18: the counter step counts one block (`stepCounter_backdrop`), and every other step of the boundary keeps the
backdrop. -/
theorem blockBoundaryCounts : Obligations.BlockBoundaryCounts := by
  intro s tb r hr hup hdue
  have htb : r.tb = tb := by simpa using List.find?_some hr
  subst htb
  have hexec : execBlockBoundary r.tb s = .next (domainBoundary r s) := by
    simp only [execBlockBoundary, hr, if_neg (Nat.not_lt.2 hup)]
  have hback := domainBoundary_backdrop r s hdue
  have hblocks := congrFun (congrArg Backdrop.blocks hback)
  refine ⟨domainBoundary r s, hexec, ?_, ?_, fun u hu => ?_, ?_⟩
  · rw [State.blk_eq, hback, State.blk_eq s]
    exact congrArg Prod.fst (if_pos rfl)
  · rw [State.open_eq, hback]
    exact congrArg Prod.snd (if_pos rfl)
  · rw [State.blk_eq, hback, State.blk_eq s]
    exact congrArg Prod.fst (if_neg hu)
  · rw [State.hostMem_eq, hback]
    rfl

end

section
/-! The commands within an interval: staging closes, SOURCE blocks close, and the pacing tick passes (R27, R211, R379, R425). -/

namespace Sys2Proof.Machine

/-! ### Staging closes -/

theorem lanesSend_eq (ls : List (Fin 4)) (f : LinkOut) (s : State) :
    lanesSend ls f s = { s with red := (lanesSend ls f s).red } := by
  refine each_keeps (fun t => t = { s with red := t.red }) ls _ (fun l _ t ht => ?_) s rfl
  rw [ht]
  rfl

theorem castSend_eq (kind : CastKind) (c : CastSt) (reason : Byte) (s : State) :
    castSend kind c reason s =
      { s with scene := (castSend kind c reason s).scene, red := (castSend kind c reason s).red } := by
  simp only [castSend, noteCast]
  rw [lanesSend_eq]
  rfl

/-- A cast whose decision has not come reaches the scene controller, the lanes and the events alone (R287). -/
theorem castLost_eq (c : CastSt) (s : State) :
    castLost c s = { s with
      scene := (castLost c s).scene, red := (castLost c s).red, ao := (castLost c s).ao, evt := (castLost c s).evt } := by
  unfold castLost
  dsimp only
  split
  · rw [raise_eq]; rfl
  · rw [castSend_eq, raise_eq]; rfl

theorem castsAtClose_eq (t : Fin 4) (s : State) :
    castsAtClose t s = { s with
      scene := (castsAtClose t s).scene, red := (castsAtClose t s).red, ao := (castsAtClose t s).ao
      evt := (castsAtClose t s).evt } := by
  refine each_keeps (fun u => u = { s with scene := u.scene, red := u.red, ao := u.ao, evt := u.evt }) s.scene.casts _
    (fun c _ u hu => ?_) s rfl
  have hlost := castLost_eq c u
  split_ifs
  · rw [hu]; rfl
  · exact hu
  · generalize castLost c u = u' at hlost ⊢
    rw [hlost, hu]
  · exact hu
  · exact hu

/-- Closing staging changes the open flag of its timebase, and otherwise reaches the casts, the lanes and the events alone. -/
theorem closeStaging_frame (t : Fin 4) (s : State) :
    let u := closeStaging t s
    u.clk = (s.onTb t fun x => { x with open_ := false }).clk ∧
      u = { s with clk := u.clk, scene := u.scene, red := u.red, ao := u.ao, evt := u.evt } := by
  have h := castsAtClose_eq t (s.onTb t fun x => { x with open_ := false })
  simp only [closeStaging]
  generalize castsAtClose t (s.onTb t fun x => { x with open_ := false }) = u at h ⊢
  have hclk : u.clk = (s.onTb t fun x => { x with open_ := false }).clk := by rw [h]
  exact ⟨hclk, by rw [hclk]; exact h⟩

/-! ### SOURCE blocks close -/

theorem closeSources_tb (d : Fin 4) (s : State) (u : Fin 4) : (closeSources d s).tb u = s.tb u := by
  simp only [State.tb, closeSources_clk]

theorem closeBlock_open {t : Fin 4} {s : State} {r : DomainRec} (hr : s.domOfTb t = some r) (hawake : s.asleep = false)
    (hopen : (s.tb t).srcClosed = false) :
    closeBlock t s = (closeSources r.dom s).onTb t fun x => { x with srcClosed := true } := by
  simp only [closeBlock, hr, hawake, hopen, Bool.or_self, Bool.false_eq_true, if_false]

/-- The blocks of an interval close once. -/
theorem closeBlock_closed {t : Fin 4} {s : State} (h : (s.tb t).srcClosed = true) : closeBlock t s = s := by
  unfold closeBlock
  split
  · simp only [h, Bool.true_or, if_true]
  · rfl

/-! ### The pacing tick -/

/-- Absolute time and host memory, which the pacing tick's changes of block counters leave alone as well. -/
def State.outer (s : State) : Nat × Mem := (s.ao.now, s.hostMem)

theorem State.now_eq_outer (s : State) : s.now = s.outer.1 := rfl
theorem State.hostMem_eq_outer (s : State) : s.hostMem = s.outer.2 := rfl

theorem outer_of_backdrop {s t : State} (h : t.backdrop = s.backdrop) : t.outer = s.outer :=
  congrArg (fun b : Backdrop => (b.now, b.hostMem)) h

theorem reload_outer (t : Fin 4) (m m' : BitVec 48) (s : State) : (reload t m m' s).outer = s.outer := rfl

theorem jumpTime_outer (t : Fin 4) (o : Int) (m : BitVec 48) (s : State) : (jumpTime t o m s).2.2.outer = s.outer :=
  outer_of_backdrop (jumpTime_backdrop ..)

theorem raise_outer (code : Nat) (vals : Vals) (s : State) : (raise code vals s).outer = s.outer :=
  outer_of_backdrop (raise_backdrop ..)

theorem timeItem_outer (t : Fin 4) (m : BitVec 48) (i : StageItem) (s : State) : (timeItem t m i s).outer = s.outer := by
  unfold timeItem
  split
  · dsimp only
    split
    · rw [raise_outer]; exact jumpTime_outer ..
    · rfl
  · split
    · rw [raise_outer, reload_outer, jumpTime_outer]
    · rfl
  · dsimp only
    split_ifs
    · rw [raise_outer, reload_outer, jumpTime_outer]
    · rfl
  · split
    · rw [reload_outer, jumpTime_outer]
    · rfl
  · rfl

theorem enterSource_outer (t : Fin 4) (source index : Nat) (s : State) : (enterSource t source index s).outer = s.outer := by
  unfold enterSource
  dsimp only
  split
  · split <;> rfl
  · rfl

theorem sourceItem_outer (t : Fin 4) (i : StageItem) (s : State) : (sourceItem t i s).outer = s.outer := by
  unfold sourceItem
  split
  · exact (outer_of_backdrop (demoteMasters_backdrop _)).trans (enterSource_outer ..)
  · rfl

theorem holdover_outer (t : Fin 4) (s : State) : (holdover t s).outer = s.outer := outer_of_backdrop (holdover_backdrop t s)

theorem State.onTb_outer (s : State) (t : Fin 4) (f : Timebase → Timebase) : (s.onTb t f).outer = s.outer := rfl

/-- A timebase that no domain carries advances without absolute time or host memory. -/
theorem freeTimebase_outer (cycles : Nat) (t : Fin 4) (s : State) : (freeTimebase cycles t s).outer = s.outer := by
  have htaken : (takeStaged t (freeTime cycles t s)).2.outer = s.outer := outer_of_backdrop (by simp)
  have htimes : ∀ (m : BitVec 48) (items : List StageItem) (u : State), (each items (timeItem t m) u).outer = u.outer :=
    fun m items => each_field State.outer items _ fun i _ u => timeItem_outer t m i u
  have hsources : ∀ (items : List StageItem) (u : State), (each items (sourceItem t) u).outer = u.outer :=
    fun items => each_field State.outer items _ fun i _ u => sourceItem_outer t i u
  simp only [freeTimebase]
  split
  · rfl
  · rw [holdover_outer, hsources, htimes, State.onTb_outer, htaken]

/-- The saturation of the interval that ends is reported once (R211). -/
theorem reportSaturation_satNow (s : State) : (reportSaturation s).fabric.satNow = none := by
  unfold reportSaturation
  split
  · simp
  · assumption

theorem pacing_satNow (s : State) : (pacing s).fabric.satNow = none := by
  simp only [pacing, State.onXbar_fabric, reportSaturation_satNow]

/-- The event limits that count in the interval that ends open again (R410). -/
theorem pacing_ceRaised (s : State) : (pacing s).xbar.ceRaised = false := by
  simp only [pacing, State.onXbar_xbar]

/-- A pacing tick passes one pacing interval of absolute time, and writes nothing to host memory. -/
theorem pacing_outer (s : State) : (pacing s).outer = (s.now + s.pacingTicks, s.hostMem) := by
  have hfree : ∀ (cycles : Nat) (l : List (Fin 4)) (u : State), (each l (freeTimebase cycles) u).outer = u.outer :=
    fun cycles l => each_field State.outer l _ fun t _ u => freeTimebase_outer cycles t u
  have htail : ∀ u : State,
      (reportSaturation (reportDetects (takeTimestamps (freqBoundary none (healthTick u))))).outer = u.outer :=
    fun u => outer_of_backdrop (by simp)
  have hitems : ∀ (items : List StageItem) (u : State), (each items staticItem u).outer = u.outer :=
    fun items u => outer_of_backdrop (by simp)
  have houts : ∀ (c : Bool) (u : State), (if c = true then declareOuts (tickOutputs u) else u).outer = u.outer :=
    fun c u => outer_of_backdrop (by simp)
  have hxbar : ∀ (f : Xbar → Xbar) (u : State), (u.onXbar f).outer = u.outer := fun _ _ => rfl
  simp only [pacing]
  rw [hxbar, htail, hfree, hfree, houts, hitems]
  rfl

end Sys2Proof.Machine

open Sys2Proof Sys2Proof.Machine

/-- Settles O23, by the frames of the three commands (`castsAtClose_eq`, `closeSources_eq`, `pacing_outer`). -/
theorem intervalCommands : Obligations.IntervalCommands := by
  intro s tb
  refine ⟨?_, fun r hr hawake hopen => ?_, fun hclosed => ?_, fun hup => ?_⟩
  · obtain ⟨hclk, hrest⟩ := closeStaging_frame tb s
    have htb : ∀ u, (closeStaging tb s).tb u = (s.onTb tb fun x => { x with open_ := false }).tb u := fun u => by
      simp only [State.tb, hclk]
    refine ⟨closeStaging tb s, rfl, ?_, ?_, ?_, fun u hu => ?_, hrest⟩
    · rw [htb, State.onTb_tb_self]
    · rw [htb, State.onTb_tb_self]
    · rw [htb, State.onTb_tb_self]
    · rw [htb, State.onTb_tb_other s tb u _ hu.symm]
  · refine ⟨_, congrArg Host.Outcome.next (closeBlock_open hr hawake hopen), ?_, fun u hu => ?_, ?_, ?_, ?_⟩
    · rw [State.onTb_tb_self, closeSources_tb]
    · rw [State.onTb_tb_other _ tb u _ hu.symm, closeSources_tb]
    · rw [State.onTb_mem, closeSources_eq]
    · rw [State.onTb_saps, closeSources_eq]
    · rw [State.onTb_procs, closeSources_eq]
  · exact congrArg Host.Outcome.next (closeBlock_closed hclosed)
  · have hpacing : execPacingTick s = .next (pacing s) := by
      simp only [execPacingTick, State.hostUp, hup, decide_true, State.when_true]
    refine ⟨pacing s, hpacing, ?_, pacing_ceRaised s, pacing_satNow s, ?_⟩
    · rw [State.now_eq_outer, pacing_outer]
    · rw [State.hostMem_eq_outer, pacing_outer]

end

section
/-! What a load sets (R20, R28, R69, R81, R103), and what its later steps leave as it was set. -/

namespace Sys2Proof.Machine

/-- What a completed load reports, its plan, its parameters, the counters and times of the timebases, and what a load does not
write. -/
structure LoadView where
  img : ImgUnit
  params : List ParamSt
  plan : Option Plan × Option Pending × Word × BitVec 48
  clocks : Fin 4 → BitVec 48 × Nat × Nat
  hostMem : Mem
  flash : Flash
  cfgA : CfgCopy

def State.loadView (s : State) : LoadView :=
  { img := s.img, params := s.scene.params
    plan := (s.placer.current, s.placer.pending, s.placer.epoch, s.placer.epochBlk)
    clocks := fun u => ((s.tb u).blk, (s.tb u).ivl, (s.tb u).time)
    hostMem := s.hostMem, flash := s.flash, cfgA := s.ao.cfgA }

/-! ### The steps that keep the view -/

variable (s : State)

@[simp] theorem State.onTb_loadView (t : Fin 4) (f : Timebase → Timebase)
    (h : ((f (s.tb t)).blk, (f (s.tb t)).ivl, (f (s.tb t)).time) = ((s.tb t).blk, (s.tb t).ivl, (s.tb t).time)) :
    (s.onTb t f).loadView = s.loadView := by
  have hclocks : ∀ u, (((s.onTb t f).tb u).blk, ((s.onTb t f).tb u).ivl, ((s.onTb t f).tb u).time) =
      ((s.tb u).blk, (s.tb u).ivl, (s.tb u).time) := fun u => by
    by_cases hu : t = u
    · subst hu; rw [State.onTb_tb_self, h]
    · rw [State.onTb_tb_other s t u f hu]
  simp only [State.loadView, hclocks]
  rfl

@[simp] theorem State.onClk_loadView (f : Clk → Clk) (h : (f s.clk).tbs = s.clk.tbs) : (s.onClk f).loadView = s.loadView := by
  simp only [State.loadView, State.tb, State.onClk, h]

@[simp] theorem State.onAo_loadView (f : Ao → Ao) (h : (f s.ao).cfgA = s.ao.cfgA) : (s.onAo f).loadView = s.loadView := by
  simp only [State.loadView, State.tb, State.onAo, h]

@[simp] theorem State.onPlacer_loadView (f : Placer → Placer)
    (h : ((f s.placer).current, (f s.placer).pending, (f s.placer).epoch, (f s.placer).epochBlk) =
      (s.placer.current, s.placer.pending, s.placer.epoch, s.placer.epochBlk)) : (s.onPlacer f).loadView = s.loadView := by
  simp only [State.loadView, State.onPlacer, h]
  rfl

@[simp] theorem State.onScene_loadView (f : Scene → Scene) (h : (f s.scene).params = s.scene.params) :
    (s.onScene f).loadView = s.loadView := by
  simp only [State.loadView, State.onScene, h]
  rfl

@[simp] theorem State.onFabric_loadView (f : Fabric → Fabric) : (s.onFabric f).loadView = s.loadView := (rfl)
@[simp] theorem State.onEvt_loadView (f : Evt → Evt) : (s.onEvt f).loadView = s.loadView := (rfl)
@[simp] theorem State.onApll_loadView (a : Fin 4) (f : Apll → Apll) : (s.onApll a f).loadView = s.loadView := (rfl)
@[simp] theorem State.onSap_loadView (p : Fin 32) (f : Sap → Sap) : (s.onSap p f).loadView = s.loadView := (rfl)
@[simp] theorem State.onEth_loadView (n : Fin 4) (f : Eth → Eth) : (s.onEth n f).loadView = s.loadView := (rfl)
@[simp] theorem State.onSrx_loadView (u : Fin 256) (f : Srx → Srx) : (s.onSrx u f).loadView = s.loadView := (rfl)
@[simp] theorem State.onStx_loadView (u : Fin 256) (f : Stx → Stx) : (s.onStx u f).loadView = s.loadView := (rfl)
@[simp] theorem State.onRed_loadView (f : Red → Red) : (s.onRed f).loadView = s.loadView := (rfl)
@[simp] theorem State.onLane_loadView (l : Fin 4) (f : LaneSt → LaneSt) : (s.onLane l f).loadView = s.loadView := (rfl)
@[simp] theorem State.onAmp_loadView (c : Fin 16) (f : Amp → Amp) : (s.onAmp c f).loadView = s.loadView := (rfl)
@[simp] theorem State.setMem_loadView (m : Mem) : ({ s with mem := m } : State).loadView = s.loadView := (rfl)
@[simp] theorem State.setNet_loadView (n : Net) : ({ s with net := n } : State).loadView = s.loadView := (rfl)

@[simp] theorem ite_loadView (c : Prop) [Decidable c] (s t : State) :
    (if c then s else t).loadView = if c then s.loadView else t.loadView := apply_ite ..

@[simp] theorem each_loadView {α : Type} (l : List α) (f : α → State → State) (hf : ∀ a s, (f a s).loadView = s.loadView)
    (s : State) : (each l f s).loadView = s.loadView :=
  each_field State.loadView l f (fun a _ => hf a) s

@[simp] theorem bbOffer_loadView (e : EventRec) : (bbOffer e s).loadView = s.loadView :=
  State.onAo_loadView s _ (by split <;> rfl)

@[simp] theorem hostOffer_loadView (e : EventRec) : (hostOffer e s).loadView = s.loadView := by
  unfold hostOffer
  split
  · exact State.onAo_loadView s _ (by split <;> rfl)
  · simp

@[simp] theorem raise_loadView (code : Nat) (vals : Vals) : (raise code vals s).loadView = s.loadView := by simp [raise]

@[simp] theorem lockFields_loadView : (lockFields s).loadView = s.loadView := (rfl)

@[simp] theorem loadPort_loadView (p : PortRec) : (loadPort p s).loadView = s.loadView := by
  unfold loadPort
  split <;> simp

@[simp] theorem stage_loadView (t : Fin 4) (i : StageItem) : (stage t i s).loadView = s.loadView := by simp [stage]

@[simp] theorem loadClock_loadView (m : Image) (t : Fin 4) : (loadClock m t s).loadView = s.loadView := by
  simp only [loadClock]
  split
  · simp only [ite_loadView, State.onClk_loadView, stage_loadView, ite_self]
    split <;> simp
  · simp

@[simp] theorem setupAmps_loadView : (setupAmps s).loadView = s.loadView := by simp [setupAmps]

@[simp] theorem loadRouting_loadView (m : Image) : (loadRouting m s).loadView = s.loadView := (rfl)

@[simp] theorem levelTables_loadView : (levelTables s).loadView = s.loadView := (rfl)

@[simp] theorem setEntry_loadView (r : Nat) (f : RegEntry → RegEntry) : (setEntry r f s).loadView = s.loadView := (rfl)

@[simp] theorem initRegion_loadView (rec : RegionRec) (a : Nat) : (initRegion rec a s).loadView = s.loadView := (rfl)

@[simp] theorem addProc_loadView (p : ProcSt) : (addProc p s).loadView = s.loadView := (rfl)

@[simp] theorem placeRegion_loadView (size : Nat → Nat) (p : Plan) (o : Nat × RegionRec × NodeRec) :
    (placeRegion size p o s).loadView = s.loadView := by
  unfold placeRegion
  split
  · rfl
  · dsimp only
    split <;> simp

@[simp] theorem putTable_loadView (a : Nat) (bs : List Byte) (s : State) : (putTable a bs s).loadView = s.loadView := by
  induction a, bs, s using putTable.induct with
  | case1 o a b c d t s ih => rw [putTable, ih]; simp
  | case2 => simp [putTable]

@[simp] theorem setupFabric_loadView : (setupFabric s).loadView = s.loadView := by
  unfold setupFabric
  split
  · rfl
  · simp [raiseIf]

@[simp] theorem loadProcs_loadView (m : Image) (p : Plan) : (loadProcs m p s).loadView = s.loadView := by
  simp only [loadProcs, State.onRed_loadView]
  refine each_loadView _ _ (fun n s => ?_) s
  split <;> simp

@[simp] theorem setSlot_loadView (k : Fin 4) (st : SlotState) (m : Option Maquette) :
    (setSlot k st m s).loadView = s.loadView := (rfl)

@[simp] theorem apllAcquire_loadView (a : Fin 4) : (apllAcquire a s).loadView = s.loadView := (rfl)

@[simp] theorem slotValid_loadView (k : Fin 4) (m : Maquette) : (slotValid k m s).loadView = s.loadView := by
  simp [slotValid, mqStatus]

@[simp] theorem apllEnable_loadView (a : Fin 4) : (apllEnable a s).loadView = s.loadView := by simp [apllEnable]

@[simp] theorem nextPlan_loadView : (nextPlan s).loadView = s.loadView := by
  simp only [nextPlan]
  split <;> simp

/-! ### The steps that set it -/

/-- The counter of each domain's timebase takes the number of the last boundary of its time (R20, R28). -/
def setCounters (ds : List DomainRec) (s : State) : State :=
  each ds (fun d s => s.onTb d.tb fun x => { x with blk := blockOfTime (rateHz d.rate) x.time }) s

theorem setCounters_keeps (ds : List DomainRec) (s : State) : setCounters ds s = { s with clk := (setCounters ds s).clk } ∧
    ∀ u, ((setCounters ds s).tb u).ivl = (s.tb u).ivl ∧ ((setCounters ds s).tb u).time = (s.tb u).time := by
  induction ds generalizing s with
  | nil => exact ⟨rfl, fun u => ⟨rfl, rfl⟩⟩
  | cons d ds ih =>
    obtain ⟨hrest, hclocks⟩ := ih (s.onTb d.tb fun x => { x with blk := blockOfTime (rateHz d.rate) x.time })
    refine ⟨hrest, fun u => ?_⟩
    obtain ⟨hivl, htime⟩ := hclocks u
    refine ⟨hivl.trans ?_, htime.trans ?_⟩
    all_goals
      by_cases hu : d.tb = u
      · subst hu; rw [State.onTb_tb_self]
      · rw [State.onTb_tb_other s _ _ _ hu]

theorem setCounters_other {ds : List DomainRec} {u : Fin 4} (h : u ∉ ds.map (·.tb)) (s : State) :
    (setCounters ds s).tb u = s.tb u := by
  refine each_field (·.tb u) ds _ (fun d hd t => ?_) s
  exact State.onTb_tb_other t d.tb u _ fun he => h (he ▸ List.mem_map_of_mem hd)

/-- With one timebase for each domain, each counter agrees with its timebase's time. -/
theorem setCounters_blk {ds : List DomainRec} (h : (ds.map (·.tb)).Nodup) (s : State) :
    ∀ d ∈ ds, ((setCounters ds s).tb d.tb).blk = blockOfTime (rateHz d.rate) (s.tb d.tb).time := by
  induction ds generalizing s with
  | nil => simp
  | cons e ds ih =>
    obtain ⟨hfirst, hrest⟩ := List.nodup_cons.1 h
    intro d hd
    have hstep : setCounters (e :: ds) s =
        setCounters ds (s.onTb e.tb fun x => { x with blk := blockOfTime (rateHz e.rate) x.time }) := rfl
    rw [hstep]
    rcases List.mem_cons.1 hd with rfl | hd
    · rw [setCounters_other hfirst, State.onTb_tb_self]
    · have hne : e.tb ≠ d.tb := fun he => hfirst (List.mem_map.2 ⟨d, hd, he.symm⟩)
      rw [ih hrest _ d hd, State.onTb_tb_other s _ _ _ hne]

/-- A load up to the block of its epoch: the image, the plan, the parameters and the counters are set. -/
def loadStart (m : Image) (p : Plan) (s : State) : State :=
  let fixed := (s.fixedBanks m).getD []
  let spares := s.loadSpares m
  let s := s.onImg fun i => { i with loaded := some m, req := none, state := 2, result := 0, detail := 0 }
  let s := s.onPlacer fun x => { x with
    current := some p, pending := none, state := .idle, trigger := none, merged := [], epoch := x.epoch + 1
    reduced := p.homes.all (fun h => h.kind != .dram), arenaKib := arenaOf m p }
  let s := s.onXbar fun x => { x with fixed := fixed }
  let s := { s with engines := Vector.ofFn fun e : Fin 24 => { s.engine e with spare := spares.contains e, passes := 0 } }
  let s := s.onScene fun c => { c with params := m.params.map initialParam }
  { s with clk := { s.clk with tbs := s.clk.tbs.map (fun t : Timebase => { t with ivl := 0, srcClosed := false, jumped := none }) } }

/-- The state in which a load has set its counters. -/
def loadCounted (m : Image) (p : Plan) (s : State) : State := setCounters m.domains (loadStart m p s)

/-- The block of the epoch is the one that the pacing domain's counter stands at (R103). -/
def setEpochBlk (s : State) : State :=
  s.onPlacer fun x => { x with epochBlk := (s.pacing.map (fun d => (s.tb d.tb).blk)).getD 0 }

theorem completeLoad_loadView (m : Image) (p : Plan) :
    (completeLoad m p s).loadView = (setEpochBlk (loadCounted m p s)).loadView := by
  simp only [completeLoad, nextPlan_loadView, raise_loadView, apllEnable_loadView, each_loadView, slotValid_loadView,
    setupFabric_loadView, loadProcs_loadView, levelTables_loadView, placeRegion_loadView, loadRouting_loadView,
    State.onEvt_loadView, State.setNet_loadView, setupAmps_loadView, loadClock_loadView, loadPort_loadView, lockFields_loadView,
    implies_true]
  rfl

theorem State.pacing_congr {s t : State} (h : t.img.loaded = s.img.loaded) : t.pacing = s.pacing := by
  simp only [State.pacing, State.domains, h]

theorem loadStart_tb (m : Image) (p : Plan) (u : Fin 4) :
    (loadStart m p s).tb u = { s.tb u with ivl := 0, srcClosed := false, jumped := none } := by
  simp [loadStart, State.tb, State.onImg, State.onPlacer, State.onXbar, State.onScene]

theorem loadCounted_keeps (m : Image) (p : Plan) :
    loadCounted m p s = { loadStart m p s with clk := (loadCounted m p s).clk } :=
  (setCounters_keeps m.domains (loadStart m p s)).1

theorem loadCounted_clocks (m : Image) (p : Plan) (u : Fin 4) :
    ((loadCounted m p s).tb u).ivl = 0 ∧ ((loadCounted m p s).tb u).time = (s.tb u).time := by
  have h := (setCounters_keeps m.domains (loadStart m p s)).2 u
  rw [loadStart_tb] at h
  exact h

theorem loadCounted_blk {m : Image} (h : (m.domains.map (·.tb)).Nodup) (p : Plan) {d : DomainRec} (hd : d ∈ m.domains) :
    ((loadCounted m p s).tb d.tb).blk = blockOfTime (rateHz d.rate) (s.tb d.tb).time := by
  rw [loadCounted, setCounters_blk h _ d hd, loadStart_tb]

/-- What a load leaves, in the state before it and the counters that it sets. -/
def loadResult (m : Image) (p : Plan) (s : State) : LoadView :=
  { img := { s.img with loaded := some m, req := none, state := 2, result := 0, detail := 0 }
    params := m.params.map initialParam
    plan := (some p, none, s.placer.epoch + 1,
      ((loadCounted m p s).pacing.map (fun d => ((loadCounted m p s).tb d.tb).blk)).getD 0)
    clocks := fun u => (((loadCounted m p s).tb u).blk, 0, (s.tb u).time)
    hostMem := s.hostMem, flash := s.flash, cfgA := s.ao.cfgA }

theorem setEpochBlk_loadView (m : Image) (p : Plan) : (setEpochBlk (loadCounted m p s)).loadView = loadResult m p s := by
  have hclocks : (fun u => (((loadCounted m p s).tb u).blk, ((loadCounted m p s).tb u).ivl, ((loadCounted m p s).tb u).time)) =
      fun u => (((loadCounted m p s).tb u).blk, 0, (s.tb u).time) := funext fun u => by
    obtain ⟨hivl, htime⟩ := loadCounted_clocks s m p u
    rw [hivl, htime]
  have hkeeps := loadCounted_keeps s m p
  simp only [loadResult, ← hclocks]
  generalize loadCounted m p s = t at hkeeps
  rw [hkeeps]
  rfl

end Sys2Proof.Machine

open Sys2Proof Sys2Proof.Machine

/-- Settles O33: the later steps of the load keep what its first steps set (`completeLoad_loadView`). -/
theorem loadCompletes : Obligations.LoadCompletes := by
  intro s q m c hreq himage hplaced hpending
  have hexec : exec .loadComplete s = .next (completeLoad m c.plan s) := by
    show execLoadComplete s = _
    simp only [execLoadComplete, hreq, hpending, himage, hplaced]
  have hview : (completeLoad m c.plan s).loadView = loadResult m c.plan s :=
    (completeLoad_loadView s m c.plan).trans (setEpochBlk_loadView s m c.plan)
  generalize completeLoad m c.plan s = t at hexec hview
  have himg : t.img = _ := congrArg LoadView.img hview
  have hplan : (t.placer.current, t.placer.pending, t.placer.epoch, t.placer.epochBlk) = _ := congrArg LoadView.plan hview
  have hclocks : ∀ u, ((t.tb u).blk, (t.tb u).ivl, (t.tb u).time) = _ := congrFun (congrArg LoadView.clocks hview)
  have hpacing : t.pacing = (loadCounted m c.plan s).pacing := State.pacing_congr (by
    rw [himg, loadCounted_keeps]
    rfl)
  simp only [loadResult, Prod.mk.injEq, forall_and] at himg hplan hclocks
  obtain ⟨hcurrent, hnone, hepoch, hepochBlk⟩ := hplan
  obtain ⟨hblk, hivl, htime⟩ := hclocks
  refine ⟨t, hexec, by rw [himg], by rw [himg], by rw [himg], by rw [himg], hcurrent, hnone, hepoch,
    congrArg LoadView.params hview, fun d _ => hivl d.tb, fun h d hd => ?_, fun d hd => ?_, htime,
    congrArg LoadView.hostMem hview, congrArg LoadView.flash hview, congrArg LoadView.cfgA hview⟩
  · rw [hblk, loadCounted_blk s h _ hd]
  · rw [hepochBlk, ← hpacing, hd, hblk]
    rfl

end

section
/-! Requests for an image, and the steps that judge it (R77 to R82). -/

namespace Sys2Proof.Machine

/-! ### Requests (R77, R78) -/

/-- The state of the part lets a request begin: READY for a load, READY or RUN for a verify. -/
def State.takesRequest (s : State) (verify : Bool) : Prop :=
  if verify then 3 ≤ s.power.state.val else s.power.state = 3

/-- The image unit at step 1 of a request. -/
def ImgUnit.begin (verify : Bool) (source : Fin 4) (addr : BitVec 64) (m : ImgUnit) : ImgUnit :=
  { m with
    state := if verify then 4 else 1, step := 1, result := 0, detail := 0
    req := some { verify := verify, source := source, addr := addr, step := 1, image := none, boot := false, placed := none } }

variable {verify : Bool} {s : State}

/-- The guard of `imgRequest` is the negation of `takesRequest`. -/
theorem State.requestGuard_iff (s : State) (verify : Bool) :
    (if verify then s.power.state.val < 3 else s.power.state.val != 3) ↔ ¬ s.takesRequest verify := by
  cases verify
  · simp [State.takesRequest, Fin.ext_iff]
  · simp [State.takesRequest]

theorem imgRequest_begins (source : Fin 4) (addr : BitVec 64) (hpower : s.takesRequest verify) (hreq : s.img.req = none) :
    imgRequest verify source addr s = (stOk, s.onImg (·.begin verify source addr)) := by
  dsimp only [imgRequest]
  rw [if_neg (mt (s.requestGuard_iff verify).1 (not_not.2 hpower)), if_neg (by simp [hreq])]
  rfl

theorem imgRequest_refused (source : Fin 4) (addr : BitVec 64) (h : ¬ s.takesRequest verify ∨ s.img.req.isSome = true) :
    (imgRequest verify source addr s).2 = s := by
  dsimp only [imgRequest]
  by_cases hpower : s.takesRequest verify
  · rw [if_neg (mt (s.requestGuard_iff verify).1 (not_not.2 hpower)), if_pos (h.resolve_left (not_not.2 hpower))]
  · rw [if_pos ((s.requestGuard_iff verify).2 hpower)]

/-- A write of start takes the source and the kind of request into the register (R77). -/
def ImgUnit.control (verify : Bool) (source : Fin 4) (m : ImgUnit) : ImgUnit :=
  { m with ctlSource := BitVec.ofNat 2 source.val, ctlVerify := verify }

theorem imgStart_begins (source : Fin 4) (hpower : s.takesRequest verify) (hreq : s.img.req = none) :
    imgStart verify source s = s.onImg fun m => (m.control verify source).begin verify source m.hostAddr :=
  congrArg Prod.snd (imgRequest_begins (s := s.onImg (·.control verify source)) source s.img.hostAddr hpower hreq)

theorem imgStart_refused (source : Fin 4) (h : ¬ s.takesRequest verify ∨ s.img.req.isSome = true) :
    imgStart verify source s = s.onImg (·.control verify source) :=
  imgRequest_refused (s := s.onImg (·.control verify source)) source s.img.hostAddr h

/-! ### Validation steps (R78, R79, R82) -/

/-- A step of the request judges the image without touching the loaded one, and its source is readable: it is not the step 6
that releases the image, no wipe is waited for, and the bytes reach to image_size. -/
structure State.Judges (s : State) (q : ImgReq) : Prop where
  step : q.step ≤ 11
  keeps : q.verify = true ∨ q.step ≤ 5
  noWipe : s.xbar.secState ≠ 1
  readable : max 128 (hdrSize (s.imageBytes q)) ≤ (s.imageBytes q).length

variable {q : ImgReq}

theorem State.Judges.noRelease (h : s.Judges q) : ¬ (q.step = 6 ∧ (!q.verify) = true) := by
  rintro ⟨hstep, hload⟩
  rcases h.keeps with hverify | hearly
  · simp [hverify] at hload
  · omega

theorem validate_fails (h : s.Judges q) {e : Nat × Nat} (hcheck : checkStep s.chkEnv (s.imageBytes q) q.step = .error e) :
    validate q s = failLoad q.step e.1 e.2 s := by
  have hstep := Nat.not_le.2 (Nat.lt_succ_of_le h.step)
  have hread := Nat.not_lt.2 h.readable
  simp only [validate, hstep, h.noWipe, h.noRelease, hread, hcheck, and_false, if_false]

theorem validate_passes (h : s.Judges q) (hcheck : checkStep s.chkEnv (s.imageBytes q) q.step = .ok ()) :
    validate q s = if q.step = 11 then checksPass q (s.imageBytes q) s else s.onImg fun m =>
      { m with step := BitVec.ofNat 4 (q.step + 1), req := some { q with step := q.step + 1, copy := s.imageBytes q } } := by
  have hstep := Nat.not_le.2 (Nat.lt_succ_of_le h.step)
  have hread := Nat.not_lt.2 h.readable
  simp only [validate, hstep, h.noWipe, h.noRelease, hread, hcheck, and_false, if_false]

theorem checksPass_verify (bs : List Byte) (hverify : q.verify = true) :
    checksPass q bs s = s.onImg fun m => { m with state := 5, result := 0, detail := 0, req := none } := if_pos hverify

/-- A failure of a request that the start did not make reaches the image registers alone (R79, R82). -/
theorem failLoad_host (step code detail : Nat) (hreq : s.img.req = some q) (hboot : q.boot = false) :
    failLoad step code detail s = s.onImg fun m => { m with
      result := BitVec.ofNat 16 code, step := BitVec.ofNat 4 step, detail := BitVec.ofNat 32 detail, req := none,
      state := if q.verify then 6 else 3 } := by
  simp only [failLoad, hreq, hboot]
  rfl

theorem execValidationStep_eq (hreq : s.img.req = some q) : execValidationStep s = .next (validate q s) := by
  simp only [execValidationStep, hreq]

end Sys2Proof.Machine

open Sys2Proof Sys2Proof.Machine

/-- Requests of the image register (R77, R78, R82). -/
theorem imageRequests : Claim.ImageRequests := by
  intro s source begun turned
  have hbegins : ∀ verify, s.takesRequest verify → s.img.req = none → begun verify (imgStart verify source s) :=
    fun verify hpower hreq => by
      rw [imgStart_begins source hpower hreq]
      exact ⟨rfl, rfl, rfl, rfl, rfl, rfl, rfl⟩
  have hrefused : ∀ verify, ¬ s.takesRequest verify ∨ s.img.req.isSome = true → turned (imgStart verify source s) :=
    fun verify h => by
      rw [imgStart_refused source h]
      exact ⟨rfl, rfl, rfl, rfl⟩
  exact ⟨fun hpower hreq => ⟨_, rfl, hbegins false hpower hreq⟩, fun hpower hreq => ⟨_, rfl, hbegins true hpower hreq⟩,
    fun h => ⟨_, rfl, hrefused false h⟩, fun h => ⟨_, rfl, hrefused true (h.imp_left Nat.not_le.2)⟩⟩

/-- The steps of a request that leave the loaded image alone (R78, R79, R82). -/
theorem validationSteps : Claim.ValidationSteps := by
  intro s q hreq _ hstep hkeeps bs hwipe hread check
  have hjudges : s.Judges q := ⟨hstep, hkeeps, hwipe, hread⟩
  have hexec : exec .validationStep s = .next (validate q s) := execValidationStep_eq hreq
  refine ⟨fun hcheck hlt => ?_, fun hcheck hlast => ?_, fun code detail hcheck hboot => ?_⟩
  · rw [hexec, validate_passes hjudges hcheck, if_neg (Nat.ne_of_lt hlt)]
    rfl
  · have hverify : q.verify = true := hkeeps.resolve_right (by omega)
    rw [hexec, validate_passes hjudges hcheck, if_pos hlast, checksPass_verify _ hverify]
  · rw [hexec, validate_fails hjudges hcheck, failLoad_host _ _ _ hreq hboot]

/-- Settles O32: a request begins where the state of the part takes it (`imgStart_begins`, `imgStart_refused`), and a step
judges as its check says (`validate_passes`, `validate_fails`). -/
theorem imageValidation : Obligations.ImageValidation := ⟨imageRequests, validationSteps⟩

end

section
/-! Bytes of a slot, and how a command of the mailbox ends (R557, R559 to R561). -/

namespace Sys2Proof.Machine

/-! ### Bytes that a write leaves -/

@[simp] theorem length_leBytes (n v : Nat) : (leBytes n v).length = n := by
  induction n generalizing v with
  | zero => rfl
  | succ n ih => simp [leBytes, ih]

theorem Mem.putN_rising {m : Mem} (a : Nat) (bs : List Byte) (h : m.rising = true) : (m.putN a bs).rising = true := by
  induction bs generalizing m a with
  | nil => exact h
  | cons b bs ih => exact ih _ (Mem.put_rising a b h)

theorem Mem.putN_append (m : Mem) (a : Nat) (xs ys : List Byte) :
    m.putN a (xs ++ ys) = (m.putN a xs).putN (a + xs.length) ys := by
  induction xs generalizing m a with
  | nil => rfl
  | cons x xs ih =>
    rw [List.cons_append, Mem.putN, Mem.putN, ih, List.length_cons, Nat.add_assoc, Nat.add_comm 1]

/-- Bytes read alike where every byte of the range does. -/
theorem Mem.getN_congr {m m' : Mem} (a n : Nat) (h : ∀ y, a ≤ y → y < a + n → m.get y = m'.get y) : m.getN a n = m'.getN a n := by
  induction n generalizing a with
  | zero => rfl
  | succ n ih => rw [Mem.getN, Mem.getN, h a (Nat.le_refl _) (by omega), ih (a + 1) fun y _ _ => h y (by omega) (by omega)]

/-- Reading back a part of the bytes just written. -/
theorem Mem.getN_putN_part {m : Mem} (a : Nat) (xs ys zs : List Byte) (h : m.rising = true) :
    (m.putN a (xs ++ ys ++ zs)).getN (a + xs.length) ys.length = ys := by
  have hxs := Mem.putN_rising a xs h
  have hys := Mem.putN_rising (a + xs.length) ys hxs
  rw [Mem.putN_append, Mem.putN_append]
  refine (Mem.getN_congr _ _ fun y _ hy => Mem.get_putN_other _ zs y hys (Or.inl ?_)).trans (Mem.getN_putN _ ys hxs)
  rw [List.length_append]
  omega

/-! ### The result in its slot (R557) -/

/-- The results of a command: both arguments and the data. -/
def MbAns.results (a : MbAns) : List Byte := leBytes 4 a.a0.toNat ++ leBytes 4 a.a1.toNat ++ a.data.take 48

section Slot

variable {m : Mem} (at_ : Nat) (a : MbAns)

theorem slotResult_state (h : m.rising = true) : (slotResult at_ a m).get (at_ + 1) = 2 :=
  Mem.get_put_same _ _ (Mem.put_rising _ _ (Mem.putN_rising _ _ h))

theorem slotResult_status (h : m.rising = true) : (slotResult at_ a m).get (at_ + 2) = a.status :=
  (Mem.get_put_other _ _ _ (Mem.put_rising _ _ (Mem.putN_rising _ _ h)) (by omega)).trans
    (Mem.get_put_same _ _ (Mem.putN_rising _ _ h))

/-- But for the state and the status, a slot holds the results and what it held. -/
theorem slotResult_get_other (h : m.rising = true) {y : Nat} (h1 : y ≠ at_ + 1) (h2 : y ≠ at_ + 2) :
    (slotResult at_ a m).get y = (m.putN (at_ + 8) a.results).get y :=
  (Mem.get_put_other _ _ _ (Mem.put_rising _ _ (Mem.putN_rising _ _ h)) h1).trans
    (Mem.get_put_other _ _ _ (Mem.putN_rising _ _ h) h2)

/-- A part of the results as the slot holds it. -/
theorem slotResult_part (h : m.rising = true) {xs ys zs : List Byte} (hparts : a.results = xs ++ ys ++ zs) :
    (slotResult at_ a m).getN (at_ + 8 + xs.length) ys.length = ys := by
  refine (Mem.getN_congr _ _ fun y _ _ => slotResult_get_other at_ a h (by omega) (by omega)).trans ?_
  rw [hparts]
  exact Mem.getN_putN_part (at_ + 8) xs ys zs h

theorem slotResult_frame (h : m.rising = true) {y : Nat}
    (hy : y < at_ + 1 ∨ (at_ + 3 ≤ y ∧ y < at_ + 8) ∨ at_ + 64 ≤ y) : (slotResult at_ a m).get y = m.get y := by
  have hlen : a.results.length ≤ 56 := by
    simp only [MbAns.results, List.length_append, length_leBytes, List.length_take]
    omega
  rw [slotResult_get_other at_ a h (by omega) (by omega), Mem.get_putN_other _ _ _ h (by omega)]

end Slot

/-! ### How a command ends (R557, R560, R561, R568) -/

variable {s : State} {r : MbRef} {c : MbCall} {op : Nat}

/-- A command that ends well or is refused for another cause than its form, and asks for no interrupt, on the ring. -/
theorem mbFinish_ring (b : Bool) {a : MbAns} (h2 : a.status ≠ 2) (h3 : a.status ≠ 3)
    (hquiet : leAt (s.ringSlot s.host.head.toNat) 3 1 % 2 = 0) :
    mbFinish .ring b a s = a.after.onHost fun h => { h with
      ring := slotResult (64 * (s.host.head.toNat % 256)) a h.ring, head := h.head + (if b then 2 else 1), lastRing := true } := by
  have hgood : ¬ (a.status = stBadOpcode ∨ a.status = stBadArg) := not_or.2 ⟨h2, h3⟩
  have hflag : ¬ leAt (s.mbSlot .ring) 3 1 % 2 = 1 := fun h => absurd (hquiet.symm.trans h) (by decide)
  simp only [mbFinish, if_neg hgood, if_neg hflag]

theorem mbFinish_spi (k : Fin 16) {a : MbAns} (h2 : a.status ≠ 2) (h3 : a.status ≠ 3) :
    mbFinish (.spi k) false a s = a.after.onHost fun h => { h with
      spi := slotResult (64 * k.val) a h.spi, spiQ := h.spiQ.filter (· ≠ k), lastRing := false } := by
  have hgood : ¬ (a.status = stBadOpcode ∨ a.status = stBadArg) := not_or.2 ⟨h2, h3⟩
  simp [mbFinish, if_neg hgood, bne, beq_eq_decide]

/-- What ending a command leaves alone: it reaches the slots and queues, the records of a bad command and its interrupt. -/
def State.besideHost (s : State) : State :=
  { s with host := State.reset.host, ao := State.reset.ao, evt := State.reset.evt }

@[simp] theorem State.onHost_besideHost (s : State) (f : HostIf → HostIf) : (s.onHost f).besideHost = s.besideHost := (rfl)
@[simp] theorem State.onEvt_besideHost (s : State) (f : Evt → Evt) : (s.onEvt f).besideHost = s.besideHost := (rfl)

@[simp] theorem ite_besideHost (p : Prop) [Decidable p] (s t : State) :
    (if p then s else t).besideHost = if p then s.besideHost else t.besideHost := apply_ite ..

@[simp] theorem raise_besideHost (code : Nat) (vals : Vals) (s : State) : (raise code vals s).besideHost = s.besideHost := by
  rw [raise_eq]
  rfl

@[simp] theorem badCommand_besideHost (op slot : Nat) (s : State) : (badCommand op slot s).besideHost = s.besideHost := by
  simp [badCommand]

@[simp] theorem msixSignal_besideHost (v : Nat) (s : State) : (msixSignal v s).besideHost = s.besideHost := by
  simp [msixSignal, msixSend]

@[simp] theorem mbFinish_besideHost (r : MbRef) (b : Bool) (a : MbAns) (s : State) :
    (mbFinish r b a s).besideHost = a.after.besideHost := by
  cases r <;> simp [mbFinish]

/-! ### The command at the front (R559, R561) -/

/-- A command stands at the front of a queue, with its opcode and its operands. -/
theorem State.mbAt_eq_some : s.mbAt op = some (r, c) ↔ s.mbFront = some r ∧ s.mbCall r = some (op, c) := by
  simp only [State.mbAt, Option.bind_eq_some_iff]
  constructor
  · rintro ⟨r', hfront, ⟨op', c'⟩, hcall, h⟩
    split at h
    · next hop =>
      cases h
      exact ⟨hfront, hop ▸ hcall⟩
    · cases h
  · rintro ⟨hfront, hcall⟩
    exact ⟨r, hfront, _, hcall, if_pos rfl⟩

theorem State.power_of_mbFront (h : s.mbFront = some r) : 2 ≤ s.power.state.val := by
  by_contra hlow
  simp [State.mbFront, Nat.lt_of_not_le hlow] at h

theorem mbRun_permitted (f : MbCall → State → MbAns) (hat : s.mbAt op = some (r, c)) (hmay : s.mbForbidden op = false) :
    mbRun op f s = mbFinish r (!c.ext.isEmpty) (f c s) s := by
  simp only [mbRun, hat, hmay]
  rfl

theorem mbRun_forbidden (f : MbCall → State → MbAns) (hat : s.mbAt op = some (r, c)) (hmay : s.mbForbidden op = true) :
    mbRun op f s = mbFinish r (!c.ext.isEmpty) (c.ends stNotPermitted s) s := by
  simp only [mbRun, hat, hmay]
  rfl

/-- A command that names a node, a slot, a port or a stream needs an image (R561). -/
theorem State.mbForbidden_of_noImage (himg : s.img.loaded = none) (hop : mbNames op = true) : s.mbForbidden op = true := by
  simp [State.mbForbidden, himg, hop]

theorem mbBad_ends (hfront : s.mbFront = some r) (hcall : s.mbCall r = none) : mbBad s = mbFinish r false
    ⟨stBadOpcode, w32 (leAt (s.mbSlot r) 8 4), w32 (leAt (s.mbSlot r) 12 4), slice (s.mbSlot r) 16 48, s⟩ s := by
  simp only [mbBad, hfront, hcall]

theorem mbTimeout_ends (hfront : s.mbFront = some r) (hcall : s.mbCall r = some (op, c)) :
    mbTimeout s = mbFinish r (!c.ext.isEmpty) (c.ends stTimeout s) s := by
  simp only [mbTimeout, hfront, hcall]

/-! ### The tail of the ring (R557) -/

theorem execMbTailWrite_powered (v : Word) (h : 2 ≤ s.power.state.val) : execMbTailWrite v s = .next (tailWrite v s) := by
  simp only [execMbTailWrite, State.hostUp, h, decide_true, State.when_true]

theorem tailWrite_moves {v : Word} (hlow : (s.host.tail - s.host.head).toNat ≤ (v - s.host.head).toNat)
    (hhigh : (v - s.host.head).toNat ≤ 256) : tailWrite v s = s.onHost fun x => { x with tail := v } :=
  if_pos ⟨hlow, hhigh⟩

theorem tailWrite_refused {v : Word} (h : 256 < (v - s.host.head).toNat) :
    tailWrite v s = raise 0xE002 [v32 v.toNat] (s.onHost fun x => { x with ringError := true }) :=
  if_neg fun hfits => Nat.not_le.2 h hfits.2

/-! ### The boot flash (R572) -/

@[simp] theorem putN_fin {α : Type} {n : Nat} (v : Vector α n) (i : Fin n) (a : α) : putN v i.val a = upd v i fun _ => a :=
  dif_pos i.isLt

theorem flashPut_eq (target : Nat) (bs : List Byte) (s : State) :
    flashPut target bs s = { s with flash := (flashPut target bs s).flash } := rfl

theorem flashPut_image (k : Fin 3) (bs : List Byte) (s : State) : (flashPut k.val bs s).flash.images.get k = bs := by
  simp [flashPut]

theorem flashDone_ok {u : FlashUpd} (hu : s.host.flUpd = some u) (hb : s.power.braced = false) :
    flashDone true s = raise 0xE008 [v8 u.target.val]
      (flashPut u.target.val u.content (s.onHost fun h => { h with flState := 6, flUpd := none })) := by
  simp only [flashDone, hu, hb]
  rfl

theorem flashDone_failed {u : FlashUpd} (hu : s.host.flUpd = some u) (hb : s.power.braced = false) :
    flashDone false s = raise 0xE009 [v8 u.target.val, v8 s.flashPhase] (s.fresh.2.onHost fun h =>
      { h with flResult := Config.flashResult s.free, flState := 7, flUpd := none }) := by
  simp only [flashDone, hu, hb]
  rfl

end Sys2Proof.Machine

open Sys2Proof Sys2Proof.Machine

/-- The slot of a command that has ended, its queue, and the commands that are refused (R557, R559 to R561, R572). -/
theorem mailboxSlots : Claim.MailboxSlots := by
  refine ⟨fun m at_ a h hlen => ?_, fun s r v => ⟨fun a b k h2 h3 => ⟨mbFinish_ring b h2 h3, mbFinish_spi k h2 h3⟩, ?_⟩⟩
  · have hdata : a.data.take 48 = a.data := List.take_of_length_le (Nat.le_of_eq hlen)
    have harg0 := slotResult_part at_ a h (xs := []) (ys := leBytes 4 a.a0.toNat)
      (zs := leBytes 4 a.a1.toNat ++ a.data.take 48) (by simp [MbAns.results])
    have harg1 := slotResult_part at_ a h (xs := leBytes 4 a.a0.toNat) (ys := leBytes 4 a.a1.toNat)
      (zs := a.data.take 48) rfl
    have hrest := slotResult_part at_ a h (xs := leBytes 4 a.a0.toNat ++ leBytes 4 a.a1.toNat) (ys := a.data)
      (zs := []) (by simp [MbAns.results, hdata])
    simp only [List.length_append, length_leBytes, hlen] at harg0 harg1 hrest
    exact ⟨slotResult_state at_ a h, slotResult_status at_ a h, harg0, harg1, hrest, fun y hy => slotResult_frame at_ a h hy⟩
  refine ⟨fun hfront hcall => ⟨_, _, _, congrArg Host.Outcome.next (mbBad_ends hfront hcall)⟩,
    fun op c hfront hcall => congrArg Host.Outcome.next (mbTimeout_ends hfront hcall),
    fun c hat himg => congrArg Host.Outcome.next (mbRun_forbidden _ hat (State.mbForbidden_of_noImage himg rfl)),
    fun hpower => ⟨fun hlow hhigh => ?_, fun hover => ?_⟩, fun u hu hb => ⟨?_, ?_⟩⟩
  · exact (execMbTailWrite_powered v hpower).trans (congrArg Host.Outcome.next (tailWrite_moves hlow hhigh))
  · refine ⟨_, (execMbTailWrite_powered v hpower).trans (congrArg Host.Outcome.next (tailWrite_refused hover)), ?_, ?_⟩
    · rw [raise_host]
      rfl
    · rw [raise_host, raise_eq]
      rfl
  · refine ⟨_, congrArg Host.Outcome.next (flashDone_ok hu hb), ?_, fun k hk => ?_, ?_⟩
    · rw [raise_host]
      rfl
    · rw [raise_flash, hk, flashPut_image]
    · rw [raise_host, raise_flash, raise_eq]
      rfl
  · refine ⟨_, congrArg Host.Outcome.next (flashDone_failed hu hb), ?_, ?_, ?_⟩
    · rw [raise_host]
      rfl
    · rw [raise_host]
      rfl
    · rw [raise_host, raise_free, raise_eq]
      rfl

end

section
/-! What a reset and the start after it leave outside the always-on domain and the event controller (R495, R507, R511). -/

namespace Sys2Proof.Machine

/-- What the beginning of a start leaves alone: of the power unit its state and the kind of reset, and every other subsystem
but the always-on domain and the event controller. -/
def State.besideStart (s : State) : State :=
  { s with
    ao := State.reset.ao, evt := State.reset.evt
    power := { State.reset.power with state := s.power.state, rstKind := s.power.rstKind } }

variable (s : State)

@[simp] theorem State.onAo_besideStart (f : Ao → Ao) : (s.onAo f).besideStart = s.besideStart := (rfl)
@[simp] theorem State.onEvt_besideStart (f : Evt → Evt) : (s.onEvt f).besideStart = s.besideStart := (rfl)
@[simp] theorem State.onStart_besideStart (f : Start → Start) : (s.onStart f).besideStart = s.besideStart := (rfl)

@[simp] theorem State.onPower_besideStart (f : Power → Power)
    (h : ((f s.power).state, (f s.power).rstKind) = (s.power.state, s.power.rstKind)) :
    (s.onPower f).besideStart = s.besideStart := by
  obtain ⟨hstate, hkind⟩ := Prod.mk.inj h
  simp only [State.besideStart, State.onPower, hstate, hkind]

@[simp] theorem ite_besideStart (p : Prop) [Decidable p] (s t : State) :
    (if p then s else t).besideStart = if p then s.besideStart else t.besideStart := apply_ite ..

@[simp] theorem raise_besideStart (code : Nat) (vals : Vals) : (raise code vals s).besideStart = s.besideStart := by
  rw [raise_eq]
  rfl

@[simp] theorem raiseIf_besideStart (b : Bool) (code : Nat) (vals : Vals) :
    (raiseIf b code vals s).besideStart = s.besideStart := by simp [raiseIf]

@[simp] theorem nvBegin_besideStart : (nvBegin s).besideStart = s.besideStart := by
  unfold nvBegin
  split
  · dsimp only
    split
    · rfl
    · split <;> rfl
  · rfl

@[simp] theorem writeStart_besideStart (f : StartRec → StartRec) : (writeStart f s).besideStart = s.besideStart := by
  simp [writeStart, nvAsk]

@[simp] theorem haltStart_besideStart (k detail elapsed : Nat) : (haltStart k detail elapsed s).besideStart = s.besideStart := by
  simp [haltStart]

@[simp] theorem beginStart_besideStart : (beginStart s).besideStart = s.besideStart := by
  have hcut : ∀ (l : List Nat) (t : State), (each l (fun j s => raise 0xC002 [v8 j] s) t).besideStart = t.besideStart :=
    fun l t => each_field State.besideStart l _ (fun j _ u => raise_besideStart u _ _) t
  simp [beginStart, hcut]

/-- A reset of a kind other than POWER_ON records its kind, empties memory and takes the processes; host memory stays. -/
theorem resetTo_leaves {kind : Nat} (rail step : Nat) (h : kind ≠ 0) :
    (resetTo kind rail step s).power.rstKind = BitVec.ofNat 4 kind ∧ (resetTo kind rail step s).mem = [] ∧
      (resetTo kind rail step s).procs = [] ∧ (resetTo kind rail step s).hostMem = s.hostMem := by
  simp only [resetTo, h, if_false]
  exact ⟨rfl, rfl, rfl, rfl⟩

theorem State.resettable_iff : s.resettable = true ↔
    2 ≤ s.power.state.val ∧ s.power.start.result ≠ 2 ∧ s.power.start.pinHeld = false := by
  simp [State.resettable, and_assoc]

/-- A host reset of a part that is powered and not halted (R495). -/
theorem hostReset_leaves (h : s.resettable = true) :
    (hostReset s).power.rstKind = 3 ∧ (hostReset s).mem = [] ∧ (hostReset s).procs = [] ∧ (hostReset s).hostMem = s.hostMem := by
  obtain ⟨hkind, hmem, hprocs, hhost⟩ := resetTo_leaves s 0 0 (kind := 3) (by decide)
  have hstart : (hostReset s).besideStart = (resetTo 3 0 0 s).besideStart := by
    rw [hostReset, if_pos h, resetAndStart, beginStart_besideStart]
  exact ⟨(congrArg (fun t : State => t.power.rstKind) hstart).trans hkind, (congrArg State.mem hstart).trans hmem,
    (congrArg State.procs hstart).trans hprocs, (congrArg State.hostMem hstart).trans hhost⟩

end Sys2Proof.Machine
end

section
/-! Commands of the mailbox that concern power, images, the boot flash and parameters (R74, R77, R78, R499, R562, R563, R564,
R572): what each answers and does. -/

namespace Sys2Proof.Machine

variable {s : State} {c : MbCall}

/-! ### Power -/

/-- RUN from READY begins at once (R499, R500). -/
theorem pwrCommand_run (hstate : s.power.state = 3) (hmoving : s.power.moving = none) (hbrace : s.power.braced = false) :
    pwrCommand 4 s = (stOk, s.onPower fun p => { p with moving := some 4 }) := by
  have hallowed : pwrAllowed s.power.state 4 = true := by rw [hstate]; rfl
  rw [pwrCommand, if_neg (by simp [hmoving]), if_neg (by simp [hallowed]), if_neg fun h => absurd h.1 (by decide),
    if_neg (by simp [hbrace])]
  rfl

theorem pwrTarget_run (hstate : s.power.state = 3) (hmoving : s.power.moving = none) (hbrace : s.power.braced = false) :
    pwrTarget 4 s = (stOk, s.onPower fun p => { p with moving := some 4, lastStatus := 0 }) := by
  rw [pwrTarget, pwrCommand_run hstate hmoving hbrace]
  rfl

theorem mbPwrSet_target (h : c.a0.toNat ≤ 4) : mbPwrSet c s = c.endsWith (pwrTarget c.a0.toNat s) := if_neg (Nat.not_lt.2 h)

theorem mbPwrSet_badTarget (h : 4 < c.a0.toNat) : mbPwrSet c s = c.ends stBadArg s := if_pos h

theorem execMbReset_noKey {r : MbRef} (hat : s.mbAt 0x03 = some (r, c)) (h : c.a0 ≠ 0xA5A5) :
    execMbReset s = .next (mbRun 0x03 mbReset s) := by
  simp only [execMbReset, hat, if_neg h]

theorem execMbReset_key {r : MbRef} (hat : s.mbAt 0x03 = some (r, c)) (h : c.a0 = 0xA5A5) :
    execMbReset s = .next (hostReset (mbRun 0x03 mbReset s)) := by
  simp only [execMbReset, hat, if_pos h]

/-! ### Images -/

/-- A request for a source in the boot flash is the one of SYS_IMG_CTL (R77, R78). -/
theorem mbImage_begins {verify : Bool} (hsource : c.a0.toNat ≤ 2) (hpower : s.takesRequest verify) (hreq : s.img.req = none) :
    mbImage verify c s = c.ends stOk (s.onImg fun m => { m with
      ctlSource := BitVec.ofNat 2 c.a0.toNat, ctlVerify := verify, state := (if verify then 4 else 1), step := 1,
      result := 0, detail := 0,
      req := some ⟨verify, fin 4 c.a0.toNat, m.hostAddr, 1, none, false, none, []⟩ }) := by
  have hval : (fin 4 c.a0.toNat).val = c.a0.toNat := Nat.mod_eq_of_lt (by omega)
  have hflash : fin 4 c.a0.toNat ≠ 3 := fun h => by
    have hhost : c.a0.toNat = 3 := hval.symm.trans (congrArg Fin.val h)
    omega
  dsimp only [mbImage]
  rw [if_neg (by omega), if_neg hflash, hval]
  exact congrArg c.endsWith
    (imgRequest_begins (s := s.onImg fun m => { m with ctlSource := BitVec.ofNat 2 c.a0.toNat, ctlVerify := verify }) _ _ hpower hreq)

theorem mbMinSerial_rises (hstate : s.power.state = 3) (h : s.heldSerial.toNat ≤ c.a0.toNat) :
    mbMinSerial c s = c.ends stOk (nvAsk (.cfg (.minSerial c.a0)) s) := by
  rw [mbMinSerial, if_neg (not_not.2 hstate), if_neg (Nat.not_lt.2 h)]

theorem mbMinSerial_falls (hstate : s.power.state = 3) (h : c.a0.toNat < s.heldSerial.toNat) :
    mbMinSerial c s = c.ends stBadArg s := by
  rw [mbMinSerial, if_neg (not_not.2 hstate), if_pos h]

/-! ### The boot flash (R572) -/

/-- An update that passes its checks erases its target. -/
theorem mbFlash_begins {bs : List Byte} (htarget : c.a0.toNat < 6) (hgold : c.a0 ≠ 2) (hpower : 3 ≤ s.power.state.val)
    (hidle : s.host.flUpd = none) (hreq : s.img.req = none) (hroom : c.a1.toNat ≤ flashRoom c.a0.toNat)
    (hread : s.hostMem.readAll c.addr.toNat c.a1.toNat = some bs) (hne : bs ≠ [])
    (hpass : s.flashPasses c.a0.toNat bs = true) :
    mbFlash c s = c.ends stOk (flashPut c.a0.toNat [] (s.onHost fun h => { h with
      flResult := 0, flTarget := fin 6 c.a0.toNat, flState := 2, flUpd := some ⟨fin 6 c.a0.toNat, bs⟩ })) := by
  have hother : c.a0.toNat ≠ 2 := fun h => hgold (BitVec.eq_of_toNat_eq h)
  have hmay : (decide (s.power.state.val < 3) || (c.a0.toNat == 2 && !s.lcState.mayGold)) = false := by
    simp [hpower, hother]
  have hfree : (s.host.flUpd.isSome || s.img.req.isSome) = false := by simp [hidle, hreq]
  have hgood : (bs.isEmpty || !s.flashPasses c.a0.toNat bs) = false := by simp [hne, hpass]
  dsimp only [mbFlash]
  rw [if_neg (by omega), hmay, hfree, if_neg (Nat.not_lt.2 hroom), hread]
  dsimp only
  rw [hgood]
  rfl

/-! ### Parameters (R562, R563) -/

/-- Outside a pair an accepted write is staged on the timebase of its node (R27, R447). -/
theorem acceptParam_stages {p : PAddr} {n : NodeRec} (v : Word) (hnode : s.node? (paddrNode p) = some n)
    (hmirror : s.mirrors = false) : acceptParam p v s = s.onTb (s.tbOf n.domain) fun x => { x with
      staged := x.staged ++ [⟨if x.open_ then 0 else 1, .param p v⟩] } := by
  simp only [acceptParam, hnode, hmirror]
  exact stage_write ..

/-- A symbol that names a parameter names one of a node. -/
theorem State.node_of_paramSymbol {y : SymRec} {q : ParamSt} {n : NodeRec} (h : s.paramSymbol c = some (y, q, n)) :
    s.node? (paddrNode y.paddr) = some n := by
  unfold State.paramSymbol at h
  split at h
  · cases h
  · split at h
    · cases h
    · split at h
      · next hnode =>
        cases h
        exact hnode
      · cases h

theorem mbParamSet_clamps {y : SymRec} {q : ParamSt} {n : NodeRec} {raw : Word} (hsym : s.paramSymbol c = some (y, q, n))
    (hraw : toRaw y.unit (s.formatOf y.paddr) c.a0 = some raw) (ha1 : c.a1 = 0) (hpos : isPosition n y.paddr = false) :
    mbParamSet c s =
      let v := pClamp (s.formatOf y.paddr) q.decl.min q.decl.max raw
      c.gives v y.paddr [] (acceptParam y.paddr v s) := by
  simp [mbParamSet, hsym, hraw, ha1, hpos]

theorem mbParamGet_gives {y : SymRec} {q : ParamSt} {n : NodeRec} (hsym : s.paramSymbol c = some (y, q, n)) :
    mbParamGet c s = c.gives (fromRaw y.unit (s.formatOf y.paddr) q.target) (fromRaw y.unit (s.formatOf y.paddr) q.value)
      (leBytes 4 q.target.toNat ++ leBytes 4 q.value.toNat) s := by
  simp only [mbParamGet, hsym]

theorem mbParamRaw_clamps {q : ParamSt} {n : NodeRec} (hparam : s.param? c.a1 = some q)
    (hnode : s.node? (paddrNode c.a1) = some n) (hpos : isPosition n c.a1 = false) :
    mbParamRaw c s = c.ends stOk (acceptParam c.a1 (pClamp (s.formatOf c.a1) q.decl.min q.decl.max c.a0) s) := by
  simp only [mbParamRaw, hparam, hnode, hpos]
  rfl

end Sys2Proof.Machine

open Sys2Proof Sys2Proof.Machine

/-- The commands of power, images, the boot flash and parameters: each clause names what its function answers. -/
theorem mailboxPart : Claim.MailboxPart := by
  intro s r c here ends keeps gives loads sets
  -- A command that the part allows ends with the answer of its function.
  have hrun : ∀ {op : Nat} {f : MbCall → State → MbAns} {a : MbAns}, here op → f c s = a →
      Host.Outcome.next (mbRun op f s) = (.next (mbFinish r (!c.ext.isEmpty) a s) : Host.Outcome State Fault Refusal) :=
    fun ⟨hat, hmay⟩ ha => congrArg Host.Outcome.next ((mbRun_permitted _ hat hmay).trans (ha ▸ rfl))
  refine ⟨fun h => hrun h rfl, fun h ha hstate hmoving hbrace => hrun h ?_, fun h ha => hrun h (mbPwrSet_badTarget ha),
    fun h ha => (execMbReset_noKey h.1 ha).trans (hrun h ?_), fun h ha hresult hpin => ?_,
    fun h hsource hstate hreq => hrun h (mbImage_begins hsource hstate hreq),
    fun h hsource hstate hreq => hrun h (mbImage_begins hsource hstate hreq), fun h => hrun h rfl,
    fun h hstate hle hbusy hqueue hbrace => hrun h ?_, fun h hstate hlt => hrun h (mbMinSerial_falls hstate hlt),
    fun bs h htarget hgold hpower hidle hreq hroom hread hne hpass =>
      hrun h (mbFlash_begins htarget hgold hpower hidle hreq hroom hread hne hpass),
    fun y q n raw h hsym hraw ha1 hpos hmirror => hrun h ?_, fun y q n h hsym => hrun h (mbParamGet_gives hsym),
    fun q n h hparam hnode hpos hmirror => hrun h ?_⟩
  · have htarget : c.a0.toNat = 4 := congrArg BitVec.toNat ha
    rw [mbPwrSet_target (Nat.le_of_eq htarget), htarget]
    exact congrArg c.endsWith (pwrTarget_run hstate hmoving hbrace)
  · rw [mbReset, if_neg ha]
    rfl
  · obtain ⟨hat, hmay⟩ := h
    have hpower := State.power_of_mbFront (State.mbAt_eq_some.1 hat).1
    have hends : (mbRun 0x03 mbReset s).besideHost = s.besideHost := by
      rw [mbRun_permitted _ hat hmay, mbFinish_besideHost]
      rfl
    have hreset : (mbRun 0x03 mbReset s).resettable = true :=
      (congrArg State.resettable hends).trans ((State.resettable_iff s).2 ⟨hpower, hresult, hpin⟩)
    have hkept := congrArg State.hostMem hends
    obtain ⟨hkind, hmem, hprocs, hhost⟩ := hostReset_leaves _ hreset
    exact ⟨_, execMbReset_key hat ha, hkind, hmem, hprocs, hhost.trans hkept⟩
  · rw [mbMinSerial_rises hstate hle, nvAsk_idle _ s hbusy hqueue hbrace, ← hqueue]
    rfl
  · rw [mbParamSet_clamps hsym hraw ha1 hpos]
    dsimp only
    rw [acceptParam_stages _ (State.node_of_paramSymbol hsym) hmirror]
    rfl
  · rw [mbParamRaw_clamps hparam hnode hpos, acceptParam_stages _ hnode hmirror]
    rfl

/-- Settles O56: a command ends by `mbFinish` with its results in its slot (`slotResult_part`), and each command that the part
allows ends with the answer of its function (`mbRun_permitted`). -/
theorem mailboxRing : Obligations.MailboxRing := ⟨mailboxSlots, mailboxPart⟩

end

section
/-! The commands that clear counters: each is one update of the unit whose counts it clears. -/

open Sys2Proof Sys2Proof.Machine

/-- Settles O59: each command is one update of its unit, so that every other field stands as it was; METER_RING_RESET alone
looks at its ring first. -/
theorem counterClears : Obligations.CounterClears := by
  intro s p u c a on
  refine ⟨rfl, rfl, rfl, rfl, rfl, rfl, rfl, rfl, rfl, rfl, rfl, rfl, rfl, ?_, rfl⟩
  refine congrArg Host.Outcome.next ?_
  unfold meterReset
  split
  · rfl
  · rfl

end

section
/-! Engines one by one: an update of one engine, and a command that goes through the engines of a mask. -/

namespace Sys2Proof.Machine

theorem State.onEngine_onEngine (s : State) (e : Fin 24) (f g : Engine → Engine) :
    (s.onEngine e f).onEngine e g = s.onEngine e (fun x => g (f x)) := by
  simp [State.onEngine, upd_upd]

theorem State.onEngine_congr {s : State} {e : Fin 24} {f g : Engine → Engine} (h : f (s.engine e) = g (s.engine e)) :
    s.onEngine e f = s.onEngine e g := by
  simp only [State.onEngine, upd_congr h]

/-- The engines that a mask names, in rising number. -/
theorem maskBits_engines (mask : BitVec 24) :
    (maskBits mask.toNat 24).map (fin 24) = (List.finRange 24).filter fun e => mask.getLsbD e.val := by
  have hbit : ∀ i : Nat, (mask.toNat / 2 ^ i % 2 == 1) = mask.getLsbD i := fun i => by
    rw [BitVec.getLsbD, Nat.testBit_eq_decide_div_mod_eq]; rfl
  have hfin : (fun e : Fin 24 => fin 24 e.val) = id := funext fun e => Fin.ext (Nat.mod_eq_of_lt e.isLt)
  rw [maskBits, ← List.map_coe_finRange_eq_range, List.filter_map, List.map_map]
  simp only [Function.comp_def, hbit, hfin, List.map_id]

theorem each_maskBits (mask : BitVec 24) (step : Fin 24 → State → State) (s : State) :
    each (maskBits mask.toNat 24) (fun k => step (fin 24 k)) s =
      each ((List.finRange 24).filter fun e => mask.getLsbD e.val) step s := by
  rw [← maskBits_engines, each, each, List.foldl_map]

/-- A step for each engine that changes no other engine, and its own as `R` allows. -/
structure EngineStep (step : Fin 24 → State → State) (R : Engine → Engine → Prop) : Prop where
  own   : ∀ e s, R (s.engine e) ((step e s).engine e)
  other : ∀ e s f, f ≠ e → (step e s).engine f = s.engine f

/-- A step for each engine that reaches nothing but the engines. -/
def EnginesOnly (step : Fin 24 → State → State) : Prop := ∀ e s, step e s = { s with engines := (step e s).engines }

variable {step : Fin 24 → State → State} {R : Engine → Engine → Prop}

/-- Through a list without repetition every engine of it changes once, and no other engine changes. -/
theorem EngineStep.list (h : EngineStep step R) {l : List (Fin 24)} (hl : l.Nodup) (s : State) :
    (∀ e ∈ l, R (s.engine e) ((each l step s).engine e)) ∧ ∀ e, e ∉ l → (each l step s).engine e = s.engine e := by
  induction l generalizing s with
  | nil => exact ⟨fun e he => absurd he List.not_mem_nil, fun _ _ => rfl⟩
  | cons k l ih =>
    obtain ⟨hk, hnd⟩ := List.nodup_cons.1 hl
    obtain ⟨hin, hout⟩ := ih hnd (step k s)
    refine ⟨fun e he => ?_, fun e he => ?_⟩
    · by_cases hek : e = k
      · subst hek
        rw [each_cons, hout e hk]
        exact h.own e s
      · have hmem := hin e ((List.mem_cons.1 he).resolve_left hek)
        rwa [h.other k s e hek] at hmem
    · obtain ⟨hek, hel⟩ := not_or.1 (fun h => he (List.mem_cons.2 h))
      rw [each_cons, hout e hel, h.other k s e hek]

theorem EnginesOnly.list (h : EnginesOnly step) (l : List (Fin 24)) (s : State) :
    each l step s = { s with engines := (each l step s).engines } :=
  each_keeps (fun t => t = { s with engines := t.engines }) l step (fun e _ t ht => by
    rw [h e t, ht]) s rfl

/-- Through the engines of a mask. -/
theorem EngineStep.mask (h : EngineStep step R) (hrest : EnginesOnly step) (mask : BitVec 24) (s : State) :
    let t := each (maskBits mask.toNat 24) (fun k => step (fin 24 k)) s
    t = { s with engines := t.engines } ∧ (∀ e : Fin 24, mask.getLsbD e.val = true → R (s.engine e) (t.engine e)) ∧
      ∀ e : Fin 24, mask.getLsbD e.val = false → t.engine e = s.engine e := by
  have hl : ((List.finRange 24).filter fun e => mask.getLsbD e.val).Nodup := (List.nodup_finRange 24).filter _
  have hmem : ∀ e : Fin 24, e ∈ (List.finRange 24).filter (fun e => mask.getLsbD e.val) ↔ mask.getLsbD e.val = true := fun e => by
    rw [List.mem_filter, and_iff_right (List.mem_finRange e)]
  obtain ⟨hin, hout⟩ := h.list hl s
  rw [each_maskBits]
  exact ⟨hrest.list _ s, fun e he => hin e ((hmem e).2 he), fun e he => hout e fun hl => Bool.eq_false_iff.1 he ((hmem e).1 hl)⟩

/-- An update of each engine by itself. -/
theorem engineStep_onEngine (f : Engine → Engine) : EngineStep (fun e s => s.onEngine e f) (fun g g' => g' = f g) where
  own e s := State.onEngine_engine_self s e f
  other e s k hk := State.onEngine_engine_other s e k f hk.symm

theorem enginesOnly_onEngine (f : Engine → Engine) : EnginesOnly fun e s => s.onEngine e f := fun _ _ => rfl

/-! ### Re-admission (R125, R135, R430) -/

/-- An engine that is out may serve again: its last full self-test pass passed, and its cause needs no clearing or has had it. -/
def Engine.mayServe (g : Engine) : Prop :=
  g.out = true ∧ g.passFail = false ∧ (g.outCause = 2 ∨ g.outCause = 3 ∨ g.outCause = 4 → g.causeCleared = true)

/-- What re-admission makes of an engine: whether it is to be a spare depends on the others. -/
def Engine.admitted (g g' : Engine) : Prop :=
  (g.mayServe → g' = { g with out := false, outCause := 0, causeCleared := false, spare := g'.spare }) ∧ (¬ g.mayServe → g' = g)

/-- Causes 2, 3 and 4 are those that need clearing (R430). -/
theorem cause_needsClearing (c : Fin 7) : (2 ≤ c.val ∧ c.val ≤ 4) ↔ (c = 2 ∨ c = 3 ∨ c = 4) := by
  revert c
  decide

/-- Re-admission is refused exactly to the engines that may not serve. -/
theorem Engine.refused_iff (g : Engine) :
    (!g.out || g.passFail || (2 ≤ g.outCause.val && g.outCause.val ≤ 4 && !g.causeCleared)) = true ↔ ¬ g.mayServe := by
  rw [Engine.mayServe, ← cause_needsClearing]
  cases g.out <;> cases g.passFail <;> cases g.causeCleared <;> simp

theorem admitEngine_admitted {e : Fin 24} {s : State} (h : (s.engine e).mayServe) : ∃ b, (admitEngine e s).2 =
    s.onEngine e fun g => { g with out := false, outCause := 0, causeCleared := false, spare := b } := by
  have hrefused := mt (Engine.refused_iff _).1 (not_not.2 h)
  exact ⟨_, congrArg Prod.snd (if_neg hrefused)⟩

theorem admitEngine_refused {e : Fin 24} {s : State} (h : ¬ (s.engine e).mayServe) : (admitEngine e s).2 = s :=
  congrArg Prod.snd (if_pos ((Engine.refused_iff _).2 h))

theorem engineStep_admitEngine : EngineStep (fun e s => (admitEngine e s).2) Engine.admitted where
  own e s := by
    by_cases h : (s.engine e).mayServe
    · obtain ⟨b, hb⟩ := admitEngine_admitted h
      rw [hb, State.onEngine_engine_self]
      exact ⟨fun _ => rfl, fun hn => absurd h hn⟩
    · rw [admitEngine_refused h]
      exact ⟨fun hm => absurd hm h, fun _ => rfl⟩
  other e s k hk := by
    by_cases h : (s.engine e).mayServe
    · obtain ⟨b, hb⟩ := admitEngine_admitted h
      rw [hb, State.onEngine_engine_other _ _ _ _ hk.symm]
    · rw [admitEngine_refused h]

theorem enginesOnly_admitEngine : EnginesOnly fun e s => (admitEngine e s).2 := fun e s => by
  by_cases h : (s.engine e).mayServe
  · obtain ⟨b, hb⟩ := admitEngine_admitted h
    dsimp only
    rw [hb]
    rfl
  · dsimp only
    rw [admitEngine_refused h]

/-! ### Clocks and load (R318 to R320) -/

theorem clampNat_eq (lo hi v : Nat) (h : lo ≤ hi) : clampNat lo hi v = max lo (min hi v) := by
  unfold clampNat
  split
  · omega
  · split
    · omega
    · omega

/-- What a plan trigger can reach: the placement engine, and the event of one that a freeze holds. -/
theorem queueTrigger_eq (t : Trigger) (s : State) : queueTrigger t s =
    { s with placer := (queueTrigger t s).placer, ao := (queueTrigger t s).ao, evt := (queueTrigger t s).evt } := by
  unfold queueTrigger
  dsimp only
  split
  · rw [raiseIf_eq]
    rfl
  · split
    · rfl
    · split
      · split <;> rfl
      · rfl
      · rfl

/-- A trigger that a freeze does not hold starts a plan on an idle placement engine with an image (R98, R100). -/
theorem queueTrigger_idle {t : Trigger} {s : State} (hfree : (s.placer.freeze && triggerHeld t) = false)
    (hpower : s.power.state ≠ 2) (himg : s.img.loaded.isSome = true) (hidle : s.placer.state = .idle) :
    queueTrigger t s = s.onPlacer fun p => { p with state := .building, trigger := some t, merged := [] } := by
  simp [queueTrigger, hfree, hpower, himg, hidle]

/-- The frequency that a written cap allows an engine. -/
def State.capFreq (s : State) (e : Fin 24) (cap : Nat) : Nat := min (clampNat 24 50 cap) (s.engine e).allow.toNat

/-- A cap is written, and a change of frequency waits for its boundary. -/
def setCap (e : Fin 24) (cap : Nat) (s : State) : State :=
  s.onEngine e fun g => { g with
    cap := BitVec.ofNat 8 (clampNat 24 50 cap)
    freqDue := if s.capFreq e cap = g.actual.toNat then none else some (BitVec.ofNat 8 (s.capFreq e cap)) }

theorem capWrite_fits {e : Fin 24} {cap : Nat} {s : State}
    (h : (s.engine e).actual.toNat ≤ s.capFreq e cap ∨ s.fitsAt e (s.capFreq e cap) = true) : capWrite e cap s = setCap e cap s := by
  refine if_neg ?_
  rintro ⟨hlow, hfit⟩
  rcases h with h | h
  · exact absurd hlow (Nat.not_lt.2 h)
  · have hnot : s.fitsAt e (s.capFreq e cap) = false := (Bool.not_eq_true' _).mp hfit
    exact Bool.false_ne_true (hnot.symm.trans h)

theorem capWrite_tooLow {e : Fin 24} {cap : Nat} {s : State} (hlow : s.capFreq e cap < (s.engine e).actual.toNat)
    (hfit : s.fitsAt e (s.capFreq e cap) = false) : capWrite e cap s = queueTrigger .host (setCap e cap s) := by
  have hfit' : (!(setCap e cap s).fitsAt e (s.capFreq e cap)) = true := congrArg not hfit
  exact if_pos ⟨hlow, hfit'⟩

/-- The loss of an engine's clock declares it out with cause 4, unless another cause stands (R320, R428). -/
theorem clockLoss_engine {e : Fin 24} {i : Fin 59} {s : State} (hi : i.val = e.val) (hin : (s.engine e).out = false)
    (hdue : (s.engine e).outDue = none) :
    clockLoss i s = (raise 0x100C [v8 i.val] s).onEngine e fun g => { g with clockFault := true, outDue := some 4 } := by
  have hlt : i.val < 24 := hi ▸ e.isLt
  have he : (⟨i.val, hlt⟩ : Fin 24) = e := Fin.ext hi
  have hg : (raise 0x100C [v8 i.val] s).engine e = s.engine e := by rw [raise_eq]; rfl
  simp only [clockLoss, dif_pos hlt, he]
  refine State.onEngine_congr ?_
  simp only [hg, hin, hdue]
  rfl

theorem clockLoss_other {i : Fin 59} (hi : 24 ≤ i.val) (s : State) : clockLoss i s =
    (raise 0x100C [v8 i.val] s).onClk fun c => { c with clockFaults := setFlag c.clockFaults i.val } := dif_neg (Nat.not_lt.2 hi)

/-! ### Self-test and causes (R427 to R430) -/

theorem Engine.condemn_in {g : Engine} (h : g.out = false) (cause : Fin 7) :
    g.condemn cause = { g with outDue := some (g.outDue.getD cause) } := if_neg (by simp [h])

theorem Engine.condemn_out {g : Engine} (h : g.out = true) (cause : Fin 7) : g.condemn cause = g := if_pos h

/-- To be declared out changes nothing but the declaration that waits. -/
theorem Engine.condemn_eq (g : Engine) (cause : Fin 7) : g.condemn cause = { g with outDue := (g.condemn cause).outDue } := by
  unfold Engine.condemn
  split
  · rfl
  · rfl

/-- What the end of a self-test sequence shows (R427, R429). -/
def Engine.showSequence (g : Engine) (failed : Bool) : Engine :=
  let last := g.seqNext == 63
  let bad := g.passBad || failed
  let clean := g.cleanNext failed
  { g with
    sequence := g.seqNext.setWidth 8, seqNext := g.seqNext + 1, stFail := failed, cleanRun := clean,
    suspect := g.suspect && clean != 64, passes := if last then g.passes + 1 else g.passes,
    passFail := if last then bad else g.passFail, passBad := !last && bad }

theorem selftestDone_passed (e : Fin 24) (s : State) :
    selftestDone e false s = s.onEngine e fun g => g.showSequence false := rfl

theorem selftestDone_failed (e : Fin 24) (s : State) :
    selftestDone e true s = s.onEngine e fun g => (g.showSequence true).condemn 0 := rfl

theorem Engine.showSequence_passes (g : Engine) (failed : Bool) :
    (g.showSequence failed).passes = if g.seqNext = 63 then g.passes + 1 else g.passes := by
  simp [Engine.showSequence]

theorem Engine.showSequence_passFail (g : Engine) (failed : Bool) :
    (g.showSequence failed).passFail = if g.seqNext = 63 then g.passBad || failed else g.passFail := by
  simp [Engine.showSequence]

/-- A cause that needs clearing is cleared (R430). -/
def Engine.clearCause (g : Engine) : Engine :=
  if g.out && 2 ≤ g.outCause.val && g.outCause.val ≤ 4 then { g with causeCleared := true, clockFault := false } else g

theorem Engine.clearCause_eq (g : Engine) : g.clearCause =
    if g.out = true ∧ (g.outCause = 2 ∨ g.outCause = 3 ∨ g.outCause = 4)
    then { g with causeCleared := true, clockFault := false } else g := by
  simp only [Engine.clearCause, ← cause_needsClearing, Bool.and_eq_true, decide_eq_true_eq, and_assoc]

end Sys2Proof.Machine

open Sys2Proof Sys2Proof.Machine

theorem engineAdmit : Claim.EngineAdmit := by
  intro s mask e g may
  obtain ⟨hrest, hin, hout⟩ := engineStep_admitEngine.mask enginesOnly_admitEngine mask s
  refine ⟨_, rfl, hrest, fun h => ?_, fun h => ?_⟩
  · obtain ⟨hmask, hserve⟩ := h
    exact (hin e hmask).1 hserve
  · cases hmask : mask.getLsbD e.val with
    | false => exact hout e hmask
    | true => exact (hin e hmask).2 fun hserve => h ⟨hmask, hserve⟩

theorem engineClocks : Claim.EngineClocks := by
  intro s e i cap c f
  have hc : clampNat 24 50 cap.toNat = c := clampNat_eq 24 50 _ (by decide)
  have hf : s.capFreq e cap.toNat = f := by rw [State.capFreq, hc]
  have hset : setCap e cap.toNat s = s.onEngine e fun g => { g with
      cap := BitVec.ofNat 8 c, freqDue := if f = g.actual.toNat then none else some (BitVec.ofNat 8 f) } := by
    rw [setCap, hc, hf]
  refine ⟨fun h => ?_, fun hlow hfit => ?_, fun hi hin hdue => congrArg Host.Outcome.next (clockLoss_engine hi hin hdue),
    fun hi => congrArg Host.Outcome.next (clockLoss_other hi s)⟩
  · rw [← hset]
    exact congrArg Host.Outcome.next (capWrite_fits (by rwa [hf]))
  · have hwrite := capWrite_tooLow (by rwa [hf]) (by rwa [hf] : s.fitsAt e (s.capFreq e cap.toNat) = false)
    have hengines : (capWrite e cap.toNat s).engine e = (setCap e cap.toNat s).engine e := by
      rw [hwrite, queueTrigger_eq]
      rfl
    have hne : f ≠ (s.engine e).actual.toNat := Nat.ne_of_lt hlow
    rw [hset, State.onEngine_engine_self] at hengines
    refine ⟨_, rfl, by rw [hengines], by rw [hengines]; exact if_neg hne, by rw [hengines], fun hidle hfree hpower himg => ?_⟩
    have hnone : ((setCap e cap.toNat s).placer.freeze && triggerHeld .host) = false := congrArg (· && true) hfree
    rw [hwrite, queueTrigger_idle hnone hpower himg hidle]
    exact ⟨rfl, rfl⟩

theorem engineWatch : Claim.EngineWatch := by
  intro s e bad mask g
  refine ⟨⟨_, rfl, ?_⟩, ?_, ?_⟩
  · have hother : ∀ f, f ≠ e → (selftestDone e bad s).engine f = s.engine f := fun f hf =>
      State.onEngine_engine_other s e f _ hf.symm
    cases bad with
    | false =>
      rw [selftestDone_passed, State.onEngine_engine_self]
      exact ⟨rfl, rfl, rfl, g.showSequence_passes false, g.showSequence_passFail false, fun h => absurd h Bool.false_ne_true,
        fun _ => rfl, hother, rfl⟩
    | true =>
      rw [selftestDone_failed, State.onEngine_engine_self, Engine.condemn_eq]
      refine ⟨rfl, rfl, rfl, g.showSequence_passes true, g.showSequence_passFail true, fun _ hin hdue => ?_,
        fun h => absurd h.symm Bool.false_ne_true, hother, rfl⟩
      rw [Engine.condemn_in (g := g.showSequence true) hin]
      exact congrArg (fun d => some (d.getD 0)) hdue
  · obtain ⟨hrest, hin, hout⟩ := (engineStep_onEngine fun g => g.condemn 6).mask (enginesOnly_onEngine _) mask s
    refine ⟨_, rfl, fun f => ?_, hrest⟩
    cases hmask : mask.getLsbD f.val with
    | false => exact (hout f hmask).trans (if_neg (by simp)).symm
    | true =>
      refine (hin f hmask).trans ?_
      cases hf : (s.engine f).out with
      | false => exact (Engine.condemn_in hf 6).trans (if_pos ⟨rfl, rfl⟩).symm
      | true => exact (Engine.condemn_out hf 6).trans (if_neg (by simp)).symm
  · obtain ⟨hrest, hin, hout⟩ := (engineStep_onEngine Engine.clearCause).mask (enginesOnly_onEngine _) mask s
    refine ⟨_, rfl, fun f => ?_, hrest⟩
    cases hmask : mask.getLsbD f.val with
    | false => exact (hout f hmask).trans (if_neg (by simp)).symm
    | true =>
      refine (hin f hmask).trans ?_
      simp only [Engine.clearCause_eq, true_and]

/-- Settles O35: the commands that name their engines by a mask take them one by one (`EngineStep.mask`), a change of frequency
that the load forbids asks for a plan, and a failed sequence condemns its engine. -/
theorem engineRoles : Obligations.EngineRoles := ⟨engineAdmit, engineClocks, engineWatch⟩

end

section
/-! The service of a region fault (R109, R126): what bringing a page in leaves as it is, and where a page that is missing
lies in DRAM. -/

namespace Sys2Proof.Machine

/-- What the service of a fault neither changes nor loses while it brings a page in: the image, the pairs, what translation
reads of the placement engine, its count of faults, and the contexts of the engines. -/
structure FaultView where
  img    : ImgUnit
  red    : Red
  table  : List (Nat × RegEntry)
  slots  : Vector CopySlot 64
  moves  : List Move
  faults : Word
  banks  : Fin 24 → Ctx × Ctx × Option FaultSt

def State.faultView (s : State) : FaultView :=
  { img := s.img, red := s.red, table := s.placer.table, slots := s.placer.slots, moves := s.placer.moves, faults := s.placer.faults
    banks := fun e => ((s.engine e).fg, (s.engine e).bg, (s.engine e).parked) }

variable {s t : State}

theorem each_faultView {α : Type} (l : List α) (f : α → State → State) (hf : ∀ a s, (f a s).faultView = s.faultView) (s : State) :
    (each l f s).faultView = s.faultView :=
  each_field State.faultView l f (fun a _ => hf a) s

theorem State.onEngine_faultView (s : State) (e : Fin 24) (f : Engine → Engine) (hfg : (f (s.engine e)).fg = (s.engine e).fg)
    (hbg : (f (s.engine e)).bg = (s.engine e).bg) (hparked : (f (s.engine e)).parked = (s.engine e).parked) :
    (s.onEngine e f).faultView = s.faultView := by
  have hbanks : (s.onEngine e f).faultView.banks = s.faultView.banks := funext fun k => by
    by_cases hk : e = k
    · subst hk
      simp only [State.faultView, State.onEngine_engine_self, hfg, hbg, hparked]
    · simp only [State.faultView, State.onEngine_engine_other s e k f hk]
  exact congrArg (fun b => { s.faultView with banks := b }) hbanks

theorem settleStores_faultView (lo len : Nat) (e : Fin 24) (s : State) : (settleStores lo len e s).faultView = s.faultView := by
  unfold settleStores
  dsimp only
  split
  · rfl
  · rw [State.onEngine_faultView _ _ _ rfl rfl rfl]
    refine each_faultView _ _ (fun _ _ => ?_) s
    rfl

theorem writeBack_faultView (p : Page) (s : State) : (writeBack p s).faultView = s.faultView := by
  unfold writeBack
  dsimp only
  split
  · split <;> exact settleStores_faultView ..
  · exact settleStores_faultView ..

theorem flushWhere_faultView (f : Page → Bool) (s : State) : (flushWhere f s).faultView = s.faultView := by
  have hback : (each (s.placer.pages.filter f) writeBack s).faultView = s.faultView := each_faultView _ _ writeBack_faultView s
  rw [← hback]
  exact each_faultView _ _ (fun p s => settleStores_faultView (s.pageAddr p) 4096 (Page.engine p) s) _

/-! ### Routes -/

/-- Where an access goes rests on the image, the pairs, the region table, the copies and the moves. -/
theorem State.route_congr (h : t.faultView = s.faultView) (node r ofs : Nat) (e : Option (Fin 24)) :
    t.route node r ofs e = s.route node r ofs e := by
  have himg : t.img = s.img := congrArg FaultView.img h
  have hred : t.red = s.red := congrArg FaultView.red h
  have hmoves : t.placer.moves = s.placer.moves := congrArg FaultView.moves h
  have hslots : t.placer.slots = s.placer.slots := congrArg FaultView.slots h
  have htable : t.placer.table = s.placer.table := congrArg FaultView.table h
  have hentry : ∀ k, t.entry k = s.entry k := fun k => congrArg (fun l => agetD l k RegEntry.reset) htable
  have hcritical : ∀ k, t.critical k = s.critical k := fun k => by simp only [State.critical, State.node?, State.nodes, himg]
  have hinstances : ∀ k, t.instances k = s.instances k := fun k => by simp only [State.instances, hred]
  have hinstance : ∀ k w x, t.instanceOf k w x = s.instanceOf k w x := fun k w x => by
    simp only [State.instanceOf, hcritical, hinstances]
  have hwr : ∀ k o w x, t.residentWr k o w x = s.residentWr k o w x := fun k o w x => by
    simp only [State.residentWr, hcritical, hinstances, hinstance]
  have hbefore : ∀ k c, t.beforeOverlap k c = s.beforeOverlap k c := fun k c => by simp only [State.beforeOverlap, hmoves]
  have hother : ∀ k c w, t.otherCopy k c w = s.otherCopy k c w := fun k c w => by simp only [State.otherCopy, hcritical]
  simp only [State.route, hentry, hinstance, hwr, hslots, hbefore, hother]

theorem State.route_resident {r : Nat} (h : (s.entry r).state = 1) (node ofs : Nat) (e : Option (Fin 24)) :
    (s.route node r ofs e).rd.isSome = true ∧ (s.route node r ofs e).staged = false := by
  have hval : (s.entry r).state.val = 1 := congrArg Fin.val h
  simp only [State.route, hval]
  exact ⟨rfl, rfl⟩

theorem State.route_unmapped {r : Nat} (h : (s.entry r).state = 0) (node ofs : Nat) (e : Option (Fin 24)) :
    (s.route node r ofs e).rd = none := by
  have hval : (s.entry r).state.val = 0 := congrArg Fin.val h
  simp only [State.route, hval]

/-- An access that needs a page has a home in DRAM, and so has every byte of the region before it. -/
theorem State.route_home {node r ofs base : Nat} {e : Option (Fin 24)} (h : (s.route node r ofs e).staged = true)
    (hle : base ≤ ofs) : (s.route node r base e).home.isSome = true := by
  unfold State.route at h ⊢
  dsimp only at h ⊢
  split at h
  · cases h
  · split at h
    · cases h
    · next hother =>
      rw [if_neg hother]
      split at h
      · cases h
      · next hsize =>
        rw [if_neg (by omega)]
        split at h
        · next hkind hmark =>
          have hbase : base / 64 < (getN s.placer.slots (s.entry r).slot CopySlot.reset).mark :=
            Nat.lt_of_le_of_lt (Nat.div_le_div_right hle) (of_decide_eq_true hmark)
          simp only [hkind, decide_eq_true hbase]
          rfl
        · cases h
        · cases h
        · cases h
  · split at h
    · cases h
    · next hother =>
      rw [if_neg hother]
      split at h
      · rfl
      · cases h
      · cases h
      · cases h
  · rfl
  · cases h

/-! ### Bringing a page in (R109) -/

/-- The state with a slot of an engine's pool free: the least recently used page gives way where every slot is taken. -/
def makeRoom (e : Fin 24) (q : PoolHome) (s : State) : State :=
  let mine := s.placer.pages.filter (fun p => p.engine == e)
  match (List.range q.pages).find? (fun k => !mine.any (fun p => p.slot == k)), mine.getLast? with
  | none, some v => flushWhere (fun p => p == v) s
  | _, _ => s

theorem makeRoom_faultView (e : Fin 24) (q : PoolHome) (s : State) : (makeRoom e q s).faultView = s.faultView := by
  unfold makeRoom
  dsimp only
  split
  · exact flushWhere_faultView _ s
  · rfl

/-- The slot that a page takes in its engine's pool. -/
def pageSlot (e : Fin 24) (q : PoolHome) (s : State) : Nat :=
  let mine := s.placer.pages.filter (fun p => p.engine == e)
  ((List.range q.pages).find? (fun k => !mine.any (fun p => p.slot == k))).getD ((mine.getLast?.map (·.slot)).getD 0)

/-- The page that comes in. -/
def cleanPage (e : Fin 24) (r pg : Nat) (q : PoolHome) (s : State) : Page :=
  { engine := e, region := r, page := pg, dirty := false, slot := pageSlot e q s }

theorem bringPage_home {e : Fin 24} {r pg : Nat} {s : State} {q : PoolHome} {home : Nat × Nat} (hq : s.poolOf e = some q)
    (hhome : (makeRoom e q s).pageHome (cleanPage e r pg q s) = some home) :
    bringPage e r pg s =
      let u := makeRoom e q s
      ({ u with mem := u.mem.putN (u.pageAddr (cleanPage e r pg q s)) (u.mem.getN home.1 home.2) } : State).onPlacer fun x =>
        { x with pages := cleanPage e r pg q s :: x.pages } := by
  unfold bringPage
  rw [hq]
  dsimp only
  change (match (makeRoom e q s).pageHome (cleanPage e r pg q s) with
    | some (h, n) => _
    | none => _) = _
  rw [hhome]
  rfl

/-- A page whose engine has a pool comes in where DRAM is its home. -/
theorem bringPage_comes {e : Fin 24} {r pg : Nat} {s : State} (hpool : (s.poolOf e).isSome = true)
    (hhome : (s.route (s.ownerOf r) r (4096 * pg) (some e)).home.isSome = true) :
    (bringPage e r pg s).faultView = s.faultView ∧ ((bringPage e r pg s).page? e r pg).isSome = true := by
  obtain ⟨q, hq⟩ := Option.isSome_iff_exists.1 hpool
  have hview := makeRoom_faultView e q s
  have himg : (makeRoom e q s).img = s.img := congrArg FaultView.img hview
  have howner : (makeRoom e q s).ownerOf r = s.ownerOf r := by
    simp only [State.ownerOf, State.region?, State.regions, himg]
  obtain ⟨h, hh⟩ := Option.isSome_iff_exists.1 hhome
  rw [← howner, ← State.route_congr hview] at hh
  have hpage : (makeRoom e q s).pageHome (cleanPage e r pg q s) = some (h, _) := congrArg (Option.map _) hh
  rw [bringPage_home hq hpage]
  exact ⟨hview, by simp [State.page?, cleanPage]⟩

/-! ### What the service answers (R126) -/

theorem State.resolvable_of_unmapped {e : Fin 24} {f : FaultSt} (h : (s.entry f.region).state = 0) : s.resolvable e f = false := by
  simp only [State.resolvable, State.route_unmapped h]

theorem State.resolvable_of_resident {e : Fin 24} {f : FaultSt} (h : (s.entry f.region).state = 1) :
    s.resolvable e f = true ∧ s.pageMissing e f = false := by
  obtain ⟨hrd, hstaged⟩ := State.route_resident h (s.ownerOf f.region) f.offset (some e)
  obtain ⟨a, ha⟩ := Option.isSome_iff_exists.1 hrd
  exact ⟨by simp only [State.resolvable, ha, hstaged, Bool.not_false, Bool.true_or],
    by simp only [State.pageMissing, hstaged, Bool.false_and]⟩

/-- A page that is missing from a fault that can be resolved has a pool to come to and a home in DRAM to come from. -/
theorem State.home_of_pageMissing {e : Fin 24} {f : FaultSt} (h : s.resolvable e f = true) (hmissing : s.pageMissing e f = true) :
    (s.poolOf e).isSome = true ∧
      (s.route (s.ownerOf f.region) f.region (4096 * pageOf f.offset) (some e)).home.isSome = true := by
  obtain ⟨hstaged, -⟩ := (Bool.and_eq_true _ _).mp hmissing
  refine ⟨?_, State.route_home hstaged (Nat.mul_div_le _ _)⟩
  unfold State.resolvable at h
  dsimp only at h
  split at h
  · cases h
  · rw [hstaged] at h
    exact ((Bool.and_eq_true _ _).mp h).1

/-- The banks are exchanged: the context in the background goes on, and the one in the foreground waits. -/
def Engine.exchange (g : Engine) : Engine := { g with parked := none, fg := g.bg, bg := g.fg }

/-- The service of a fault for which a process is parked. -/
def serviceParked (e : Fin 24) (s : State) : State :=
  (s.onEngine e Engine.exchange).onPlacer fun p => { p with faults := satInc32 p.faults }

section
variable {e : Fin 24} {f : FaultSt} (hparked : (s.engine e).parked = some f) (hstalled : (s.engine e).stalled = none)
  (horphan : (s.engine e).orphan = none)
include hparked hstalled horphan

theorem faultServed_parked (h : s.resolvable e f = true) : faultServed e s =
    if s.pageMissing e f then bringPage e f.region (pageOf f.offset) (serviceParked e s) else serviceParked e s := by
  have hexchange : (s.onEngine e fun g => { g with parked := none, stalled := none, fg := g.bg, bg := g.fg }) =
      s.onEngine e Engine.exchange := State.onEngine_congr (by simp only [Engine.exchange, hstalled])
  simp only [faultServed, hparked, horphan, Option.filter, h, if_true, hexchange]
  rfl

theorem faultServed_stays (h : s.resolvable e f = false) : faultServed e s = s := by
  simp [faultServed, hparked, hstalled, horphan, Option.filter, h]

end

end Sys2Proof.Machine

open Sys2Proof Sys2Proof.Machine

/-- Settles O36: a fault that can be resolved exchanges the banks, after which a missing page comes in from the home that its
route names (`State.route_home`); one that cannot be resolved stays. -/
theorem faultService : Obligations.FaultService := by
  intro s e f hparked hstalled horphan resumed
  have hresumed : s.resolvable e f = true → s.pageMissing e f = false → resumed (exec (.faultServiceDone e) s) := fun h hpage => by
    refine congrArg Host.Outcome.next ((faultServed_parked hparked hstalled horphan h).trans ?_)
    rw [hpage]
    rfl
  have hstays : s.resolvable e f = false → exec (.faultServiceDone e) s = .next s := fun h =>
    congrArg Host.Outcome.next (faultServed_stays hparked hstalled horphan h)
  refine ⟨fun h => ?_, hresumed, fun h hmissing => ?_, fun h => hstays (State.resolvable_of_unmapped h), hstays⟩
  · obtain ⟨hres, hpage⟩ := State.resolvable_of_resident (e := e) h
    exact hresumed hres hpage
  · obtain ⟨hpool, hhome⟩ := State.home_of_pageMissing h hmissing
    obtain ⟨hview, hpage⟩ := bringPage_comes (s := serviceParked e s) hpool hhome
    have hbanks := congrFun (congrArg FaultView.banks hview) e
    simp only [State.faultView, Prod.mk.injEq] at hbanks
    obtain ⟨hfg, hbg, hpark⟩ := hbanks
    have hself : (serviceParked e s).engine e = (s.engine e).exchange := State.onEngine_engine_self s e _
    rw [hself] at hfg hbg hpark
    refine ⟨_, congrArg Host.Outcome.next ((faultServed_parked hparked hstalled horphan h).trans (if_pos hmissing)),
      hfg, hbg, hpark, congrArg FaultView.faults hview, hpage⟩

end

section
/-! Plan triggers, the freeze and the written bound (R89, R98 to R101, R121): one lemma for each thing that a trigger can do. -/

namespace Sys2Proof.Machine

variable {s : State} {t : Trigger}

/-- A trigger waits in the queue, once. -/
def Placer.enqueue (t : Trigger) (p : Placer) : Placer :=
  { p with queued := if p.queued.contains t then p.queued else p.queued ++ [t] }

theorem Placer.enqueue_eq (t : Trigger) (p : Placer) :
    (if p.queued.contains t then p else { p with queued := p.queued ++ [t] }) = p.enqueue t := by
  unfold Placer.enqueue
  split
  · rfl
  · rfl

/-- A trigger joins the plan that is BUILDING, once. -/
def Placer.join (t : Trigger) (p : Placer) : Placer :=
  { p with merged := if p.merged.contains t || p.trigger == some t then p.merged else p.merged ++ [t] }

theorem Placer.join_eq (t : Trigger) (p : Placer) :
    (if p.merged.contains t || p.trigger == some t then p else { p with merged := p.merged ++ [t] }) = p.join t := by
  unfold Placer.join
  split
  · rfl
  · rfl

theorem Placer.join_has (t : Trigger) (p : Placer) : t ∈ (p.join t).merged ∨ (p.join t).trigger = some t := by
  by_cases h : (p.merged.contains t || p.trigger == some t) = true
  · have hmerged : (p.join t).merged = p.merged := if_pos h
    have htrigger : (p.join t).trigger = p.trigger := rfl
    rw [hmerged, htrigger]
    simpa using h
  · exact Or.inl (by rw [show (p.join t).merged = p.merged ++ [t] from if_neg h]; simp)

/-- Every trigger but LOAD and ENGINE_OUT is held by a freeze (R101). -/
theorem triggerHeld_of_ne (hload : t ≠ .load) (hout : t ≠ .engineOut) : triggerHeld t = true := by
  cases t with
  | load => exact absurd rfl hload
  | engineOut => exact absurd rfl hout
  | patina | memory | delay | host => rfl

theorem planTrigger_queues (hload : t ≠ .load) (hout : t ≠ .engineOut) (s : State) : planTrigger t s = queueTrigger t s := by
  cases t with
  | load => exact absurd rfl hload
  | engineOut => exact absurd rfl hout
  | patina | memory | delay | host => rfl

theorem queueTrigger_held (h : (s.placer.freeze && triggerHeld t) = true) :
    queueTrigger t s = raiseIf (!s.placer.queued.contains t) 0x500C [] (s.onPlacer (Placer.enqueue t)) := by
  simp only [queueTrigger, h, if_true, Placer.enqueue_eq]

theorem queueTrigger_building (hfree : (s.placer.freeze && triggerHeld t) = false) (hpower : s.power.state ≠ 2)
    (hstate : s.placer.state = .building) : queueTrigger t s = s.onPlacer (Placer.join t) := by
  have hpow : (s.power.state == 2) = false := by simpa using hpower
  simp only [queueTrigger, hfree, hpow, hstate, Placer.join_eq]
  rfl

theorem queueTrigger_busy (hfree : (s.placer.freeze && triggerHeld t) = false) (hpower : s.power.state ≠ 2)
    (hidle : s.placer.state ≠ .idle) (hbuilding : s.placer.state ≠ .building) :
    queueTrigger t s = s.onPlacer (Placer.enqueue t) := by
  have hpow : (s.power.state == 2) = false := by simpa using hpower
  simp only [queueTrigger, hfree, hpow, Placer.enqueue_eq]
  cases hstate : s.placer.state with
  | idle => exact absurd hstate hidle
  | building => exact absurd hstate hbuilding
  | copying | overlap | evacuating => rfl

/-! ### What abandoning a plan keeps (R108, R118, R121) -/

/-- The plan in force and the triggers that wait. -/
def State.agenda (s : State) : Option Plan × List Trigger := (s.placer.current, s.placer.queued)

theorem each_agenda {α : Type} (l : List α) (f : α → State → State) (hf : ∀ a s, (f a s).agenda = s.agenda) (s : State) :
    (each l f s).agenda = s.agenda := each_field State.agenda l f (fun a _ => hf a) s

theorem settleStores_agenda (lo len : Nat) (e : Fin 24) (s : State) : (settleStores lo len e s).agenda = s.agenda := by
  unfold settleStores
  dsimp only
  split
  · rfl
  · refine each_agenda _ _ (fun _ _ => ?_) s
    rfl

theorem dropPages_agenda (f : Page → Bool) (s : State) : (dropPages f s).agenda = s.agenda :=
  each_agenda _ _ (fun p s => settleStores_agenda (s.pageAddr p) 4096 (Page.engine p) s) s

theorem setEntry_agenda (r : Nat) (f : RegEntry → RegEntry) (s : State) : (setEntry r f s).agenda = s.agenda := rfl
theorem setNext_agenda (r : Nat) (en : RegEntry) (s : State) : (setNext r en s).agenda = s.agenda := rfl
theorem freeSlot_agenda (k : Fin 64) (s : State) : (freeSlot k s).agenda = s.agenda := rfl

theorem abandonCopy_agenda (k : Fin 64) (s : State) : (abandonCopy k s).agenda = s.agenda := by
  unfold abandonCopy
  dsimp only
  rw [setNext_agenda, freeSlot_agenda]
  split
  · rfl
  · rw [setEntry_agenda, dropPages_agenda]

theorem dropProc_agenda (node : Nat) (e : Fin 24) (s : State) : (dropProc node e s).agenda = s.agenda := rfl

theorem dropMove_agenda (v : Move) (s : State) : (dropMove v s).agenda = s.agenda := by
  have hcopies : (abandonCopies v s).agenda = s.agenda := each_agenda _ _ abandonCopy_agenda s
  unfold dropMove
  dsimp only
  split
  · exact hcopies
  · rw [dropProc_agenda, dropPages_agenda]
    exact hcopies

theorem raiseIf_placer (b : Bool) (code : Nat) (vals : Vals) (s : State) : (raiseIf b code vals s).placer = s.placer := by
  rw [raiseIf_eq]

/-- A plan in progress that is not the load's is abandoned: the plan in force stays, and its triggers wait again. -/
theorem abandonPlan_busy (hidle : s.placer.state ≠ .idle) (hevac : s.placer.state ≠ .evacuating)
    (hload : s.placer.trigger ≠ some .load) :
    (abandonPlan s).placer.pending = none ∧ (abandonPlan s).agenda =
      (s.placer.current, (s.placer.queued ++ (s.placer.trigger.toList ++ s.placer.merged)).eraseDups) := by
  unfold abandonPlan
  dsimp only
  split
  · next h => exact absurd h hidle
  · next h => exact absurd h hevac
  · rw [if_neg hload]
    refine ⟨by rw [raiseIf_placer]; rfl, ?_⟩
    have hmoves : ∀ (l : List Move) (ks : List (Fin 64)), (each ks abandonCopy (each l dropMove s)).agenda = s.agenda := fun l ks =>
      (each_agenda ks _ abandonCopy_agenda _).trans (each_agenda l _ dropMove_agenda s)
    generalize hu : each _ abandonCopy _ = u
    have hagenda : u.agenda = s.agenda := hu ▸ hmoves _ _
    simp only [State.agenda, Prod.mk.injEq] at hagenda ⊢
    obtain ⟨hcurrent, hqueued⟩ := hagenda
    rw [raiseIf_placer]
    simp only [levelTables, State.onPlacer_placer, hcurrent, hqueued, and_self]

/-- ENGINE_OUT ends a plan in progress, and the evacuation begins. -/
theorem startEvacuation_eq (himg : s.img.loaded.isSome = true) : startEvacuation s =
    (abandonPlan s).onPlacer fun p => { p with state := .evacuating, trigger := some .engineOut, merged := [] } := by
  refine if_neg ?_
  rw [Option.isNone_iff_eq_none, ← Option.not_isSome_iff_eq_none, himg]
  exact not_not.2 rfl

theorem abandonPlan_idle (h : s.placer.state = .idle) : abandonPlan s = s := by
  simp only [abandonPlan, h]

/-! ### The freeze and the written bound (R89, R101) -/

/-- With no trigger in the queue no plan begins. -/
theorem nextPlan_none (h : s.placer.queued = []) : nextPlan s = s := by
  unfold nextPlan
  simp only [h, List.filter_nil]
  cases s.placer.state <;> rfl

/-- The triggers of the queue start a plan on an idle placement engine that no freeze holds. -/
theorem nextPlan_starts {g : Trigger} {rest : List Trigger} (hfree : s.placer.freeze = false) (hq : s.placer.queued = g :: rest)
    (hidle : s.placer.state = .idle) (hpower : s.power.state ≠ 2) (himg : s.img.loaded.isSome = true) :
    nextPlan s = s.onPlacer fun p => { p with state := .building, trigger := some g, merged := rest, queued := [] } := by
  have hgo : (g :: rest).filter (fun t => !(s.placer.freeze && triggerHeld t)) = g :: rest := by
    rw [hfree]
    exact List.filter_eq_self.2 fun _ _ => rfl
  have hdone : (g :: rest).filter (fun t => !(g :: rest).contains t) = [] :=
    List.filter_eq_nil_iff.2 fun t ht => by rw [List.contains_iff_mem.2 ht]; exact Bool.false_ne_true
  have hsome : ¬ s.img.loaded.isNone = true := by rw [Option.isNone_eq_false_iff.2 himg]; exact Bool.false_ne_true
  have hmay : ¬ (s.power.state = 2 ∨ s.img.loaded.isNone = true) := not_or.2 ⟨hpower, hsome⟩
  simp only [nextPlan, hq, hgo, hidle, if_neg hmay, State.onPlacer, hdone]

end Sys2Proof.Machine

open Sys2Proof Sys2Proof.Machine

theorem planTriggers : Claim.PlanTriggers := by
  intro s g himg hpower held out queue acts
  have hacts : ∀ i, triggerHeld g = true → exec i s = .next (queueTrigger g s) → acts i := fun i hheld hi => by
    have hnone : ¬ held → (s.placer.freeze && triggerHeld g) = false := fun h => by
      rw [Bool.eq_false_iff.2 h, Bool.false_and]
    have hsome : held → (s.placer.freeze && triggerHeld g) = true := fun h => by rw [hheld, Bool.and_true]; exact h
    refine ⟨fun h hidle => ?_, fun h hbuild => ?_, fun h hidle hbuild => ?_, fun h hq => ?_, fun h hq => ?_⟩
    · rw [hi, queueTrigger_idle (hnone h) hpower himg hidle]
    · refine ⟨_, hi, ?_⟩
      rw [queueTrigger_building (hnone h) hpower hbuild]
      exact ⟨Placer.join_has g s.placer, rfl⟩
    · rw [hi, queueTrigger_busy (hnone h) hpower hidle hbuild]
      rfl
    · rw [hi, queueTrigger_held (hsome h), hq]
      rfl
    · rw [hi, queueTrigger_held (hsome h), hq]
      rfl
  refine ⟨fun hload hout => hacts _ (triggerHeld_of_ne hload hout) ?_, fun hhost => hacts _ (hhost ▸ rfl) (hhost ▸ rfl),
    fun hidle => ?_, fun hevac => congrArg Host.Outcome.next (if_pos hevac), fun hidle hevac hload => ⟨_, rfl, ?_⟩⟩
  · exact congrArg Host.Outcome.next (planTrigger_queues hload hout s)
  · have hne : s.placer.state ≠ .evacuating := by rw [hidle]; decide
    refine congrArg Host.Outcome.next ((if_neg hne).trans ?_)
    rw [startEvacuation_eq himg, abandonPlan_idle hidle]
  · have heq : planTrigger .engineOut s = startEvacuation s := if_neg hevac
    obtain ⟨hpending, hagenda⟩ := abandonPlan_busy hidle hevac hload
    simp only [State.agenda, Prod.mk.injEq] at hagenda
    obtain ⟨hcurrent, hqueued⟩ := hagenda
    rw [heq, startEvacuation_eq himg]
    refine ⟨rfl, hpending, rfl, rfl, hcurrent, fun h => ?_⟩
    rw [State.onPlacer_placer, hqueued]
    simp only [List.mem_eraseDups, List.mem_append, Option.mem_toList]

theorem placerControl : Claim.PlacerControl := by
  intro s
  refine ⟨fun on hq => ?_, fun g rest hq hidle hpower himg => ?_, fun limit d hd => ?_⟩
  · exact congrArg Host.Outcome.next (nextPlan_none hq)
  · exact congrArg Host.Outcome.next (nextPlan_starts (s := s.onPlacer fun p => { p with freeze := false }) rfl hq hidle hpower himg)
  · have hv : clampNat 500 900 limit.toNat = max 500 (min 900 limit.toNat) := clampNat_eq 500 900 _ (by decide)
    have hpacing : ∀ f, (s.onPlacer f).pacing = some d := fun _ => hd
    refine congrArg Host.Outcome.next ?_
    simp only [commitWrite, stagePacing, hpacing, stage_eq, hv, b2n_not]

end

section
/-! A plan that is built or not (R99, R102, R115), and the copies that it makes (R110, R111). -/

namespace Sys2Proof.Machine

variable {s : State}

/-! ### No plan (R102) -/

/-- A failed HOST plan leaves the plan in force, where no change of frequency waits for it. -/
theorem planFailed_host (htrigger : s.placer.trigger = some .host) (hmerged : s.placer.merged = []) (hqueued : s.placer.queued = [])
    (hfreq : ∀ e, (s.engine e).freqDue = none) :
    planFailed s = raise 0x5003 [] (s.onPlacer fun x => { x with state := .idle, trigger := none }) := by
  have hts : s.placer.trigger.toList ++ s.placer.merged = [.host] := by rw [htrigger, hmerged]; rfl
  have hclear : s.onPlacer (fun p => { p with state := .idle, trigger := none, merged := [] }) =
      s.onPlacer fun x => { x with state := .idle, trigger := none } := by
    simp only [State.onPlacer, hmerged]
  generalize hu : raise 0x5003 [] (s.onPlacer fun x => { x with state := .idle, trigger := none }) = u
  have hengines : u.engines = s.engines := by rw [← hu, raise_engines]; rfl
  have hnoFreq : ∀ e, (u.engine e).freqDue = none := fun e => by
    rw [State.engine, hengines]
    exact hfreq e
  have hqueue : u.placer.queued = [] := by rw [← hu, raise_placer]; exact hqueued
  have hpatina : [Trigger.host].contains .patina = false := rfl
  have hhost : [Trigger.host].contains .host = true := rfl
  have hmemory : [Trigger.host].contains .memory = false := rfl
  have hdelay : [Trigger.host].contains .delay = false := rfl
  simp only [planFailed, hts, hclear, hu, hpatina, hhost, hmemory, hdelay, Bool.false_eq_true, if_false, if_true]
  refine (congrArg nextPlan ?_).trans (nextPlan_none hqueue)
  refine each_keeps (· = u) _ _ (fun e _ v hv => ?_) u rfl
  have hnone : (v.engine e).freqDue.isSome = false := by rw [hv, hnoFreq e]; rfl
  rw [hnone]
  exact hv

/-! ### An accepted plan (R106, R108, R115) -/

/-- The state without its tables, its copy slots and the copies that wait. -/
def State.besideCopies (s : State) : State :=
  s.onPlacer fun p => { p with table := [], next := [], slots := Vector.replicate 64 CopySlot.reset, waiting := [] }

theorem each_besideCopies {α : Type} (l : List α) (f : α → State → State) (hf : ∀ a s, (f a s).besideCopies = s.besideCopies)
    (s : State) : (each l f s).besideCopies = s.besideCopies := each_field State.besideCopies l f (fun a _ => hf a) s

theorem startCopy_besideCopies (k : Fin 64) (c : CopySlot) (s : State) : (startCopy k c s).besideCopies = s.besideCopies := by
  unfold startCopy
  dsimp only
  split <;> rfl

theorem startCopies_besideCopies (s : State) : (startCopies s).besideCopies = s.besideCopies := by
  refine each_besideCopies _ _ (fun k s => ?_) s
  split
  · rfl
  · split
    · exact startCopy_besideCopies ..
    · rfl

theorem writeNext_besideCopies (m : Image) (p : Plan) (s : State) : (writeNext m p s).besideCopies = s.besideCopies := by
  refine (each_besideCopies _ _ (fun o s => ?_) _).trans rfl
  split
  · split <;> rfl
  · rfl

/-- What differs in the placement engine alone differs so from what differs there alone. -/
theorem State.rest_of_besideCopies {s t w : State} {f : Placer → Placer} (h : t.besideCopies = (w.onPlacer f).besideCopies)
    (hw : w = { s with placer := w.placer }) : t = { s with placer := t.placer } := by
  have ht := congrArg (fun u : State => ({ u with placer := t.placer } : State)) h
  have hws := congrArg (fun u : State => ({ u with placer := t.placer } : State)) hw
  exact ht.trans hws

/-- A plan that passes becomes pending for the trigger under way, beside the plan in force. -/
theorem planAccepted_pends (m : Image) (cur new : Plan) (ms : List Move) (s : State) :
    let t := planAccepted m cur new ms s
    t.placer.state = .copying ∧ (∃ c, t.placer.pending = some c ∧ c.plan = new ∧ c.trigger = s.placer.trigger.getD .host ∧
      c.evac = false) ∧ t.placer.current = s.placer.current ∧ t.placer.moves = s.placer.moves ++ ms ∧
      t.placer.epoch = s.placer.epoch ∧ t = { s with placer := t.placer } := by
  intro t
  have hnext := writeNext_besideCopies m new s
  have ht : t.besideCopies = _ := startCopies_besideCopies _
  generalize hw : writeNext m new s = w at hnext ht
  have hcurrent : w.placer.current = s.placer.current := congrArg (fun u => u.placer.current) hnext
  have hmoves : w.placer.moves = s.placer.moves := congrArg (fun u => u.placer.moves) hnext
  have hepoch : w.placer.epoch = s.placer.epoch := congrArg (fun u => u.placer.epoch) hnext
  refine ⟨congrArg (fun u => u.placer.state) ht, ⟨_, congrArg (fun u => u.placer.pending) ht, rfl, rfl, rfl⟩,
    (congrArg (fun u => u.placer.current) ht).trans hcurrent, (congrArg (fun u => u.placer.moves) ht).trans (congrArg (· ++ ms) hmoves),
    (congrArg (fun u => u.placer.epoch) ht).trans hepoch, ?_⟩
  exact State.rest_of_besideCopies ht (State.rest_of_besideCopies (f := id) hnext rfl)

/-! ### A plan is judged (R102) -/

section
variable {m : Image} {cur : Plan} (hstate : s.placer.state = .building) (hpending : s.placer.pending = none)
  (htrigger : s.placer.trigger = some .host) (himg : s.img.loaded = some m) (hcurrent : s.placer.current = some cur)
include hstate hpending htrigger himg hcurrent

theorem planBuilt_none : planBuilt none s = planFailed s := by
  simp only [planBuilt, hstate, hpending, htrigger, himg, hcurrent]
  rfl

theorem planBuilt_some (new : Plan) : planBuilt (some new) s = match m.planMoves cur new with
    | none => planFailed s
    | some ms =>
      if (s.hostEnv m new).planOk new && s.triggersAllow m cur new ms && s.leavesDown m new &&
          (s.hostEnv m new).shortOk new s.stillSeeding && (s.hostEnv m new).freshApart cur new s.freeing
      then planAccepted m cur new ms s else planFailed s := by
  simp only [planBuilt, hstate, hpending, htrigger, himg, hcurrent]
  rfl

end

end Sys2Proof.Machine

open Sys2Proof Sys2Proof.Machine

theorem planBuiltOrFailed : Claim.PlanBuilt := by
  intro s m cur hstate hpending htrigger hmerged hqueued himg hcurrent hfreq failed
  have hfailed := planFailed_host htrigger hmerged hqueued hfreq
  have hjudged := planBuilt_some hstate hpending htrigger himg hcurrent
  refine ⟨⟨_, rfl, ?_⟩, fun new hbad => ⟨_, rfl, ?_⟩, fun new ms hok hms hallow hdown hshort happart => ?_⟩
  · exact (planBuilt_none hstate hpending htrigger himg hcurrent).trans hfailed
  · refine (hjudged new).trans (Eq.trans ?_ hfailed)
    cases hms : m.planMoves cur new with
    | none => rfl
    | some ms =>
      refine if_neg ?_
      rcases hbad with h | h | h
      · rw [hms] at h
        cases h
      · simp [h]
      · simp [h]
  · have haccepted : planBuilt (some new) s = planAccepted m cur new ms s := by
      rw [hjudged new, hms]
      simp only [hok, hallow, hdown, hshort, happart, Bool.and_self, if_true]
    obtain ⟨hcopying, ⟨c, hc, hplan, htrig, hevac⟩, hcur, hmoves, hepoch, hrest⟩ := planAccepted_pends m cur new ms s
    exact ⟨_, c, congrArg Host.Outcome.next haccepted, hcopying, hc, hplan, htrig.trans (by rw [htrigger]; rfl), hevac,
      hcur.trans hcurrent, hmoves, hepoch, hrest⟩

end

section
/-! One unit of a copy (R110, R111): the address that it is written at, and what it leaves as it is. -/

namespace Sys2Proof.Machine

variable {s : State}

theorem Mem.length_getN (m : Mem) (a n : Nat) : (m.getN a n).length = n := by
  induction n generalizing a with
  | zero => rfl
  | succ n ih => rw [Mem.getN, List.length_cons, ih]

/-- The copies in the staging pools of the page that a byte of a copied region lies in: none where the copy is not of a STAGED
location that engines use already. -/
def State.copyPages (s : State) (c : CopySlot) (ofs : Nat) : List Page :=
  if c.new.kind = .dram ∧ (s.entry c.region).state ≠ 4 then s.poolPages none c.region (pageOf ofs) else []

/-- Where a byte of a copied region is written that at most one pool holds. -/
def State.copyTarget (s : State) (c : CopySlot) (ofs : Nat) : Nat :=
  match s.copyPages c ofs with
  | [] => c.new.addr none ofs
  | p :: _ => s.pageAddr p + ofs % 4096

theorem putCopy_target {c : CopySlot} {ofs : Nat} (h : (s.copyPages c ofs).length ≤ 1) (bs : List Byte) :
    putCopy c ofs bs s = soil (s.copyTarget c ofs) { s with mem := s.mem.putN (s.copyTarget c ofs) bs } := by
  by_cases hstaged : (s.entry c.region).state = 4
  · have hpages : s.copyPages c ofs = [] := if_neg fun hk => hk.2 hstaged
    simp only [putCopy, hstaged, if_true, State.copyTarget, hpages]
    rfl
  · cases hkind : c.new.kind with
    | engineLocal | shared =>
      have hpages : s.copyPages c ofs = [] := if_neg fun hk => by rw [hkind] at hk; cases hk.1
      simp only [putCopy, hstaged, if_false, hkind, State.copyTarget, hpages, State.writeAddrs]
      rfl
    | dram =>
      have hpages : s.copyPages c ofs = s.poolPages none c.region (pageOf ofs) := if_pos ⟨hkind, hstaged⟩
      rw [hpages] at h
      simp only [putCopy, hstaged, if_false, hkind, State.copyTarget, hpages, State.writeAddrs]
      rw [ite_self]
      cases hpool : s.poolPages none c.region (pageOf ofs) with
      | nil => rfl
      | cons p ps =>
        rw [hpool] at h
        have hps : ps = [] := List.length_eq_zero_iff.1 (Nat.le_zero.1 (Nat.le_of_succ_le_succ h))
        rw [hps]
        rfl

theorem copyUnit_idle {k : Fin 64} (h : (s.slot k).kind = 0 ∨ (s.slot k).bytes ≤ 64 * (s.slot k).mark) : copyUnit k s = s := by
  refine if_pos (h.imp_right fun hle => ?_)
  rw [CopySlot.full, CopySlot.units, decide_eq_true_eq]
  omega

theorem CopySlot.not_full {c : CopySlot} (h : 64 * c.mark < c.bytes) : c.full = false := by
  rw [CopySlot.full, CopySlot.units, decide_eq_false_iff_not]
  omega

/-- The twins that a copied unit completes change the region table alone. -/
theorem twinEntries_table (v : Move) (s : State) : ∃ table, twinEntries v s = s.onPlacer fun p => { p with table := table } := by
  unfold twinEntries
  split
  · refine each_keeps (fun t => ∃ table, t = s.onPlacer fun p => { p with table := table }) _ _ (fun k _ t ht => ?_) s ⟨_, rfl⟩
    obtain ⟨table, rfl⟩ := ht
    exact ⟨_, rfl⟩
  · exact ⟨_, rfl⟩

theorem each_twinEntries_table (l : List Move) (s : State) :
    ∃ table, each l twinEntries s = s.onPlacer fun p => { p with table := table } := by
  refine each_keeps (fun t => ∃ table, t = s.onPlacer fun p => { p with table := table }) l _ (fun v _ t ht => ?_) s ⟨_, rfl⟩
  obtain ⟨table, rfl⟩ := ht
  obtain ⟨table', htwin⟩ := twinEntries_table v (s.onPlacer fun p => { p with table := table })
  exact ⟨table', htwin⟩

/-- A unit of a copy under way: its bytes go to their target, the watermark passes them, and twins may be complete. -/
theorem copyUnit_writes {k : Fin 64} (hkind : (s.slot k).kind ≠ 0) (hopen : 64 * (s.slot k).mark < (s.slot k).bytes)
    (hpages : (s.copyPages (s.slot k) (64 * (s.slot k).mark)).length ≤ 1) :
    let c := s.slot k
    let dst := s.copyTarget c (64 * c.mark)
    let t := copyUnit k s
    t.mem = s.mem.putN dst (s.mem.getN (c.old.addr none (64 * c.mark)) (min 64 (c.bytes - 64 * c.mark))) ∧
      t.placer.slots = (upd s.placer.slots k fun x => { x with mark := x.mark + 1 }) ∧
      t = { s with mem := t.mem, placer :=
        { s.placer with slots := t.placer.slots, table := t.placer.table, pages := t.placer.pages } } := by
  intro c dst t
  have hgoes : ¬ (c.kind = 0 ∨ c.full = true) := not_or.2 ⟨hkind, by rw [CopySlot.not_full hopen]; exact Bool.false_ne_true⟩
  have hput := putCopy_target hpages (s.mem.getN (c.old.addr none (64 * c.mark)) (min 64 (c.bytes - 64 * c.mark)))
  obtain ⟨table, htwins⟩ := each_twinEntries_table _ _
  have ht : t = _ := (if_neg hgoes).trans htwins
  rw [hput] at ht
  rw [ht]
  exact ⟨rfl, rfl, rfl⟩

end Sys2Proof.Machine

open Sys2Proof Sys2Proof.Machine

theorem copyUnitWrites : Claim.CopyUnit := by
  intro s k hwf c ofs n src pages dst
  refine ⟨fun hkind hopen hpages => ?_, fun h => congrArg Host.Outcome.next (copyUnit_idle h)⟩
  obtain ⟨hmem, hslots, hrest⟩ := copyUnit_writes hkind hopen hpages
  have hrising : s.mem.rising = true := ((Bool.and_eq_true _ _).mp hwf).1
  have hlen : (s.mem.getN src n).length = n := Mem.length_getN ..
  refine ⟨_, rfl, ?_, fun a ha => ?_, hslots, hrest⟩
  · have hread := Mem.getN_putN dst (s.mem.getN src n) hrising
    rw [hlen] at hread
    rw [hmem]
    exact hread
  · rw [hmem]
    exact Mem.get_putN_other dst (s.mem.getN src n) a hrising (by rwa [hlen])


/-- Settles O34: a trigger starts a plan, joins one or waits (`queueTrigger_idle` and the lemmas after it), a plan that passes
its checks becomes pending (`planAccepted_pends`), and a unit of a copy is written at its target (`putCopy_target`). -/
theorem planning : Obligations.Planning := ⟨planTriggers, placerControl, planBuiltOrFailed, copyUnitWrites⟩

end

section
/-! Published frames, and what the fabric leaves as it is when a source frame reaches it (R141, R209, R220). -/

namespace Sys2Proof.Machine

variable {s t : State}

/-! ### Association lists and published frames -/

theorem aget_aset_self {α : Type} (l : List (Nat × α)) (k : Nat) (v : α) : aget (aset l k v) k = some v := by
  induction l with
  | nil => simp [aset, aget]
  | cons c l ih =>
    obtain ⟨k', v'⟩ := c
    unfold aset
    split_ifs with hlt heq
    · simp [aget]
    · simp [aget]
    · have hne : (k' == k) = false := by simpa using fun h : k' = k => heq h.symm
      rw [aget, List.find?_cons_of_neg (by simp [hne])]
      exact ih

/-- The frames of the block that is published are among those kept. -/
theorem aget_trimFrames (l : List (Nat × List Frame)) (w : Nat) : aget (trimFrames l w) w = aget l w := by
  rw [aget, trimFrames, List.find?_filter, aget]
  refine congrArg (fun q => (l.find? q).map (·.2)) (funext fun p => ?_)
  by_cases h : p.1 = w
  · simp [h]
  · simp [h]

/-- The record of a node's published frames. -/
def State.outOf (s : State) (node : Nat) : Option NodeOut := s.outs.find? fun o => o.node == node

theorem State.framesAt_eq (s : State) (node w : Nat) : s.framesAt node w = (s.outOf node).bind fun o => aget o.frames w := rfl

/-- An update of one node's record, which keeps its node. -/
theorem find?_mapIf_node (l : List NodeOut) (node id : Nat) (f : NodeOut → NodeOut) (hf : ∀ o, (f o).node = o.node) :
    (mapIf (fun o => o.node == node) f l).find? (fun o => o.node == id) =
      (l.find? fun o => o.node == id).map fun o => if o.node == node then f o else o := by
  have hkey : ((fun o : NodeOut => o.node == id) ∘ fun o => if o.node == node then f o else o) = fun o => o.node == id :=
    funext fun o => by
      dsimp only [Function.comp]
      split
      · rw [hf]
      · rfl
  rw [mapIf, List.find?_map, hkey]

/-- What is published of a node for a block is what readers find. -/
theorem framesAt_publish (node w : Nat) (fs : List Frame) (s : State) : (publish node w fs s).framesAt node w = some fs := by
  unfold publish
  dsimp only
  split
  · next hany =>
    obtain ⟨o, ho⟩ := Option.isSome_iff_exists.1 (List.find?_isSome.2 (List.any_eq_true.1 hany))
    have hnode : (o.node == node) = true := List.find?_some (p := fun o : NodeOut => o.node == node) ho
    rw [State.framesAt_eq, State.outOf, find?_mapIf_node]
    · rw [ho, Option.map_some, if_pos hnode, Option.bind_some, aget_trimFrames, aget_aset_self]
    · exact fun _ => rfl
  · next hany =>
    have hnone : s.outs.find? (fun o => o.node == node) = none :=
      List.find?_eq_none.2 fun o ho hn => hany (List.any_eq_true.2 ⟨o, ho, hn⟩)
    simp [State.framesAt_eq, State.outOf, hnone, aget]

theorem publish_rest (node w : Nat) (fs : List Frame) (s : State) :
    publish node w fs s = { s with outs := (publish node w fs s).outs } := by
  unfold publish
  dsimp only
  split <;> rfl

/-- What is published of a node leaves every other node's record alone. -/
theorem publish_outOf_other {node id : Nat} (h : node ≠ id) (w : Nat) (fs : List Frame) (s : State) :
    (publish node w fs s).outOf id = s.outOf id := by
  have hne : ∀ o : NodeOut, (o.node == id) = true → (o.node == node) = false := fun o ho => by
    rw [eq_of_beq ho]
    exact beq_eq_false_iff_ne.2 h.symm
  unfold publish
  dsimp only
  split
  · rw [State.outOf, find?_mapIf_node]
    · rw [State.outOf]
      cases ho : s.outs.find? (fun o => o.node == id) with
      | none => rfl
      | some o =>
        have hkeep := hne o (List.find?_some (p := fun o : NodeOut => o.node == id) ho)
        rw [Option.map_some, hkeep]
        rfl
    · exact fun _ => rfl
  · have hnew : (node == id) = false := beq_eq_false_iff_ne.2 h
    simp [State.outOf, hnew]

/-! ### A source frame in the fabric -/

/-- What a source frame leaves alone in the fabric: the image, the copies of processes, the placement engine, the engines, and the
frames that a node other than a SUM or a LIMIT has published. -/
structure FeedView where
  img : ImgUnit
  procs : List ProcSt
  placer : Placer
  engines : Vector Engine 24
  frames : Option (List (Nat × List Frame))

def State.feedView (s : State) (id : Nat) : FeedView :=
  { img := s.img, procs := s.procs, placer := s.placer, engines := s.engines, frames := (s.outOf id).map (·.frames) }

/-- No SUM and no LIMIT of the image has this id. -/
def State.unsummed (s : State) (id : Nat) : Prop := ∀ k ∈ s.nodes, k.type = .sum ∨ k.type = .limit → k.id ≠ id

variable {id : Nat}

theorem State.unsummed_of_feedView (h : t.feedView id = s.feedView id) (hs : s.unsummed id) : t.unsummed id := by
  have himg : t.img = s.img := congrArg FeedView.img h
  have hnodes : t.nodes = s.nodes := by rw [State.nodes, State.nodes, himg]
  rw [State.unsummed, hnodes]
  exact hs

/-- A loop over nodes keeps the view where its step does in every state that has it. -/
theorem each_feedView {α : Type} (l : List α) (f : α → State → State)
    (hf : ∀ a ∈ l, ∀ t : State, t.unsummed id → (f a t).feedView id = t.feedView id) (hs : s.unsummed id) :
    (each l f s).feedView id = s.feedView id :=
  each_keeps (fun t => t.feedView id = s.feedView id) l f
    (fun a ha t ht => (hf a ha t (State.unsummed_of_feedView ht hs)).trans ht) s rfl

theorem publish_feedView {node : Nat} (h : node ≠ id) (w : Nat) (fs : List Frame) (s : State) :
    (publish node w fs s).feedView id = s.feedView id := by
  have hout := publish_outOf_other h w fs s
  simp only [State.feedView, hout]
  rw [publish_rest]

theorem setMisses_feedView (node k : Nat) (s : State) : (setMisses node k s).feedView id = s.feedView id := by
  have hframes : ((setMisses node k s).outOf id).map (·.frames) = (s.outOf id).map (·.frames) := by
    rw [State.outOf, setMisses, find?_mapIf_node]
    · rw [Option.map_map, State.outOf]
      refine congrArg (Option.map · _) (funext fun o => ?_)
      dsimp only [Function.comp]
      split <;> rfl
    · exact fun _ => rfl
  simp only [State.feedView, hframes]
  rfl

theorem raise_feedView (code : Nat) (vals : Vals) (s : State) : (raise code vals s).feedView id = s.feedView id := by
  rw [raise_eq]
  rfl

theorem raiseIf_feedView (b : Bool) (code : Nat) (vals : Vals) (s : State) : (raiseIf b code vals s).feedView id = s.feedView id := by
  rw [raiseIf_eq]
  rfl

theorem readSpilled_feedView (a : Nat) (s : State) : (readSpilled a s).2.feedView id = s.feedView id := by
  have hbad : (if s.xbar.badCe.contains (a / 8) then bankCorrected (a / bankBytes) (a / 8) s else s).feedView id = s.feedView id := by
    split
    · exact raiseIf_feedView ..
    · rfl
  unfold readSpilled
  dsimp only
  generalize (if s.xbar.badCe.contains (a / 8) then bankCorrected (a / bankBytes) (a / 8) s else s) = u at hbad ⊢
  split
  · exact (raise_feedView (id := id) 0x400B _ _).trans hbad
  · exact hbad

theorem readCoeffs_feedView (n : Nat) (s : State) : (readCoeffs n s).2.feedView id = s.feedView id := by
  unfold readCoeffs
  dsimp only
  split
  · rfl
  · next o _ =>
    have hfirst : (if o < fabricSize then ((s.sendSt n).cStart, s) else readSpilled (s.tableAddr o) s).2.feedView id = s.feedView id := by
      split
      · rfl
      · exact readSpilled_feedView ..
    generalize (if o < fabricSize then ((s.sendSt n).cStart, s) else readSpilled (s.tableAddr o) s) = r at hfirst ⊢
    split
    · exact hfirst
    · exact (readSpilled_feedView ..).trans hfirst

theorem runLimit_feedView {n : NodeRec} (h : n.id ≠ id) (w : Nat) (x : Frame) (s : State) :
    (runLimit w x n s).feedView id = s.feedView id := by
  have hmark : ∀ (c : Prop) [Decidable c] (p : PAddr) (u : State), (if c then markCrossed p u else u).feedView id = u.feedView id :=
    fun c _ p u => by split <;> rfl
  unfold runLimit
  dsimp only
  rw [raiseIf_feedView, publish_feedView h]
  exact (hmark ..).trans (hmark ..)

theorem releaseSum_feedView {n : NodeRec} (h : n.id ≠ id) (hs : s.unsummed id) (w : Nat) (f : Frame) :
    (releaseSum n w f s).feedView id = s.feedView id := by
  have hpub := publish_feedView h w [f] s
  refine (each_feedView _ _ (fun k hk t _ => ?_) (State.unsummed_of_feedView hpub hs)).trans hpub
  obtain ⟨hmem, htype⟩ := List.mem_filter.1 hk
  refine runLimit_feedView (hs k hmem (Or.inr ?_)) w f t
  simpa using ((Bool.and_eq_true _ _).mp htype).1

theorem completeSum_feedView {n : NodeRec} (h : n.id ≠ id) (hs : s.unsummed id) (x : SumSt) (w : Nat) :
    (completeSum n x w s).feedView id = s.feedView id := by
  unfold completeSum
  dsimp only
  rw [setMisses_feedView]
  generalize hu : (if (narrow x.acc).2 = true then _ else _ : State) = u
  have hview : u.feedView id = s.feedView id := by
    rw [← hu]
    split <;> rfl
  exact (releaseSum_feedView h (State.unsummed_of_feedView hview hs) w _).trans hview

theorem addToSum_feedView (e : Nat × Nat) {sum : NodeRec} (h : sum.id ≠ id) (hs : s.unsummed id) :
    (addToSum e sum s).feedView id = s.feedView id := by
  have hread : ∀ (l : List NodeRec) (w : Nat) (acc : List Int × State), (l.foldl (fun (a : List Int × State) n =>
      let c := readCoeffs n.id a.2
      (addProducts c.1 (s.edgeFrame e w) a.1, c.2)) acc).2.feedView id = acc.2.feedView id := fun l w => by
    induction l with
    | nil => exact fun _ => rfl
    | cons n l ih => exact fun acc => (ih _).trans (readCoeffs_feedView n.id acc.2)
  unfold addToSum
  split
  · next x w _ _ =>
    dsimp only
    split
    · rfl
    · generalize hr : List.foldl _ _ _ = r
      have hview : r.2.feedView id = s.feedView id := hr ▸ hread _ w _
      split
      · exact (completeSum_feedView (s := r.2.onSum sum.id _) h (State.unsummed_of_feedView (s := s) hview hs) _ w).trans hview
      · exact hview
  · rfl

theorem sourceFrame_feedView (node out : Nat) (hs : s.unsummed id) : (sourceFrame node out s).feedView id = s.feedView id := by
  refine each_feedView _ _ (fun k hk t ht => ?_) hs
  obtain ⟨hmem, htype⟩ := List.mem_filter.1 hk
  exact addToSum_feedView _ (hs k hmem (Or.inl (by simpa using ((Bool.and_eq_true _ _).mp htype).1))) ht

theorem each_feedFabric_feedView (l : List NodeRec) (hs : s.unsummed id) : (each l feedFabric s).feedView id = s.feedView id :=
  each_feedView _ _ (fun n _ _ ht => each_feedView _ _ (fun k _ _ hu => sourceFrame_feedView n.id k hu) ht) hs

/-- The frames that a node has published are among what the view holds. -/
theorem framesAt_of_feedView (h : t.feedView id = s.feedView id) (w : Nat) : t.framesAt id w = s.framesAt id w := by
  have hframes := congrArg FeedView.frames h
  simp only [State.feedView] at hframes
  have hbind : ∀ u : State, u.framesAt id w = ((u.outOf id).map (·.frames)).bind fun l => aget l w := fun u => by
    rw [State.framesAt_eq, Option.bind_map]
    rfl
  rw [hbind, hbind, hframes]

end Sys2Proof.Machine
end

section
/-! The send deadline (R127, R128, R176): what abandoning work leaves, what a miss counts and publishes, and the fade that stands
for a missed block. -/

namespace Sys2Proof.Machine

variable {s t : State}

/-! ### The fade -/

theorem rne_bounds (num : Int) (den : Nat) : num / den ≤ rne num den ∧ rne num den ≤ num / den + 1 := by
  unfold rne
  dsimp only
  split_ifs <;> omega

/-- A part of a sample in eighths is a word, so that it never saturates. -/
theorem scale_eighths (y : Word) {k : Int} (h0 : 0 ≤ k) (h7 : k ≤ 7) : scale y k 8 = BitVec.ofInt 32 (rne (k * y.toInt) 8) := by
  have hlo : -2147483648 ≤ y.toInt := BitVec.le_toInt y
  have hhi : y.toInt < 2147483648 := BitVec.toInt_lt
  obtain ⟨hfloor, hceil⟩ := rne_bounds (k * y.toInt) 8
  have hrange : -2147483648 ≤ rne (k * y.toInt) 8 ∧ rne (k * y.toInt) 8 ≤ 2147483647 := by
    generalize rne (k * y.toInt) 8 = v at hfloor hceil
    interval_cases k <;> omega
  rw [scale, mul_comm, satWord, clampInt, if_neg (by simp only [minWord]; omega), if_neg (by simp only [maxWord]; omega)]

/-- The frames that stand for a missed block. -/
theorem miss_frames (p : ProcSt) (outputs : Nat) : (p.miss outputs).out = some ((List.range outputs).map fun k =>
    (List.range 8).map fun i => if p.misses = 0 then BitVec.ofInt 32 (rne ((7 - i) * (nth p.last k 0).toInt) 8) else 0) := by
  have hcast : (do let a ← List.range 8; pure (a : Int)) = (List.range 8).map (Nat.cast : Nat → Int) := bind_pure_comp ..
  refine congrArg some (List.map_congr_left fun k _ => ?_)
  rw [hcast, List.map_map]
  unfold substitute
  split
  · refine List.map_congr_left fun i hi => ?_
    have hi8 : i < 8 := List.mem_range.1 hi
    exact scale_eighths _ (by omega) (by omega)
  · rfl

/-! ### Abandoning work (R143, R176) -/

/-- A copy without the judgement of its cycles. -/
def ProcSt.unjudged (p : ProcSt) : ProcSt := { p with overrun := false }

/-- What abandoning an engine's work leaves alone, beside the judgement of the cycles used. -/
structure DutyView where
  img : ImgUnit
  red : Red
  clk : Clk
  placer : Placer
  outs : List NodeOut
  procs : List ProcSt

def State.dutyView (s : State) : DutyView :=
  { img := s.img, red := s.red, clk := s.clk, placer := s.placer, outs := s.outs, procs := s.procs.map ProcSt.unjudged }

/-- What an engine runs and waits for. -/
def Engine.contexts (g : Engine) : Ctx × Ctx × Option FaultSt × Bool := (g.fg, g.bg, g.parked, g.halted)

theorem raiseIf_engine (b : Bool) (code : Nat) (vals : Vals) (s : State) (k : Fin 24) :
    (raiseIf b code vals s).engine k = s.engine k := by
  rw [raiseIf_eq]
  rfl

theorem State.onProc_engine (s : State) (node : Nat) (e k : Fin 24) (f : ProcSt → ProcSt) :
    (s.onProc node e f).engine k = s.engine k := rfl

theorem raiseIf_dutyView (b : Bool) (code : Nat) (vals : Vals) (s : State) : (raiseIf b code vals s).dutyView = s.dutyView := by
  rw [raiseIf_eq]
  rfl

theorem chargeCycles_dutyView (e : Fin 24) (n : NodeRec) (used : Nat) (s : State) :
    (chargeCycles e n used s).dutyView = s.dutyView := by
  have hprocs : ∀ late, (mapIf (fun p => p.node == n.id && p.engine == e) (fun p => { p with overrun := late }) s.procs).map
      ProcSt.unjudged = s.procs.map ProcSt.unjudged := fun late => by
    rw [mapIf, List.map_map]
    refine List.map_congr_left fun p _ => ?_
    dsimp only [Function.comp]
    split <;> rfl
  unfold chargeCycles
  rw [raiseIf_dutyView]
  exact congrArg (fun l => { s.dutyView with procs := l }) (hprocs _)

theorem chargeCycles_engine_other {e k : Fin 24} (h : k ≠ e) (n : NodeRec) (used : Nat) (s : State) :
    (chargeCycles e n used s).engine k = s.engine k := by
  unfold chargeCycles
  rw [raiseIf_engine, State.onProc_engine, State.onEngine_engine_other s e k _ h.symm]

theorem chargeCycles_contexts (e : Fin 24) (n : NodeRec) (used : Nat) (s : State) :
    ((chargeCycles e n used s).engine e).contexts = (s.engine e).contexts := by
  unfold chargeCycles
  rw [raiseIf_engine, State.onProc_engine, State.onEngine_engine_self]
  rfl

theorem abandonCtx_dutyView (e : Fin 24) (c : Ctx) (s : State) : (abandonCtx e c s).dutyView = s.dutyView := by
  unfold abandonCtx
  split
  · split
    · rfl
    · exact chargeCycles_dutyView ..
  · rfl

theorem abandonCtx_engine_other {e k : Fin 24} (h : k ≠ e) (c : Ctx) (s : State) : (abandonCtx e c s).engine k = s.engine k := by
  unfold abandonCtx
  split
  · split
    · rfl
    · exact chargeCycles_engine_other h ..
  · rfl

theorem abandonCtx_contexts (e : Fin 24) (c : Ctx) (s : State) :
    ((abandonCtx e c s).engine e).contexts = (s.engine e).contexts := by
  unfold abandonCtx
  split
  · split
    · rfl
    · exact chargeCycles_contexts ..
  · rfl

/-- What abandoning its work makes of an engine: its contexts are gone, but a halted one keeps them as given up. -/
def Engine.abandoned (g g' : Engine) : Prop :=
  (g.halted = false → g'.fg = Ctx.reset ∧ g'.bg = Ctx.reset ∧ g'.parked = none) ∧
    (g.halted = true → g.fg.node.isSome = true → g'.fg = { g.fg with stale := true })

theorem abandonWork_dutyView (e : Fin 24) (s : State) : (abandonWork e s).dutyView = s.dutyView :=
  (abandonCtx_dutyView e (s.engine e).bg (abandonCtx e (s.engine e).fg s)).trans (abandonCtx_dutyView ..)

theorem engineStep_abandonWork : EngineStep abandonWork Engine.abandoned where
  own e s := by
    have hctx := (abandonCtx_contexts e (s.engine e).bg (abandonCtx e (s.engine e).fg s)).trans (abandonCtx_contexts ..)
    simp only [Engine.contexts, Prod.mk.injEq] at hctx
    obtain ⟨hfg, -, -, hhalted⟩ := hctx
    simp only [abandonWork, State.onEngine_engine_self, Engine.abandoned, hfg, hhalted]
    refine ⟨fun h => ?_, fun h hnode => ?_⟩
    · simp [h]
    · simp [h, hnode]
  other e s k hk := by
    simp only [abandonWork]
    rw [State.onEngine_engine_other _ _ _ _ hk.symm, abandonCtx_engine_other hk, abandonCtx_engine_other hk]

/-! ### The instant of the deadline (R315, R475) -/

theorem raisePulses_eq (u : Fin 4) (s : State) : raisePulses u s = { s with evt := (raisePulses u s).evt } :=
  each_keeps (P := fun t : State => t = { s with evt := t.evt }) _ _ (fun u _ t ht => by
    split
    · split
      · rw [ht]
        rfl
      · exact ht
    · exact ht) s rfl

theorem sampleInstant_eq (r : DomainRec) (s : State) :
    sampleInstant r s = { s with amps := (sampleInstant r s).amps, evt := (sampleInstant r s).evt } :=
  each_keeps (P := fun t : State => t = { s with amps := t.amps, evt := t.evt }) _ _ (fun c _ t ht => by
    rw [ht]
    rfl) (raisePulses r.tb s) (by rw [raisePulses_eq])

/-! ### One copy of a process that is not CRITICAL misses its block (R127, R128) -/

/-- One PROC that is not CRITICAL runs, in no pair and no overlap, and its block of the interval has the index w. -/
structure State.LoneProc (s : State) (d : Fin 4) (p : ProcSt) (n : NodeRec) (w : Nat) : Prop where
  procs  : s.procs = [p]
  pairs  : s.red.pairs = []
  moves  : s.placer.moves = []
  node   : s.node? p.node = some n
  dom    : n.domain = d
  type   : n.type = .proc
  unique : ∀ k ∈ s.nodes, k.id = n.id → k = n
  direct : n.before = false
  isNew  : p.isNew = false
  work   : workIdx (s.ivl n) n = some w

variable {d : Fin 4} {p q : ProcSt} {n : NodeRec} {w : Nat}

/-- What a media instant changes does not concern the process. -/
theorem State.LoneProc.withInstant (h : s.LoneProc d p n w) (amps : Vector Amp 16) (evt : Evt) :
    ({ s with amps := amps, evt := evt } : State).LoneProc d p n w :=
  ⟨h.procs, h.pairs, h.moves, h.node, h.dom, h.type, h.unique, h.direct, h.isNew, h.work⟩

theorem State.LoneProc.id_eq (h : s.LoneProc d p n w) : n.id = p.node := by
  have hid := List.find?_some (p := fun r : NodeRec => r.id == p.node) h.node
  exact eq_of_beq hid

/-- Abandoning work keeps the process, but for the judgement of its cycles. -/
theorem State.LoneProc.of_dutyView (h : s.LoneProc d p n w) (hv : t.dutyView = s.dutyView) :
    ∃ q, t.LoneProc d q n w ∧ q.unjudged = p.unjudged := by
  have himg : t.img = s.img := congrArg DutyView.img hv
  have hred : t.red = s.red := congrArg DutyView.red hv
  have hclk : t.clk = s.clk := congrArg DutyView.clk hv
  have hplacer : t.placer = s.placer := congrArg DutyView.placer hv
  have hprocs : t.procs.map ProcSt.unjudged = [p.unjudged] := (congrArg DutyView.procs hv).trans (by rw [State.dutyView, h.procs]; rfl)
  obtain ⟨q, hq, hqp⟩ := List.map_eq_singleton_iff.1 hprocs
  have hnodes : t.nodes = s.nodes := by rw [State.nodes, State.nodes, himg]
  have hivl : t.ivl n = s.ivl n := by simp only [State.ivl, State.tb, State.tbOf, State.domain?, State.domains, himg, hclk]
  have hnode : q.node = p.node := (congrArg ProcSt.node hqp :)
  exact ⟨q, { procs := hq, pairs := hred ▸ h.pairs, moves := hplacer ▸ h.moves
              node := by rw [State.node?, hnodes, hnode]; exact h.node
              dom := h.dom, type := h.type, unique := hnodes ▸ h.unique, direct := h.direct
              isNew := (congrArg ProcSt.isNew hqp :).trans h.isNew, work := hivl ▸ h.work }, hqp⟩

theorem State.LoneProc.proc (h : s.LoneProc d p n w) : s.proc? n.id p.engine = some p := by
  simp [State.proc?, h.procs, h.id_eq]

theorem State.LoneProc.onProc (h : s.LoneProc d p n w) (f : ProcSt → ProcSt) : (s.onProc n.id p.engine f).procs = [f p] := by
  simp [State.onProc, mapIf, h.procs, h.id_eq]

/-- With no pair, readers take a copy that no overlap and no CRITICAL record holds back, and it is the only one. -/
theorem released_of_unpaired (hpairs : s.red.pairs = []) (hdirect : n.before = false) (hnew : p.isNew = false) :
    s.released n p = true ∧ s.soleCopy n.id = true := by
  simp [State.released, State.soleCopy, State.pair?, hpairs, hdirect, hnew]

/-- What counting a miss leaves: the count, and the copy but for its mark of an unresolved fault. -/
structure MissCounted (s t : State) (m : ProcSt) : Prop where
  img     : t.img = s.img
  engines : t.engines = s.engines
  red     : t.red = s.red
  moves   : t.placer.moves = s.placer.moves
  misses  : t.placer.misses = satInc32 s.placer.misses
  procs   : ∃ b, t.procs = [{ m with unresolved := b }]

theorem countMiss_counted (cause : Fin 3) {m : ProcSt} (hm : s.procs = [m]) (hnode : m.node = p.node) (hengine : m.engine = p.engine) :
    MissCounted s (countMiss p cause s) m := by
  unfold countMiss
  dsimp only
  rw [raiseIf_eq, raise_eq]
  split
  · exact ⟨rfl, rfl, rfl, rfl, rfl, true, by simp [State.onProc, State.onPlacer, mapIf, hm, hnode, hengine]⟩
  · exact ⟨rfl, rfl, rfl, rfl, rfl, m.unresolved, hm⟩

/-- The copy's substitute is published, and its miss counted. -/
theorem missCopy_lone (h : s.LoneProc d p n w) (hq : q.engine = p.engine) (cause : Fin 3) :
    MissCounted s (missCopy n q cause s) (p.miss n.outputs) ∧
      (missCopy n q cause s).framesAt n.id w = (p.miss n.outputs).out := by
  have hc : MissCounted (s.onProc n.id p.engine fun _ => p.miss n.outputs) _ _ := countMiss_counted (p := p) cause (h.onProc _) rfl rfl
  obtain ⟨hreleased, hsole⟩ := released_of_unpaired (p := p.miss n.outputs)
    ((congrArg Red.pairs hc.red).trans h.pairs) h.direct h.isNew
  have hmiss : missCopy n q cause s = publish n.id w ((p.miss n.outputs).out.getD [])
      (countMiss p cause (s.onProc n.id p.engine fun _ => p.miss n.outputs)) := by
    simp [missCopy, missProc, h.type, hq, h.proc, h.work, hreleased, hsole]
  rw [hmiss, framesAt_publish]
  refine ⟨?_, rfl⟩
  rw [publish_rest]
  exact ⟨hc.img, hc.engines, hc.red, hc.moves, hc.misses, hc.procs⟩

/-! ### The deadline (R127) -/

theorem comparePairs_none (h : s.red.pairs = []) (d : Fin 4) : comparePairs d s = s := by
  rw [comparePairs, h]
  rfl

theorem compareOverlaps_none (h : s.placer.moves = []) (d : Fin 4) : compareOverlaps d s = s := by
  rw [compareOverlaps, h]
  rfl

/-- The engines of a domain give up their work. -/
def abandonDomain (d : Fin 4) (s : State) : State := each ((List.finRange 24).filter fun e => s.engineDomain e == some d) abandonWork s

theorem abandonDomain_dutyView (d : Fin 4) (s : State) : (abandonDomain d s).dutyView = s.dutyView :=
  each_field State.dutyView _ abandonWork (fun e _ => abandonWork_dutyView e) s

theorem abandonDomain_abandoned {e : Fin 24} (h : s.engineDomain e = some d) :
    (s.engine e).abandoned ((abandonDomain d s).engine e) :=
  (engineStep_abandonWork.list ((List.nodup_finRange 24).filter _) s).1 e
    (List.mem_filter.2 ⟨List.mem_finRange _, beq_iff_eq.2 h⟩)

/-- The engine of a lone process is one of its domain. -/
theorem State.LoneProc.engineDomain (h : s.LoneProc d p n w) : s.engineDomain p.engine = some d := by
  simp [State.engineDomain, h.procs, h.node, h.dom]

/-- No SUM and no LIMIT is the process. -/
theorem State.LoneProc.unsummed (h : s.LoneProc d p n w) : s.unsummed n.id := fun k hk htype hid => by
  rw [h.unique k hk hid, h.type] at htype
  simp at htype

/-- A process that misses its deadline: its engine's contexts are discarded, and its miss counted and published. -/
structure Missed (s t : State) (p : ProcSt) (n : NodeRec) (w : Nat) : Prop where
  frames    : t.framesAt n.id w = (p.miss n.outputs).out
  proc      : ∃ q, t.procs = [q] ∧ q.out = (p.miss n.outputs).out ∧ q.misses = p.misses + 1 ∧ q.missedNow = true
  misses    : t.placer.misses = satInc32 s.placer.misses
  abandoned : (s.engine p.engine).abandoned (t.engine p.engine)

/-- The deadline of a lone process that has not finished: its engine gives up the work, and its substitute reaches the fabric. -/
theorem sendDeadline_lone (h : s.LoneProc d p n w) (hout : p.out = none) (hrun : p.stopped = false)
    (hmissed : MissCounted (abandonDomain d s) (missCopy n p (s.missCause p) (abandonDomain d s)) q) :
    sendDeadline d s = feedFabric n (missCopy n p (s.missCause p) (abandonDomain d s)) := by
  have hview := abandonDomain_dutyView d s
  have himg : (abandonDomain d s).img = s.img := congrArg DutyView.img hview
  have hred : (abandonDomain d s).red = s.red := congrArg DutyView.red hview
  have hplacer : (abandonDomain d s).placer = s.placer := congrArg DutyView.placer hview
  have hnodes : (abandonDomain d s).node? p.node = some n := by
    rw [State.node?, State.nodes, himg]
    exact h.node
  have hnode : (missCopy n p (s.missCause p) (abandonDomain d s)).node? p.node = some n := by
    rw [State.node?, State.nodes, hmissed.img]
    exact hnodes
  have hpairs : (missCopy n p (s.missCause p) (abandonDomain d s)).red.pairs = [] := by
    rw [hmissed.red, hred]
    exact h.pairs
  have hmoves : (missCopy n p (s.missCause p) (abandonDomain d s)).placer.moves = [] := by
    rw [hmissed.moves, hplacer]
    exact h.moves
  have hmine : s.procs.filter (fun p => s.domainOf p.node == some d) = [p] := by
    simp [h.procs, State.domainOf, h.node, h.dom]
  have hlate : [p].filter (fun p => p.out.isNone && !p.stopped) = [p] := by simp [hout, hrun]
  have hstopped : [p].filter (·.stopped) = [] := by simp [hrun]
  have hone : ([p.node].eraseDups) = [p.node] := rfl
  simp only [sendDeadline, hmine, hlate, hstopped, List.map_cons, List.map_nil, List.append_nil, hone, each_cons, each_nil]
  rw [← abandonDomain, hnodes]
  dsimp only
  rw [comparePairs_none hpairs, compareOverlaps_none hmoves, List.filterMap_cons_some hnode, List.filterMap_nil, each_cons, each_nil]

theorem sendDeadline_missed (h : s.LoneProc d p n w) (hout : p.out = none) (hrun : p.stopped = false) :
    Missed s (sendDeadline d s) p n w := by
  obtain ⟨q, hq, hqp⟩ := h.of_dutyView (abandonDomain_dutyView d s)
  have hengine : p.engine = q.engine := (congrArg ProcSt.engine hqp :).symm
  have hfs : (q.miss n.outputs).out = (p.miss n.outputs).out := (congrArg (fun u : ProcSt => (u.miss n.outputs).out) hqp :)
  have hcount : q.misses = p.misses := (congrArg ProcSt.misses hqp :)
  obtain ⟨hc, hframes⟩ := missCopy_lone hq hengine (s.missCause p)
  obtain ⟨b, hprocs⟩ := hc.procs
  rw [sendDeadline_lone h hout hrun hc]
  have hunsummed : (missCopy n p (s.missCause p) (abandonDomain d s)).unsummed n.id := by
    rw [State.unsummed, State.nodes, hc.img]
    exact hq.unsummed
  -- the fabric leaves the copies, the counts, the engines and the frames published
  have hfeed := each_feedFabric_feedView [n] hunsummed
  have hprocs' := (congrArg FeedView.procs hfeed :).trans hprocs
  have hplacer := congrArg FeedView.placer hfeed
  have hengines := (congrArg FeedView.engines hfeed :).trans hc.engines
  have hcounted : (abandonDomain d s).placer = s.placer := congrArg DutyView.placer (abandonDomain_dutyView d s)
  refine ⟨(framesAt_of_feedView hfeed w).trans (hframes.trans hfs), ⟨_, hprocs', hfs, congrArg (· + 1) hcount, rfl⟩, ?_, ?_⟩
  · exact (congrArg Placer.misses hplacer :).trans (hcounted ▸ hc.misses)
  · have hgiven := abandonDomain_abandoned h.engineDomain
    have hsame : (each [n] feedFabric (missCopy n p (s.missCause p) (abandonDomain d s))).engine p.engine =
        (abandonDomain d s).engine p.engine := congrArg (fun v : Vector Engine 24 => v.get p.engine) hengines
    exact hsame ▸ hgiven

end Sys2Proof.Machine

open Sys2Proof Sys2Proof.Machine

/-- Settles O24: the engines give up their work (`engineStep_abandonWork`), which keeps the process but for the judgement of its
cycles; its miss publishes the fade (`missCopy_lone`, `miss_frames`); and the fabric leaves what a PROC has published. -/
theorem sendDeadlineReplaces : Obligations.SendDeadline := by
  intro s tb r p n w hr hpow hprocs hpairs hmoves hnode hdom htype hunique hbefore hnew hout hrun hwork y frames
  have hexec : exec (.sendDeadline tb) s = .next (sendDeadline r.dom (sampleInstant r s)) := by
    have hpower : (sampleInstant r s).power = s.power := by rw [sampleInstant_eq]
    have harm : exec (.sendDeadline tb) s = execSendDeadline tb s := rfl
    rw [harm, execSendDeadline, hr]
    dsimp only
    rw [hpower, if_neg (by omega)]
  have hlone : (sampleInstant r s).LoneProc r.dom p n w := by
    rw [sampleInstant_eq]
    exact State.LoneProc.withInstant ⟨hprocs, hpairs, hmoves, hnode, hdom, htype, hunique, hbefore, hnew, hwork⟩ _ _
  obtain ⟨hframes, ⟨q, hq, hqout, hqmisses, hqnow⟩, hmisses, habandoned⟩ := sendDeadline_missed hlone hout hrun
  have hengine : (sampleInstant r s).engine p.engine = s.engine p.engine := by
    rw [State.engine, sampleInstant_eq, State.engine]
  have hplacer : (sampleInstant r s).placer = s.placer := by rw [sampleInstant_eq]
  rw [miss_frames] at hframes hqout
  rw [hplacer] at hmisses
  rw [hengine] at habandoned
  exact ⟨_, hexec, hframes, ⟨q, hq, hqout, hqmisses, hqnow⟩, hmisses, habandoned⟩

end

section
/-! Issuing a word with one access to memory (R153, R173, R192): the word's store, and what a faulting access leaves (R126, R174). -/

namespace Sys2Proof.Machine

open Sys2Proof

variable {s t : State} {e : Fin 24} {n : NodeRec}

/-! ### A word with one move -/

/-- The context of a word that issues, with the loop ends that wait settled. -/
def settled (e : Fin 24) (s : State) : State := s.onEngine e fun g => { g with fg := g.fg.settle }

theorem readState_eq (s : State) (e : Fin 24) (n : NodeRec) : readState s e n = landFlight e n (settled e s) := rfl

theorem issueWord_canIssue (h : CanIssue s e n) (i : Insn) : issueWord e i s = issue e n i s := by
  obtain ⟨hnode, hfree, hhalted, -⟩ := h
  simp [issueWord, hnode, hfree, hhalted]

/-- The program counter of a word that can issue lies in its program. -/
theorem inProgram_of_canIssue (h : CanIssue s e n) :
    ¬ ((s.progOf n).map (fun p => p.code.length)).getD 0 ≤ ((settled e s).engine e).fg.pc := by
  obtain ⟨-, -, -, hpc⟩ := h
  rw [settled, State.onEngine_engine_self]
  exact Nat.not_le.2 hpc

theorem computeAccess_nop (c : Ctx) (q : Ptrs) : computeAccess c q .nop = (none, q) := rfl

theorem moveAccess_nop (c : Ctx) (q : Ptrs) : moveAccess c q .nop = (none, q) := rfl

theorem moveResult_nop (c : Ctx) (as ws : List Word) : moveResult c .nop as ws = Result.none := rfl

theorem computeResult_nop (c : Ctx) (ws : List Word) : computeResult c .nop ws = Result.none := rfl

theorem flowOf_nop (c : Ctx) : flowOf c .nop = .fall := by simp [flowOf, ComputeOp.isControl]

/-- The move forms this access, and these pointers, from the registers as the word reads them. -/
def Forms (s : State) (e : Fin 24) (n : NodeRec) (m : MoveOp) (a : Access) (q : Ptrs) : Prop :=
  moveAccess (readCtx s e n) { p := (readCtx s e n).p, mod := [] } m = (some a, q)

/-- What a faulting access does to the word: an address fault ends the block work, a region fault parks the context. -/
def accessFault (e : Fin 24) (n : NodeRec) (s : State) : AccErr → State
  | .addr win ofs => fatalFault e n 2 win ofs 2 s
  | .region win r ofs => regionFault e n win r ofs s

/-- The access of a lone move decides the word: the slots beside it reach no memory and change no control. -/
theorem issue_fault (h : CanIssue s e n) {m : MoveOp} {a : Access} {q : Ptrs} (hm : Forms s e n m a q) {x : AccErr}
    (hl : (readState s e n).locs e n a = .error x) (one : Bool) :
    issue e n (moveWord m (loneMove one)) s = accessFault e n (settled e s) x := by
  rw [Forms, readCtx, readState_eq] at hm
  rw [readState_eq] at hl
  unfold issue
  dsimp only
  rw [← settled, if_neg (inProgram_of_canIssue h)]
  cases one
  · cases x <;> simp [moveWord, loneMove, computeAccess_nop, flowOf_nop, hm, hl, accessFault]
  · cases x <;> simp [moveWord, loneMove, computeAccess_nop, flowOf_nop, moveAccess_nop, hm, hl, accessFault]

/-- A word with one access waits for no other use of its memory. -/
theorem stallsOf_one (a : Access) (ls : List Loc) : stallsOf [(a, ls)] = if a.vec then vectorStall a.addrs else 0 := by
  have hdup : ∀ (o : Option Nat) (k : Nat), (([o].filterMap id).filter (· == k)).length - 1 = 0 := fun o k => by
    cases o with
    | none => rfl
    | some x => exact Nat.sub_eq_zero_of_le (List.length_filter_le ..)
  have hmem : [(a, ls)].filterMap (fun p : Access × List Loc => (p.2.head?).bind localOf) = [(ls.head?).bind localOf].filterMap id := by
    simp only [List.filterMap]
    rfl
  simp only [stallsOf, hmem, hdup]
  simp

/-- The writes of a word that stores these words at these addresses, visible to the second instruction after it. -/
def storesOf (addrs ws : List Word) : List InFlight := (storeRuns (addrs.zip ws)).map (InFlight.mk 2)

theorem keepFlags_store (r : Result) (hazard : Bool) (l : Nat) (a : Word) (bs : List Byte) :
    keepFlags r hazard { left := l, dest := .store a bs } = { left := l, dest := .store a bs } := rfl

/-- Stores write no flags. -/
theorem map_keepFlags_storesOf (r : Result) (hazard : Bool) (addrs ws : List Word) :
    (storesOf addrs ws).map (keepFlags r hazard) = storesOf addrs ws := by
  simp only [storesOf, storeRuns, List.map_map]
  exact List.map_congr_left fun p _ => keepFlags_store ..

theorem badWord_nil (s : State) (e : Fin 24) (n : NodeRec) : s.badWord e n [] = none := rfl

theorem correctWords_nil (e : Fin 24) (n : NodeRec) (s : State) : correctWords e n [] s = s := rfl

/-- A lone store reads nothing, so that it neither waits nor meets an error of memory: its writes join those in flight. -/
theorem issue_store (h : CanIssue s e n) {m : MoveOp} {a : Access} {q : Ptrs} (hm : Forms s e n m a q) (hstore : a.store = true)
    {ls : List Loc} (hl : (readState s e n).locs e n a = .ok ls) {ws : List Word}
    (hr : ∀ src, moveResult (readCtx s e n) m a.addrs src = { Result.none with writes := storesOf a.addrs ws })
    (hld : ∀ r b, m ≠ .ld r b) (hq : q.mod.eraseDups = q.mod) (one : Bool) :
    issue e n (moveWord m (loneMove one)) s = (readState s e n).onEngine e fun g =>
      { g with fg := ({ readCtx s e n with
          cycles := (readCtx s e n).cycles + 1 + if a.vec then vectorStall a.addrs else 0
          flight := (readCtx s e n).flight ++ pointerWrites q ++ storesOf a.addrs ws, readWait := false }).advance .fall } := by
  rw [Forms, readCtx, readState_eq] at hm
  rw [readState_eq] at hl ⊢
  simp only [readCtx, readState_eq] at hr ⊢
  unfold issue
  dsimp only
  rw [← settled, if_neg (inProgram_of_canIssue h)]
  cases one
  all_goals
    simp [moveWord, loneMove, computeAccess_nop, moveAccess_nop, flowOf_nop, computeResult_nop, moveResult_nop, multiplies, badWord_nil,
      correctWords_nil, stallsOf_one, map_keepFlags_storesOf, pointerWrites, Result.both, Result.none, hm, hl, hstore, hr, hld, hq]
    exact State.onEngine_congr rfl

/-- A word whose slots do nothing: what falls due has landed, a cycle is counted and control goes on. -/
theorem issue_nop (h : CanIssue s e n) : issue e n (computeWord .nop .nop .nop) s = afterFlow s e n (·.advance .fall) := by
  unfold issue
  dsimp only
  rw [← settled, if_neg (inProgram_of_canIssue h), afterFlow, readState_eq]
  simp [computeWord, computeAccess_nop, moveAccess_nop, flowOf_nop, computeResult_nop, moveResult_nop, multiplies, badWord_nil,
    correctWords_nil, stallsOf, Result.both, Result.none]

end Sys2Proof.Machine
end

section
/-! What a fault of an access leaves (R126, R143, R174): the engine's record, the block work that ends, the context that parks. -/

namespace Sys2Proof.Machine

variable {s t : State} {e : Fin 24} {n : NodeRec}

/-! ### The block work that a fault ends (R174) -/

/-- What the end of block work by a fault leaves alone, beside its engine. -/
structure WorkView where
  img : ImgUnit
  engines : Vector Engine 24
  mem : Mem

def State.workView (s : State) : WorkView := { img := s.img, engines := s.engines, mem := s.mem }

theorem raise_workView (code : Nat) (vals : Vals) (s : State) : (raise code vals s).workView = s.workView := by
  rw [raise_eq]
  rfl

theorem raiseIf_workView (b : Bool) (code : Nat) (vals : Vals) (s : State) : (raiseIf b code vals s).workView = s.workView := by
  rw [raiseIf_eq]
  rfl

theorem countMiss_workView (p : ProcSt) (cause : Fin 3) (s : State) : (countMiss p cause s).workView = s.workView := by
  have hraise := raiseIf_workView (p.misses = 0) 0x5008 [] (s.onPlacer fun q =>
    { q with misses := satInc32 q.misses, lastCause := cause, lastNode := BitVec.ofNat 20 p.node })
  unfold countMiss
  dsimp only
  split
  · exact (raise_workView 0x5009 [] _).trans hraise
  · exact hraise

theorem publish_workView (node w : Nat) (fs : List Frame) (s : State) : (publish node w fs s).workView = s.workView := by
  rw [publish_rest]
  rfl

theorem missProc_workView (n : NodeRec) (e : Fin 24) (cause : Fin 3) (s : State) : (missProc n e cause s).workView = s.workView := by
  unfold missProc
  split
  · dsimp only
    generalize (if n.type = .delay then _ else _ : ProcSt) = p'
    split
    · exact (publish_workView ..).trans (countMiss_workView ..)
    · exact countMiss_workView ..
  · rfl

/-- An engine after its block work has ended with so many cycles used. -/
def Engine.charge (g : Engine) (used : Nat) (late : Bool) : Engine :=
  { g with cyclesNow := g.cyclesNow + used, flags := if late then setFlag g.flags 6 else g.flags }

theorem chargeCycles_engine (e : Fin 24) (n : NodeRec) (used : Nat) (s : State) : (chargeCycles e n used s).engine e =
    (s.engine e).charge used (decide (((s.progOf n).map (·.cycles)).getD 0 < used)) := by
  unfold chargeCycles
  rw [raiseIf_engine, State.onProc_engine, State.onEngine_engine_self]
  rfl

theorem chargeCycles_mem (e : Fin 24) (n : NodeRec) (used : Nat) (s : State) : (chargeCycles e n used s).mem = s.mem :=
  congrArg WorkView.mem (raiseIf_workView (s := _) ..)

theorem leaveFg_mem (e : Fin 24) (s : State) : (leaveFg e s).mem = s.mem := rfl

theorem leaveFg_engine (e : Fin 24) (s : State) : (leaveFg e s).engine e =
    (s.engine e).next (if (s.engine e).displaced then Ctx.reset else (s.engine e).bg) :=
  State.onEngine_engine_self ..

/-- Leaving the foreground changes no more than the engine's two contexts. -/
theorem Engine.next_eq (g : Engine) (c : Ctx) : g.next c = { g with fg := (g.next c).fg, bg := c } := by
  unfold Engine.next
  split <;> rfl

/-- An engine in which an access has met this address fault (R152, R174). -/
def Engine.addrFault (g : Engine) (node win ofs : Nat) : Engine :=
  { g with lastKind := 2, lastNode := BitVec.ofNat 20 node, lastWindow := BitVec.ofNat 6 win, lastOfs := BitVec.ofNat 25 ofs
           flags := setFlag g.flags 2 }

/-- An address fault: the record and the sticky flag, the cycles charged, and the engine leaves the process. -/
theorem fatalFault_addr (e : Fin 24) (n : NodeRec) (win ofs : Nat) (s : State) :
    let used := (s.engine e).fg.cycles + 5
    let g := ((s.engine e).addrFault n.id win ofs).charge used (decide (((s.progOf n).map (·.cycles)).getD 0 < used))
    (fatalFault e n 2 win ofs 2 s).mem = s.mem ∧
      (fatalFault e n 2 win ofs 2 s).engine e = g.next (if g.displaced then Ctx.reset else g.bg) := by
  intro used g
  let u := missProc n e 0 (raise 0x6002 [v32 n.id, v8 2, v8 win, v32 ofs]
    ((setFault e 2 n.id win ofs s).onEngine e fun g => { g with flags := setFlag g.flags 2 }))
  have hfault : fatalFault e n 2 win ofs 2 s = leaveFg e (chargeCycles e n used u) := by
    simp [fatalFault, u, used]
  have hview : u.workView = ((setFault e 2 n.id win ofs s).onEngine e fun g => { g with flags := setFlag g.flags 2 }).workView :=
    (missProc_workView ..).trans (raise_workView ..)
  have himg : u.img = s.img := congrArg WorkView.img hview
  have hmem : u.mem = s.mem := congrArg WorkView.mem hview
  have hengine : u.engine e = (s.engine e).addrFault n.id win ofs := by
    have hget : u.engine e = ((setFault e 2 n.id win ofs s).onEngine e fun g => { g with flags := setFlag g.flags 2 }).engine e :=
      congrArg (fun v : WorkView => v.engines.get e) hview
    rw [hget, setFault, State.onEngine_onEngine, State.onEngine_engine_self]
    rfl
  have hprog : u.progOf n = s.progOf n := by rw [State.progOf, himg, State.progOf]
  rw [hfault, leaveFg_mem, leaveFg_engine, chargeCycles_mem, chargeCycles_engine, hengine, hprog]
  exact ⟨hmem, rfl⟩

/-- An engine with no context parked and none displaced in which an access has met this region fault (R126): the context parks. -/
def Engine.regionFault (g : Engine) (node win r ofs : Nat) : Engine :=
  { g with lastKind := 1, lastNode := BitVec.ofNat 20 node, lastWindow := BitVec.ofNat 6 win, lastOfs := BitVec.ofNat 25 ofs
           faults := satInc32 g.faults, parked := some { region := r, offset := ofs, node := node }, bg := g.fg, fg := Ctx.reset }

theorem regionFault_free (hparked : (s.engine e).parked = none) (hbg : (s.engine e).bg.node = none) (win r ofs : Nat) :
    regionFault e n win r ofs s = s.onEngine e (Engine.regionFault · n.id win r ofs) := by
  unfold regionFault setFault
  dsimp only
  rw [State.onEngine_onEngine]
  refine State.onEngine_congr ?_
  simp [hparked, Engine.next, Engine.displaced, hbg, Engine.regionFault]

/-! ### A faulting VLD (R173) -/

theorem settled_engine (e : Fin 24) (s : State) : (settled e s).engine e = { s.engine e with fg := (s.engine e).fg.settle } :=
  State.onEngine_engine_self ..

theorem forms_vld (s : State) (e : Fin 24) (n : NodeRec) (v : Fin 16) (a : Addr) :
    Forms s e n (.vld v a) { addrs := (accessOf (readCtx s e n) a 64 16).1, vec := true, store := false, ld := false }
      (accessOf (readCtx s e n) a 64 16).2 := rfl

theorem exec_vld_fault (h : CanIssue s e n) (v : Fin 16) (a : Addr) (one : Bool) {x : AccErr} (hl : (readState s e n).locs e n
    { addrs := (accessOf (readCtx s e n) a 64 16).1, vec := true, store := false, ld := false } = .error x) :
    exec (.seVld e v a (loneMove one)) s = .next (accessFault e n (settled e s) x) := by
  have hissue := issue_fault h (forms_vld s e n v a) hl one
  rw [← issueWord_canIssue h] at hissue
  exact congrArg Host.Outcome.next hissue

end Sys2Proof.Machine

open Sys2Proof Sys2Proof.Machine

/-- Settles O16: a faulting access decides the whole word (`issue_fault`), which issues nothing. -/
theorem engineFaulting : Obligations.EngineFaulting := by
  intro s e n v a one win ofs r h c access i used late
  refine ⟨fun hl => ?_, fun hl hparked hbg => ?_⟩
  · obtain ⟨hmem, hengine⟩ := fatalFault_addr e n win ofs (settled e s)
    refine ⟨_, exec_vld_fault h v a one hl, hmem, ?_⟩
    rw [settled_engine] at hengine
    rw [accessFault, hengine, Engine.next_eq]
    exact ⟨rfl, rfl, rfl, rfl, rfl, rfl⟩
  · refine ⟨_, exec_vld_fault h v a one hl, ?_⟩
    have hfree := regionFault_free (s := settled e s) (n := n) (by rw [settled_engine]; exact hparked)
      (by rw [settled_engine]; exact hbg) win r ofs
    rw [accessFault, hfree, settled, State.onEngine_onEngine, State.onEngine_engine_self]
    exact ⟨rfl, rfl, rfl, rfl, rfl, rfl, State.onEngine_congr rfl⟩

end

section
/-! Stores as they issue (R156, R192, R197): the runs of a store's words, and the writes that join those in flight. -/

namespace Sys2Proof.Machine

open Sys2Proof

variable {s : State} {e : Fin 24} {n : NodeRec}

/-! ### Runs of consecutive words (R109) -/

/-- A word joins the run before it where it follows it within a page, and else begins a run. -/
def extendRun (acc : List (Word × List Byte)) (p : Word × Word) : List (Word × List Byte) :=
  match acc with
  | (a, bs) :: t =>
    if a.toNat / 4 * 4 + bs.length = p.1.toNat / 4 * 4 ∧ p.1.toNat / 4096 = a.toNat / 4096 then (a, bs ++ leBytes 4 p.2.toNat) :: t
    else (p.1, leBytes 4 p.2.toNat) :: (a, bs) :: t
  | [] => [(p.1, leBytes 4 p.2.toNat)]

theorem storeRuns_eq (ws : List (Word × Word)) :
    storeRuns ws = ((ws.foldl extendRun []).reverse).map fun p => .store p.1 p.2 := rfl

/-- Words that follow a run without leaving its page all join it. -/
theorem foldl_extendRun (a : Word) (ps : List (Word × Word)) (bs : List Byte)
    (hps : ∀ k p, ps[k]? = some p → p.1.toNat / 4 * 4 = a.toNat / 4 * 4 + bs.length + 4 * k)
    (hpage : a.toNat % 4096 / 4 * 4 + bs.length + 4 * ps.length ≤ 4096) :
    ps.foldl extendRun [(a, bs)] = [(a, bs ++ bytesOfWords (ps.map (·.2)))] := by
  induction ps generalizing bs with
  | nil => simp [bytesOfWords]
  | cons p ps ih =>
    have hp := hps 0 p rfl
    rw [List.length_cons] at hpage
    have hjoin : extendRun [(a, bs)] p = [(a, bs ++ leBytes 4 p.2.toNat)] := if_pos ⟨by omega, by omega⟩
    have hlen : (bs ++ leBytes 4 p.2.toNat).length = bs.length + 4 := by rw [List.length_append, length_leBytes]
    rw [List.foldl_cons, hjoin, ih _ (fun k q hq => ?_) (by omega)]
    · simp [bytesOfWords]
    · rw [hps (k + 1) q hq]
      omega

/-- Consecutive words of a page are one run. -/
theorem storeRuns_consecutive {a0 : Word} {xs ws : List Word} (hlen : ws.length = 16) (hhead : xs.head? = some a0)
    (hpage : a0.toNat % 4096 ≤ 4032)
    (hxs : ∀ k, k < 16 → (xs[k]?.map fun x => x.toNat / 4 * 4) = some (a0.toNat / 4 * 4 + 4 * k)) :
    storeRuns (xs.zip ws) = [.store a0 (bytesOfWords ws)] := by
  obtain ⟨xs, rfl⟩ : ∃ l, xs = a0 :: l := by simpa using List.head?_eq_some_iff.1 hhead
  obtain ⟨w, ws, rfl⟩ := List.exists_cons_of_length_eq_add_one hlen
  rw [List.length_cons] at hlen
  have hxslen : 15 ≤ xs.length := by
    obtain ⟨x, hx, -⟩ := Option.map_eq_some_iff.1 (hxs 15 (by decide))
    have hlt := (List.getElem?_eq_some_iff.1 hx).1
    rw [List.length_cons] at hlt
    omega
  have hsnd : (xs.zip ws).map (·.2) = ws := List.map_snd_zip (by omega)
  have hrun := foldl_extendRun a0 (xs.zip ws) (leBytes 4 w.toNat) (fun k p hp => ?_) ?_
  · rw [storeRuns_eq, List.zip_cons_cons, List.foldl_cons, extendRun, hrun, hsnd]
    rfl
  · obtain ⟨hfst, hsnd⟩ := List.getElem?_zip_eq_some.1 hp
    have hk : k < ws.length := (List.getElem?_eq_some_iff.1 hsnd).1
    have hword := hxs (k + 1) (by omega)
    rw [List.getElem?_cons_succ, hfst, Option.map_some, Option.some.injEq] at hword
    rw [length_leBytes, hword]
    omega
  · rw [length_leBytes, List.length_zip]
    omega

/-! ### The stores as lone moves (R192) -/

/-- An access post-modifies its pointer at most once. -/
theorem accessOf_mod (c : Ctx) (a : Addr) (unit words : Nat) :
    (accessOf c a unit words).2.mod.eraseDups = (accessOf c a unit words).2.mod := by
  unfold accessOf formAddr
  cases a.mode <;> rfl

/-- The state after a word that stores: the store's writes join those in flight. -/
def afterStore (s : State) (e : Fin 24) (n : NodeRec) (q : Ptrs) (cost : Nat) (fs : List InFlight) : State :=
  (readState s e n).onEngine e fun g =>
    { g with fg := ({ readCtx s e n with
        cycles := (readCtx s e n).cycles + 1 + cost
        flight := (readCtx s e n).flight ++ pointerWrites q ++ fs, readWait := false }).advance .fall }

theorem issueWord_store (h : CanIssue s e n) {m : MoveOp} {a : Access} {q : Ptrs} (hm : Forms s e n m a q) (hstore : a.store = true)
    {ls : List Loc} (hl : (readState s e n).locs e n a = .ok ls) {ws : List Word}
    (hr : ∀ src, moveResult (readCtx s e n) m a.addrs src = { Result.none with writes := storesOf a.addrs ws })
    (hld : ∀ r b, m ≠ .ld r b) (hq : q.mod.eraseDups = q.mod) (one : Bool) : issueWord e (moveWord m (loneMove one)) s =
      afterStore s e n q (if a.vec then vectorStall a.addrs else 0) (storesOf a.addrs ws) :=
  (issueWord_canIssue h _).trans (issue_store h hm hstore hl hr hld hq one)

theorem exec_vst (h : CanIssue s e n) (v : Fin 16) (a : Addr) (one : Bool) {ls : List Loc}
    (hl : (readState s e n).locs e n
      { addrs := (accessOf (readCtx s e n) a 64 16).1, vec := true, store := true, ld := false } = .ok ls) :
    let x := accessOf (readCtx s e n) a 64 16
    exec (.seVst e v a (loneMove one)) s =
      .next (afterStore s e n x.2 (vectorStall x.1) (storesOf x.1 ((readCtx s e n).v.get v))) :=
  congrArg Host.Outcome.next (issueWord_store h (m := .vst v a) rfl rfl hl (fun _ => rfl) nofun (accessOf_mod ..) one)

theorem exec_vstl (h : CanIssue s e n) (v l : Fin 16) (a : Addr) (one : Bool) {ls : List Loc}
    (hl : (readState s e n).locs e n
      { addrs := (accessOf (readCtx s e n) a 4 1).1, vec := false, store := true, ld := false } = .ok ls) :
    let x := accessOf (readCtx s e n) a 4 1
    exec (.seVstl e v l a (loneMove one)) s =
      .next (afterStore s e n x.2 0 (storesOf x.1 [nth ((readCtx s e n).v.get v) l.val 0])) :=
  congrArg Host.Outcome.next (issueWord_store h (m := .vstl v l a) rfl rfl hl (fun _ => rfl) nofun (accessOf_mod ..) one)

theorem exec_st (h : CanIssue s e n) (r : SReg) (a : Addr) (one : Bool) {ls : List Loc}
    (hl : (readState s e n).locs e n
      { addrs := (accessOf (readCtx s e n) a 4 1).1, vec := false, store := true, ld := false } = .ok ls) :
    let x := accessOf (readCtx s e n) a 4 1
    exec (.seSt e r a (loneMove one)) s = .next (afterStore s e n x.2 0 (storesOf x.1 [(readCtx s e n).sreg r])) :=
  congrArg Host.Outcome.next (issueWord_store h (m := .st r a) rfl rfl hl (fun _ => rfl) nofun (accessOf_mod ..) one)

/-- A store of one word is one run. -/
theorem storesOf_word (a0 w : Word) : storesOf [a0] [w] = [{ left := 2, dest := .store a0 (leBytes 4 w.toNat) }] := rfl

theorem engineStores : Claim.EngineStores := by
  intro s e n one v l r a h u c w stored
  refine ⟨fun ls a0 hl hhead hpage hlen hxs => ?_, fun ls hl => exec_vst h v a one hl, fun x a0 hl ha => ?_⟩
  · have hrun : storesOf (accessOf c a 64 16).1 (c.v.get v) = [{ left := 2, dest := .store a0 (bytesOfWords (c.v.get v)) }] := by
      rw [storesOf, storeRuns_consecutive hlen hhead hpage hxs]
      rfl
    have hexec := exec_vst h v a one hl
    dsimp only at hexec
    rw [hrun] at hexec
    exact hexec
  · have hvstl := exec_vstl h v l a one hl
    have hst := exec_st h r a one hl
    dsimp only at hvstl hst
    rw [ha, storesOf_word] at hvstl hst
    exact ⟨hvstl, hst⟩

end Sys2Proof.Machine
end

section
/-! Stores as they land and shared memory (R112, R142, R153, R197, R604): the bytes of a store, the write buffer, and the wait of
block work that has ended. -/

namespace Sys2Proof.Machine

open Sys2Proof

variable {s : State} {e : Fin 24} {n : NodeRec}

theorem Mem.rising_of_wf {m : Mem} (h : m.wf = true) : m.rising = true := ((Bool.and_eq_true _ _).mp h).1

/-! ### A store lands (R153, R197) -/

theorem Ctx.loopReturn_flight (c : Ctx) : c.loopReturn.flight = c.flight := by
  unfold Ctx.loopReturn
  split
  · rfl
  · dsimp only
    split <;> rfl

theorem Ctx.settle_flight (c : Ctx) : c.settle.flight = c.flight := by
  have hif : ∀ d : Ctx, (if d.atEnd then d.loopReturn else d).flight = d.flight := fun d => by
    split
    · exact Ctx.loopReturn_flight d
    · rfl
  exact (hif _).trans (hif c)

theorem Ctx.advance_fall_flight (c : Ctx) : (c.advance .fall).flight = c.flight := by
  unfold Ctx.advance
  split
  · dsimp only
    split <;> rfl
  · rfl

theorem forwardStore_unseeded (h : s.red.seedSrc ≠ 3) (e : Fin 24) (n : NodeRec) (a : Word) (bs : List Byte) :
    forwardStore e n a bs s = s := by
  have hsrc : (s.red.seedSrc == 3) = false := beq_eq_false_iff_ne.2 h
  simp [forwardStore, hsrc]

/-- The state in which a context's last write in flight lands. -/
def unflown (e : Fin 24) (s : State) : State := s.onEngine e fun g => { g with fg := { g.fg.settle with flight := [] } }

theorem readState_store {a : Word} {bs : List Byte} (h : (s.engine e).fg.flight = [{ left := 1, dest := .store a bs }]) (n : NodeRec) :
    readState s e n = landStore e n a bs (unflown e s) := by
  have hflight : ((settled e s).engine e).fg.flight = [{ left := 1, dest := .store a bs }] := by
    rw [settled_engine, Ctx.settle_flight, h]
  rw [readState_eq, landFlight, hflight, settled]
  simp only [State.onEngine_onEngine]
  rfl

theorem landStore_local {a : Word} {bs : List Byte} {rd x : Nat} (hseed : s.red.seedSrc ≠ 3)
    (h : s.translate e n a true false = .ok (.mem rd [x] false)) :
    landStore e n a bs s = { s with mem := s.mem.putN x bs } := by
  simp [landStore, forwardStore_unseeded hseed, h]

theorem landStore_shared {a : Word} {bs : List Byte} {rd x : Nat} (hseed : s.red.seedSrc ≠ 3)
    (h : s.translate e n a true false = .ok (.mem rd [x] true)) :
    landStore e n a bs s = soil x (bufferWrite e x bs s) := by
  simp [landStore, forwardStore_unseeded hseed, h]

theorem exec_seNop (h : CanIssue s e n) : exec (.seNop e .nop .nop) s = .next (afterFlow s e n (·.advance .fall)) :=
  congrArg Host.Outcome.next ((issueWord_canIssue h _).trans (issue_nop h))

theorem afterFlow_engine (s : State) (e : Fin 24) (n : NodeRec) (f : Ctx → Ctx) : (afterFlow s e n f).engine e =
    { (readState s e n).engine e with
      fg := f { ((readState s e n).engine e).fg with cycles := ((readState s e n).engine e).fg.cycles + 1, readWait := false } } :=
  State.onEngine_engine_self ..

theorem afterFlow_mem (s : State) (e : Fin 24) (n : NodeRec) (f : Ctx → Ctx) : (afterFlow s e n f).mem = (readState s e n).mem := rfl

/-- With room in the write buffer a store enters it. -/
theorem bufferWrite_room (h : (s.engine e).wbuf.length < 8) (hwait : (s.engine e).wbufWait = []) (x : Nat) (bs : List Byte) :
    bufferWrite e x bs s = s.onEngine e fun g => { g with wbuf := g.wbuf ++ [(x, bs)] } :=
  State.onEngine_congr (if_pos ⟨h, hwait⟩)

theorem unflown_engine (e : Fin 24) (s : State) :
    (unflown e s).engine e = { s.engine e with fg := { (s.engine e).fg.settle with flight := [] } } :=
  State.onEngine_engine_self ..

theorem engineStoreLands : Claim.EngineStoreLands := by
  intro s e n a bs rd x h hflight hwf hseed
  have hread := readState_store hflight n
  refine ⟨fun htr => ⟨_, exec_seNop h, ?_⟩, fun htr hroom hwait => ⟨_, exec_seNop h, ?_⟩⟩
  · rw [landStore_local (s := unflown e s) hseed htr] at hread
    have hengine : (readState s e n).engine e = (unflown e s).engine e := by rw [hread]; rfl
    have hmem : (readState s e n).mem = s.mem.putN x bs := by rw [hread]; rfl
    have hrise := Mem.rising_of_wf hwf
    rw [afterFlow_mem, afterFlow_engine, hmem, hengine, unflown_engine]
    exact ⟨Mem.getN_putN x bs hrise, fun y hy => Mem.get_putN_other x bs y hrise hy, Ctx.advance_fall_flight _⟩
  · have hroom' : ((unflown e s).engine e).wbuf.length < 8 := by rw [unflown_engine]; exact hroom
    have hwait' : ((unflown e s).engine e).wbufWait = [] := by rw [unflown_engine]; exact hwait
    rw [landStore_shared (s := unflown e s) hseed htr, bufferWrite_room hroom' hwait'] at hread
    have hengine : (readState s e n).engine e =
        { (unflown e s).engine e with wbuf := ((unflown e s).engine e).wbuf ++ [(x, bs)] } := by
      rw [hread]
      exact State.onEngine_engine_self ..
    have hmem : (readState s e n).mem = s.mem := by rw [hread]; rfl
    rw [afterFlow_mem, afterFlow_engine, hmem, hengine, unflown_engine]
    exact ⟨rfl, rfl, Ctx.advance_fall_flight _⟩

/-! ### The write buffer and reads that return (R142, R153, R604) -/

/-- No block work of the engine has ended, so that none gives up its bank. -/
theorem finishWork_running (hfg : (s.engine e).fg.ended = false) (hbg : (s.engine e).bg.ended = false) : finishWork e s = s := by
  simp [finishWork, hfg, hbg]

theorem completeProc_workView (n : NodeRec) (e : Fin 24) (fs : List Frame) (s : State) : (completeProc n e fs s).workView = s.workView := by
  unfold completeProc
  split
  · dsimp only
    split
    · exact publish_workView ..
    · rfl
  · rfl

/-- Closing block work leaves the engine's contexts. -/
theorem closeWork_contexts (e : Fin 24) (c : Ctx) (s : State) : ((closeWork e c s).engine e).contexts = (s.engine e).contexts := by
  unfold closeWork
  split
  · split
    · rfl
    · next n _ _ =>
      have hsame : (completeProc n e (framesOfWindow c.outFrame n.outputs) s).engine e = s.engine e :=
        congrArg (fun v : WorkView => v.engines.get e) (completeProc_workView ..)
      rw [chargeCycles_contexts, hsame]
  · rfl

/-- The displaced process runs next, or none. -/
theorem Engine.next_fg (g : Engine) (c : Ctx) : (g.next c).fg = if g.displaced then g.bg else Ctx.reset := by
  unfold Engine.next
  split <;> rfl

/-- Block work that has ended and waits for nothing gives up the engine to the process that is displaced. -/
theorem finishWork_next (h : (s.engine e).fg.ended = true) (hwait : (s.engine e).fg.waits = false) :
    ((finishWork e s).engine e).fg = if (s.engine e).displaced then (s.engine e).bg else Ctx.reset := by
  have hfinish : finishWork e s = leaveFg e (closeWork e (s.engine e).fg s) := by simp [finishWork, h, hwait]
  have hctx := closeWork_contexts e (s.engine e).fg s
  simp only [Engine.contexts, Prod.mk.injEq] at hctx
  obtain ⟨-, hbg, hparked, -⟩ := hctx
  rw [hfinish, leaveFg_engine, Engine.next_fg, Engine.displaced, Engine.displaced, hbg, hparked]

/-- The entry of the write buffer that is granted leaves it, and a write that waited enters (R153). -/
def Engine.granted (g : Engine) (rest : List (Nat × List Byte)) (cycles : Nat) : Engine :=
  match g.wbufWait with
  | [] => { g with wbuf := rest }
  | q :: more => { g with
      wbuf := rest ++ [q], wbufWait := more,
      fg := { g.fg with cycles := g.fg.cycles + cycles, storeWait := g.fg.storeWait && !more.isEmpty } }

theorem Engine.granted_idle {g : Engine} (h : g.wbufWait = []) (rest : List (Nat × List Byte)) (cycles : Nat) :
    g.granted rest cycles = { g with wbuf := rest } := by
  simp [Engine.granted, h]

theorem Engine.granted_waiting {g : Engine} {q : Nat × List Byte} {more : List (Nat × List Byte)} (h : g.wbufWait = q :: more)
    (rest : List (Nat × List Byte)) (cycles : Nat) : g.granted rest cycles = { g with
      wbuf := rest ++ [q], wbufWait := more,
      fg := { g.fg with cycles := g.fg.cycles + cycles, storeWait := g.fg.storeWait && !more.isEmpty } } := by
  simp [Engine.granted, h]

/-- A grant ends no block work. -/
theorem Engine.granted_ended (g : Engine) (rest : List (Nat × List Byte)) (cycles : Nat) :
    (g.granted rest cycles).fg.ended = g.fg.ended ∧ (g.granted rest cycles).bg = g.bg := by
  unfold Engine.granted
  split <;> exact ⟨rfl, rfl⟩

theorem drainWrite_running {a : Nat} {bs : List Byte} {rest : List (Nat × List Byte)} (hbuf : (s.engine e).wbuf = (a, bs) :: rest)
    (hmirror : s.mirrorOf a = []) (hfg : (s.engine e).fg.ended = false) (hbg : (s.engine e).bg.ended = false)
    (hstore : (s.engine e).bg.storeWait = false) (cycles : Nat) :
    drainWrite e cycles s = { s with mem := s.mem.putN a bs, engines := upd s.engines e (Engine.granted · rest cycles) } := by
  have hwrites : (a :: if bs.isEmpty then [] else s.mirrorOf a) = [a] := by rw [hmirror, ite_self]
  have hbgsame : { (s.engine e).bg with storeWait := false } = (s.engine e).bg := by rw [← hstore]
  obtain ⟨hgfg, hgbg⟩ := (s.engine e).granted_ended rest cycles
  unfold drainWrite
  rw [hbuf]
  dsimp only
  rw [hwrites, each_cons, each_nil]
  have hgrant : ∀ f : Engine → Engine, f (s.engine e) = (s.engine e).granted rest cycles →
      finishWork e (({ s with mem := s.mem.putN a bs } : State).onEngine e f) =
        { s with mem := s.mem.putN a bs, engines := upd s.engines e (Engine.granted · rest cycles) } := fun f hf => by
    rw [finishWork_running]
    · exact State.onEngine_congr (s := { s with mem := s.mem.putN a bs }) hf
    · rw [State.onEngine_engine_self]
      exact (congrArg (·.fg.ended) hf).trans (hgfg.trans hfg)
    · rw [State.onEngine_engine_self]
      exact (congrArg (·.bg.ended) hf).trans ((congrArg Ctx.ended hgbg).trans hbg)
  refine hgrant _ ?_
  unfold Engine.granted
  cases hw : (s.engine e).wbufWait with
  | nil => rfl
  | cons q more => simp [hstore, hbgsame]

/-- The data of a read return to the context that waits for it alone. -/
theorem readReturn_eq (hread : (s.engine e).fg.readWait = true) (hbg : (s.engine e).bg.readWait = false) (cycles : Nat) :
    readReturn e cycles s = finishWork e (s.onEngine e fun g =>
      { g with fg := { g.fg with readWait := false, cycles := g.fg.cycles + cycles } }) :=
  congrArg (finishWork e) (State.onEngine_congr (by simp [hread, hbg]))

theorem engineSharedMemory : Claim.EngineSharedMemory := by
  intro s e a cycles bs rest g
  refine ⟨fun hbuf hwf hmirror hfg hbg hstore => ?_, fun hread hbgread hfg hbg => ?_, fun hread hbgread hstore hended => ?_⟩
  · have hrise := Mem.rising_of_wf hwf
    have hengine : ({ s with mem := s.mem.putN a bs, engines := upd s.engines e (Engine.granted · rest cycles) } : State).engine e =
        g.granted rest cycles := upd_get_self ..
    refine ⟨_, congrArg Host.Outcome.next (drainWrite_running hbuf hmirror hfg hbg hstore cycles), Mem.getN_putN a bs hrise,
      fun y hy => Mem.get_putN_other a bs y hrise hy, fun hw => ?_, fun q more hw => ?_, ?_⟩
    · rw [hengine, Engine.granted_idle hw]
    · rw [hengine, Engine.granted_waiting hw]
    · rw [hengine]
      exact congrArg (fun v => { s with mem := s.mem.putN a bs, engines := v }) (upd_congr rfl)
  · refine congrArg Host.Outcome.next ((readReturn_eq hread hbgread cycles).trans (finishWork_running ?_ ?_))
    · rw [State.onEngine_engine_self]
      exact hfg
    · rw [State.onEngine_engine_self]
      exact hbg
  · let u := s.onEngine e fun g => { g with fg := { g.fg with readWait := false, cycles := g.fg.cycles + cycles } }
    have hu : u.engine e = { g with fg := { g.fg with readWait := false, cycles := g.fg.cycles + cycles } } :=
      State.onEngine_engine_self ..
    refine ⟨_, congrArg Host.Outcome.next (readReturn_eq hread hbgread cycles), ?_⟩
    rw [finishWork_next (s := u) (by rw [hu]; exact hended) (by rw [hu]; simp [Ctx.waits, hstore]), hu]
    rfl

end Sys2Proof.Machine

open Sys2Proof Sys2Proof.Machine

/-- Settles O15: a lone store only joins the writes in flight (`issue_store`), where consecutive words are one run
(`storeRuns_consecutive`); it lands in memory or in the write buffer, whose oldest entry a grant writes (`drainWrite_running`). -/
theorem engineStoring : Obligations.EngineStoring := ⟨engineStores, engineStoreLands, engineSharedMemory⟩

end

section
/-! Reading and writing the engine's instruction words: what a field reads in a word in which it was written, then the
operands, the slots and the word. -/

namespace Sys2Proof

/-! ## Signed fields -/

theorem immFits_iff {n : Nat} {d : Int} : immFits n d = true ↔ -(2 ^ (n - 1) : Int) ≤ d ∧ d < 2 ^ (n - 1) := by
  simp [immFits]

theorem unsign_lt (n : Nat) (d : Int) : unsign n d < 2 ^ n := by
  have h := Int.emod_lt_of_pos d (b := ((2 ^ n : Nat) : Int)) (by positivity)
  unfold unsign
  omega

/-- A signed field reads as the number that it holds. -/
theorem signOf_unsign {n : Nat} {d : Int} (hn : 0 < n) (h : immFits n d = true) : signOf n (unsign n d) = d := by
  obtain ⟨hlo, hhi⟩ := immFits_iff.mp h
  have hpow : ((2 ^ n : Nat) : Int) = 2 * (2 ^ (n - 1) : Nat) := by
    rw [← Nat.sub_add_cancel hn, Nat.pow_succ, Nat.add_sub_cancel]; push_cast; ring
  simp only [signOf, unsign, hpow]
  norm_cast at hlo hhi
  generalize 2 ^ (n - 1) = half at *
  rcases lt_or_ge d 0 with hneg | hpos
  · have hwrap : d % (2 * half) = d + 2 * half := by
      rw [← Int.add_emod_right, Int.emod_eq_of_lt] <;> omega
    rw [hwrap]
    split <;> omega
  · rw [Int.emod_eq_of_lt hpos (by omega)]
    split <;> omega

/-! ## Registers, conditions and addresses (R182, R184, R187) -/

theorem sregCode_lt (r : SReg) : sregCode r < 64 := by
  cases r <;> simp only [sregCode] <;> omega

theorem sregCode_lt_of_narrow {r : SReg} (h : r.narrow = true) : sregCode r < 32 := by
  cases r <;> simp only [sregCode, SReg.narrow, Bool.false_eq_true] at h ⊢ <;> omega

@[simp] theorem readSReg_sregCode (r : SReg) : readSReg (sregCode r) = some r := by
  cases r with
  | sr => decide
  | _ i => decide +revert

theorem condCode_lt (c : Cond) : condCode c < 4 := by
  cases c <;> decide

@[simp] theorem condOf_condCode (c : Cond) : condOf (condCode c) = c := by
  cases c <;> decide

theorem modeCode_lt (m : AddrMode) : modeCode m < 4 := by
  cases m <;> decide

@[simp] theorem modeOf_modeCode (m : AddrMode) : modeOf (modeCode m) = m := by
  cases m <;> decide

theorem writeAddr_lt (n : Nat) (a : Addr) : writeAddr n a < 2 ^ (n + 5) := by
  have himm := unsign_lt n a.imm
  have hmode := modeCode_lt a.mode
  have hp := a.p.isLt
  simp only [writeAddr, Nat.pow_add]
  nlinarith


/-- A field reads as what stands in its bits, with `x` above it and `y` below it. -/
theorem bitsOf_field {w x f y hi lo : Nat} (hw : w = (x * 2 ^ (hi + 1 - lo) + f) * 2 ^ lo + y)
    (hf : f < 2 ^ (hi + 1 - lo)) (hy : y < 2 ^ lo) : bitsOf w hi lo = f := by
  rw [bitsOf, hw, Nat.add_comm, Nat.add_mul_div_right _ _ (by positivity), Nat.div_eq_of_lt hy, Nat.zero_add,
    Nat.mul_add_mod', Nat.mod_eq_of_lt hf]

theorem Addr.immFits_of_wf {n : Nat} {a : Addr} (h : a.wf n = true) : immFits n a.imm = true := by
  obtain ⟨p, mode, imm⟩ := a
  cases mode with
  | ptr | postMod =>
    obtain rfl : imm = 0 := by simpa [Addr.wf] using h
    simp [immFits]
  | ofs | postImm => exact h

/-- The codes of a well-formed address read as that address: where its mode has no immediate, the field is zero (R202). -/
theorem readAddr_codes {n : Nat} {a : Addr} (hn : 0 < n) (h : a.wf n = true) :
    readAddr n a.p.val (modeCode a.mode) (unsign n a.imm) = some a := by
  have himm := signOf_unsign hn (Addr.immFits_of_wf h)
  obtain ⟨p, mode, imm⟩ := a
  cases mode with
  | ptr | postMod =>
    obtain rfl : imm = 0 := by simpa [Addr.wf] using h
    simp_all [readAddr, modeCode, modeOf, unsign]
  | ofs | postImm => simp_all [readAddr, modeCode, modeOf]

/-- An address in the low bits of a word reads from its three fields, whatever `x` stands above it. -/
theorem readAddr_low {n x w : Nat} {a : Addr} (hn : 0 < n) (h : a.wf n = true) (hw : w = x * 2 ^ (n + 5) + writeAddr n a) :
    readAddr n (bitsOf w (n + 4) (n + 2)) (bitsOf w (n + 1) n) (bitsOf w (n - 1) 0) = some a := by
  have himm := unsign_lt n a.imm
  have hmode := modeCode_lt a.mode
  have hptrWidth : n + 4 + 1 - (n + 2) = 3 := by omega
  have hmodeWidth : n + 1 + 1 - n = 2 := by omega
  have himmWidth : n - 1 + 1 - 0 = n := by omega
  have hp : bitsOf w (n + 4) (n + 2) = a.p.val := by
    refine bitsOf_field (x := x) (y := modeCode a.mode * 2 ^ n + unsign n a.imm) ?_ ?_ ?_
    · rw [hptrWidth, hw, writeAddr]; ring
    · rw [hptrWidth]; exact a.p.isLt
    · rw [Nat.pow_add]; nlinarith
  have hm : bitsOf w (n + 1) n = modeCode a.mode := by
    refine bitsOf_field (x := x * 2 ^ 3 + a.p.val) (y := unsign n a.imm) ?_ ?_ himm
    · rw [hmodeWidth, hw, writeAddr]; ring
    · rwa [hmodeWidth]
  have hi : bitsOf w (n - 1) 0 = unsign n a.imm := by
    refine bitsOf_field (x := x * 2 ^ 5 + a.p.val * 2 ^ 2 + modeCode a.mode) (y := 0) ?_ ?_ (by positivity)
    · rw [himmWidth, hw, writeAddr]; ring
    · rwa [himmWidth]
  rw [hp, hm, hi, readAddr_codes hn h]

/-! ## The compute slot (R187, R188) -/

theorem writeMSrc_lt (s : MSrc) : writeMSrc s < 2 ^ 11 := by
  cases s with
  | reg v =>
    simp only [writeMSrc]
    omega
  | mem a =>
    have := writeAddr_lt 5 a
    simp only [writeMSrc]
    omega

theorem readMSrc_fmtM {s : MSrc} (h : s.wf = true) (op : Nat) (a : Fin 8) (v : Fin 16) :
    readMSrc (fmtM op a v s) = some s := by
  cases s with
  | reg b =>
    have hmem : bitsOf (fmtM op a v (.reg b)) 10 10 = 0 := by simp only [bitsOf, fmtM, writeMSrc]; omega
    have hlow : bitsOf (fmtM op a v (.reg b)) 5 0 = 0 := by simp only [bitsOf, fmtM, writeMSrc]; omega
    have hreg : bitsOf (fmtM op a v (.reg b)) 9 6 = b.val := by simp only [bitsOf, fmtM, writeMSrc]; omega
    simp [readMSrc, hmem, hlow, hreg]
  | mem b =>
    have hb := writeAddr_lt 5 b
    have hmem : bitsOf (fmtM op a v (.mem b)) 10 10 = 1 := by simp only [bitsOf, fmtM, writeMSrc]; omega
    have haddr := readAddr_low (n := 5) (x := op * 2 ^ 8 + a.val * 2 ^ 5 + v.val * 2 + 1) (w := fmtM op a v (.mem b))
      (by decide) h (by simp only [fmtM, writeMSrc]; omega)
    simpa [readMSrc, hmem] using haddr

/-- The fields of format M. -/
theorem fmtM_fields {op : Nat} (hop : op < 64) (a : Fin 8) (v : Fin 16) (s : MSrc) :
    bitsOf (fmtM op a v s) 23 18 = op ∧ bitsOf (fmtM op a v s) 17 15 = a.val ∧ bitsOf (fmtM op a v s) 14 11 = v.val := by
  have := writeMSrc_lt s
  simp only [bitsOf, fmtM]
  omega

/-- The fields of format A, and the runs of bits that its opcodes leave zero. -/
theorem fmtA_fields {op d s : Nat} (hop : op < 64) (hd : d < 8) (hs : s < 8) :
    bitsOf (fmtA op d s) 23 18 = op ∧ bitsOf (fmtA op d s) 17 15 = d ∧ bitsOf (fmtA op d s) 14 12 = s ∧
    bitsOf (fmtA op d s) 11 0 = 0 ∧ bitsOf (fmtA op d s) 14 0 = s * 2 ^ 12 := by
  simp only [bitsOf, fmtA]
  omega

/-- The fields of format V, and the runs of bits that its opcodes leave zero. -/
theorem fmtV_fields {op d a b n : Nat} (hop : op < 64) (hd : d < 16) (ha : a < 16) (hb : b < 16) (hn : n < 32) :
    bitsOf (fmtV op d a b n) 23 18 = op ∧ bitsOf (fmtV op d a b n) 17 14 = d ∧ bitsOf (fmtV op d a b n) 13 10 = a ∧
    bitsOf (fmtV op d a b n) 9 6 = b ∧ bitsOf (fmtV op d a b n) 4 0 = n ∧ bitsOf (fmtV op d a b n) 5 0 = n ∧
    bitsOf (fmtV op d a b n) 9 5 = b * 2 ∧ bitsOf (fmtV op d a b n) 9 0 = b * 2 ^ 6 + n := by
  simp only [bitsOf, fmtV]
  omega

/-- A control slot: opcode, the five bits [17:13] that hold the condition of bc or the counter of loop, and target. -/
def fmtK (op x t : Nat) : Nat := op * 2 ^ 18 + x * 2 ^ 13 + t

theorem writeCompute_br (t : Nat) : writeCompute (.br t) = fmtK 2 0 t := rfl

theorem writeCompute_bc (c : Cond) (t : Nat) : writeCompute (.bc c t) = fmtK 3 (condCode c) t := rfl

theorem writeCompute_call (t : Nat) : writeCompute (.call t) = fmtK 4 0 t := rfl

theorem writeCompute_loop (k : Fin 2) (t : Nat) : writeCompute (.loop k t) = fmtK 6 k.val t := rfl

/-- The fields of format K: a condition leaves bits [17:15] zero. -/
theorem fmtK_fields {op x t : Nat} (hop : op < 64) (hx : x < 4) (ht : t < 8192) :
    bitsOf (fmtK op x t) 23 18 = op ∧ bitsOf (fmtK op x t) 17 13 = x ∧ bitsOf (fmtK op x t) 12 0 = t ∧
    bitsOf (fmtK op x t) 17 15 = 0 ∧ bitsOf (fmtK op x t) 14 13 = x := by
  simp only [bitsOf, fmtK]
  omega

/-- The counter of loop reads from bit 13, and leaves bits [17:14] zero. -/
theorem fmtK_counter {op t : Nat} (k : Fin 2) (ht : t < 8192) :
    bitsOf (fmtK op k.val t) 17 14 = 0 ∧ bitsOf (fmtK op k.val t) 13 13 = k.val := by
  simp only [bitsOf, fmtK]
  omega

theorem readCompute_writeCompute {len pc : Nat} {c : ComputeOp} (h : c.wf len pc = true) :
    readCompute (writeCompute c) = some c := by
  cases c with
  | nop | done | ret => rfl
  | mul a v s | mac a v s | msu a v s =>
    simp [readCompute, writeCompute, fmtM_fields, readMSrc_fmtM h]
  | clr d | aadd d s | asub d s =>
    simp [readCompute, writeCompute, fmtA_fields]
  | vadd d a b | vsub d a b | vmin d a b | vmax d a b | vand d a b | vor d a b | vxor d a b | vsel d a b | vabs d a | vneg d a
  | vshl d a n | vsra d a n | vcmpeq a b | vcmplt a b | vcmple a b =>
    simp [readCompute, writeCompute, fmtV_fields]
  | br t | call t | bc c t =>
    have ht : t < 8192 := by simp_all [ComputeOp.wf]
    simp [readCompute, writeCompute_br, writeCompute_call, writeCompute_bc, fmtK_fields, condCode_lt, ht]
  | loop k t =>
    have ht : t < 8192 := by simp_all [ComputeOp.wf]
    have hk : k.val < 4 := by omega
    simp [readCompute, writeCompute_loop, fmtK_fields, fmtK_counter, hk, ht]

theorem fmtM_lt {op : Nat} (hop : op < 64) (a : Fin 8) (v : Fin 16) (s : MSrc) : fmtM op a v s < 2 ^ 24 := by
  have := writeMSrc_lt s
  simp only [fmtM]
  omega

theorem fmtA_lt {op d s : Nat} (hop : op < 64) (hd : d < 8) (hs : s < 8) : fmtA op d s < 2 ^ 24 := by
  simp only [fmtA]
  omega

theorem fmtV_lt {op d a b n : Nat} (hop : op < 64) (hd : d < 16) (ha : a < 16) (hb : b < 16) (hn : n < 32) :
    fmtV op d a b n < 2 ^ 24 := by
  simp only [fmtV]
  omega

theorem fmtK_lt {op x t : Nat} (hop : op < 64) (hx : x < 4) (ht : t < 8192) : fmtK op x t < 2 ^ 24 := by
  simp only [fmtK]
  omega

theorem writeCompute_lt {len pc : Nat} {c : ComputeOp} (h : c.wf len pc = true) : writeCompute c < 2 ^ 24 := by
  cases c with
  | nop | done | ret => decide
  | mul a v s | mac a v s | msu a v s => exact fmtM_lt (by decide) a v s
  | clr d | aadd d s | asub d s => exact fmtA_lt (by decide) (by omega) (by omega)
  | vadd d a b | vsub d a b | vmin d a b | vmax d a b | vand d a b | vor d a b | vxor d a b | vsel d a b | vabs d a | vneg d a
  | vshl d a n | vsra d a n | vcmpeq a b | vcmplt a b | vcmple a b =>
    exact fmtV_lt (by decide) (by omega) (by omega) (by omega) (by omega)
  | br t | call t | bc c t =>
    have ht : t < 8192 := by simp_all [ComputeOp.wf]
    simp only [writeCompute_br, writeCompute_call, writeCompute_bc]
    exact fmtK_lt (by decide) (by simp [condCode_lt]) ht
  | loop k t =>
    have ht : t < 8192 := by simp_all [ComputeOp.wf]
    rw [writeCompute_loop]
    exact fmtK_lt (by decide) (by omega) ht

/-! ## Move slots (R192) -/

/-- A move slot of vld, vst or vbc. -/
def fmtVector (op : Nat) (v : Fin 16) (a : Addr) : Nat := op * 2 ^ 16 + v.val * 2 ^ 12 + writeAddr 7 a

/-- A move slot of vldl or vstl. -/
def fmtLane (op : Nat) (v l : Fin 16) (a : Addr) : Nat :=
  op * 2 ^ 16 + v.val * 2 ^ 12 + l.val * 2 ^ 8 + writeAddr 3 a

/-- A move slot of ld or st. -/
def fmtScalar (op : Nat) (r : SReg) (a : Addr) : Nat := op * 2 ^ 16 + sregCode r * 2 ^ 10 + writeAddr 5 a

theorem writeMove_vld (v : Fin 16) (a : Addr) : writeMove (.vld v a) = fmtVector 1 v a := rfl

theorem writeMove_vst (v : Fin 16) (a : Addr) : writeMove (.vst v a) = fmtVector 2 v a := rfl

theorem writeMove_vbc (v : Fin 16) (a : Addr) : writeMove (.vbc v a) = fmtVector 3 v a := rfl

theorem writeMove_vldl (v l : Fin 16) (a : Addr) : writeMove (.vldl v l a) = fmtLane 4 v l a := rfl

theorem writeMove_vstl (v l : Fin 16) (a : Addr) : writeMove (.vstl v l a) = fmtLane 5 v l a := rfl

theorem writeMove_ld (r : SReg) (a : Addr) : writeMove (.ld r a) = fmtScalar 6 r a := rfl

theorem writeMove_st (r : SReg) (a : Addr) : writeMove (.st r a) = fmtScalar 7 r a := rfl

theorem fmtVector_fields {op : Nat} {v : Fin 16} {a : Addr} (h : a.wf 7 = true) (hop : op < 16) :
    bitsOf (fmtVector op v a) 19 16 = op ∧ bitsOf (fmtVector op v a) 15 12 = v.val ∧
    readAddr 7 (bitsOf (fmtVector op v a) 11 9) (bitsOf (fmtVector op v a) 8 7) (bitsOf (fmtVector op v a) 6 0) = some a := by
  have ha := writeAddr_lt 7 a
  have haddr := readAddr_low (n := 7) (x := op * 2 ^ 4 + v.val) (w := fmtVector op v a) (by decide) h
    (by simp only [fmtVector]; omega)
  refine ⟨?_, ?_, haddr⟩ <;> simp only [bitsOf, fmtVector] <;> omega

theorem fmtLane_fields {op : Nat} {v l : Fin 16} {a : Addr} (h : a.wf 3 = true) (hop : op < 16) :
    bitsOf (fmtLane op v l a) 19 16 = op ∧ bitsOf (fmtLane op v l a) 15 12 = v.val ∧ bitsOf (fmtLane op v l a) 11 8 = l.val ∧
    readAddr 3 (bitsOf (fmtLane op v l a) 7 5) (bitsOf (fmtLane op v l a) 4 3) (bitsOf (fmtLane op v l a) 2 0) = some a := by
  have ha := writeAddr_lt 3 a
  have haddr := readAddr_low (n := 3) (x := op * 2 ^ 8 + v.val * 2 ^ 4 + l.val) (w := fmtLane op v l a) (by decide) h
    (by simp only [fmtLane]; omega)
  refine ⟨?_, ?_, ?_, haddr⟩ <;> simp only [bitsOf, fmtLane] <;> omega

theorem fmtScalar_fields {op : Nat} {r : SReg} {a : Addr} (h : a.wf 5 = true) (hop : op < 16) :
    bitsOf (fmtScalar op r a) 19 16 = op ∧ bitsOf (fmtScalar op r a) 15 10 = sregCode r ∧
    readAddr 5 (bitsOf (fmtScalar op r a) 9 7) (bitsOf (fmtScalar op r a) 6 5) (bitsOf (fmtScalar op r a) 4 0) = some a := by
  have ha := writeAddr_lt 5 a
  have hr := sregCode_lt r
  have haddr := readAddr_low (n := 5) (x := op * 2 ^ 6 + sregCode r) (w := fmtScalar op r a) (by decide) h
    (by simp only [fmtScalar]; omega)
  refine ⟨?_, ?_, haddr⟩ <;> simp only [bitsOf, fmtScalar] <;> omega

theorem readMove_mova (v : Fin 16) (a : Fin 8) {s : Shift} (h : s.wf = true) :
    readMove (writeMove (.mova v a s)) = some (.mova v a s) := by
  generalize hw : writeMove (.mova v a s) = w
  cases s with
  | imm d =>
    obtain ⟨hlo, hhi⟩ : -16 ≤ d ∧ d ≤ 63 := by simpa [Shift.wf] using h
    have hd : signOf 7 (unsign 7 d) = d := signOf_unsign (by decide) (immFits_iff.mpr (by omega))
    have hlt := unsign_lt 7 d
    rw [writeMove] at hw
    have hfields : bitsOf w 19 16 = 8 ∧ bitsOf w 15 12 = v.val ∧ bitsOf w 11 9 = a.val ∧ bitsOf w 8 8 = 0 ∧
        bitsOf w 7 7 = 0 ∧ bitsOf w 6 0 = unsign 7 d := by
      simp only [bitsOf]
      omega
    simp [readMove, hfields, hd, hlo]
  | mod k =>
    rw [writeMove] at hw
    have hfields : bitsOf w 19 16 = 8 ∧ bitsOf w 15 12 = v.val ∧ bitsOf w 11 9 = a.val ∧ bitsOf w 8 8 = 1 ∧
        bitsOf w 7 7 = 0 ∧ bitsOf w 6 3 = 0 ∧ bitsOf w 2 0 = k.val := by
      simp only [bitsOf]
      omega
    simp [readMove, hfields]

theorem readMove_ldi {r : SReg} (hr : r.narrow = true) (k : Fin 8) {imm : Int} (h : immFits 8 imm = true) :
    readMove (writeMove (.ldi r k imm)) = some (.ldi r k imm) := by
  generalize hw : writeMove (.ldi r k imm) = w
  rw [writeMove] at hw
  have hcode := sregCode_lt_of_narrow hr
  have hlt := unsign_lt 8 imm
  have hfields : bitsOf w 19 16 = 9 ∧ bitsOf w 15 11 = sregCode r ∧ bitsOf w 10 8 = k.val ∧
      bitsOf w 7 0 = unsign 8 imm := by
    simp only [bitsOf]
    omega
  simp [readMove, hfields, signOf_unsign, h]

theorem readMove_lda {r : SReg} (hr : r.narrow = true) (win : Fin 64) (ofs : Fin 32) :
    readMove (writeMove (.lda r win ofs)) = some (.lda r win ofs) := by
  generalize hw : writeMove (.lda r win ofs) = w
  rw [writeMove] at hw
  have hcode := sregCode_lt_of_narrow hr
  have hfields : bitsOf w 19 16 = 10 ∧ bitsOf w 15 11 = sregCode r ∧ bitsOf w 10 5 = win.val ∧ bitsOf w 4 0 = ofs.val := by
    simp only [bitsOf]
    omega
  simp [readMove, hfields]

theorem readMove_mov (d x : SReg) : readMove (writeMove (.mov d x)) = some (.mov d x) := by
  generalize hw : writeMove (.mov d x) = w
  rw [writeMove] at hw
  have hd := sregCode_lt d
  have hx := sregCode_lt x
  have hfields : bitsOf w 19 16 = 11 ∧ bitsOf w 15 10 = sregCode d ∧ bitsOf w 9 4 = sregCode x ∧ bitsOf w 3 0 = 0 := by
    simp only [bitsOf]
    omega
  simp [readMove, hfields]

theorem readMove_vmov (d x : Fin 16) : readMove (writeMove (.vmov d x)) = some (.vmov d x) := by
  generalize hw : writeMove (.vmov d x) = w
  rw [writeMove] at hw
  have hfields : bitsOf w 19 16 = 12 ∧ bitsOf w 15 12 = d.val ∧ bitsOf w 11 8 = x.val ∧ bitsOf w 7 0 = 0 := by
    simp only [bitsOf]
    omega
  simp [readMove, hfields]

theorem readMove_mvta (a : Fin 8) (v : Fin 16) (s : Fin 64) : readMove (writeMove (.mvta a v s)) = some (.mvta a v s) := by
  generalize hw : writeMove (.mvta a v s) = w
  rw [writeMove] at hw
  have hfields : bitsOf w 19 16 = 13 ∧ bitsOf w 15 13 = a.val ∧ bitsOf w 12 9 = v.val ∧ bitsOf w 8 6 = 0 ∧
      bitsOf w 5 0 = s.val := by
    simp only [bitsOf]
    omega
  simp [readMove, hfields]

theorem readMove_ldc (c : Fin 2) (imm : BitVec 15) : readMove (writeMove (.ldc c imm)) = some (.ldc c imm) := by
  generalize hw : writeMove (.ldc c imm) = w
  rw [writeMove] at hw
  have hfields : bitsOf w 19 16 = 14 ∧ bitsOf w 15 15 = c.val ∧ bitsOf w 14 0 = imm.toNat := by
    simp only [bitsOf]
    omega
  simp [readMove, hfields]

theorem readMove_adv {p : Fin 8} {b : AdvBy} (h : (MoveOp.adv p b).wf = true) :
    readMove (writeMove (.adv p b)) = some (.adv p b) := by
  generalize hw : writeMove (.adv p b) = w
  cases b with
  | imm d =>
    have hd : signOf 12 (unsign 12 d) = d := signOf_unsign (by decide) h
    have hlt := unsign_lt 12 d
    rw [writeMove] at hw
    have hfields : bitsOf w 19 16 = 15 ∧ bitsOf w 15 13 = p.val ∧ bitsOf w 12 12 = 0 ∧ bitsOf w 11 0 = unsign 12 d := by
      simp only [bitsOf]
      omega
    simp [readMove, hfields, hd]
  | mod =>
    rw [writeMove] at hw
    have hfields : bitsOf w 19 16 = 15 ∧ bitsOf w 15 13 = p.val ∧ bitsOf w 12 12 = 1 ∧ bitsOf w 11 0 = 0 := by
      simp only [bitsOf]
      omega
    simp [readMove, hfields]

theorem readMove_writeMove {m : MoveOp} (h : m.wf = true) : readMove (writeMove m) = some m := by
  cases m with
  | nop => rfl
  | vld v a | vst v a | vbc v a =>
    simp [readMove, writeMove_vld, writeMove_vst, writeMove_vbc, fmtVector_fields h]
  | vldl v l a | vstl v l a => simp [readMove, writeMove_vldl, writeMove_vstl, fmtLane_fields h]
  | ld r a | st r a => simp [readMove, writeMove_ld, writeMove_st, fmtScalar_fields h]
  | mova v a s => exact readMove_mova v a h
  | ldi r k imm =>
    obtain ⟨hr, himm⟩ : r.narrow = true ∧ immFits 8 imm = true := by simpa [MoveOp.wf] using h
    exact readMove_ldi hr k himm
  | lda r win ofs => exact readMove_lda h win ofs
  | mov d x => exact readMove_mov d x
  | vmov d x => exact readMove_vmov d x
  | mvta a v s => exact readMove_mvta a v s
  | ldc c imm => exact readMove_ldc c imm
  | adv p b => exact readMove_adv h

theorem writeMove_lt {m : MoveOp} (h : m.wf = true) : writeMove m < 2 ^ 20 := by
  cases m with
  | nop => decide
  | vld v a | vst v a | vbc v a =>
    have := writeAddr_lt 7 a
    simp only [writeMove]
    omega
  | vldl v l a | vstl v l a =>
    have := writeAddr_lt 3 a
    simp only [writeMove]
    omega
  | ld r a | st r a =>
    have := writeAddr_lt 5 a
    have := sregCode_lt r
    simp only [writeMove]
    omega
  | mova v a s =>
    cases s with
    | imm d => have := unsign_lt 7 d; simp only [writeMove]; omega
    | mod k => simp only [writeMove]; omega
  | ldi r k imm =>
    obtain ⟨hr, -⟩ : r.narrow = true ∧ immFits 8 imm = true := by simpa [MoveOp.wf] using h
    have := sregCode_lt_of_narrow hr
    have := unsign_lt 8 imm
    simp only [writeMove]
    omega
  | lda r win ofs =>
    have := sregCode_lt_of_narrow h
    simp only [writeMove]
    omega
  | mov d x =>
    have := sregCode_lt d
    have := sregCode_lt x
    simp only [writeMove]
    omega
  | vmov d x | mvta a v s | ldc c imm => simp only [writeMove]; omega
  | adv p b =>
    cases b with
    | imm d => have := unsign_lt 12 d; simp only [writeMove]; omega
    | mod => simp only [writeMove]; omega

/-! ## The word (R179) -/

theorem toNat_writeWord {i : Insn} (hc : writeCompute i.c < 2 ^ 24) (h0 : writeMove i.m0 < 2 ^ 20)
    (h1 : writeMove i.m1 < 2 ^ 20) :
    (writeWord i).toNat = writeCompute i.c * 2 ^ 40 + writeMove i.m0 * 2 ^ 20 + writeMove i.m1 := by
  rw [writeWord, BitVec.toNat_ofNat]
  exact Nat.mod_eq_of_lt (by omega)

/-- A written word holds its three slots in their bits. -/
theorem writeWord_slots {i : Insn} (hc : writeCompute i.c < 2 ^ 24) (h0 : writeMove i.m0 < 2 ^ 20)
    (h1 : writeMove i.m1 < 2 ^ 20) : (writeWord i).toNat / 2 ^ 40 = writeCompute i.c ∧
      bitsOf (writeWord i).toNat 39 20 = writeMove i.m0 ∧ bitsOf (writeWord i).toNat 19 0 = writeMove i.m1 := by
  rw [toNat_writeWord hc h0 h1]
  simp only [bitsOf]
  omega

theorem readWord_writeWord {len pc : Nat} {i : Insn} (hc : i.c.wf len pc = true) (h0 : i.m0.wf = true) (h1 : i.m1.wf = true) :
    readWord (writeWord i) = some i := by
  obtain ⟨hslot, hslot0, hslot1⟩ := writeWord_slots (writeCompute_lt hc) (writeMove_lt h0) (writeMove_lt h1)
  rw [readWord, hslot, hslot0, hslot1, readCompute_writeCompute hc, readMove_writeMove h0, readMove_writeMove h1]

end Sys2Proof

open Sys2Proof

/-- Settles O5: the three slots stand in their bits of the word (`writeWord_slots`), and each reads back from its fields
(`readCompute_writeCompute`, `readMove_writeMove`); the pairing rules play no part. -/
theorem wordRoundTrip : Obligations.WordRoundTrip := by
  intro len pc i h
  obtain ⟨⟨⟨hc, h0⟩, h1⟩, -⟩ : ((i.c.wf len pc = true ∧ i.m0.wf = true) ∧ i.m1.wf = true) ∧ i.pairs = true := by
    simpa [Insn.wf] using h
  exact readWord_writeWord hc h0 h1

/-- Settles O6, by reading each of the seven words. -/
theorem wordsRead : Obligations.WordsRead := by
  unfold Obligations.WordsRead
  decide

end

section
/-! Rounding to nearest, and the coefficient of a send (R213, R597). -/

namespace Sys2Proof.Machine

/-- The rounded quotient lies within one half of the exact one (rne of R597). -/
theorem rne_nearest (num : Int) {den : Nat} (hden : 0 < den) :
    -den ≤ 2 * (den * rne num den - num) ∧ 2 * (den * rne num den - num) ≤ den := by
  have hdiv : den * (num / den) + num % den = num := Int.mul_ediv_add_emod num den
  have hlo : 0 ≤ num % den := Int.emod_nonneg num (by omega)
  have hhi : num % den < den := Int.emod_lt_of_pos num (by omega)
  have hceil : (den : Int) * (num / den + 1) = den * (num / den) + den := by ring
  unfold rne
  dsimp only
  split_ifs <;> omega

/-- Rounding does not leave a range whose ends are whole (R597). -/
theorem rne_between {num lo hi : Int} {den : Nat} (hden : 0 < den) (hlo : lo * den ≤ num) (hhi : num ≤ hi * den) :
    lo ≤ rne num den ∧ rne num den ≤ hi := by
  have hpos : (0 : Int) < den := by omega
  obtain ⟨hbelow, habove⟩ := rne_nearest num hden
  constructor
  · by_contra hlt
    have := mul_le_mul_of_nonneg_left (show rne num den + 1 ≤ lo by omega) hpos.le
    linarith
  · by_contra hlt
    have := mul_le_mul_of_nonneg_left (show hi + 1 ≤ rne num den by omega) hpos.le
    linarith

theorem sendCoeff_eq (x : SendSt) (i : Nat) :
    sendCoeff x i = x.cStart.toInt + rne ((x.cEnd.toInt - x.cStart.toInt) * ((i : Int) + 1)) 8 := rfl

/-- No coefficient of a block lies outside the send's two ends. -/
theorem sendCoeff_between (x : SendSt) {i : Nat} (hi : i < 8) :
    min x.cStart.toInt x.cEnd.toInt ≤ sendCoeff x i ∧ sendCoeff x i ≤ max x.cStart.toInt x.cEnd.toInt := by
  rw [sendCoeff_eq]
  generalize x.cStart.toInt = a
  generalize x.cEnd.toInt = b
  have hi0 : (0 : Int) < (i : Int) + 1 := by omega
  have hi8 : (i : Int) + 1 ≤ 8 := by omega
  rcases le_total a b with hab | hab
  · have hrange := rne_between (lo := 0) (hi := b - a) (num := (b - a) * ((i : Int) + 1)) (den := 8) (by omega)
      (by nlinarith) (by push_cast; nlinarith)
    omega
  · have hrange := rne_between (lo := b - a) (hi := 0) (num := (b - a) * ((i : Int) + 1)) (den := 8) (by omega)
      (by push_cast; nlinarith) (by nlinarith)
    omega

/-- The last coefficient of a block is the end exactly. -/
theorem sendCoeff_last (x : SendSt) : sendCoeff x 7 = x.cEnd.toInt := by
  have hd := rne_between (lo := x.cEnd.toInt - x.cStart.toInt) (hi := x.cEnd.toInt - x.cStart.toInt)
    (num := (x.cEnd.toInt - x.cStart.toInt) * (((7 : Nat) : Int) + 1)) (den := 8) (by omega) (by omega) (by omega)
  rw [sendCoeff_eq]
  omega

end Sys2Proof.Machine

open Sys2Proof Sys2Proof.Machine

/-- Settles O60: rounding stays within one half of the exact quotient (`rne_nearest`) and between whole ends (`rne_between`). -/
theorem sendInterpolation : Obligations.SendInterpolation := by
  intro x
  refine ⟨fun i hi => ⟨sendCoeff_eq x i, ?_, sendCoeff_between x hi⟩, sendCoeff_last x⟩
  rw [sendCoeff_eq, add_sub_cancel_left]
  generalize (x.cEnd.toInt - x.cStart.toInt) * ((i : Int) + 1) = num
  have hnear := rne_nearest num (den := 8) (by omega)
  have habs : |8 * rne num 8 - num| ≤ 4 := abs_le.2 (by omega)
  omega

end

section
/-! The bound of a LIMIT node (R220, R221). -/

namespace Sys2Proof.Machine

/-- Looking ahead only lowers a gain. -/
theorem limitLook_le (g0 : Nat) (r : List Nat) (i : Nat) : limitLook g0 r i ≤ r.getD i 0 :=
  List.foldlRecOn (motive := fun lim => lim ≤ r.getD i 0) (List.range 8) _ le_rfl fun lim hlim j _ => by
    split
    · exact (min_le_left _ _).trans hlim
    · exact hlim

/-- Whatever the gain before and the release, no gain exceeds the one that brings its sample to the threshold. -/
theorem limitGains_le (g0 kq : Nat) (r : List Nat) (k i gp j : Nat) : (limitGains g0 kq r k i gp).getD j 0 ≤ r.getD (i + j) 0 := by
  induction k generalizing i gp j with
  | zero => exact Nat.zero_le _
  | succ k ih =>
    cases j with
    | zero => exact (min_le_left _ _).trans (limitLook_le g0 r i)
    | succ j =>
      rw [← Nat.add_assoc, Nat.add_right_comm]
      exact ih (i + 1) _ j

/-- The gain that brings a sample to the threshold, times the sample, is at most the threshold. -/
theorem mul_limitR_le {thr g : Nat} {x : Word} (hg : g ≤ limitR thr x) : x.toInt.natAbs * g ≤ thr * 2147483648 := by
  unfold limitR at hg
  split at hg
  · calc x.toInt.natAbs * g ≤ x.toInt.natAbs * (thr * 2147483648 / x.toInt.natAbs) := Nat.mul_le_mul_left _ hg
      _ ≤ thr * 2147483648 := Nat.mul_div_le _ _
  · exact Nat.mul_le_mul (by omega) hg

/-- A sample under such a gain leaves within the threshold, which is a word, so that its own word is exact. -/
theorem limitOut_abs_le {thr g : Nat} {x : Word} (hthr : thr ≤ 2 ^ 31 - 1) (hg : g ≤ limitR thr x) :
    |(limitOut x g).toInt| ≤ thr := by
  have habs : (truncDiv (x.toInt * g) 2147483648).natAbs ≤ thr := by
    rw [truncDiv, Int.natAbs_tdiv, Int.natAbs_mul]
    exact Nat.div_le_of_le_mul (by simpa [mul_comm] using mul_limitR_le hg)
  rw [limitOut, BitVec.toInt_ofInt_eq_self (by decide) (by omega) (by omega), Int.abs_eq_natAbs]
  exact_mod_cast habs

end Sys2Proof.Machine

open Sys2Proof Sys2Proof.Machine

/-- Settles O26: every gain of the block is at most that of its own sample (`limitGains_le`), under which the sample leaves
within the threshold (`limitOut_abs_le`). -/
theorem limitNeverExceeds : Obligations.LimitNeverExceeds := by
  intro thr kq x l _ hthr y hy
  obtain ⟨i, hi, rfl⟩ := List.mem_map.1 hy
  have hr : ((List.range 8).map fun j => limitR thr (nth x j 0)).getD (0 + i) 0 = limitR thr (nth x i 0) := by
    have hi8 : i < 8 := List.mem_range.1 hi
    simp [hi8]
  exact limitOut_abs_le hthr (hr ▸ limitGains_le l.gLast kq _ 8 0 l.gLast i)

end

section
/-! The SUMs of the fabric (R209, R211, R219): what a release, a completion and an overrun leave, and what a source frame adds. -/

namespace Sys2Proof.Machine

variable {s : State} {n : NodeRec} {w : Nat}

/-! ### Releasing a SUM that no LIMIT node reads -/

theorem releaseSum_unread (h : s.limitsOf n.id = []) (w : Nat) (f : Frame) : releaseSum n w f s = publish n.id w [f] s := by
  rw [releaseSum, h, each_nil]

theorem setMisses_framesAt (node k id w : Nat) (s : State) : (setMisses node k s).framesAt id w = s.framesAt id w :=
  framesAt_of_feedView (setMisses_feedView node k s) w

theorem State.sumMisses_eq (s : State) (node : Nat) : s.sumMisses node = ((s.outOf node).map (·.misses)).getD 0 := rfl

/-- The count of a node that has published is the one set. -/
theorem setMisses_sumMisses {node : Nat} {fs : List Frame} (h : s.framesAt node w = some fs) (k : Nat) :
    (setMisses node k s).sumMisses node = k := by
  rw [State.framesAt_eq] at h
  obtain ⟨o, ho, -⟩ := Option.bind_eq_some_iff.1 h
  rw [State.outOf] at ho
  have hnode : (o.node == node) = true := List.find?_some (p := fun o : NodeOut => o.node == node) ho
  rw [State.sumMisses_eq, State.outOf, setMisses, find?_mapIf_node]
  · rw [ho, Option.map_some, if_pos hnode]
    rfl
  · exact fun _ => rfl

/-- A frame that leaves with a count of misses. -/
def releaseWith (node w : Nat) (f : Frame) (k : Nat) (s : State) : State := setMisses node k (publish node w [f] s)

theorem releaseWith_framesAt (node w : Nat) (f : Frame) (k : Nat) (s : State) :
    (releaseWith node w f k s).framesAt node w = some [f] := by
  rw [releaseWith, setMisses_framesAt, framesAt_publish]

theorem releaseWith_sumMisses (node w : Nat) (f : Frame) (k : Nat) (s : State) : (releaseWith node w f k s).sumMisses node = k :=
  setMisses_sumMisses (framesAt_publish ..) k

theorem releaseWith_rest (node w : Nat) (f : Frame) (k : Nat) (s : State) :
    releaseWith node w f k s = { s with outs := (releaseWith node w f k s).outs } := by
  rw [releaseWith, setMisses, publish_rest]

/-! ### Completing a SUM -/

theorem satOver_iff (v : Int) : satOver v = true ↔ v < -2 ^ 31 ∨ 2 ^ 31 ≤ v := by
  rw [satOver, Bool.or_eq_true, decide_eq_true_eq, decide_eq_true_eq, maxWord, minWord]
  omega

/-- A SUM's output saturates where a sample of it leaves the range of a word (R211). -/
theorem narrow_saturates_iff (acc : List Int) : (narrow acc).2 = true ↔
    ∃ i, i < 8 ∧ (rne (acc.getD i 0) (2 ^ 27) < -2 ^ 31 ∨ 2 ^ 31 ≤ rne (acc.getD i 0) (2 ^ 27)) := by
  simp only [narrow, List.any_eq_true, List.mem_range, satOver_iff]
  norm_num

/-- The fabric notes a saturated SUM: its bit, and the lowest SUM of the interval (R211). -/
def Fabric.saturate (b : Fabric) (node k : Nat) : Fabric :=
  { b with sumSat := updN b.sumSat (k / 32) (fun v => setFlag v (k % 32)), satNow := some (min node (b.satNow.getD node)) }

theorem getLsbD_setFlag {n : Nat} (f : BitVec n) {i : Nat} (hi : i < n) : (setFlag f i).getLsbD i = true := by
  rw [setFlag, BitVec.getLsbD_or, BitVec.getLsbD_ofNat, Nat.testBit_two_pow_self, decide_eq_true hi, Bool.and_true, Bool.or_true]

theorem Fabric.saturate_bit (b : Fabric) (node : Nat) {k : Nat} (hk : k < 1024) :
    (getN (b.saturate node k).sumSat (k / 32) 0).getLsbD (k % 32) = true := by
  have hword : k / 32 < 32 := by omega
  have hbit : k % 32 < 32 := by omega
  have hget : getN (b.saturate node k).sumSat (k / 32) 0 = setFlag (b.sumSat.get ⟨k / 32, hword⟩) (k % 32) := by
    simp [Fabric.saturate, getN, updN, hword, Vector.get_eq_getElem]
  rw [hget, getLsbD_setFlag _ hbit]

/-- A SUM of the fabric is done for the interval. -/
def Fabric.finishSum (b : Fabric) (node : Nat) : Fabric :=
  { b with sums := mapIf (fun q => q.node == node) (fun q => { q with done := true }) b.sums }

/-- What a completed SUM makes of the fabric. -/
def State.completedFabric (s : State) (node : Nat) (acc : List Int) : Fabric :=
  let b := s.fabric.finishSum node
  if (narrow acc).2 then b.saturate node (s.sumIndex node) else b

theorem State.completedFabric_of_over {acc : List Int}
    (h : ∃ i, i < 8 ∧ (rne (acc.getD i 0) (2 ^ 27) < -2 ^ 31 ∨ 2 ^ 31 ≤ rne (acc.getD i 0) (2 ^ 27))) (node : Nat) :
    s.completedFabric node acc = (s.fabric.finishSum node).saturate node (s.sumIndex node) :=
  if_pos ((narrow_saturates_iff acc).2 h)

theorem State.completedFabric_of_fits {acc : List Int}
    (h : ∀ i, i < 8 → -2 ^ 31 ≤ rne (acc.getD i 0) (2 ^ 27) ∧ rne (acc.getD i 0) (2 ^ 27) < 2 ^ 31) (node : Nat) :
    s.completedFabric node acc = s.fabric.finishSum node := by
  refine if_neg fun hover => ?_
  obtain ⟨i, hi, hout⟩ := (narrow_saturates_iff acc).1 hover
  have := h i hi
  omega

/-- A complete SUM leaves narrowed, faded in after a miss, and its misses end (R209, R219). -/
theorem completeSum_unread (h : s.limitsOf n.id = []) (x : SumSt) (w : Nat) :
    completeSum n x w s = releaseWith n.id w
      (if 0 < s.sumMisses n.id then (List.range 8).map (fun i => scale (nth (narrow x.acc).1 i 0) (i + 1 : Nat) 8)
        else (narrow x.acc).1) 0
      { s with fabric := s.completedFabric n.id x.acc } := by
  unfold completeSum State.completedFabric
  dsimp only
  cases (narrow x.acc).2
  · exact congrArg (setMisses n.id 0) (releaseSum_unread (s := s.onSum n.id _) h w _)
  · exact congrArg (setMisses n.id 0) (releaseSum_unread (s := (s.onSum n.id _).onFabric _) h w _)

/-- A SUM that has missed no block leaves as it is narrowed. -/
theorem completeSum_steady (h : s.limitsOf n.id = []) (hmisses : s.sumMisses n.id = 0) (x : SumSt) (w : Nat) :
    completeSum n x w s = releaseWith n.id w (narrow x.acc).1 0 { s with fabric := s.completedFabric n.id x.acc } := by
  rw [completeSum_unread h, if_neg (by omega)]

/-! ### A source frame -/

theorem readCoeffs_unspilled {k : Nat} (h : aget s.fabric.spilled k = none) : readCoeffs k s = (s.sendSt k, s) := by
  rw [readCoeffs, h]

/-- A SUM that takes a block of one source through one send. -/
def SumSt.take (x : SumSt) (e : Nat × Nat) (c : SendSt) (f : Frame) : SumSt :=
  { x with acc := addProducts c f x.acc, got := e :: x.got }

theorem addToSum_one {e : Nat × Nat} {sum k : NodeRec} {x : SumSt} {fs : List Frame} (hx : s.sumSt? sum.id = some x)
    (hw : workIdx (s.ivl sum) sum = some w) (hdone : x.done = false) (hnew : e ∉ x.got) (hfs : s.framesAt e.1 w = some fs)
    (hone : (s.sendsOf sum.id).filter (fun n => n.inputs.contains e) = [k]) (hmem : aget s.fabric.spilled k.id = none) :
    let x' := x.take e (s.sendSt k.id) (nth fs e.2 silence)
    let t := s.onSum sum.id fun _ => x'
    addToSum e sum s = if ∀ n ∈ s.sendsOf sum.id, ∀ i ∈ n.inputs, i ∈ x'.got then completeSum sum x' w t else t := by
  have hframe : s.edgeFrame e w = nth fs e.2 silence := by rw [State.edgeFrame, State.frameAt, hfs, Option.getD_some]
  have hgo : (x.done || x.got.contains e || (s.framesAt e.1 w).isNone) = false := by simp [hdone, hnew, hfs]
  unfold addToSum
  simp only [hx, hw, hgo, hone, List.foldl_cons, List.foldl_nil, readCoeffs_unspilled hmem, hframe, Bool.false_eq_true, if_false]
  refine if_congr ?_ rfl rfl
  simp [SumSt.take]

/-- An update of one SUM that keeps its node leaves the numbering of the SUMs. -/
theorem onSum_sumIndex {node : Nat} {f : SumSt → SumSt} (hf : ∀ y, (f y).node = node) (id : Nat) :
    (s.onSum node f).sumIndex id = s.sumIndex id := by
  have hkey : ((fun y : SumSt => y.node == id) ∘ fun y => if y.node == node then f y else y) = fun y => y.node == id :=
    funext fun y => by
      dsimp only [Function.comp]
      split
      · next hy => rw [hf, eq_of_beq hy]
      · rfl
  rw [State.sumIndex, State.onSum, State.onFabric_fabric, mapIf, List.findIdx?_map, hkey, State.sumIndex]

theorem State.sumSt?_node {node : Nat} {x : SumSt} (h : s.sumSt? node = some x) : x.node = node :=
  eq_of_beq (List.find?_some (p := fun y : SumSt => y.node == node) h)

end Sys2Proof.Machine

open Sys2Proof Sys2Proof.Machine

/-- The SUM takes the exact products (`addToSum_one`); with its last source it leaves narrowed (`completeSum_unread`), and the
fabric notes a saturation (`Fabric.saturate`). -/
theorem fabricSum : Claim.FabricSum := by
  intro s node out sum k x w fs hsum hx hw hdone hnew hfs hone hmem c sample acc x' all
  have hexec : exec (.fabricSourceFrame node out) s = .next (addToSum (node, out) sum s) := by
    have harm : exec (.fabricSourceFrame node out) s = execFabricSourceFrame node out s := rfl
    rw [harm, execFabricSourceFrame, sourceFrame, hsum, each_cons, each_nil]
  have hadd : addToSum (node, out) sum s =
      if all then completeSum sum x' w (s.onSum sum.id fun _ => x') else s.onSum sum.id fun _ => x' :=
    addToSum_one hx hw hdone hnew hfs hone hmem
  refine ⟨fun hall => by rw [hexec, hadd, if_neg hall], fun hall hlimits hmisses => ?_⟩
  intro y
  have hnode : x.node = sum.id := State.sumSt?_node hx
  have hindex : (s.onSum sum.id fun _ => x').sumIndex sum.id = s.sumIndex sum.id :=
    onSum_sumIndex (f := fun _ => x') (fun _ => hnode) sum.id
  have hcomplete : addToSum (node, out) sum s = releaseWith sum.id w (narrow acc).1 0
      { s with fabric := (s.onSum sum.id fun _ => x').completedFabric sum.id acc } := by
    rw [hadd, if_pos hall, completeSum_steady (s := s.onSum sum.id fun _ => x') hlimits hmisses]
    rfl
  have hfabric : (addToSum (node, out) sum s).fabric = (s.onSum sum.id fun _ => x').completedFabric sum.id acc := by
    rw [hcomplete, releaseWith_rest]
  refine ⟨_, hexec, ?_, fun hover hk => ?_, fun hover => ?_, fun hfits => ?_, ?_⟩
  · rw [hcomplete, releaseWith_framesAt]
    rfl
  · rw [hfabric, State.completedFabric_of_over hover, hindex]
    exact Fabric.saturate_bit _ _ hk
  · rw [hfabric, State.completedFabric_of_over hover]
    rfl
  · rw [hfabric, State.completedFabric_of_fits hfits]
    exact ⟨rfl, rfl⟩
  · rw [hcomplete, releaseWith_rest]

end

section
/-! Fabric completion (R127, R209, R219): what closes the SUMs of a domain, and what its end of interval leaves alone. -/

namespace Sys2Proof.Machine

variable {s : State} {n : NodeRec} {w : Nat}

/-! ### A SUM that is not complete -/

/-- The substitute of a missed block, sample by sample: the first fades, further ones are silent (R127). -/
theorem substitute_eq_map (k : Nat) (y : Word) : substitute k y =
    (List.range 8).map fun (i : Nat) => if k = 0 then BitVec.ofInt 32 (rne ((7 - (i : Int)) * y.toInt) 8) else 0 := by
  unfold substitute
  split
  · refine List.map_congr_left fun i hi => ?_
    have hi8 : i < 8 := List.mem_range.1 hi
    exact scale_eighths y (by omega) (by omega)
  · rfl

/-- A SUM that overruns leaves its substitute, and the miss and the overrun are counted (R219). -/
theorem overrunSum_unread (h : s.limitsOf n.id = []) (w : Nat) :
    let y := ((s.outs.find? fun o => o.node == n.id).map fun o => nth o.last 0 0).getD 0
    let t := overrunSum n w s
    t.framesAt n.id w = some [substitute (s.sumMisses n.id) y] ∧ t.sumMisses n.id = s.sumMisses n.id + 1 ∧
      t.fabric.overruns = satInc32 s.fabric.overruns := by
  intro y t
  have ht : t = { releaseWith n.id w (substitute (s.sumMisses n.id) y) (s.sumMisses n.id + 1)
      ((s.onSum n.id fun q => { q with done := true }).onFabric fun b =>
        { b with overruns := satInc32 b.overruns, overNow := true }) with ao := t.ao, evt := t.evt } := by
    simp only [t, overrunSum]
    rw [raiseIf_eq, releaseSum_unread (by exact h)]
    rfl
  rw [ht]
  refine ⟨releaseWith_framesAt .., releaseWith_sumMisses .., ?_⟩
  rw [releaseWith_rest]
  rfl

/-! ### A SUM with no sends -/

/-- An empty accumulator leaves as silence, whatever was missed before it (R209). -/
theorem completeSum_silent (h : s.limitsOf n.id = []) {x : SumSt} (hacc : x.acc = List.replicate 8 0) (w : Nat) :
    (completeSum n x w s).framesAt n.id w = some [silence] ∧ (completeSum n x w s).fabric.overruns = s.fabric.overruns := by
  have hnarrow : narrow x.acc = (silence, false) := by rw [hacc]; decide
  have hfade : (List.range 8).map (fun i => scale (nth silence i 0) (i + 1 : Nat) 8) = silence := by decide
  rw [completeSum_unread h, releaseWith_framesAt, hnarrow, hfade, ite_self, releaseWith_rest, State.completedFabric, hnarrow]
  exact ⟨rfl, rfl⟩

/-! ### The end of the interval -/

/-- Only the redundancy of the unit and its lanes differ. -/
def State.RedOnly (s t : State) : Prop := t = { s with red := t.red }

theorem State.RedOnly.refl (s : State) : s.RedOnly s := rfl

theorem State.RedOnly.trans {s t u : State} (h : s.RedOnly t) (h' : t.RedOnly u) : s.RedOnly u := by
  rw [State.RedOnly] at h h' ⊢
  rw [h', h]

theorem State.redOnly_onRed (s : State) (f : Red → Red) : s.RedOnly (s.onRed f) := rfl

theorem sendLink_redOnly (l : Fin 4) (s : State) : s.RedOnly (sendLink l s) := by
  unfold sendLink
  dsimp only
  split <;> rfl

theorem seedGains_redOnly (s : State) : s.RedOnly (seedGains s) := by
  unfold seedGains seedSend
  split
  · dsimp only
    split <;> rfl
  · rfl

/-- When an interval's data are final, its digest and health are noted and sent (R449, R450). -/
theorem unitFinal_redOnly (d : Fin 4) (s : State) : s.RedOnly (unitFinal d s) := by
  have hlanes : s.RedOnly (each (s.lanesOf d) sendLink s) :=
    each_keeps s.RedOnly _ _ (fun l _ t ht => ht.trans (sendLink_redOnly l t)) s (.refl s)
  have hsent : ∀ (c : Prop) [Decidable c] (m : LinkOut) (t : State), t.RedOnly (if c then lanesSend t.groupLanes m t else t) :=
    fun c _ m t => by
      split
      · exact lanesSend_eq ..
      · rfl
  unfold unitFinal
  dsimp only
  refine hlanes.trans ?_
  generalize each (s.lanesOf d) sendLink s = u
  have hhealth : u.RedOnly (if u.unitDom = some d then u.onRed fun r => { r with unitHealth := u.unitHealth } else u) := by
    split <;> rfl
  refine hhealth.trans ?_
  generalize (if u.unitDom = some d then _ else u : State) = v
  split
  · exact (State.redOnly_onRed ..).trans ((hsent ..).trans (seedGains_redOnly _))
  · exact .refl _

/-- The completion of a domain with one SUM closes that SUM, and measures when. -/
theorem closeFabric_single {d : Fin 4} (h : s.nodes.filter (fun n => n.type == .sum && n.domain == d) = [n]) :
    ∃ finish finishMax, closeFabric d s = { closeSum n s with
      free := (closeSum n s).free + 1
      fabric := { (closeSum n s).fabric with finish := finish, finishMax := finishMax } } := by
  unfold closeFabric
  rw [h]
  exact ⟨_, _, rfl⟩

/-- What a completed domain has published and counted is what closing its one SUM leaves. -/
theorem fabricCompletion_single {tb : Fin 4} {r : DomainRec} (hr : s.domOfTb tb = some r) (hup : 3 ≤ s.power.state.val)
    (h : s.nodes.filter (fun n => n.type == .sum && n.domain == r.dom) = [n]) :
    ∃ t, exec (.fabricCompletion tb) s = .next t ∧ t.outs = (closeSum n s).outs ∧
      t.fabric.overruns = (closeSum n s).fabric.overruns := by
  have harm : exec (.fabricCompletion tb) s = execFabricCompletion tb s := rfl
  obtain ⟨finish, finishMax, hclose⟩ := closeFabric_single h
  refine ⟨unitFinal r.dom (closeFabric r.dom s), ?_, ?_, ?_⟩
  · simp only [harm, execFabricCompletion, hr, if_neg (Nat.not_lt.2 hup)]
  · rw [unitFinal_redOnly r.dom (closeFabric r.dom s), hclose]
  · rw [unitFinal_redOnly r.dom (closeFabric r.dom s), hclose]

theorem closeSum_open {x : SumSt} (hx : s.sumSt? n.id = some x) (hw : workIdx (s.ivl n) n = some w) (hdone : x.done = false) :
    closeSum n s = if (s.sendsOf n.id).isEmpty then completeSum n x w s else overrunSum n w s := by
  simp [closeSum, hx, hw, hdone]

end Sys2Proof.Machine

open Sys2Proof Sys2Proof.Machine

/-- A SUM with sends overruns (`overrunSum_unread`), and one without leaves silence (`completeSum_silent`). -/
theorem fabricCompletion : Claim.FabricCompletion := by
  intro s tb r n x w hr hup hone hx hw hdone hlimits y
  obtain ⟨t, hexec, houts, hover⟩ := fabricCompletion_single hr hup hone
  have hclose := closeSum_open hx hw hdone
  have hframes : t.framesAt n.id w = (closeSum n s).framesAt n.id w := by rw [State.framesAt, houts, State.framesAt]
  have hmisses : t.sumMisses n.id = (closeSum n s).sumMisses n.id := by rw [State.sumMisses, houts, State.sumMisses]
  refine ⟨fun hsends => ⟨t, hexec, ?_⟩, fun hsends hacc => ⟨t, hexec, ?_⟩⟩
  · have hcast : (do let a ← List.range 8; pure (a : Int)) = (List.range 8).map (Nat.cast : Nat → Int) := bind_pure_comp ..
    rw [if_neg (by simpa using hsends)] at hclose
    rw [hframes, hmisses, hover, hclose, hcast, List.map_map]
    obtain ⟨hsub, hcount⟩ := overrunSum_unread hlimits w
    exact ⟨hsub.trans (congrArg (fun f => some [f]) (substitute_eq_map ..)), hcount⟩
  · rw [if_pos (by simpa using hsends)] at hclose
    rw [hframes, hover, hclose]
    exact completeSum_silent hlimits hacc w

/-- Settles O25, by its two claims: on a source frame, and on fabric completion. -/
theorem summingFabric : Obligations.SummingFabric := ⟨fabricSum, fabricCompletion⟩

end

section
/-! Linear ramps, and the timed ends of transitions and detectors (R229, R235, R242, R253). -/

namespace Sys2Proof.Machine

/-! ### Linear ramps -/

/-- A whole quotient is rounded to itself. -/
theorem rne_mul_self (v : Int) {den : Nat} (hden : 0 < den) : rne (v * den) den = v := by
  obtain ⟨hlo, hhi⟩ := rne_between hden (le_refl (v * den)) le_rfl
  exact le_antisymm hhi hlo

/-- A linear ramp is the rounded line between its endpoints up to its last block, which the line reaches exactly. -/
theorem rampValue_linear (v0 v1 : Int) {k n : Nat} (hn : 0 < n) (hk : k ≤ n) :
    rampValue v0 v1 k n false = v0 + rne ((v1 - v0) * k) n := by
  rcases Nat.eq_or_lt_of_le hk with rfl | hlt
  · rw [rne_mul_self _ hn, rampValue, if_pos le_rfl]
    omega
  · simp [rampValue, Nat.not_le.2 hlt]

/-- The rounded line between two values leaves neither. -/
theorem rne_line_between (a b : Int) {k n : Nat} (hn : 0 < n) (hk : k ≤ n) :
    min a b ≤ a + rne ((b - a) * k) n ∧ a + rne ((b - a) * k) n ≤ max a b := by
  have hkn : (k : Int) ≤ n := by omega
  have hk0 : (0 : Int) ≤ k := by omega
  rcases le_total a b with hab | hab
  · have hrange := rne_between (lo := 0) (hi := b - a) (num := (b - a) * k) hn (by nlinarith) (by nlinarith)
    omega
  · have hrange := rne_between (lo := b - a) (hi := 0) (num := (b - a) * k) hn (by nlinarith) (by nlinarith)
    omega

/-- A parameter in a linear ramp of n blocks, at the end of its k-th. -/
def ParamSt.rampedTo (q : ParamSt) (v0 : Word) (n k : Nat) : ParamSt :=
  { q with trans := .ramp v0 k n false, value := BitVec.ofInt 32 (rampValue v0.toInt q.target.toInt k n false) }

theorem ParamSt.advance_iterate {q : ParamSt} {v0 : Word} {n : Nat} (hq : q.trans = .ramp v0 0 n false) (k : Nat) :
    (ParamSt.advance false)^[k + 1] q = q.rampedTo v0 n (k + 1) := by
  induction k with
  | zero => simp [ParamSt.advance, ParamSt.rampedTo, hq]
  | succ k ih => rw [Function.iterate_succ_apply', ih]; rfl

theorem ParamSt.rampedTo_toInt (q : ParamSt) (v0 : Word) {n k : Nat} (hn : 0 < n) (hk : k ≤ n) :
    (q.rampedTo v0 n k).value.toInt = v0.toInt + rne ((q.target.toInt - v0.toInt) * k) n := by
  have hbetween := rne_line_between v0.toInt q.target.toInt hn hk
  have hlo := v0.le_toInt
  have hhi := v0.toInt_lt
  have hlo' := q.target.le_toInt
  have hhi' := q.target.toInt_lt
  rw [ParamSt.rampedTo, rampValue_linear _ _ hn hk]
  exact BitVec.toInt_ofInt_eq_self (by decide) (by omega) (by omega)

/-- Block n of a ramp gives exactly its target. -/
theorem ParamSt.rampedTo_last (q : ParamSt) (v0 : Word) (n : Nat) : (q.rampedTo v0 n n).value = q.target := by
  simp [ParamSt.rampedTo, rampValue]

/-! ### Updates of one parameter and of one node -/

@[simp] theorem length_mapIf {α : Type} (p : α → Bool) (f : α → α) (l : List α) : (mapIf p f l).length = l.length :=
  List.length_map _

theorem getElem?_mapIf {α : Type} {p : α → Bool} {l : List α} {i : Nat} {a : α} (h : l[i]? = some a) (f : α → α) :
    (mapIf p f l)[i]? = some (if p a then f a else a) := by
  rw [mapIf, List.getElem?_map, h, Option.map_some]

theorem State.onParam_rest (s : State) (p : PAddr) (f : ParamSt → ParamSt) :
    s.onParam p f = { s with scene := { s.scene with params := (s.onParam p f).scene.params } } := rfl

theorem State.onParam_length (s : State) (p : PAddr) (f : ParamSt → ParamSt) :
    (s.onParam p f).scene.params.length = s.scene.params.length := length_mapIf ..

theorem State.onParam_self {s : State} {i : Nat} {q : ParamSt} (h : s.scene.params[i]? = some q) (f : ParamSt → ParamSt) :
    (s.onParam q.decl.paddr f).scene.params[i]? = some (f q) :=
  (getElem?_mapIf h f).trans (by rw [if_pos (beq_self_eq_true _)])

theorem State.onParam_other {s : State} {i : Nat} {q : ParamSt} (h : s.scene.params[i]? = some q) {p : PAddr}
    (hp : q.decl.paddr ≠ p) (f : ParamSt → ParamSt) : (s.onParam p f).scene.params[i]? = some q :=
  (getElem?_mapIf h f).trans (by rw [if_neg (by simpa using hp)])

theorem State.onNode_self {s : State} {i : Nat} {q : ProcSt} (h : s.procs[i]? = some q) (f : ProcSt → ProcSt) :
    (s.onNode q.node f).procs[i]? = some (f q) :=
  (getElem?_mapIf h f).trans (by rw [if_pos (beq_self_eq_true _)])

theorem State.onNode_other {s : State} {i : Nat} {q : ProcSt} (h : s.procs[i]? = some q) {node : Nat}
    (hn : q.node ≠ node) (f : ProcSt → ProcSt) : (s.onNode node f).procs[i]? = some q :=
  (getElem?_mapIf h f).trans (by rw [if_neg (by simpa using hn)])

/-! ### Timed ends -/

variable {s : State} {node : Nat}

theorem ProcSt.settleFade_done {q : ProcSt} {f : Fade} (hf : q.fade = some f) (hdone : f.n ≤ f.c) :
    q.settleFade = { q with sel := f.inn, fade := none } := by
  simp [ProcSt.settleFade, hf, hdone]

/-- Hold silent blocks of any copy of a DETECT node put it in SILENT, and the change is noted (R253, R255). -/
theorem enterSilent_held {n : NodeRec} {q : ProcSt} (hn : s.node? node = some n) (htype : n.type = .detect) (hq : q ∈ s.procs)
    (hnode : q.node = node) (hsilent : q.silent = false) (hhold : (s.pval n 2).toNat ≤ q.silentRun) :
    enterSilent node s = (s.onNode node fun x => { x with silent := true }).onEvt fun v =>
      { v with detChanges := v.detChanges ++ [(node, true)] } := by
  have hany : (s.procs.any fun p => p.node == node && !p.silent && decide ((s.pval n 2).toNat ≤ p.silentRun)) = true :=
    List.any_eq_true.2 ⟨q, hq, by simp [hnode, hsilent, hhold]⟩
  simp [enterSilent, hn, htype, hany]

end Sys2Proof.Machine

open Sys2Proof Sys2Proof.Machine

/-- After k blocks the parameter is `rampedTo` k. -/
theorem rampBlocks : Claim.RampBlocks := by
  intro q v0 n k hq hk hkn x v1
  have hx : x = q.rampedTo v0 n k := by
    obtain ⟨j, rfl⟩ : ∃ j, k = j + 1 := ⟨k - 1, by omega⟩
    exact ParamSt.advance_iterate hq j
  have hvalue : x.value.toInt = v0.toInt + rne ((v1.toInt - v0.toInt) * k) n := hx ▸ q.rampedTo_toInt v0 (by omega) hkn
  have hbetween := rne_line_between v0.toInt v1.toInt (by omega) hkn
  refine ⟨hvalue, hvalue ▸ hbetween.1, hvalue ▸ hbetween.2, by rw [hx]; rfl, ?_⟩
  rintro rfl
  have hlast : x.value = v1 := hx ▸ q.rampedTo_last v0 k
  have henter : x.enter = { x with start := x.value, trans := .steady } := by
    rw [hx]
    simp [ParamSt.enter, ParamSt.rampedTo]
  exact ⟨hlast, by rw [henter], by rw [henter, ← hlast], by rw [henter, ← hlast]⟩

theorem timedEnds : Claim.TimedEnds := by
  intro s p node
  refine ⟨⟨rampDone p s, rfl, s.onParam_rest .., s.onParam_length .., fun i q hq => ⟨?_, fun hp => State.onParam_other hq hp _⟩⟩,
    ⟨zcTimeout p s, rfl, s.onParam_rest .., s.onParam_length .., fun i q hq => ⟨?_, fun hp => State.onParam_other hq hp _⟩⟩,
    ⟨s.onNode node ProcSt.settleFade, rfl, rfl, length_mapIf .., fun i q hq => ⟨?_, fun hn => State.onNode_other hq hn _⟩⟩,
    fun n q hn htype hq hnode hsilent hhold => congrArg Host.Outcome.next (enterSilent_held hn htype hq hnode hsilent hhold)⟩
  case refine_1 =>
    rintro v0 k n law rfl htrans hdone
    rw [rampDone, State.onParam_self hq]
    simp [htrans, hdone]
  case refine_2 =>
    rintro v left rfl htrans hleft
    refine ⟨_, State.onParam_self hq _, ?_, ?_⟩
    · simp [htrans, hleft]
    · simp [htrans, hleft, ParamSt.enter]
  case refine_3 =>
    rintro f rfl hf hdone
    rw [State.onNode_self hq, ProcSt.settleFade_done hf hdone]

/-- Settles O27, by its two claims: on the blocks of a linear ramp, and on the timed ends. -/
theorem transitions : Obligations.Transitions := ⟨rampBlocks, timedEnds⟩

end

section
/-! Meter records, and the control of their ring (R249 to R251, R600). -/

namespace Sys2Proof.Machine

/-! ### Entries in slot order -/

theorem insertSlot_perm (e : Nat × Int × Int × Nat) (l : List (Nat × Int × Int × Nat)) : (insertSlot e l).Perm (e :: l) := by
  induction l with
  | nil => exact .refl _
  | cons h t ih =>
    unfold insertSlot
    split
    · exact .refl _
    · exact (ih.cons h).trans (.swap ..)

theorem map_insertSlot (e : Nat × Int × Int × Nat) (l : List (Nat × Int × Int × Nat)) :
    (insertSlot e l).map (·.1) = (l.map (·.1)).orderedInsert (· ≤ ·) e.1 := by
  induction l with
  | nil => rfl
  | cons h t ih =>
    rw [insertSlot, apply_ite (List.map _), List.map_cons, List.map_cons, List.map_cons, List.orderedInsert_cons, ih]

theorem foldl_insertSlot_perm (es l : List (Nat × Int × Int × Nat)) :
    (es.foldl (fun l e => insertSlot e l) l).Perm (es ++ l) := by
  induction es generalizing l with
  | nil => exact .refl _
  | cons e es ih => exact (ih _).trans (((insertSlot_perm e l).append_left es).trans List.perm_middle)

theorem foldl_insertSlot_sorted (es : List (Nat × Int × Int × Nat)) {l : List (Nat × Int × Int × Nat)}
    (hl : (l.map (·.1)).Pairwise (· ≤ ·)) : ((es.foldl (fun l e => insertSlot e l) l).map (·.1)).Pairwise (· ≤ ·) := by
  induction es generalizing l with
  | nil => exact hl
  | cons e es ih => exact ih (map_insertSlot e l ▸ hl.orderedInsert e.1 _)

/-! ### The period whose record is due (R251) -/

variable {s : State} {d : Fin 4} {b : BitVec 48} {ms : List (NodeRec × List MeterVal)}

/-- Every node has processed the period that ends with a block. -/
def finished (ms : List (NodeRec × List MeterVal)) (b : BitVec 48) : Bool := ms.all fun m => m.2.any fun v => v.block == b

theorem finished_of_find {val : NodeRec × List MeterVal → MeterVal}
    (h : ∀ m ∈ ms, m.2.find? (fun x => x.block == b) = some (val m)) : finished ms b = true :=
  List.all_eq_true.2 fun m hm => List.any_eq_true.2 (List.find?_isSome.1 (by rw [h m hm]; rfl))

theorem finished_eq_false {m : NodeRec × List MeterVal} (hm : m ∈ ms) (h : ∀ x ∈ m.2, x.block ≠ b) : finished ms b = false :=
  List.all_eq_false.2 ⟨m, hm, by simpa using h⟩

/-- Periods that some other node has not finished are passed over. -/
theorem periodDone_cons_none {n : NodeRec} {vs : List MeterVal} {rest : List (NodeRec × List MeterVal)}
    (h : ∀ u ∈ vs, ∃ m ∈ rest, ∀ x ∈ m.2, x.block ≠ u.block) : periodDone ((n, vs) :: rest) = none := by
  refine List.find?_eq_none.2 fun c hc => ?_
  obtain ⟨u, hu, rfl⟩ := List.mem_map.1 hc
  obtain ⟨m, hm, hne⟩ := h u hu
  exact Bool.eq_false_iff.1 (finished_eq_false (List.mem_cons_of_mem _ hm) hne)

/-- The oldest period that every node has finished comes before all later ones. -/
theorem periodDone_cons_some {n : NodeRec} {early late : List MeterVal} {v : MeterVal} {rest : List (NodeRec × List MeterVal)}
    (hearly : ∀ u ∈ early, ∃ m ∈ rest, ∀ x ∈ m.2, x.block ≠ u.block)
    (hdone : finished ((n, early ++ v :: late) :: rest) v.block = true) :
    periodDone ((n, early ++ v :: late) :: rest) = some v.block := by
  show ((early ++ v :: late).map (·.block)).find? (finished ((n, early ++ v :: late) :: rest)) = _
  rw [List.map_append, List.map_cons, List.find?_append, List.find?_cons_of_pos hdone]
  have hnone : (early.map (·.block)).find? (finished ((n, early ++ v :: late) :: rest)) = none := by
    refine List.find?_eq_none.2 fun c hc => ?_
    obtain ⟨u, hu, rfl⟩ := List.mem_map.1 hc
    obtain ⟨m, hm, hne⟩ := hearly u hu
    exact Bool.eq_false_iff.1 (finished_eq_false (List.mem_cons_of_mem _ hm) hne)
  rw [hnone, Option.none_or]

/-- The last block of the period whose record a domain is to have. -/
def State.periodDue (s : State) (d : Fin 4) : Option (BitVec 48) :=
  if (s.meters d).isEmpty then s.periodBlock d else periodDone (s.meters d)

/-! ### The record (R249, R250) -/

/-- The values that the METER nodes of a domain have for a period, with their slots. -/
def State.periodVals (s : State) (d : Fin 4) (b : BitVec 48) : List (Nat × MeterVal) :=
  (s.meters d).filterMap fun m => (m.2.find? fun v => v.block == b).map fun v => (m.1.bodyRef, v)

def meterEntry (v : Nat × MeterVal) : Nat × Int × Int × Nat := (v.1, v.2.peak, v.2.rms, v.2.flags)

/-- The record of a period. -/
def State.periodRec (s : State) (d : Fin 4) (b : BitVec 48) : MeterRec :=
  { dom := d, block := b, seq := s.evt.mSeq
    samples := 8 * if (s.meters d).isEmpty then s.plainBlocks d b else (s.periodVals d b).foldl (fun a v => max a v.2.blocks) 0
    entries := (s.periodVals d b).foldl (fun l v => insertSlot (meterEntry v) l) [] }

/-- A period is taken: the nodes drop what they hold of it, and it is noted as the domain's last. -/
def State.takePeriod (s : State) (d : Fin 4) (b : BitVec 48) : State :=
  (s.onProcs fun p =>
    if (s.meters d).any (fun m => m.1.id == p.node) then { p with mDone := p.mDone.filter fun v => decide (b.toNat < v.block.toNat) }
    else p).onEvt fun v => { v with mLast := aset v.mLast d.val b.toNat }

theorem produceMeter_none (h : s.periodDue d = none) : produceMeter d s = s := by
  rw [State.periodDue] at h
  simp only [produceMeter, h]

/-- A period that is due and has no record yet is taken, and an enabled ring has its record. -/
theorem produceMeter_some (h : s.periodDue d = some b) (hfresh : ∀ r ∈ s.evt.mRecs, ¬ (r.dom = d ∧ r.block = b))
    (hlast : s.meters d = [] → aget s.evt.mLast d.val ≠ some b.toNat) :
    produceMeter d s = if s.evt.mEnable then (s.takePeriod d b).onEvt fun v =>
      { v with mRecs := v.mRecs ++ [s.periodRec d b], mSeq := v.mSeq + 1 } else s.takePeriod d b := by
  have hseen : (s.evt.mRecs.any (fun r => r.dom == d && r.block == b) ||
      ((s.meters d).isEmpty && aget s.evt.mLast d.val == some b.toNat)) = false := by
    rw [Bool.or_eq_false_iff]
    refine ⟨List.any_eq_false.2 fun r hr => by simpa using hfresh r hr, ?_⟩
    rw [Bool.and_eq_false_imp, List.isEmpty_iff]
    exact fun hms => beq_eq_false_iff_ne.2 (hlast hms)
  rw [State.periodDue] at h
  simp only [produceMeter, h, hseen, Bool.not_false, Bool.and_true]
  rfl

theorem State.takePeriod_procs (s : State) (d : Fin 4) (b : BitVec 48) :
    (s.takePeriod d b).procs = s.procs.map fun p => if ∃ m ∈ s.meters d, m.1.id = p.node then
      { p with mDone := p.mDone.filter fun x => decide (b.toNat < x.block.toNat) } else p :=
  List.map_congr_left fun p _ => if_congr (by simp) rfl rfl

section EveryNodeFinished
variable {val : NodeRec × List MeterVal → MeterVal} (hval : ∀ m ∈ s.meters d, m.2.find? (fun x => x.block == b) = some (val m))
include hval

theorem State.periodVals_eq : s.periodVals d b = (s.meters d).map fun m => (m.1.bodyRef, val m) := by
  rw [State.periodVals, ← List.filterMap_eq_map]
  exact List.filterMap_congr fun m hm => by rw [hval m hm]; rfl

theorem State.periodRec_entries :
    (s.periodRec d b).entries = ((s.meters d).map fun m => (m.1.bodyRef, (val m).peak, (val m).rms, (val m).flags)).foldl
      (fun l e => insertSlot e l) [] := by
  simp only [State.periodRec, State.periodVals_eq hval, List.foldl_map, meterEntry]

/-- A period of k blocks in every node has 8k samples. -/
theorem State.periodRec_samples (hne : s.meters d ≠ []) {k : Nat} (hk : ∀ m ∈ s.meters d, (val m).blocks = k) :
    (s.periodRec d b).samples = 8 * k := by
  rw [State.periodRec, State.periodVals_eq hval, if_neg (by simpa using hne), List.foldl_map]
  obtain ⟨m, ms, hms⟩ := List.exists_cons_of_ne_nil hne
  rw [hms] at hk ⊢
  refine congrArg (8 * ·) (List.foldlRecOn (motive := (· = k)) ms _ ?_ fun a ha x hx => ?_)
  · exact (Nat.zero_max _).trans (hk m List.mem_cons_self)
  · exact (congrArg₂ max ha (hk x (List.mem_cons_of_mem _ hx))).trans (max_self k)

end EveryNodeFinished

end Sys2Proof.Machine

open Sys2Proof Sys2Proof.Machine

/-- The period due is that of `periodDone` where the domain has METER nodes, and the last one that ended where it has none. -/
theorem meterPeriod : Claim.MeterPeriod := by
  intro s dom b ms fresh
  refine ⟨?_, ?_, ?_⟩
  · intro val n early late v rest hms hv hearly hval hfresh
    have hmeters : s.meters dom = (n, early ++ v :: late) :: rest := hms
    have hne : s.meters dom ≠ [] := hmeters ▸ List.cons_ne_nil _ _
    have hdue : s.periodDue dom = some b := by
      rw [State.periodDue, if_neg (by simpa using hne), hmeters, ← hv]
      exact periodDone_cons_some (fun u hu => (hearly u hu).2) (finished_of_find (hv ▸ hms ▸ hval))
    have hexec : exec (.meterPeriodEnd dom) s = .next (produceMeter dom s) := rfl
    rw [hexec, produceMeter_some hdue hfresh fun h => absurd h hne]
    split
    · next hon =>
      refine ⟨_, rfl, rfl, s.takePeriod_procs dom b, fun hoff => absurd (hon.symm.trans hoff) (by decide), fun _ =>
        ⟨s.periodRec dom b, rfl, rfl, rfl, rfl, fun k hk => State.periodRec_samples hval hne hk, ?_, ?_⟩⟩
      · rw [State.periodRec_entries hval]
        exact (foldl_insertSlot_perm _ []).trans (by rw [List.append_nil])
      · rw [State.periodRec_entries hval]
        exact foldl_insertSlot_sorted _ .nil
    · next hoff => exact ⟨_, rfl, rfl, s.takePeriod_procs dom b, fun _ => rfl, fun h => absurd h hoff⟩
  · intro n vs rest hms hvs
    have hmeters : s.meters dom = (n, vs) :: rest := hms
    have hdue : s.periodDue dom = none := by
      rw [State.periodDue, hmeters]
      exact periodDone_cons_none hvs
    exact congrArg Host.Outcome.next (produceMeter_none hdue)
  · intro hms hdom hend hb hfresh hlast hon
    have hmeters : s.meters dom = [] := hms
    have hdue : s.periodDue dom = some b := by
      rw [State.periodDue, if_pos (List.isEmpty_iff.2 hmeters), hb]
      exact if_pos ⟨hdom, hend⟩
    have hentries : (s.periodRec dom b).entries = [] := by
      rw [State.periodRec, State.periodVals, hmeters]
      rfl
    have hexec : exec (.meterPeriodEnd dom) s = .next (produceMeter dom s) := rfl
    rw [hexec, produceMeter_some hdue hfresh fun _ => hlast, if_pos hon]
    exact ⟨_, s.periodRec dom b, rfl, rfl, rfl, rfl, rfl, rfl, hentries, rfl⟩

theorem meterRingControl : Claim.MeterRingControl := by
  intro s on
  have hreset : exec .meterRingReset s = .next (meterReset s) := rfl
  refine ⟨fun hoff => ?_, fun hon => ?_, rfl⟩
  · simp only [hreset, meterReset, hoff, Bool.false_eq_true, if_false]
  · simp only [hreset, meterReset, hon, if_true]

/-- Settles O28, by its two claims: on the records of periods, and on the control of their ring. -/
theorem meterRecords : Obligations.MeterRecords := ⟨meterPeriod, meterRingControl⟩

end

section
/-! Raising an event, the black box and the host's event queue (R512, R522 to R529, R554, R573, R574, R600). -/

namespace Sys2Proof.Machine

variable {s : State} {e : EventRec} {code : BitVec 16}

/-! ### What an offer leaves alone -/

theorem bbOffer_rest (e : EventRec) (s : State) :
    bbOffer e s = { s with ao := { s.ao with
      bbQueue := (bbOffer e s).ao.bbQueue, bbLost := (bbOffer e s).ao.bbLost
      bbLostRun := (bbOffer e s).ao.bbLostRun, bbPostLoss := (bbOffer e s).ao.bbPostLoss } } := by
  simp only [bbOffer, State.onAo]
  split <;> rfl

theorem hostOffer_rest (e : EventRec) (s : State) :
    hostOffer e s = { s with
      ao := { s.ao with held := (hostOffer e s).ao.held, heldLost := (hostOffer e s).ao.heldLost }
      evt := { s.evt with offered := (hostOffer e s).evt.offered } } := by
  unfold hostOffer State.onAo State.onEvt
  split
  · dsimp only
    split <;> rfl
  · rfl

/-- Of the event controller a raise changes the events offered alone. -/
theorem raise_evt (code : Nat) (vals : Vals) (s : State) :
    (raise code vals s).evt = { s.evt with offered := (raise code vals s).evt.offered } := by
  unfold raise
  dsimp only
  rw [hostOffer_rest, bbOffer_rest]

/-- A raise queues a record and writes none. -/
theorem raise_bbSlots (code : Nat) (vals : Vals) (s : State) :
    (raise code vals s).ao.bbSlots = s.ao.bbSlots ∧ (raise code vals s).ao.bbHead = s.ao.bbHead := by
  unfold raise
  dsimp only
  rw [hostOffer_rest, bbOffer_rest]
  exact ⟨rfl, rfl⟩

/-! ### What an offer does -/

theorem State.early_iff : s.early = true ↔ s.power.start.result = 0 ∧ s.power.start.step < 4 := by simp [State.early]

theorem hostOffer_late (h : s.early = false) : hostOffer e s = s.onEvt fun v => { v with offered := v.offered ++ [e] } := by
  rw [hostOffer, if_neg (by simp [h])]

theorem hostOffer_room (h : s.early = true) (hroom : s.ao.held.length < 32) :
    hostOffer e s = s.onAo fun a => { a with held := a.held ++ [e] } := by
  simp [hostOffer, h, State.onAo, hroom]

theorem hostOffer_full (h : s.early = true) (hfull : 32 ≤ s.ao.held.length) :
    hostOffer e s = s.onAo fun a => { a with heldLost := satInc8 a.heldLost } := by
  simp [hostOffer, h, State.onAo, Nat.not_lt.2 hfull]

theorem bbOffer_full_postLoss (h : 256 ≤ s.ao.bbQueue.length) : (bbOffer e s).ao.bbPostLoss = true := by
  simp [bbOffer, Nat.not_lt.2 h]

/-- The black box has what its own offer leaves: the offer to the host does not touch it. -/
theorem raise_bbQueue (code : Nat) (vals : Vals) (s : State) :
    (raise code vals s).ao.bbQueue = (bbOffer (mkEvent s code vals) s).ao.bbQueue ∧
    (raise code vals s).ao.bbLost = (bbOffer (mkEvent s code vals) s).ao.bbLost ∧
    (raise code vals s).ao.bbPostLoss = (bbOffer (mkEvent s code vals) s).ao.bbPostLoss := by
  unfold raise
  dsimp only
  rw [hostOffer_rest]
  exact ⟨rfl, rfl, rfl⟩

/-! ### Slots of the black box (R525) -/

theorem mem_aset {α : Type} {l : List (Nat × α)} {k : Nat} {v : α} {p : Nat × α} (h : p ∈ aset l k v) : p = (k, v) ∨ p ∈ l := by
  induction l with
  | nil => exact .inl (List.mem_singleton.1 h)
  | cons c l ih =>
    obtain ⟨k', v'⟩ := c
    unfold aset at h
    split_ifs at h
    · exact List.mem_cons.1 h
    · exact (List.mem_cons.1 h).imp_right (List.mem_cons_of_mem _)
    · rcases List.mem_cons.1 h with rfl | h
      · exact .inr List.mem_cons_self
      · exact (ih h).imp_right (List.mem_cons_of_mem _)

theorem exists_mem_of_aget {α : Type} {l : List (Nat × α)} {k : Nat} {v : α} (h : aget l k = some v) : ∃ p ∈ l, p.2 = v := by
  obtain ⟨p, hp, hv⟩ := Option.map_eq_some_iff.1 h
  exact ⟨p, List.mem_of_find?_eq_some hp, hv⟩

/-- The record that the next slot takes. -/
def Ao.nextRec (a : Ao) (e : EventRec) (queued valid : Bool) : BbRec := ⟨BitVec.ofNat 32 a.bbHead, e, queued, a.bbPostLoss, valid⟩

/-- The oldest record of a box without valid ones is the one written. -/
theorem bbWrite_oldest (h : ∀ p ∈ s.ao.bbSlots, p.2.valid = false) (e : EventRec) (q : Bool) :
    (bbWrite e q s).ao.bbOldest = s.ao.bbHead := by
  have hall : (s.ao.bbSlots.all fun p => !p.2.valid) = true := List.all_eq_true.2 fun p hp => by rw [h p hp]; rfl
  simp [bbWrite, Ao.bbPut, hall]

/-! ### Appending the front of the queue (R525, R527, R528) -/

/-- A part that is not braced and has lost none appends the record at the front. -/
theorem bbAppendFront_cons {q : Bool} {rest : List (EventRec × Bool)} (hbraced : s.power.braced = false)
    (hfront : s.ao.bbQueue = (e, q) :: rest) (hlost : s.ao.bbLostRun = 0) :
    bbAppendFront s = bbAppendEvent e q (s.onAo fun a => { a with bbQueue := rest }) := by
  simp [bbAppendFront, bbReportLost, hbraced, hfront, hlost]

theorem bbAppendEvent_never (h : neverSuppressed e.code = true) (q : Bool) : bbAppendEvent e q s = bbWrite e q s := by
  rw [bbAppendEvent, if_pos h]

/-- Within its second, a record after the 16th of its code is counted alone. -/
theorem bbAppendEvent_counted {w : SuppressWin} (h : neverSuppressed e.code = false)
    (hwin : s.ao.bbWins.find? (fun x => x.code == e.code) = some w) (hmany : 16 ≤ w.appended)
    (hopen : s.now < w.start + Config.tick) (q : Bool) :
    bbAppendEvent e q s = s.onAo fun a => { a with
      bbWins := mapIf (fun x => x.code == e.code) (fun x => { x with suppressed := x.suppressed + 1 }) a.bbWins
      bbSuppressed := satInc16 a.bbSuppressed } := by
  simp [bbAppendEvent, h, hwin, Nat.not_le.2 hopen, Nat.not_lt.2 hmany]

/-- A second in which nothing was suppressed ends without a report. -/
theorem bbCloseWin_quiet {w : SuppressWin} (hwin : s.ao.bbWins.find? (fun x => x.code == code) = some w) (h : w.suppressed = 0) :
    bbCloseWin code s = s.onAo fun a => { a with bbWins := a.bbWins.filter fun x => x.code != code } := by
  simp [bbCloseWin, hwin, h, raiseIf]

/-! ### Clearing (R529) -/

/-- Every slot's commit becomes 0. -/
def Ao.cleared (a : Ao) : Ao :=
  { a with bbSlots := a.bbSlots.map (fun p => (p.1, { p.2 with valid := false })), bbOldest := a.bbHead }

theorem Ao.cleared_invalid (a : Ao) : ∀ p ∈ a.cleared.bbSlots, p.2.valid = false := by
  intro p hp
  obtain ⟨x, -, rfl⟩ := List.mem_map.1 hp
  rfl

theorem bbClear_allowed (hbraced : s.power.braced = false) (hstate : s.cfg.lcState = .develop ∨ s.cfg.lcState = .ret) :
    ∃ e : EventRec, e.code = 0xD007 ∧ bbClear s = hostOffer e (bbWrite e false (s.onAo Ao.cleared)) := by
  have hmay : s.lcState.mayClear = true := by
    rcases hstate with h | h <;> rw [State.lcState, h] <;> rfl
  refine ⟨mkEvent (s.onAo Ao.cleared) 0xD007 [], rfl, ?_⟩
  rw [bbClear, if_pos hmay]
  dsimp only
  rw [State.onAo_power, if_neg (by simp [hbraced])]
  rfl

theorem bbClear_refused (hdev : s.cfg.lcState ≠ .develop) (hret : s.cfg.lcState ≠ .ret) :
    bbClear s = raise 0xD002 [v8 0xFF, v8 4] s := by
  have hmay : s.lcState.mayClear = false := by
    rw [State.lcState]
    cases h : s.cfg.lcState with
    | develop => exact absurd h hdev
    | ret => exact absurd h hret
    | blank | production | ended => rfl
  simp [bbClear, hmay]

/-! ### The host's event queue (R573, R574) -/

theorem qFlush_nil (h : s.evt.held = []) (k : Nat) : qFlush k s = s := by
  cases k with
  | zero => rfl
  | succ k => simp [qFlush, h]

/-- With nothing held and no run of drops there is nothing to settle. -/
theorem qSettle_idle (hheld : s.evt.held = []) (hrun : s.evt.qRun = 0) : qSettle s = s := by
  simp [qSettle, qFlush_nil hheld, hrun]

theorem deliverEvent_idle {rest : List EventRec} (hoffered : s.evt.offered = e :: rest) (hheld : s.evt.held = [])
    (hrun : s.evt.qRun = 0) : deliverEvent s = qRouted e (s.onEvt fun x => { x with offered := rest }) := by
  simp only [deliverEvent, hoffered]
  rw [qSettle_idle (s := s.onEvt fun x => { x with offered := rest }) hheld hrun]

/-- Vector 0xFF is none: the event is queued or not, and nothing is signalled. -/
theorem qRouted_unsignalled {b : Bool} (h : s.evt.routing e.code = (b, 0xFF)) : qRouted e s = if b then qOffer e s else s := by
  simp [qRouted, h]

/-- With room in an enabled queue and nothing held an event is written at once. -/
theorem qOffer_written (hheld : s.evt.held = []) (hon : s.evt.qEnable = true) (hroom : 64 ≤ s.evt.qFree) :
    qOffer e s = { s with
      hostMem := s.hostMem.store (s.evt.qBase.toNat + s.evt.qWr.toNat) (recBytes s.evt.qSeq.toNat false s.evt.qPost true e)
      evt := { s.evt with
        qSeq := s.evt.qSeq + 1, qPost := false, qWr := BitVec.ofNat 32 ((s.evt.qWr.toNat + 64) % 2 ^ s.evt.qLog2) } } := by
  have hqroom : s.evt.qRoom = true := by simp [Evt.qRoom, hheld, hon, hroom]
  simp only [qOffer, qWrite, State.onEvt, hqroom, hon, if_true]

theorem putBit_false_getLsbD {n : Nat} (f : BitVec n) (i : Nat) : (putBit f i false).getLsbD i = false := by
  rw [putBit, if_neg Bool.false_ne_true, BitVec.getLsbD_and, BitVec.getLsbD_not, BitVec.getLsbD_ofNat, Nat.testBit_two_pow_self]
  cases decide (i < n) <;> simp

end Sys2Proof.Machine

open Sys2Proof Sys2Proof.Machine

/-- The black box and the host are offered the event one after the other, and each offer leaves the other's fields alone. -/
theorem eventRaised : Claim.EventRaised := by
  intro code vals s e t
  obtain ⟨hqueue, hlost, hpost⟩ := raise_bbQueue code vals s
  have hheld : (bbOffer e s).ao.held = s.ao.held ∧ (bbOffer e s).ao.heldLost = s.ao.heldLost := by
    rw [bbOffer_rest]
    exact ⟨rfl, rfl⟩
  refine ⟨⟨rfl, ?_, rfl, ?_, ?_, rfl⟩, fun hroom => ?_, fun hfull => ?_, fun hlate => ?_, fun hresult hstep => ?_,
    raise_eq code vals s⟩
  · exact (BitVec.toNat_ofNat ..).trans (Nat.mod_eq_of_lt (by omega))
  · exact (BitVec.toNat_ofNat ..).trans (Nat.mod_eq_of_lt (by omega))
  · exact BitVec.toNat_ofNat ..
  · obtain ⟨hjoins, hkept⟩ := bbOffer_room e s hroom
    exact ⟨hqueue.trans hjoins, hlost.trans hkept⟩
  · obtain ⟨hkept, hcounted⟩ := bbOffer_full e s hfull
    exact ⟨hqueue.trans hkept, hlost.trans hcounted, hpost.trans (bbOffer_full_postLoss hfull)⟩
  · have hearly : (bbOffer e s).early = false := Bool.eq_false_iff.2 (mt State.early_iff.1 hlate)
    have ht : t = (bbOffer e s).onEvt fun v => { v with offered := v.offered ++ [e] } := hostOffer_late hearly
    rw [ht]
    exact ⟨rfl, hheld.1⟩
  · have hearly : (bbOffer e s).early = true := State.early_iff.2 ⟨hresult, hstep⟩
    obtain ⟨hheld, hheldLost⟩ := hheld
    rcases Nat.lt_or_ge s.ao.held.length 32 with hroom | hfull
    · have ht : t = (bbOffer e s).onAo fun a => { a with held := a.held ++ [e] } := hostOffer_room hearly (by rw [hheld]; exact hroom)
      rw [ht]
      exact ⟨rfl, fun _ => ⟨by rw [State.onAo_ao, hheld], hheldLost⟩, fun h => absurd h (by omega)⟩
    · have ht : t = (bbOffer e s).onAo fun a => { a with heldLost := satInc8 a.heldLost } :=
        hostOffer_full hearly (by rw [hheld]; exact hfull)
      rw [ht]
      exact ⟨rfl, fun h => absurd h (by omega), fun _ => ⟨hheld, by rw [State.onAo_ao, hheldLost]⟩⟩

/-- A clear leaves only invalid slots (`Ao.cleared_invalid`), so that the record written after it is the one valid and oldest. -/
theorem blackBox : Claim.BlackBox := by
  intro s e q rest win wins key hbraced rec_ front
  have happend : exec .bbAppend s = .next (bbAppendFront s) := rfl
  have hkeyed : exec (.bbClear 0xA5A5) s = .next (bbClear s) := rfl
  refine ⟨?_, ?_, fun hwin hquiet => congrArg Host.Outcome.next (bbCloseWin_quiet hwin hquiet), fun hstate => ?_,
    fun hdev hret => ?_, fun hkey => congrArg Host.Outcome.next (if_neg hkey)⟩
  · rintro ⟨hfront, hlost⟩ hnever
    rw [happend, bbAppendFront_cons hbraced hfront hlost, bbAppendEvent_never hnever]
    exact ⟨_, rfl, rfl, aget_aset_self .., rfl, rfl, rfl⟩
  · rintro ⟨hfront, hlost⟩ hsome hwins hcode hmany hopen
    have hwin : s.ao.bbWins.find? (fun x => x.code == e.code) = some win := by
      rw [hwins, List.find?_cons_of_pos (by simp [hcode])]
    rw [happend, bbAppendFront_cons hbraced hfront hlost,
      bbAppendEvent_counted (s := s.onAo fun a => { a with bbQueue := rest }) hsome hwin hmany.ge hopen]
    exact ⟨_, rfl, rfl, rfl, rfl, rfl, rfl⟩
  · obtain ⟨ev, hcode, hclear⟩ := bbClear_allowed hbraced hstate
    rw [hkeyed, hclear, hostOffer_rest]
    refine ⟨_, rfl, fun p hp hvalid => ?_, ?_, bbWrite_oldest s.ao.cleared_invalid ev false, rfl⟩
    · rcases mem_aset hp with rfl | hp
      · exact ⟨hcode, rfl⟩
      · exact absurd (hvalid.symm.trans (s.ao.cleared_invalid p hp)) (by decide)
    · obtain ⟨p, hp, hrec⟩ := exists_mem_of_aget
        (aget_aset_self s.ao.cleared.bbSlots (s.ao.bbHead % 6144) (s.ao.nextRec ev false true))
      exact ⟨p, hp, by rw [hrec]; rfl⟩
  · rw [hkeyed, bbClear_refused hdev hret]
    obtain ⟨hslots, hhead⟩ := raise_bbSlots 0xD002 [v8 0xFF, v8 4] s
    exact ⟨_, rfl, hslots, hhead, raise_eq ..⟩

/-- With nothing held and no drops to report, a delivery routes the event at the front alone (`deliverEvent_idle`). -/
theorem eventQueue : Claim.EventQueue := by
  intro s e rest v b q
  have hdeliver : exec .eventDelivery s = .next (deliverEvent s) := rfl
  have hpending : exec (.msixPendingSend v) s =
    .next (if s.evt.msixPend.getLsbD v.val && !s.evt.msixMask.getLsbD v.val then msixSend v.val s else s) := rfl
  have hreset : exec .evtQReset s = .next (qReset s) := rfl
  have henable : exec (.evtQEnable b) s = .next (qSettle (s.onEvt fun x => { x with qEnable := b })) := rfl
  refine ⟨fun hoffered hheld hrun hon hroom hroute => ?_, fun hoffered hheld hrun hroute => ?_, fun hpend hmask => ?_,
    fun hpend hmask => ?_, fun hoff => ?_, fun hon => ?_, fun hheld hrun => ?_⟩
  · let s' := s.onEvt fun x => { x with offered := rest }
    rw [hdeliver, deliverEvent_idle hoffered hheld hrun, qRouted_unsignalled (s := s') hroute, if_pos rfl,
      qOffer_written (s := s') hheld hon hroom]
    refine ⟨_, rfl, ?_⟩
    dsimp only
    exact ⟨rfl, rfl, rfl⟩
  · rw [hdeliver, deliverEvent_idle hoffered hheld hrun,
      qRouted_unsignalled (s := s.onEvt fun x => { x with offered := rest }) hroute]
    rfl
  · rw [hpending, if_neg fun h => absurd (((Bool.and_eq_true ..).mp h).2.symm.trans (congrArg (! ·) hmask)) (by decide)]
    exact ⟨s, rfl, hpend, rfl, rfl⟩
  · rw [hpending, if_pos ((Bool.and_eq_true ..).mpr ⟨hpend, congrArg (! ·) hmask⟩)]
    exact ⟨_, rfl, putBit_false_getLsbD .., rfl, rfl⟩
  · rw [hreset, qReset, if_neg (Bool.eq_false_iff.1 hoff)]
  · rw [hreset, qReset, if_pos hon]
  · rw [henable, qSettle_idle (s := s.onEvt fun x => { x with qEnable := b }) hheld hrun]

end

section
/-! Meter records in host memory: what a store leaves there, and the record's place in the ring (R250, R251). -/

namespace Sys2Proof.Machine

/-! ### Stores in host memory -/

theorem Mem.at?_store_other {m : Mem} (a : Nat) (bs : List Byte) (x : Nat) (h : m.rising = true)
    (hx : x < a ∨ a + bs.length ≤ x) : (m.store a bs).at? x = m.at? x := by
  induction bs generalizing m a with
  | nil => rfl
  | cons b bs ih =>
    rw [List.length_cons] at hx
    rw [Mem.store, ih (a + 1) (Mem.ins_rising a _ h) (by omega), Mem.at?_ins _ _ _ h, if_neg (by omega)]

theorem Mem.readAll_store {m : Mem} (a : Nat) (bs : List Byte) (h : m.rising = true) :
    (m.store a bs).readAll a bs.length = some bs := by
  induction bs generalizing m a with
  | nil => rfl
  | cons b bs ih =>
    have hrest := Mem.ins_rising a (some b) h
    rw [Mem.store, List.length_cons, Mem.readAll, ih (a + 1) hrest, Mem.at?_store_other _ _ _ hrest (by omega),
      Mem.at?_ins _ _ _ h, if_pos rfl]

theorem Mem.readAll_congr {m m' : Mem} (a n : Nat) (h : ∀ x, a ≤ x → x < a + n → m.at? x = m'.at? x) :
    m.readAll a n = m'.readAll a n := by
  induction n generalizing a with
  | zero => rfl
  | succ n ih => rw [Mem.readAll, Mem.readAll, h a le_rfl (by omega), ih (a + 1) fun x _ _ => h x (by omega) (by omega)]

/-! ### The place of a record in a ring -/

/-- The length of the pad record before a record in a ring of a size, with a write offset; 0 where there is none. -/
def meterPad (size wr len : Nat) : Nat := if size < wr + len then size - wr else 0

/-- The offset of a record: the write offset, or the start of the ring after a pad record. -/
def meterAt (size wr len : Nat) : Nat := if meterPad size wr len = 0 then wr else 0

/-- Host memory once the pad record is written. -/
def padStore (base size wr len : Nat) (m : Mem) : Mem :=
  if meterPad size wr len = 0 then m else m.store (base + wr) (padRecord (meterPad size wr len))

/-- Host memory once a record is written, its pad record before it. -/
def meterStore (base size wr : Nat) (bs : List Byte) (m : Mem) : Mem :=
  (padStore base size wr bs.length m).store (base + meterAt size wr bs.length) bs

theorem length_padRecord {n : Nat} (h : 5 ≤ n) : (padRecord n).length = n := by
  simp only [padRecord, zeroBytes, List.length_append, length_leBytes, List.length_replicate, List.length_singleton]
  omega

variable {base size wr len : Nat}

/-- A record stands at the write offset and ends within the ring, or it stands at the start after a pad that fills the ring. -/
theorem meterPlace (hwr : wr < size) (len : Nat) :
    (meterPad size wr len = 0 ∧ meterAt size wr len = wr ∧ wr + len ≤ size) ∨
    (meterPad size wr len = size - wr ∧ meterAt size wr len = 0 ∧ size < wr + len) := by
  unfold meterAt meterPad
  by_cases h : size < wr + len
  · rw [if_pos h, if_neg (by omega)]
    exact .inr ⟨rfl, rfl, h⟩
  · rw [if_neg h, if_pos rfl]
    exact .inl ⟨rfl, rfl, by omega⟩

theorem meterAt_eq_mod (hwr : wr < size) (len : Nat) : (wr + meterPad size wr len) % size = meterAt size wr len := by
  rcases meterPlace hwr len with ⟨hpad, hat, -⟩ | ⟨hpad, hat, -⟩
  · rw [hpad, hat, Nat.add_zero, Nat.mod_eq_of_lt hwr]
  · rw [hpad, hat, Nat.add_sub_cancel' hwr.le, Nat.mod_self]

/-! ### Host memory once a record is written -/

variable {bs : List Byte} {m : Mem} {a : Nat}

theorem padStore_rising (h : m.rising = true) : (padStore base size wr len m).rising = true := by
  unfold padStore
  split
  · exact h
  · exact Mem.store_rising _ _ h

theorem meterStore_record (h : m.rising = true) :
    (meterStore base size wr bs m).readAll (base + meterAt size wr bs.length) bs.length = some bs :=
  Mem.readAll_store _ _ (padStore_rising h)

/-- Without a pad the record alone is written. -/
theorem meterStore_plain (h : m.rising = true) (hpad : meterPad size wr bs.length = 0)
    (ha : a < base + wr ∨ base + wr + bs.length ≤ a) : (meterStore base size wr bs m).at? a = m.at? a := by
  rw [meterStore, padStore, if_pos hpad, meterAt, if_pos hpad]
  exact Mem.at?_store_other _ _ _ h ha

section Aligned
variable (hwr : wr < size) (hfill : 5 ≤ size - wr)
include hwr hfill

theorem length_padRecord_meterPad (hpad : meterPad size wr len ≠ 0) : (padRecord (meterPad size wr len)).length = size - wr := by
  rcases meterPlace hwr len with ⟨hnone, -⟩ | ⟨hpad, -⟩
  · exact absurd hnone hpad
  · rw [hpad, length_padRecord hfill]

/-- Outside the ring nothing is written. -/
theorem meterStore_outside (h : m.rising = true) (hlen : bs.length < size) (ha : a < base ∨ base + size ≤ a) :
    (meterStore base size wr bs m).at? a = m.at? a := by
  have hend : meterAt size wr bs.length + bs.length ≤ size := by
    rcases meterPlace hwr bs.length with ⟨-, hat, hle⟩ | ⟨-, hat, -⟩ <;> omega
  rw [meterStore, Mem.at?_store_other _ _ _ (padStore_rising h) (by omega), padStore]
  split
  · rfl
  · next hpad =>
    have hlength := length_padRecord_meterPad hwr hfill hpad
    exact Mem.at?_store_other _ _ _ h (by omega)

/-- A record that fits does not reach its pad. -/
theorem meterStore_pad (h : m.rising = true) (hfits : meterPad size wr bs.length + bs.length ≤ size)
    (hpad : 0 < meterPad size wr bs.length) :
    (meterStore base size wr bs m).readAll (base + wr) (meterPad size wr bs.length) =
      some (padRecord (meterPad size wr bs.length)) := by
  have hread := Mem.readAll_store (base + wr) (padRecord (meterPad size wr bs.length)) h
  have hlength := length_padRecord_meterPad hwr hfill hpad.ne'
  rw [meterStore, padStore, if_neg hpad.ne']
  rcases meterPlace hwr bs.length with ⟨hnone, -⟩ | ⟨hend, hat, -⟩
  · exact absurd hnone hpad.ne'
  · rw [hlength, ← hend] at hread
    exact (Mem.readAll_congr _ _ fun x hx _ => Mem.at?_store_other _ _ _ (Mem.store_rising _ _ h) (by omega)).trans hread

end Aligned

/-! ### Writing or dropping a record -/

variable {s : State} {d : Fin 4} {r : MeterRec}

/-- A signalled vector changes its own times, bits and messages alone. -/
theorem msixSignal_rest (v : Nat) (s : State) :
    msixSignal v s = { s with evt := { s.evt with
      msixPend := (msixSignal v s).evt.msixPend, msixLast := (msixSignal v s).evt.msixLast
      msixSent := (msixSignal v s).evt.msixSent } } := by
  unfold msixSignal
  split <;> rfl

theorem ringFree_le (log wr rd : Nat) : ringFree log wr rd ≤ 2 ^ log := (Nat.sub_le _ _).trans (Nat.sub_le _ _)

section Placed
variable (hsize : 2 ^ s.evt.mLog2 = size) (hmwr : s.evt.mWr.toNat = wr) (hwr : wr < size) (hlen : r.bytes.length = len)
include hsize hmwr hwr hlen

theorem writeMeter_fits (hfits : meterPad size wr len + len ≤ ringFree s.evt.mLog2 wr s.evt.mRd.toNat) :
    ∃ pend last sent, writeMeter r s = { s with
      hostMem := meterStore s.evt.mBase.toNat size wr r.bytes s.hostMem
      evt := { s.evt with
        mWr := BitVec.ofNat 32 ((meterAt size wr len + len) % size), mDropRun := false
        msixPend := pend, msixLast := last, msixSent := sent } } := by
  have hat := meterAt_eq_mod hwr len
  have hmod := Nat.mod_eq_of_lt hwr
  unfold meterStore padStore
  unfold meterPad at hat hfits ⊢
  simp only [writeMeter, hsize, hmwr, hlen, hmod, hat, if_pos hfits]
  rw [msixSignal_rest]
  dsimp only [State.onEvt]
  exact ⟨_, _, _, rfl⟩

theorem writeMeter_dropped (hfull : ringFree s.evt.mLog2 wr s.evt.mRd.toNat < meterPad size wr len + len) :
    writeMeter r s = raiseIf (!s.evt.mDropRun) 0x7007 [v8 r.dom.val, v32 r.seq.toNat]
      (s.onEvt fun x => { x with mDrops := satInc32 x.mDrops, mDropRun := true }) := by
  have hmod := Nat.mod_eq_of_lt hwr
  unfold meterPad at hfull
  simp only [writeMeter, hsize, hmwr, hlen, hmod, if_neg (Nat.not_le.2 hfull)]

end Placed

theorem raiseIf_evt (b : Bool) (code : Nat) (vals : Vals) (s : State) :
    (raiseIf b code vals s).evt = { s.evt with offered := (raiseIf b code vals s).evt.offered } := by
  cases b
  · rfl
  · exact raise_evt code vals s

/-- A record leaves those that wait. -/
def State.dropRec (s : State) (d : Fin 4) (r : MeterRec) : State :=
  s.onEvt fun v => { v with mRecs := v.mRecs.filter fun x => !(x.dom == d && x.block == r.block) }

theorem mem_dropRec {x : MeterRec} : x ∈ (s.dropRec d r).evt.mRecs ↔ x ∈ s.evt.mRecs ∧ ¬ (x.dom = d ∧ x.block = r.block) := by
  refine List.mem_filter.trans (and_congr_right fun _ => ?_)
  rw [Bool.not_eq_true', Bool.and_eq_false_imp, not_and, beq_iff_eq, beq_eq_false_iff_ne]

theorem flushMeter_none (h : s.evt.mRecs.find? (fun x => x.dom == d) = none) : flushMeter d s = s := by
  simp only [flushMeter, h]

theorem flushMeter_some (hon : s.evt.mEnable = true) (h : s.evt.mRecs.find? (fun x => x.dom == d) = some r) :
    flushMeter d s = writeMeter r (s.dropRec d r) := by
  simp only [flushMeter, h, State.onEvt_evt, hon, if_true]
  rfl

end Sys2Proof.Machine

open Sys2Proof Sys2Proof.Machine

/-- The record that leaves those that wait goes to its place in the ring (`meterStore`), or is dropped. -/
theorem meterRecordWrite : Claim.MeterRecordWrite := by
  refine ⟨fun s dom hnone => congrArg Host.Outcome.next (flushMeter_none hnone), ?_⟩
  intro s dom r hon hrising hfirst size wr len pad free at' hwr haligned hlen hlog hlog32
  have hexec : exec (.meterRecordWrite dom) s = .next (flushMeter dom s) := rfl
  rw [hexec, flushMeter_some hon hfirst]
  refine ⟨fun hfits => ?_, fun hfull => ?_⟩
  · obtain ⟨pend, last, sent, hwrite⟩ := writeMeter_fits (s := s.dropRec dom r) (r := r) (size := size) rfl rfl hwr rfl hfits
    have hword : (at' + len) % size < 2 ^ 32 :=
      (Nat.mod_lt _ (Nat.two_pow_pos _)).trans_le (Nat.pow_le_pow_right (by omega) hlog32)
    have hfill : 5 ≤ size - wr := by
      obtain ⟨k, hk⟩ : 64 ∣ size := pow_dvd_pow 2 hlog
      omega
    rw [hwrite]
    refine ⟨_, rfl, ?_⟩
    dsimp only
    exact ⟨meterStore_record hrising, (BitVec.toNat_ofNat ..).trans (Nat.mod_eq_of_lt hword), rfl,
      fun a ha => meterStore_outside hwr hfill hrising hlen ha,
      fun hpad => meterStore_pad hwr hfill hrising (hfits.trans (ringFree_le ..)) hpad,
      fun x => mem_dropRec, fun hpad a ha => meterStore_plain hrising hpad ha, rfl⟩
  · rw [writeMeter_dropped (s := s.dropRec dom r) (r := r) (size := size) rfl rfl hwr rfl hfull]
    refine ⟨_, rfl, ?_, ?_, ?_, fun hrun => ?_, raiseIf_eq ..⟩
    · rw [raiseIf_eq]
      rfl
    · rw [raiseIf_evt]
      rfl
    · rw [raiseIf_evt]
      rfl
    · rw [show (s.dropRec dom r).evt.mDropRun = true from hrun]
      rfl

/-- Settles O55, by its four claims: on the black box, the event queue, the raising of an event, and the writing of meter records. -/
theorem eventRecords : Obligations.EventRecords := ⟨blackBox, eventQueue, eventRaised, meterRecordWrite⟩

end

section
/-! Maquette slots (R263 to R266): when a slot operation is refused, what it does where it is not, and how it ends. -/

namespace Sys2Proof.Machine

variable {s : State} {k j : Fin 4}

/-! ### The casts that wait -/

theorem CastSt.waits_iff (c : CastSt) : c.waits = true ↔ c.applyOn = [] := List.isEmpty_iff

theorem State.mem_castsWaiting {c : CastSt} : c ∈ s.castsWaiting ↔ c ∈ s.scene.casts ∧ c.applyOn = [] :=
  List.mem_filter.trans (and_congr_right fun _ => c.waits_iff)

/-! ### Refusal of a slot operation -/

/-- On a loaded image a slot operation may start exactly where no other runs and no cast waits from the slot (R265). -/
theorem State.slotRefusal_eq (hm : s.img.loaded.isSome = true) :
    s.slotRefusal k =
      if s.scene.op.isSome = true ∨ ∃ c ∈ s.scene.casts, c.applyOn = [] ∧ c.slot = k then some stBusy else none := by
  have hwait : s.castsWaiting.any (fun c => c.slot == k) = true ↔ ∃ c ∈ s.scene.casts, c.applyOn = [] ∧ c.slot = k := by
    simp only [List.any_eq_true, State.mem_castsWaiting, beq_iff_eq, and_assoc]
  have hnone : s.img.loaded.isNone = false := by rw [← Option.not_isSome, hm]; rfl
  simp only [State.slotRefusal, hnone, Bool.false_eq_true, if_false, Bool.or_eq_true, hwait]

@[simp] theorem mqCtl_slotRefusal (op : BitVec 2) (i : Fin 4) (s : State) : (mqCtl op i s).slotRefusal k = s.slotRefusal k := rfl

theorem slotLoad_free (h : s.slotRefusal k = none) (addr : BitVec 64) (len : Option Nat) :
    slotLoad k addr len s = (stOk, mqStatus 0 1 k 0 (setSlot k .loading none (s.onScene fun c => { c with
      op := some { slot := k, capture := false, addr := addr, mqId := 0, first := 0, last := 0, len := len,
                   taken := none } }))) := by
  simp only [slotLoad, h]

theorem slotLoad_refused {st : Byte} (h : s.slotRefusal k = some st) (addr : BitVec 64) (len : Option Nat) :
    slotLoad k addr len s = (st, s) := by
  simp only [slotLoad, h]

/-- A capture of a range with parameters waits for its boundary (R266). -/
theorem slotCapture_free (h : s.slotRefusal k = none) {id : Word} {first last : PAddr} (hid : id ≠ 0)
    (hsome : s.paramsIn first last ≠ []) (hfit : (s.paramsIn first last).length ≤ 262144) :
    slotCapture k id first last s = (stOk, (s.paramsIn first last).length, mqStatus 0 1 k 0 (s.onScene fun c => { c with
      op := some { slot := k, capture := true, addr := 0, mqId := id, first := first, last := last, len := none,
                   taken := none } })) := by
  have hpos : (s.paramsIn first last).length ≠ 0 := mt List.length_eq_zero_iff.1 hsome
  simp only [slotCapture, h, hid, hpos, Nat.not_lt.2 hfit, if_false]

theorem slotCapture_refused {st : Byte} (h : s.slotRefusal k = some st) (id : Word) (first last : PAddr) :
    slotCapture k id first last s = (st, 0, s) := by
  simp only [slotCapture, h]

theorem slotClear_free (h : s.slotRefusal k = none) :
    slotClear k s = (stOk, mqStatus 0 2 k 0 (setSlot k .empty none s)) := by
  simp only [slotClear, h]

theorem slotClear_refused {st : Byte} (h : s.slotRefusal k = some st) : slotClear k s = (st, s) := by
  simp only [slotClear, h]

/-! ### What a slot holds -/

@[simp] theorem setSlot_slotSt_self (st : SlotState) (m : Option Maquette) (s : State) :
    (setSlot k st m s).slotSt k = { state := st, mq := m } := upd_get_self ..

theorem setSlot_slotSt_other (h : j ≠ k) (st : SlotState) (m : Option Maquette) (s : State) :
    (setSlot k st m s).slotSt j = s.slotSt j := upd_get_other _ _ _ _ h.symm

@[simp] theorem mqStatus_slotSt (result : Fin 10) (state i : Fin 4) (entry : Nat) (s : State) :
    (mqStatus result state i entry s).slotSt j = s.slotSt j := rfl

@[simp] theorem raise_slotSt (code : Nat) (vals : Vals) (s : State) : (raise code vals s).slotSt j = s.slotSt j := by
  rw [State.slotSt, raise_scene]; rfl

/-! ### The end of a slot operation -/

/-- A slot operation ends: its slot holds `x`, the status shows how, and an event says so. -/
def slotEnded (k : Fin 4) (x : MqSlot) (result : Fin 10) (state : Fin 4) (entry code : Nat) (vals : Vals) (s : State) : State :=
  raise code vals (mqStatus result state k entry (setSlot k x.state x.mq (s.onScene fun c => { c with op := none })))

section Ended

variable (k) (x : MqSlot) (result : Fin 10) (state : Fin 4) (entry code : Nat) (vals : Vals) (s : State)

@[simp] theorem slotEnded_slotSt_self : (slotEnded k x result state entry code vals s).slotSt k = x := by simp [slotEnded]

@[simp] theorem slotEnded_stState : (slotEnded k x result state entry code vals s).scene.stState = state := by
  rw [slotEnded, raise_scene]; rfl

@[simp] theorem slotEnded_stResult : (slotEnded k x result state entry code vals s).scene.stResult = result := by
  rw [slotEnded, raise_scene]; rfl

/-- Nothing else is left of the operation, and nothing but the scene controller and the event is touched. -/
theorem slotEnded_frame :
    let t := slotEnded k x result state entry code vals s
    (∀ j, j ≠ k → t.slotSt j = s.slotSt j) ∧ t.scene.op = none ∧ t.scene.params = s.scene.params ∧
      t = { s with scene := t.scene, ao := t.ao, evt := t.evt } := by
  refine ⟨fun j hj => ?_, ?_, ?_, ?_⟩
  · rw [slotEnded, raise_slotSt, mqStatus_slotSt, setSlot_slotSt_other hj]; rfl
  · rw [slotEnded, raise_scene]; rfl
  · rw [slotEnded, raise_scene]; rfl
  · rw [slotEnded, raise_eq]; rfl

end Ended

section Done

variable {m : Image} {op : SlotOp}

/-- The maquette of the targets that a capture took (R266). -/
def SlotOp.captured (op : SlotOp) (m : Image) (es : List MqEntry) : Maquette :=
  { slot := op.slot, id := op.mqId, buildId := m.buildId, label := zeroBytes 32, entries := es }

/-- A capture whose targets are taken makes its slot VALID with them (R266). -/
theorem slotDone_captured {es : List MqEntry} (hm : s.img.loaded = some m) (hop : s.scene.op = some op) (hcap : op.capture = true)
    (htaken : op.taken = some es) :
    slotDone s = slotEnded op.slot { state := .valid, mq := some (op.captured m es) } 0 2 0 0x8007
      [v8 op.slot.val, v32 op.mqId.toNat] s := by
  simp only [slotDone, hop, hm, hcap, htaken, if_true]
  rfl

theorem slotDone_rejected {code entry : Nat} (hm : s.img.loaded = some m) (hop : s.scene.op = some op)
    (hcap : op.capture = false) (hread : readHostMaquette m.mqEnv s.hostMem op = .error (code, entry)) :
    slotDone s = slotEnded op.slot { state := .empty, mq := none } (fin 10 code) 3 entry 0x8008
      [v8 op.slot.val, v8 code, v32 entry] s := by
  simp only [slotDone, hop, hm, hcap, hread, Bool.false_eq_true, if_false]
  rfl

theorem slotDone_loaded {bs : List Byte} (hm : s.img.loaded = some m) (hop : s.scene.op = some op) (hcap : op.capture = false)
    (hread : readHostMaquette m.mqEnv s.hostMem op = .ok bs) :
    slotDone s = slotEnded op.slot { state := .valid, mq := some { readMaquette bs with slot := op.slot } } 0 2 0 0x8007
      [v8 op.slot.val, v32 (readMaquette bs).id.toNat] s := by
  simp only [slotDone, hop, hm, hcap, hread, Bool.false_eq_true, if_false]
  rfl

theorem readHostMaquette_unreadable {env : MqEnv} {mem : Mem} (h : mem.readAll op.addr.toNat 64 = none) :
    readHostMaquette env mem op = .error (1, 0) := by
  simp only [readHostMaquette, h]

end Done

end Sys2Proof.Machine

open Sys2Proof Sys2Proof.Machine

theorem slotOperationsBegin : Claim.SlotOperationsBegin := by
  intro s k hm hop hcasts
  have hfree : s.slotRefusal k = none := by
    rw [State.slotRefusal_eq hm, if_neg]
    rintro (h | ⟨c, hc, hwaits, hslot⟩)
    · simp [hop] at h
    · exact hcasts c hc hwaits hslot
  have hload := slotLoad_free (s := mqCtl 0 k s) hfree s.scene.addr none
  have hclear := slotClear_free (s := mqCtl 2 k s) hfree
  refine ⟨⟨_, congrArg (Host.Outcome.next ∘ Prod.snd) hload, ?_, rfl, rfl, rfl, rfl, rfl, fun j hj => ?_, rfl⟩,
    fun hid hsome hfit => ?_, ⟨_, congrArg (Host.Outcome.next ∘ Prod.snd) hclear, ?_, hop, rfl, rfl, fun j hj => ?_, rfl⟩⟩
  · simp
  · rw [mqStatus_slotSt, setSlot_slotSt_other hj]; rfl
  · have hcapture := slotCapture_free (s := mqCtl 1 k s) hfree hid hsome hfit
    exact ⟨_, congrArg (Host.Outcome.next ∘ Prod.snd ∘ Prod.snd) hcapture, rfl, rfl, rfl, rfl, rfl⟩
  · simp
  · rw [mqStatus_slotSt, setSlot_slotSt_other hj]; rfl

theorem slotOperationsRefused : Claim.SlotOperationsRefused := by
  intro s k hm hbusy i hi
  have href : s.slotRefusal k = some stBusy := by rw [State.slotRefusal_eq hm, if_pos hbusy]
  rcases hi with rfl | rfl | rfl
  · exact ⟨_, congrArg (Host.Outcome.next ∘ Prod.snd) (slotLoad_refused (s := mqCtl 0 k s) href ..), rfl, rfl, rfl⟩
  · exact ⟨_, congrArg (Host.Outcome.next ∘ Prod.snd ∘ Prod.snd) (slotCapture_refused (s := mqCtl 1 k s) href ..), rfl, rfl,
      rfl⟩
  · exact ⟨_, congrArg (Host.Outcome.next ∘ Prod.snd) (slotClear_refused (s := mqCtl 2 k s) href), rfl, rfl, rfl⟩

theorem slotOperationDone : Claim.SlotOperationDone := by
  intro s m op hm hop others
  refine ⟨fun es hcap htaken => ⟨_, congrArg Host.Outcome.next (slotDone_captured hm hop hcap htaken), ?_⟩,
    fun hcap hread => ⟨_, congrArg Host.Outcome.next
      (slotDone_rejected hm hop hcap (readHostMaquette_unreadable hread)), ?_⟩,
    fun bs hcap hread => ⟨_, congrArg Host.Outcome.next (slotDone_loaded hm hop hcap hread), ?_⟩⟩
  · simp only [slotEnded_slotSt_self, slotEnded_stState, slotEnded_stResult]
    exact ⟨trivial, rfl, trivial, trivial, slotEnded_frame ..⟩
  · simp only [slotEnded_slotSt_self, slotEnded_stState, slotEnded_stResult]
    exact ⟨trivial, trivial, rfl, slotEnded_frame ..⟩
  · simp only [slotEnded_slotSt_self, slotEnded_stState, slotEnded_stResult]
    exact ⟨trivial, rfl, trivial, trivial, slotEnded_frame ..⟩

/-- Settles O29, by its three claims: slot operations begin, are refused, and are done. -/
theorem maquetteSlots : Obligations.MaquetteSlots := ⟨slotOperationsBegin, slotOperationsRefused, slotOperationDone⟩

end

section
/-! Cast requests (R268 to R270): why a request of a single-chip group is refused, and the cast that one accepted leaves. -/

namespace Sys2Proof.Machine

variable {s : State} {k tb : Fin 4} {mq : Word} {next : Bool} {block : BitVec 48}

/-! ### A single-chip group -/

theorem State.alone_iff : s.alone = true ↔ s.group = [0] := beq_iff_eq

theorem State.position_alone (h : s.group = [0]) : s.position = 0 := if_pos h

/-! ### Refusal of a request -/

theorem castRefusal_notReady (h : s.power.state.val < 3) : s.castRefusal k tb mq next block = some stNotPermitted := if_pos h

theorem castRefusal_unheld (hup : 3 ≤ s.power.state.val) (h : s.slotEntries k mq = none) :
    s.castRefusal k tb mq next block = some stBadArg := by
  simp only [State.castRefusal, Nat.not_lt.2 hup, h, Option.isNone_none, Bool.true_or, if_true, if_false]

/-- A block that leaves too few blocks is no block of effect (R268). -/
theorem castRefusal_early (hs : s.group = [0]) (hup : 3 ≤ s.power.state.val) (h : block.toNat < (s.tb tb).blk.toNat + 3) :
    s.castRefusal k tb mq false block = some stBadArg := by
  simp only [State.castRefusal, Nat.not_lt.2 hup, State.alone_iff.2 hs, h, decide_true, Bool.not_false, Bool.and_self,
    Bool.or_true, if_true, if_false]

/-- A request that is well formed is refused for want of room alone (R269). -/
theorem castRefusal_room {es : List MqEntry} (hs : s.group = [0]) (hup : 3 ≤ s.power.state.val)
    (hes : s.slotEntries k mq = some es) (hdom : (s.domOfTb tb).isSome = true)
    (hlead : next = true ∨ (s.tb tb).blk.toNat + 3 ≤ block.toNat) :
    s.castRefusal k tb mq next block =
      if 8 ≤ s.castCount ∨ 1048576 < s.entriesDue tb (if next then s.openBoundary tb else block) + es.length then some stBusy
      else none := by
  have hinTime : (!next && decide (block.toNat < (s.tb tb).blk.toNat + 3)) = false := by
    rcases hlead with rfl | h
    · rfl
    · rw [decide_eq_false (Nat.not_lt.2 h), Bool.and_false]
  have hnone : (s.domOfTb tb).isNone = false := by rw [← Option.not_isSome, hdom]; rfl
  simp only [State.castRefusal, Nat.not_lt.2 hup, State.alone_iff.2 hs, hes, hnone, hinTime, Option.isNone_some, Bool.or_self,
    Bool.or_eq_true, decide_eq_true_eq, Bool.false_eq_true, if_true, if_false, Option.getD_some, maxDue]

/-! ### The answer -/

theorem castRegisters_refused {code : Byte}
    (h : s.castRefusal s.scene.castSlot s.scene.castTb s.scene.castMq s.scene.castNext s.scene.castBlk = some code) :
    castRegisters s = s.onScene fun x => { x with resId := 0, resStatus := code } := by
  simp only [castRegisters, castAsk, castRequest, h]

/-- The cast that an accepted request of a single-chip group leaves pending (R270, R273). -/
def State.requested (s : State) (es : List MqEntry) : CastSt :=
  { castId := BitVec.ofNat 16 s.scene.seq.toNat, slot := s.scene.castSlot, mqId := s.scene.castMq, tb := s.scene.castTb,
    block := if s.scene.castNext then (s.tb s.scene.castTb).blk + 4 else s.scene.castBlk, isNext := s.scene.castNext,
    caster := true, deferrals := 0, transfer := if s.scene.castNext then 1 else 0, ready := [], notReady := none, go := false,
    held := false, applyOn := [], asked := false, known := true, entries := if s.scene.castNext then es else [] }

theorem castRegisters_accepted {es : List MqEntry} (hs : s.group = [0])
    (hes : s.slotEntries s.scene.castSlot s.scene.castMq = some es)
    (h : s.castRefusal s.scene.castSlot s.scene.castTb s.scene.castMq s.scene.castNext s.scene.castBlk = none) :
    castRegisters s = s.onScene fun x => { x with
      seq := x.seq + 1, casts := x.casts ++ [s.requested es], resId := (s.requested es).castId, resStatus := stOk } := by
  simp only [castRegisters, castAsk, castRequest, h, State.alone_iff.2 hs, State.position_alone hs, hes, Bool.and_true, if_true,
    Option.getD_some, Nat.zero_mod, Nat.zero_mul, Nat.zero_add]
  rfl

end Sys2Proof.Machine

open Sys2Proof Sys2Proof.Machine

/-- Settles O30, by what a request answers: refused for its form, refused for want of room, or accepted. -/
theorem castRequest : Obligations.CastRequest := by
  intro s es hs c lead refused
  have hrefused : ∀ code, s.castRefusal c.castSlot c.castTb c.castMq c.castNext c.castBlk = some code → refused code :=
    fun code h => ⟨_, congrArg Host.Outcome.next (castRegisters_refused h), rfl, rfl, rfl⟩
  refine ⟨fun hup hes hdom hlead hcount hdue => ?_, fun h => hrefused 4 (castRefusal_notReady h),
    fun hup h => hrefused 3 (castRefusal_unheld hup h), fun hup hnext h => hrefused 3 ?_,
    fun hup hes hdom hlead hfull => hrefused 1 ((castRefusal_room hs hup hes hdom hlead).trans (if_pos hfull))⟩
  · have hroom : ¬(8 ≤ s.castCount ∨ 1048576 <
        s.entriesDue c.castTb (if c.castNext then s.openBoundary c.castTb else c.castBlk) + es.length) :=
      not_or.2 ⟨Nat.not_le.2 hcount, Nat.not_lt.2 hdue⟩
    have haccept := (castRefusal_room hs hup hes hdom hlead).trans (if_neg hroom)
    exact ⟨_, s.requested es, congrArg Host.Outcome.next (castRegisters_accepted hs hes haccept), rfl, rfl, rfl, rfl, rfl, rfl,
      rfl, rfl, rfl, rfl, rfl, fun hnext => if_neg (Bool.eq_false_iff.1 hnext), rfl, rfl⟩
  · rw [hnext]
    exact castRefusal_early hs hup h

end

section
/-! Pending casts: which cast an id names, how one is changed or dropped, and when one is cancelled (R273, R275). -/

namespace Sys2Proof.Machine

variable {s : State} {id : BitVec 16} {c : CastSt} {rest : List CastSt}

/-! ### The cast that an id names -/

theorem State.castsWaiting_find_absent (h : ∀ x ∈ s.scene.casts, x.castId ≠ id) :
    s.castsWaiting.find? (fun x => x.castId == id) = none :=
  List.find?_eq_none.2 fun x hx => by simpa using h x (State.mem_castsWaiting.1 hx).1

theorem State.castsWaiting_find_first (hcasts : s.scene.casts = c :: rest) (hwaits : c.applyOn = []) (hid : c.castId = id) :
    s.castsWaiting.find? (fun x => x.castId == id) = some c := by
  rw [State.castsWaiting, hcasts, List.filter_cons_of_pos (c.waits_iff.2 hwaits)]
  exact List.find?_cons_of_pos (beq_iff_eq.2 hid)

/-! ### Changing and dropping a cast -/

theorem mapIf_castId_absent (f : CastSt → CastSt) (h : ∀ x ∈ rest, x.castId ≠ id) :
    mapIf (fun x => x.castId == id) f rest = rest := by
  rw [mapIf, List.map_congr_left (g := fun x => x) fun x hx => if_neg (by simpa using h x hx), List.map_id']

theorem onCast_casts (id : BitVec 16) (f : CastSt → CastSt) (s : State) :
    (onCast id f s).scene.casts = mapIf (fun x => x.castId == id) f s.scene.casts := rfl

theorem onCast_first (f : CastSt → CastSt) (hcasts : s.scene.casts = c :: rest) (hid : c.castId = id)
    (hrest : ∀ x ∈ rest, x.castId ≠ id) : onCast id f s = s.onScene fun x => { x with casts := f c :: rest } := by
  have hmap : mapIf (fun x => x.castId == id) f (c :: rest) = f c :: rest :=
    congrArg₂ List.cons (if_pos (beq_iff_eq.2 hid)) (mapIf_castId_absent f hrest)
  rw [← hcasts] at hmap
  simp only [onCast, State.onScene, hmap]

theorem mem_dropCast {x : CastSt} : x ∈ (dropCast id s).scene.casts ↔ x ∈ s.scene.casts ∧ x.castId ≠ id :=
  List.mem_filter.trans (and_congr_right fun _ => bne_iff_ne)

theorem dropCast_absent (h : ∀ x ∈ s.scene.casts, x.castId ≠ id) : (dropCast id s).scene.casts = s.scene.casts :=
  List.filter_eq_self.2 fun x hx => bne_iff_ne.2 (h x hx)

theorem dropCast_first (hcasts : s.scene.casts = c :: rest) (hid : c.castId = id) (hrest : ∀ x ∈ rest, x.castId ≠ id) :
    (dropCast id s).scene.casts = rest := by
  have hdrop : (c :: rest).filter (fun x => x.castId != id) = rest := by
    rw [List.filter_cons_of_neg (by simpa using hid)]
    exact List.filter_eq_self.2 fun x hx => bne_iff_ne.2 (hrest x hx)
  exact (congrArg (List.filter fun x => x.castId != id) hcasts).trans hdrop

/-! ### Cancelling (R275) -/

/-- In a single-chip group a cast is settled once it is held or due, or staging for its block has closed. -/
theorem State.castSettled_alone (hs : s.group = [0]) :
    s.castSettled c = (c.go || c.held ||
      (!(s.tb c.tb).open_ && !c.isNext && decide (c.block.toNat ≤ (s.tb c.tb).blk.toNat + 1))) :=
  if_pos (State.alone_iff.2 hs)

theorem castCancel_unknown (h : s.castsWaiting.find? (fun x => x.castId == id) = none) :
    castCancel id s = (stNotPermitted, s) := by
  simp only [castCancel, h]

theorem castCancel_settled (h : s.castsWaiting.find? (fun x => x.castId == id) = some c) (hsettled : s.castSettled c = true) :
    castCancel id s = (stNotPermitted, s) := by
  simp only [castCancel, h, hsettled, if_true]

/-- A cast that is not settled ends cancelled, and the event CAST_CANCELLED says so. -/
theorem castCancel_open (hs : s.group = [0]) (h : s.castsWaiting.find? (fun x => x.castId == id) = some c)
    (hopen : s.castSettled c = false) :
    castCancel id s = (stOk, raise 0x8009 [v16 id.toNat] (castLast c 3 c.block (dropCast id s))) := by
  simp only [castCancel, h, hopen, State.alone_iff.2 hs, Bool.false_eq_true, if_true, if_false]

end Sys2Proof.Machine

open Sys2Proof Sys2Proof.Machine

theorem castCancels : Claim.CastCancel := by
  intro s id c hs
  refine ⟨fun hfind hgo hheld hnext hopen => ?_,
    fun hnone => congrArg (Host.Outcome.next ∘ Prod.snd) (castCancel_unknown hnone),
    fun hfind hnext hclosed hpast => congrArg (Host.Outcome.next ∘ Prod.snd) (castCancel_settled hfind ?_),
    fun hfind hheld => congrArg (Host.Outcome.next ∘ Prod.snd) (castCancel_settled hfind ?_),
    fun rest hcasts hid hrunning hrest => ?_⟩
  · have hsettled : s.castSettled c = false := by
      rw [State.castSettled_alone hs, hgo, hheld, hnext]
      rcases hopen with h | h
      · rw [h]; rfl
      · rw [decide_eq_false (Nat.not_le.2 h), Bool.and_false]; rfl
    have hid : c.castId = id := by simpa using List.find?_some hfind
    refine ⟨_, congrArg (Host.Outcome.next ∘ Prod.snd) (castCancel_open hs hfind hsettled), ?_⟩
    rw [raise_scene]
    exact ⟨fun x hx => (mem_dropCast.1 hx).2, fun x hx => mem_dropCast.trans (and_iff_left hx), hid, rfl,
      by rw [raise_eq]; rfl⟩
  · rw [State.castSettled_alone hs, hclosed, hnext, decide_eq_true hpast]
    simp
  · rw [State.castSettled_alone hs, hheld, Bool.or_true, Bool.true_or]
  · exact congrArg Host.Outcome.next ((onCast_first _ hcasts hid hrest).trans (by rw [if_pos hrunning]; rfl))

end

section
/-! The messages of a cast (R284 to R288): what each does to the cast that it names, and what one does that names no cast here. -/

namespace Sys2Proof.Machine

variable {s : State} {m : CastMsg} {c : CastSt} {rest : List CastSt}

theorem receiveCast_seen (h : s.castSeen m = true) : receiveCast m s = s := if_pos h

theorem receiveCast_fresh (h : s.castSeen m = false) : receiveCast m s = castMessage m (noteCast m s) :=
  if_neg (Bool.eq_false_iff.1 h)

/-! ### A message to a cast that waits -/

/-- What a message does to the cast `c` that it names. -/
def actOn (c : CastSt) (m : CastMsg) (s : State) : State :=
  match m.kind with
  | .announce => castAnnounced m s
  | .lost => castReported m s
  | .ready => onCast c.castId (fun x => { x with ready := m.position :: x.ready }) s
  | .notReady => onCast c.castId (fun x => { x with notReady := some (x.notReady.getD (m.position, m.reason)) }) s
  | .go => onCast c.castId (fun x => { x with go := true }) s
  | .defer => castDeferred c m.block m.deferrals.toNat s
  | .abort => castAborted c m.reason s

theorem castMessage_waiting (h : s.castsWaiting.find? (fun x => x.castId == m.castId) = some c) :
    castMessage m s = actOn c m s := by
  unfold castMessage actOn
  cases m.kind <;> simp only [h]

/-- What a message that names no cast here does. -/
def actAlone (m : CastMsg) (s : State) : State :=
  match m.kind with
  | .announce => castAnnounced m s
  | .lost => castReported m s
  | .defer => castLearned m s
  | .abort => castAborted (castOf m false false) m.reason s
  | .ready | .notReady | .go => s

theorem castMessage_absent (h : ∀ x ∈ s.scene.casts, x.castId ≠ m.castId) : castMessage m s = actAlone m s := by
  have hfind := State.castsWaiting_find_absent h
  unfold castMessage actAlone
  cases m.kind <;> simp only [hfind]

theorem actAlone_ready (h : m.kind = .ready) : actAlone m s = s := by
  simp only [actAlone, h]

/-- The first message of its kind to the first of the casts. -/
theorem receiveCast_first (hfresh : s.castSeen m = false) (hcasts : s.scene.casts = c :: rest) (hwaits : c.applyOn = [])
    (hid : c.castId = m.castId) : receiveCast m s = actOn c m (noteCast m s) :=
  (receiveCast_fresh hfresh).trans
    (castMessage_waiting (State.castsWaiting_find_first (s := noteCast m s) hcasts hwaits hid))

theorem receiveCast_absent (hfresh : s.castSeen m = false) (h : ∀ x ∈ s.scene.casts, x.castId ≠ m.castId) :
    receiveCast m s = actAlone m (noteCast m s) :=
  (receiveCast_fresh hfresh).trans (castMessage_absent (s := noteCast m s) h)

theorem castAnnounced_new (h : ∀ x ∈ s.scene.casts, x.castId ≠ m.castId) :
    castAnnounced m s = s.onScene fun x => { x with
      casts := x.casts ++ [castOf m true (decide (m.block.toNat ≤ (s.tb m.timebase).blk.toNat + 2))] } := by
  refine if_neg fun hany => ?_
  obtain ⟨x, hx, hmatch⟩ := List.any_eq_true.1 hany
  exact h x hx (beq_iff_eq.1 (Bool.and_eq_true_iff.1 hmatch).1)

/-! ### Deferral and abort -/

/-- A deferred cast: its answers and its shadow are discarded (R286). -/
def CastSt.deferredTo (c : CastSt) (block : BitVec 48) (deferrals : Nat) : CastSt :=
  { c with block := block, deferrals := deferrals, ready := [], notReady := none, transfer := 0, entries := [], asked := false,
           go := false }

theorem State.firstNotReady_eq (s : State) (c : CastSt) :
    (s.firstNotReady c).2.2 = { s with free := (s.firstNotReady c).2.2.free } := by
  unfold State.firstNotReady
  split <;> rfl

theorem castDeferred_scene (c : CastSt) (block : BitVec 48) (n : Nat) (s : State) :
    (castDeferred c block n s).scene = (onCast c.castId (fun x => x.deferredTo block n) s).scene := by
  rw [castDeferred, raise_scene, State.firstNotReady_eq]
  rfl

theorem castDeferred_eq (c : CastSt) (block : BitVec 48) (n : Nat) (s : State) :
    let t := castDeferred c block n s
    t = { s with scene := t.scene, ao := t.ao, evt := t.evt, free := t.free } := by
  simp only [castDeferred]
  rw [raise_eq, State.firstNotReady_eq]
  rfl

theorem castAborted_scene (c : CastSt) (reason : Byte) (s : State) :
    (castAborted c reason s).scene = (castLast c 2 c.block (dropCast c.castId s)).scene := raise_scene ..

theorem castAborted_eq (c : CastSt) (reason : Byte) (s : State) :
    let t := castAborted c reason s
    t = { s with scene := t.scene, ao := t.ao, evt := t.evt } := by
  simp only [castAborted]
  rw [raise_eq]
  rfl

/-- A chip that learns of a cast from its deferral holds it, unannounced, at the new block (R285, R286). -/
theorem castLearned_casts (h : ∀ x ∈ s.scene.casts, x.castId ≠ m.castId) :
    (castLearned m s).scene.casts = s.scene.casts ++ [(castOf m false false).deferredTo m.block m.deferrals.toNat] := by
  rw [castLearned, castDeferred_scene, onCast_casts]
  simp only [State.onScene_scene, mapIf, List.map_append]
  exact congrArg₂ _ (mapIf_castId_absent _ h) (congrArg (fun x => [x]) (if_pos (beq_self_eq_true _)))

end Sys2Proof.Machine

open Sys2Proof Sys2Proof.Machine

theorem castMessages : Claim.CastMessages := by
  intro s m c rest fresh noted
  refine ⟨fun hfresh hnew => ?_, fun hcasts hwaits hid hrest => ?_, fun habsent => ?_, fun k hseen => ?_⟩
  · have hact : receiveCast { m with kind := .announce } s = _ := (receiveCast_absent hfresh hnew).trans (castAnnounced_new hnew)
    exact ⟨_, _, congrArg Host.Outcome.next hact, rfl, rfl, rfl, rfl, rfl, rfl, rfl, rfl, rfl, rfl, rfl⟩
  · have hact : ∀ k, fresh k →
        receiveCast { m with kind := k } s = actOn c { m with kind := k } (noteCast { m with kind := k } s) :=
      fun k hfresh => receiveCast_first hfresh hcasts hwaits hid
    have hrest' : ∀ x ∈ rest, x.castId ≠ c.castId := hid ▸ hrest
    have hnote : ∀ k f, onCast c.castId f (noteCast { m with kind := k } s) =
        { s with scene := noted k { s.scene with casts := f c :: rest } } := fun k f =>
      onCast_first (s := noteCast { m with kind := k } s) f hcasts rfl hrest'
    refine ⟨fun hfresh => congrArg Host.Outcome.next ((hact _ hfresh).trans (hnote ..)), fun hfresh hnone => ?_,
      fun hfresh => congrArg Host.Outcome.next ((hact _ hfresh).trans (hnote ..)),
      fun hfresh => ⟨_, congrArg Host.Outcome.next (hact _ hfresh), ?_, castDeferred_eq ..⟩,
      fun hfresh => ⟨_, congrArg Host.Outcome.next (hact _ hfresh), ?_, ?_, ?_, castAborted_eq ..⟩⟩
    · refine congrArg Host.Outcome.next ((hact _ hfresh).trans ((hnote ..).trans ?_))
      rw [hnone]; rfl
    · exact (congrArg Scene.casts (castDeferred_scene ..)).trans (congrArg (fun t => t.scene.casts) (hnote ..))
    · exact (congrArg Scene.casts (castAborted_scene ..)).trans (dropCast_first hcasts rfl hrest')
    · exact (congrArg Scene.lastId (castAborted_scene ..)).trans hid
    · exact congrArg Scene.lastOutcome (castAborted_scene ..)
  · have hact := fun k (hfresh : fresh k) =>
      congrArg (Host.Outcome.next (φ := Fault) (ρ := Refusal)) (receiveCast_absent hfresh habsent)
    refine ⟨fun hfresh => ⟨_, _, hact _ hfresh, castLearned_casts habsent, rfl, rfl, rfl, rfl⟩,
      fun hfresh => ⟨_, hact _ hfresh, ?_, ?_, ?_⟩⟩
    · exact (congrArg Scene.casts (castAborted_scene ..)).trans (dropCast_absent habsent)
    · exact congrArg Scene.lastId (castAborted_scene ..)
    · exact congrArg Scene.lastOutcome (castAborted_scene ..)
  · have hkeeps : ∀ k', k = k' → Host.Outcome.next (receiveCast { m with kind := k' } s) =
        (.next s : Host.Outcome State Fault Refusal) := by
      rintro k' rfl
      exact congrArg Host.Outcome.next (receiveCast_seen hseen)
    exact ⟨hkeeps _, hkeeps _, hkeeps _, hkeeps _, hkeeps _, hkeeps _⟩

end

section
/-! The frames of a cast (R445): what a lane receives and what lanes send leaves in each lane. -/

namespace Sys2Proof.Machine

variable {s : State} {k l : Fin 4}

theorem LaneSt.isUp_iff (x : LaneSt) : x.isUp = true ↔ x.state = .up := beq_iff_eq

/-! ### Sending on lanes -/

theorem laneSend_lane_other (h : l ≠ k) (f : LinkOut) (s : State) : (laneSend l f s).lane k = s.lane k :=
  State.onLane_lane_other s l k _ h

theorem laneSend_lane_up (h : (s.lane l).isUp = true) (f : LinkOut) : (laneSend l f s).lane l = (s.lane l).give f :=
  (State.onLane_lane_self s l _).trans (if_pos h)

theorem lanesSend_lane_absent {ls : List (Fin 4)} (h : k ∉ ls) (f : LinkOut) (s : State) :
    (lanesSend ls f s).lane k = s.lane k :=
  each_field (fun t => t.lane k) ls _ (fun _ hl t => laneSend_lane_other (ne_of_mem_of_not_mem hl h) f t) s

/-- A lane in service that is listed once is given the frame once. -/
theorem lanesSend_lane_up {ls : List (Fin 4)} (honce : ls.Nodup) (hk : k ∈ ls) (hup : (s.lane k).isUp = true) (f : LinkOut) :
    (lanesSend ls f s).lane k = (s.lane k).give f := by
  induction ls generalizing s with
  | nil => exact absurd hk List.not_mem_nil
  | cons l ls ih =>
    obtain ⟨hl, hls⟩ := List.nodup_cons.1 honce
    by_cases hkl : k = l
    · subst hkl
      exact (lanesSend_lane_absent hl f _).trans (laneSend_lane_up hup f)
    · have hsame := laneSend_lane_other (Ne.symm hkl) f s
      exact (ih hls (List.mem_of_ne_of_mem hkl hk) (hsame ▸ hup)).trans (congrArg (LaneSt.give · f) hsame)

/-! ### The lanes of the group -/

theorem State.nodup_groupLanes (s : State) : s.groupLanes.Nodup := ((List.nodup_finRange 4).filter _).filter _

theorem State.isUp_of_mem_groupLanes (h : k ∈ s.groupLanes) : (s.lane k).isUp = true :=
  (List.mem_filter.1 (List.mem_filter.1 h).1).2

/-- The group's lanes are those of two states whose lanes have the same service states and roles. -/
theorem State.groupLanes_congr {t : State} (hstate : ∀ k, (t.lane k).state = (s.lane k).state)
    (hcfg : ∀ k, (t.lane k).cfg = (s.lane k).cfg) : t.groupLanes = s.groupLanes := by
  simp only [State.groupLanes, State.lanesUp, LaneSt.isUp, hstate, hcfg]

/-! ### Receiving on a lane -/

theorem laneRx_up (h : (s.lane l).isUp = true) : laneRx l s = s.onLane l fun x => { x with lastRx := x.lastRx + 1 } :=
  congrArg (fun v => s.onRed fun r => { r with lanes := v }) (upd_congr (if_pos h))

theorem laneRx_lane_other (h : k ≠ l) (s : State) : (laneRx l s).lane k = s.lane k := State.onLane_lane_other s l k _ h.symm

theorem laneRx_groupLanes (l : Fin 4) (s : State) : (laneRx l s).groupLanes = s.groupLanes := by
  have hlane : ∀ k, ((laneRx l s).lane k).state = (s.lane k).state ∧ ((laneRx l s).lane k).cfg = (s.lane k).cfg := fun k => by
    by_cases hk : k = l
    · subst hk
      rw [laneRx, State.onLane_lane_self]
      split <;> exact ⟨rfl, rfl⟩
    · rw [laneRx_lane_other hk]; exact ⟨rfl, rfl⟩
  exact State.groupLanes_congr (fun k => (hlane k).1) (fun k => (hlane k).2)

/-! ### A CAST frame -/

variable {m : CastMsg}

theorem castFrame_down (h : (s.lane l).isUp = false) : castFrame l m s = s := if_neg (Bool.eq_false_iff.1 h)

theorem castFrame_seen (h : (s.lane l).isUp = true) (hseen : s.castSeen m = true) : castFrame l m s = laneRx l s :=
  (if_pos h).trans (if_pos hseen)

/-- A frame that a lane delivers has been passed on to every other lane of the group. -/
def passedOn (l : Fin 4) (m : CastMsg) (s : State) : State :=
  lanesSend (s.groupLanes.filter (· != l)) (.cast m) (laneRx l s)

theorem passedOn_eq (l : Fin 4) (m : CastMsg) (s : State) : passedOn l m s = { s with red := (passedOn l m s).red } :=
  lanesSend_eq ..

theorem passedOn_lane_group (hkl : k ≠ l) (hk : k ∈ s.groupLanes) : (passedOn l m s).lane k = (s.lane k).give (.cast m) := by
  have hother := laneRx_lane_other hkl s
  have hlisted : k ∈ s.groupLanes.filter (· != l) := List.mem_filter.2 ⟨hk, bne_iff_ne.2 hkl⟩
  have hup : ((laneRx l s).lane k).isUp = true := hother ▸ State.isUp_of_mem_groupLanes hk
  exact (lanesSend_lane_up (s.nodup_groupLanes.filter _) hlisted hup _).trans (congrArg (LaneSt.give · (.cast m)) hother)

theorem passedOn_lane_other (hkl : k ≠ l) (hk : k ∉ s.groupLanes) : (passedOn l m s).lane k = s.lane k :=
  (lanesSend_lane_absent (fun h => hk (List.mem_filter.1 h).1) _ _).trans (laneRx_lane_other hkl s)

/-- A frame that has not been seen is passed on, and acts. -/
theorem castFrame_fresh (h : (s.lane l).isUp = true) (hfresh : s.castSeen m = false) :
    castFrame l m s = receiveCast m (passedOn l m s) := by
  rw [passedOn, ← laneRx_groupLanes l s]
  exact (if_pos h).trans (if_neg (Bool.eq_false_iff.1 hfresh))

end Sys2Proof.Machine

open Sys2Proof Sys2Proof.Machine

theorem castFrames : Claim.CastFrames := by
  intro s l m
  refine ⟨fun hdown => congrArg Host.Outcome.next (castFrame_down (Bool.eq_false_iff.2 (mt (LaneSt.isUp_iff _).1 hdown))),
    fun hup hseen => ?_, fun hup hfresh hready habsent => ?_⟩
  · have hisUp := (LaneSt.isUp_iff _).2 hup
    exact congrArg Host.Outcome.next ((castFrame_seen hisUp hseen).trans (laneRx_up hisUp))
  · have hisUp := (LaneSt.isUp_iff _).2 hup
    have hscene : (passedOn l m s).scene = s.scene := by rw [passedOn_eq]
    have hact : castFrame l m s = noteCast m (passedOn l m s) := (castFrame_fresh hisUp hfresh).trans <|
      (receiveCast_absent (by rw [State.castSeen, hscene]; exact hfresh) (by rw [hscene]; exact habsent)).trans
        (actAlone_ready hready)
    refine ⟨_, congrArg Host.Outcome.next hact, fun k hkl hk => ?_, fun k hkl hk => passedOn_lane_other hkl hk,
      congrArg (fun x : Scene => ((m.position, m.castId, m.kind, m.block) :: x.seen).take 256) hscene,
      (congrArg Scene.casts hscene :), ?_⟩
    · have hlane := passedOn_lane_group (m := m) hkl hk
      exact ⟨congrArg LaneSt.window hlane, congrArg LaneSt.seq hlane⟩
    · rw [passedOn_eq]; rfl

/-- Settles O31, by its three claims: casts are cancelled, their messages act once, and their frames are passed on. -/
theorem castExchange : Obligations.CastExchange := ⟨castCancels, castMessages, castFrames⟩

end

section
/-! Clock inputs: what the loss of one leaves in the timebases that use it, and in the rest of the state (R291, R300). -/

namespace Sys2Proof.Machine

theorem State.onTb_fixed {s : State} {t : Fin 4} {f : Timebase → Timebase} (h : f (s.tb t) = s.tb t) : s.onTb t f = s := by
  simp only [State.onTb, upd_fixed h]

/-- What the loss of its source does to a timebase (R300). -/
def Timebase.lose (x : Timebase) : Timebase :=
  { x with sourceValid := false, validRun := 0, goodRun := 0
           lostDue := if x.state = .locked ∨ x.state = .syntonised then some x.source else x.lostDue }

theorem sourceLost_eq (t : Fin 4) (s : State) : sourceLost t s = s.onTb t Timebase.lose := by
  simp only [sourceLost, Bool.or_eq_true, beq_iff_eq]
  rfl

/-- One update of each timebase of a list that names none twice. -/
theorem each_onTb_tb (f : Timebase → Timebase) {l : List (Fin 4)} (h : l.Nodup) (s : State) (u : Fin 4) :
    (each l (fun t x => x.onTb t f) s).tb u = if u ∈ l then f (s.tb u) else s.tb u := by
  induction l generalizing s with
  | nil => rfl
  | cons t l ih =>
    obtain ⟨ht, hl⟩ := List.nodup_cons.1 h
    rw [each_cons, ih hl]
    by_cases hu : t = u
    · subst hu; simp [ht]
    · simp [State.onTb_tb_other _ _ _ _ hu, Ne.symm hu]

theorem loseSources_each (p : Timebase → Bool) (s : State) :
    loseSources p s = each (List.finRange 4) (fun t x => x.onTb t fun y => if p y then y.lose else y) s := by
  refine congrArg (fun f => each (List.finRange 4) f s) (funext fun t => funext fun x => ?_)
  split
  · next h => exact (sourceLost_eq t x).trans (State.onTb_congr (if_pos h).symm)
  · next h => exact (State.onTb_fixed (if_neg h)).symm

/-- Every timebase that satisfies the test loses its source, and the others stay as they are. -/
theorem loseSources_tb (p : Timebase → Bool) (s : State) (u : Fin 4) :
    (loseSources p s).tb u = if p (s.tb u) then (s.tb u).lose else s.tb u := by
  rw [loseSources_each, each_onTb_tb _ (List.nodup_finRange 4), if_pos (List.mem_finRange u)]

theorem loseSources_rest (p : Timebase → Bool) (s : State) :
    loseSources p s = { s with clk := { s.clk with tbs := (loseSources p s).clk.tbs } } := by
  rw [loseSources_each]
  refine each_keeps (fun t => t = { s with clk := { s.clk with tbs := t.clk.tbs } }) _ _ (fun u _ t ht => ?_) s rfl
  rw [ht]
  rfl

theorem setInput_tb (i : ClkInput) (ok : Bool) (s : State) (u : Fin 4) : (setInput i ok s).tb u = s.tb u := by
  cases i <;> rfl

theorem setInput_rest (i : ClkInput) (ok : Bool) (s : State) : setInput i ok s = { s with clk := (setInput i ok s).clk } := by
  cases i <;> rfl

/-! ### The loss of an input (R291) -/

theorem inputLost_tb (i : ClkInput) (s : State) (u : Fin 4) :
    (inputLost i s).tb u = if (s.tb u).uses i then (s.tb u).lose else s.tb u := by
  rw [inputLost, raise_tb, loseSources_tb, setInput_tb]

/-- Beside the timebases the clock island takes the input's own flags, and nothing else. -/
theorem inputLost_clk (i : ClkInput) (s : State) :
    (inputLost i s).clk = { (setInput i false s).clk with tbs := (inputLost i s).clk.tbs } := by
  rw [inputLost, raise_clk]
  exact congrArg State.clk (loseSources_rest _ _)

theorem inputLost_rest (i : ClkInput) (s : State) :
    inputLost i s = { s with clk := (inputLost i s).clk, ao := (inputLost i s).ao, evt := (inputLost i s).evt } := by
  have hraise := raise_eq 0x1009 [v8 (Config.inputCode (inputNumber i)).toNat]
    (loseSources (fun x => x.uses i) (setInput i false s))
  rw [inputLost, hraise, loseSources_rest, setInput_rest]

end Sys2Proof.Machine

open Sys2Proof Sys2Proof.Machine

/-- Settles O19: a loss clears the flag of the input (`inputLost_clk`) and takes the source from the timebases that use it
(`inputLost_tb`); the other commands are one update of the clock island each. -/
theorem clockInputs : Obligations.ClockInputs := by
  intro s k lost
  have hlost : ∀ i, lost i (inputLost i s) := fun i =>
    ⟨fun u => ⟨fun hu => (inputLost_tb i s u).trans (if_pos hu),
        fun hu => (inputLost_tb i s u).trans (if_neg (Bool.eq_false_iff.1 hu))⟩, inputLost_rest i s⟩
  have href : ∀ i, (inputLost i s).clk.refValid = (setInput i false s).clk.refValid := fun i => by
    rw [inputLost_clk]
  have hwck : ∀ i, (inputLost i s).clk.wckValid = (setInput i false s).clk.wckValid := fun i => by
    rw [inputLost_clk]
  exact ⟨rfl, rfl, ⟨_, rfl, rfl, rfl⟩, ⟨_, rfl, href _, hlost _⟩, ⟨_, rfl, href _, hlost _⟩, ⟨_, rfl, hwck _, hlost _⟩,
    rfl, rfl⟩

end

section
/-! Audio PLLs: how one acquires a band, and what a phase comparison does in each state (R309 to R312, R602). -/

namespace Sys2Proof.Machine

theorem State.onApll_onApll (s : State) (a : Fin 4) (f g : Apll → Apll) :
    (s.onApll a f).onApll a g = s.onApll a (fun x => g (f x)) := by
  simp [State.onApll, upd_upd]

theorem State.onApll_congr {s : State} {a : Fin 4} {f g : Apll → Apll} (h : f (s.apll a) = g (s.apll a)) :
    s.onApll a f = s.onApll a g := by
  simp only [State.onApll, upd_congr h]

@[simp] theorem raise_apll (code : Nat) (vals : Vals) (s : State) (a : Fin 4) : (raise code vals s).apll a = s.apll a := by
  rw [State.apll, raise_clk]; rfl

variable {s : State} {a : Fin 4}

/-! ### Acquiring a band (R310) -/

/-- Band mode 2 takes the band of the control register. -/
theorem Apll.acquire_field {x : Apll} (h : x.bandMode = 2) (last : Option (BitVec 6)) : x.acquire last =
    { x.reseed with mclk := false, aligned := false, good := 0, bad := 0, step := 0
                    state := .acquiring, band := x.bandField, lastGood := false } := by
  simp [Apll.acquire, h]

/-- Band mode 1 takes the last-good band where there is one. -/
theorem Apll.acquire_lastGood {x : Apll} (h : x.bandMode = 1) (b : BitVec 6) : x.acquire (some b) =
    { x.reseed with mclk := false, aligned := false, good := 0, bad := 0, step := 0
                    state := .acquiring, band := b, lastGood := true } := by
  simp [Apll.acquire, h]

/-- Any other use begins a search. -/
theorem Apll.acquire_search {x : Apll} {last : Option (BitVec 6)} (h2 : x.bandMode ≠ 2) (h1 : x.bandMode = 1 → last = none) :
    x.acquire last =
    { x.reseed with mclk := false, aligned := false, good := 0, bad := 0, step := 0
                    state := .searching, band := 0, lastGood := false } := by
  unfold Apll.acquire
  dsimp only
  split
  · next hmode => exact absurd (h1 (BitVec.eq_of_toNat_eq hmode)) (Option.some_ne_none _)
  · next hmode => exact absurd (BitVec.eq_of_toNat_eq hmode) h2
  · rfl

theorem apllWriteEnable_new (h : (s.apll a).enable = false) : apllWriteEnable a true s =
    apllAcquire a (s.onApll a fun y => { y with enable := true, inUse := s.apllUse a }) := by
  simp [apllWriteEnable, apllEnable, h]

theorem apllWriteEnable_off (h : (s.apll a).enable = true) : apllWriteEnable a false s = apllDisable a s := by
  simp [apllWriteEnable, h]

theorem apllRestart_enabled (h : (s.apll a).enable = true) : apllRestart a s = apllAcquire a s := if_pos h

/-! ### The band search (R310) -/

/-- The bit that a binary step tries, as the statement writes it. -/
theorem searchBit_eq {n : Nat} (h : n < 6) : 2 ^ (5 - n) = 32 / 2 ^ n := by
  interval_cases n <;> rfl

theorem bandStep_binary (m : BandMeas) (h : (s.apll a).state = .searching) (hn : (s.apll a).step < 6) :
    bandStep a m s = s.onApll a fun y =>
      { y with band := if m.below then y.band ||| BitVec.ofNat 6 (32 / 2 ^ y.step) else y.band, step := y.step + 1 } := by
  rw [bandStep, if_pos h, if_pos hn]
  exact State.onApll_congr (by simp only [searchBit_eq hn])

theorem bandStep_verify (m : BandMeas) (h : (s.apll a).state = .searching) (hn : 6 ≤ (s.apll a).step) :
    bandStep a m s = if m.inBand then s.onApll a fun y => { y with state := .acquiring, step := 0 }
      else raise 0x1003 [v8 a.val] (s.onApll a fun y => { y with state := .failed }) := by
  rw [bandStep, if_pos h, if_neg (Nat.not_lt.2 hn)]

/-! ### The modulator runs between comparisons (R309, R312) -/

/-- The modulator changes its dither, its accumulators, its carries and what it last added to the ratio. -/
theorem Apll.run_eq (n : Nat) (x : Apll) : x.run n =
    { x with lfsr := (x.run n).lfsr, mash := (x.run n).mash, carries := (x.run n).carries, divStep := (x.run n).divStep } := by
  induction n generalizing x with
  | zero => rfl
  | succ n ih => exact ih x.clock

/-- Up to a comparison the modulator has run, and the fraction may have moved. -/
theorem Apll.follow_eq (x : Apll) (cycles : Nat) (rate err : Int) :
    let y := x.follow cycles rate err
    y = { x with lfsr := y.lfsr, mash := y.mash, carries := y.carries, divStep := y.divStep, frac := y.frac } := by
  have hrun := x.run_eq cycles
  unfold Apll.follow
  dsimp only
  split
  · generalize x.run cycles = y at hrun ⊢
    rw [hrun]
  · generalize x.run cycles = y at hrun ⊢
    rw [hrun]

@[simp] theorem Apll.follow_state (x : Apll) (cycles : Nat) (rate err : Int) : (x.follow cycles rate err).state = x.state := by
  rw [Apll.follow_eq]
@[simp] theorem Apll.follow_good (x : Apll) (cycles : Nat) (rate err : Int) : (x.follow cycles rate err).good = x.good := by
  rw [Apll.follow_eq]
@[simp] theorem Apll.follow_bad (x : Apll) (cycles : Nat) (rate err : Int) : (x.follow cycles rate err).bad = x.bad := by
  rw [Apll.follow_eq]
@[simp] theorem Apll.follow_aligned (x : Apll) (cycles : Nat) (rate err : Int) :
    (x.follow cycles rate err).aligned = x.aligned := by
  rw [Apll.follow_eq]
@[simp] theorem Apll.follow_inUse (x : Apll) (cycles : Nat) (rate err : Int) : (x.follow cycles rate err).inUse = x.inUse := by
  rw [Apll.follow_eq]

/-- FREEZE holds the fraction (R312). -/
theorem Apll.follow_frac_freeze {x : Apll} (h : x.state = .freeze) (cycles : Nat) (rate err : Int) :
    (x.follow cycles rate err).frac = x.frac := by
  have hstate : (x.run cycles).state = .freeze := by rw [Apll.run_eq, h]
  have hfrac : (x.run cycles).frac = x.frac := by rw [Apll.run_eq]
  simp [Apll.follow, hstate, hfrac]

/-! ### A phase comparison (R311, R312) -/

/-- What every comparison does to its APLL before it counts: the modulator has run for the block, the loop has given its
fraction, and the difference is kept. -/
def State.compared (s : State) (a : Fin 4) (err : Int) (y : Apll) : Apll :=
  { y.follow (s.compareCycles a) ((s.apll a).inUse.elim 0 fun u => s.rateOf u.1) err with err := BitVec.ofInt 32 err }

variable {err : Int}

/-- Comparisons within 2 ns in a row, this one counted. -/
def Apll.goodRun (x : Apll) (err : Int) : Nat := if err.natAbs ≤ 2000 then x.good + 1 else 0

/-- Comparisons beyond 50 ns in a row, this one counted. -/
def Apll.badRun (x : Apll) (err : Int) : Nat := if 50000 < err.natAbs then x.bad + 1 else 0

theorem Apll.goodRun_near (x : Apll) (h : |err| ≤ 2000) : x.goodRun err = x.good + 1 :=
  if_pos (by rw [Int.abs_eq_natAbs] at h; omega)

theorem Apll.goodRun_far (x : Apll) (h : 2000 < |err|) : x.goodRun err = 0 :=
  if_neg (by rw [Int.abs_eq_natAbs] at h; omega)

theorem Apll.badRun_near (x : Apll) (h : |err| ≤ 50000) : x.badRun err = 0 :=
  if_neg (by rw [Int.abs_eq_natAbs] at h; omega)

theorem Apll.badRun_far (x : Apll) (h : 50000 < |err|) : x.badRun err = x.bad + 1 :=
  if_pos (by rw [Int.abs_eq_natAbs] at h; omega)

/-- The states in which comparisons count toward lock. -/
def Apll.Seeking (x : Apll) : Prop := x.state = .acquiring ∨ x.state = .freeze

theorem Apll.Seeking.not_locked {x : Apll} (h : x.Seeking) : x.state ≠ .locked := by
  rcases h with h | h <;> rw [h] <;> decide

/-- While it acquires or is in FREEZE, 256 comparisons within 2 ns in a row lock an APLL. -/
theorem comparePhase_seeking (h : (s.apll a).Seeking) :
    comparePhase a err s = s.onApll a fun y => { s.compared a err y with
      good := y.goodRun err, bad := 0, state := if 256 ≤ y.goodRun err then .locked else (s.compared a err y).state } := by
  rcases h with h | h
  · simp only [comparePhase, State.onApll_apll_self, Apll.follow_state, h, State.onApll_onApll]
    exact State.onApll_congr (by simp [State.compared, Apll.goodRun, h])
  · simp only [comparePhase, State.onApll_apll_self, Apll.follow_state, h, State.onApll_onApll]
    exact State.onApll_congr (by simp [State.compared, Apll.goodRun, h])

theorem comparePhase_locked (h : (s.apll a).state = .locked) :
    comparePhase a err s = if 4 ≤ (s.apll a).badRun err then raise 0x1002 [v8 a.val, vI32 err]
        (s.onApll a fun y => { s.compared a err y with state := .freeze, good := 0, bad := 0 })
      else s.onApll a fun y => { s.compared a err y with bad := y.badRun err } := by
  simp only [comparePhase, State.onApll_apll_self, Apll.follow_state, Apll.follow_bad, h, State.onApll_onApll, Apll.badRun]
  exact if_congr Iff.rfl rfl (State.onApll_congr (by simp [State.compared]))

/-- Fewer than 256 comparisons in a row are counted. -/
theorem comparePhase_counts (h : (s.apll a).Seeking) (hfew : (s.apll a).goodRun err < 256) :
    comparePhase a err s = s.onApll a fun y => { s.compared a err y with good := (s.apll a).goodRun err, bad := 0 } := by
  rw [comparePhase_seeking h]
  refine State.onApll_congr ?_
  rw [if_neg (Nat.not_le.2 hfew)]

/-- The 256th comparison in a row locks. -/
theorem comparePhase_locks (h : (s.apll a).Seeking) (hmany : 256 ≤ (s.apll a).goodRun err) :
    comparePhase a err s =
      s.onApll a fun y => { s.compared a err y with good := (s.apll a).goodRun err, bad := 0, state := .locked } := by
  rw [comparePhase_seeking h]
  refine State.onApll_congr ?_
  rw [if_pos hmany]

/-- A comparison that is not beyond 50 ns ends the run of those that are. -/
theorem comparePhase_stays (h : (s.apll a).state = .locked) (herr : |err| ≤ 50000) :
    comparePhase a err s = s.onApll a fun y => { s.compared a err y with bad := 0 } := by
  rw [comparePhase_locked h, Apll.badRun_near _ herr, if_neg (by decide)]
  exact State.onApll_congr (by rw [Apll.badRun_near _ herr])

/-- The fourth comparison in a row beyond 50 ns enters FREEZE. -/
theorem comparePhase_freezes (h : (s.apll a).state = .locked) (herr : 50000 < |err|) (hbad : 3 ≤ (s.apll a).bad) :
    comparePhase a err s = raise 0x1002 [v8 a.val, vI32 err]
      (s.onApll a fun y => { s.compared a err y with state := .freeze, good := 0, bad := 0 }) := by
  rw [comparePhase_locked h, Apll.badRun_far _ herr, if_pos (Nat.succ_le_succ hbad)]

/-! ### The alignment of the dividers (R311) -/

theorem State.aligns_iff (s : State) (a : Fin 4) : s.aligns a = true ↔
    (s.apll a).state = .locked ∧ (s.apll a).aligned = false ∧ s.apllBlock a % 64 = 0 := by
  simp [State.aligns, and_assoc]

/-- A comparison of an APLL that was not locked, or that does not align, only counts. -/
theorem phaseCompared_counts (h : (s.apll a).state = .locked → (comparePhase a err s).aligns a ≠ true) :
    phaseCompared a err s = comparePhase a err s :=
  if_neg fun hboth => by
    obtain ⟨hlocked, haligns⟩ := Bool.and_eq_true_iff.1 hboth
    exact h (beq_iff_eq.1 hlocked) haligns

theorem phaseCompared_unlocked (h : (s.apll a).state ≠ .locked) : phaseCompared a err s = comparePhase a err s :=
  phaseCompared_counts fun hlocked => absurd hlocked h

/-- A comparison of a locked APLL that is aligned, and is not beyond 50 ns, changes that APLL alone. -/
theorem phaseCompared_aligned (h : (s.apll a).state = .locked) (hal : (s.apll a).aligned = true) (herr : |err| ≤ 50000) :
    phaseCompared a err s = s.onApll a fun y => { s.compared a err y with bad := 0 } := by
  have hstays := comparePhase_stays h herr
  refine (phaseCompared_counts fun _ haligns => ?_).trans hstays
  obtain ⟨-, hnot, -⟩ := (State.aligns_iff _ a).1 haligns
  rw [hstays, State.onApll_apll_self] at hnot
  exact Bool.noConfusion (hnot.symm.trans ((Apll.follow_aligned ..).trans hal))

theorem phaseCompared_freezes (h : (s.apll a).state = .locked) (herr : 50000 < |err|) (hbad : 3 ≤ (s.apll a).bad) :
    phaseCompared a err s = raise 0x1002 [v8 a.val, vI32 err]
      (s.onApll a fun y => { s.compared a err y with state := .freeze, good := 0, bad := 0 }) := by
  have hfreezes := comparePhase_freezes h herr hbad
  refine (phaseCompared_counts fun _ haligns => ?_).trans hfreezes
  obtain ⟨hlocked, -, -⟩ := (State.aligns_iff _ a).1 haligns
  rw [hfreezes, raise_apll, State.onApll_apll_self] at hlocked
  exact ApllState.noConfusion hlocked

/-- What follows the alignment of the dividers: the ports of the domain that drive clocks begin, and the start goes on. -/
def afterAlign (a : Fin 4) (s : State) : State :=
  s9Check (each (s.domains.filter fun r => r.apll == a) (fun r t => each (t.sapsOf r.dom) sapClocks t) s)

theorem s9Check_rest (s : State) : s9Check s = { s with power := (s9Check s).power } := by
  unfold s9Check s9Choose
  dsimp only
  split <;> rfl

theorem afterAlign_rest (a : Fin 4) (s : State) :
    afterAlign a s = { s with saps := (afterAlign a s).saps, power := (afterAlign a s).power } := by
  have hports := each_keeps (fun t => t = { s with saps := t.saps }) (s.domains.filter fun r => r.apll == a)
    (fun r t => each (t.sapsOf r.dom) sapClocks t)
    (fun r _ t ht => each_keeps (fun t => t = { s with saps := t.saps }) _ _ (fun p _ t ht => by rw [ht]; rfl) t ht) s rfl
  unfold afterAlign
  rw [s9Check_rest, hports]

/-- Aligning sets the two flags of the APLL. -/
theorem alignApll_apll (a : Fin 4) (s : State) :
    (alignApll a s).apll a = { s.apll a with mclk := true, aligned := true } := by
  rw [alignApll, nvAsk_eq]
  exact (raise_apll ..).trans (State.onApll_apll_self s a _)

theorem alignApll_mem (a : Fin 4) (s : State) : (alignApll a s).mem = s.mem := by
  rw [alignApll, nvAsk_eq]
  exact raise_mem ..

theorem apllBlock_onApll {f : Apll → Apll} (h : (f (s.apll a)).inUse = (s.apll a).inUse) :
    (s.onApll a f).apllBlock a = s.apllBlock a := by
  rw [State.apllBlock, State.onApll_apll_self, h]
  rfl

/-- The first comparison of a locked APLL at a block numbered by a multiple of 64 aligns its dividers. -/
theorem phaseCompared_aligns (h : (s.apll a).state = .locked) (hfirst : (s.apll a).aligned = false) (herr : |err| ≤ 50000)
    (hblock : s.apllBlock a % 64 = 0) : phaseCompared a err s =
      afterAlign a (alignApll a (s.onApll a fun y => { s.compared a err y with bad := 0 })) := by
  have hstays := comparePhase_stays h herr
  have haligns : (comparePhase a err s).aligns a = true := by
    rw [hstays, State.aligns_iff, State.onApll_apll_self, apllBlock_onApll (Apll.follow_inUse ..)]
    exact ⟨(Apll.follow_state ..).trans h, (Apll.follow_aligned ..).trans hfirst, hblock⟩
  rw [← hstays]
  exact if_pos (Bool.and_eq_true_iff.2 ⟨beq_iff_eq.2 h, haligns⟩)

end Sys2Proof.Machine

open Sys2Proof Sys2Proof.Machine

theorem apllSearch : Claim.ApllSearch := by
  intro s a x start
  have hstart : ∀ y last, Apll.acquire y last = start y last := fun y last => by
    by_cases h2 : y.bandMode = 2
    · exact (Apll.acquire_field h2 last).trans (if_pos h2).symm
    · refine Eq.trans ?_ (if_neg h2).symm
      cases last with
      | none => exact Apll.acquire_search h2 fun _ => rfl
      | some b =>
        by_cases h1 : y.bandMode = 1
        · exact (Apll.acquire_lastGood h1 b).trans (if_pos h1).symm
        · exact (Apll.acquire_search h2 fun h => absurd h h1).trans (if_neg h1).symm
  refine ⟨fun h => congrArg Host.Outcome.next ?_, fun h => congrArg Host.Outcome.next (apllWriteEnable_off h),
    fun h => congrArg Host.Outcome.next ?_, fun m h hn => congrArg Host.Outcome.next (bandStep_binary m h hn),
    fun m h hn => congrArg Host.Outcome.next (bandStep_verify m h hn),
    fun h hlast => congrArg Host.Outcome.next (if_pos ⟨h, hlast⟩)⟩
  · rw [apllWriteEnable_new h, apllAcquire, State.onApll_onApll]
    refine State.onApll_congr ((hstart _ _).trans ?_)
    rw [State.bandIndex, State.onApll_apll_self]
    rcases s.apllUse a with _ | ⟨t, _ | _⟩ <;> rfl
  · rw [apllRestart_enabled h]
    exact State.onApll_congr (hstart _ _)

theorem apllLock : Claim.ApllLock := by
  intro s a err x on
  have hfew : ∀ {n : Nat}, (s.apll a).Seeking → (s.apll a).goodRun err = n → n < 256 → phaseCompared a err s =
      s.onApll a fun y => { on y with err := BitVec.ofInt 32 err, good := n, bad := 0 } := fun h hrun hn => by
    subst hrun
    exact (phaseCompared_unlocked h.not_locked).trans (comparePhase_counts h hn)
  have hmany : ∀ {n : Nat}, (s.apll a).Seeking → (s.apll a).goodRun err = n → 256 ≤ n → phaseCompared a err s =
      s.onApll a fun y => { on y with err := BitVec.ofInt 32 err, state := .locked, good := n, bad := 0 } := fun h hrun hn => by
    subst hrun
    exact (phaseCompared_unlocked h.not_locked).trans (comparePhase_locks h hn)
  have hnear : |err| ≤ 2000 → (s.apll a).goodRun err = (s.apll a).good + 1 := Apll.goodRun_near _
  refine ⟨fun h herr hgood => congrArg Host.Outcome.next ?_, fun h herr hgood => congrArg Host.Outcome.next ?_,
    fun h herr => congrArg Host.Outcome.next (hfew (.inl h) (Apll.goodRun_far _ herr) (by decide)),
    fun h hfirst herr hblock => ⟨_, congrArg Host.Outcome.next (phaseCompared_aligns h hfirst herr hblock), ?_⟩,
    fun h hal herr => congrArg Host.Outcome.next (phaseCompared_aligned h hal herr),
    fun h herr hbad => congrArg Host.Outcome.next (phaseCompared_freezes h herr hbad),
    fun h => Apll.follow_frac_freeze h _ _ _, fun h herr hgood => congrArg Host.Outcome.next ?_⟩
  · exact (hfew (.inl h) (hnear herr) (Nat.succ_lt_succ hgood)).trans (State.onApll_congr rfl)
  · exact (hmany (.inl h) (hnear herr) (Nat.succ_le_succ hgood)).trans (State.onApll_congr rfl)
  · have hapll : ∀ t, (afterAlign a (alignApll a t)).apll a = { t.apll a with mclk := true, aligned := true } := fun t => by
      rw [afterAlign_rest]; exact alignApll_apll a t
    have hstate : ∀ y, (s.compared a err y).state = y.state := fun y => Apll.follow_state ..
    simp only [hapll, State.onApll_apll_self]
    refine ⟨trivial, trivial, (hstate _).trans h, ?_⟩
    rw [afterAlign_rest, alignApll_mem]
    rfl
  · exact (hmany (.inr h) (hnear herr) (Nat.succ_le_succ hgood)).trans (State.onApll_congr rfl)

/-- Settles O21, by its two claims: on the band search, and on the lock. -/
theorem apllBandAndLock : Obligations.ApllBandAndLock := ⟨apllSearch, apllLock⟩

end

section
/-! What a lane that is UP carries: TIME frames, AUDIO frames, and the SOURCE frames formed from them (R300, R379, R441, R443). -/

namespace Sys2Proof.Machine

variable {s : State} {l u : Fin 4}

theorem State.onLane_onLane (s : State) (l : Fin 4) (f g : LaneSt → LaneSt) :
    (s.onLane l f).onLane l g = s.onLane l (fun x => g (f x)) := by
  simp [State.onLane, upd_upd]

theorem State.onLane_congr {f g : LaneSt → LaneSt} (h : f (s.lane l) = g (s.lane l)) : s.onLane l f = s.onLane l g := by
  simp only [State.onLane, upd_congr h]

/-! ### TIME frames (R300, R443) -/

/-- Where one member of a list alone acts, before and after it has acted, the list does what it does. -/
theorem each_eq_of_only {α σ : Type} {l : List α} {f : α → σ → σ} {a : α} {s : σ} (honce : l.Nodup) (ha : a ∈ l)
    (hbefore : ∀ b ∈ l, b ≠ a → f b s = s) (hafter : ∀ b ∈ l, b ≠ a → f b (f a s) = f a s) : each l f s = f a s := by
  induction l with
  | nil => exact absurd ha List.not_mem_nil
  | cons c l ih =>
    obtain ⟨hc, hl⟩ := List.nodup_cons.1 honce
    rw [each_cons]
    by_cases hca : c = a
    · subst hca
      have hrest : ∀ b ∈ l, f b (f c s) = f c s := fun b hb =>
        hafter b (List.mem_cons_of_mem _ hb) (ne_of_mem_of_not_mem hb hc)
      exact each_keeps (· = f c s) l f (fun b hb t ht => ht ▸ hrest b hb) _ rfl
    · rw [hbefore c List.mem_cons_self hca]
      exact ih hl (List.mem_of_ne_of_mem (Ne.symm hca) ha) (fun b hb => hbefore b (List.mem_cons_of_mem _ hb))
        (fun b hb => hafter b (List.mem_cons_of_mem _ hb))

theorem sourceLost_tb_other {t : Fin 4} (h : t ≠ u) (s : State) : (sourceLost t s).tb u = s.tb u :=
  State.onTb_tb_other s t u _ h

theorem servo_tb_other {t : Fin 4} (h : t ≠ u) (s : State) : (servo t s).tb u = s.tb u :=
  State.onTb_tb_other _ t u _ h

theorem refuse_tb_other {t : Fin 4} (h : t ≠ u) (o : Int) (s : State) : (refuse t o s).tb u = s.tb u :=
  (raise_tb ..).trans (State.onTb_tb_other s t u _ h)

/-- A measurement reaches the timebase that it is of, and no other. -/
theorem measure_tb_other {t : Fin 4} (h : t ≠ u) (o : Int) (s : State) : (measure t o s).tb u = s.tb u := by
  have hon : ∀ (x : State) (f : Timebase → Timebase), (x.onTb t f).tb u = x.tb u := fun x f => State.onTb_tb_other x t u f h
  unfold measure
  dsimp only
  split
  · rfl
  · split
    · exact hon ..
    · exact hon ..
    · split_ifs <;> simp only [stage_eq, raise_tb, hon, servo_tb_other h]
    · split_ifs <;> simp only [raise_tb, hon, refuse_tb_other h]
    · split_ifs <;> simp only [hon, refuse_tb_other h, servo_tb_other h]

/-- What a TIME frame of a lane does to one timebase: a measurement, or a loss, where the lane is its source. -/
def timeFor (l : Fin 4) (o : Int) (locked : Bool) (t : Fin 4) (s : State) : State :=
  if (s.tb t).source = 5 ∧ (s.tb t).index = l.val then (if locked then measure t o s else sourceLost t s) else s

theorem timeFor_tb_other {t : Fin 4} (h : t ≠ u) (l : Fin 4) (o : Int) (locked : Bool) (s : State) :
    (timeFor l o locked t s).tb u = s.tb u := by
  unfold timeFor
  split_ifs
  · exact measure_tb_other h o s
  · exact sourceLost_tb_other h s
  · rfl

theorem receiveTime_each (hup : (s.lane l).isUp = true) (hxfer : (s.lane l).cfg.timeXfer = true) (t1 t2 t3 t4 : Int)
    (locked : Bool) : receiveTime l t1 t2 t3 t4 locked s = each (List.finRange 4)
      (timeFor l (rne (500 * ((t2 - t1) - (t4 - t3)) + (s.lane l).cfg.asym) 1000) locked) (laneRx l s) :=
  if_pos (Bool.and_eq_true_iff.2 ⟨hup, hxfer⟩)

/-- Where a lane is the source of one timebase, a TIME frame acts on that one alone. -/
theorem each_timeFor (honly : ∀ v, ((s.tb v).source = 5 ∧ (s.tb v).index = l.val) ↔ v = u) (o : Int) (locked : Bool) :
    each (List.finRange 4) (timeFor l o locked) s = if locked then measure u o s else sourceLost u s := by
  have hothers : ∀ v ∈ List.finRange 4, v ≠ u → timeFor l o locked v s = s := fun v _ hv => if_neg (mt (honly v).1 hv)
  have hafter : ∀ v ∈ List.finRange 4, v ≠ u → timeFor l o locked v (timeFor l o locked u s) = timeFor l o locked u s :=
    fun v _ hv => if_neg (by rw [timeFor_tb_other hv.symm]; exact mt (honly v).1 hv)
  exact (each_eq_of_only (List.nodup_finRange 4) (List.mem_finRange u) hothers hafter).trans (if_pos ((honly u).2 rfl))

/-- A lane with time transfer on sends a TIME frame at its tick (R443). -/
theorem execTimeTransferTick_up (hup : (s.lane l).isUp = true) (hxfer : (s.lane l).cfg.timeXfer = true) :
    execTimeTransferTick l s = .next (s.onLane l fun y => y.give .time) :=
  congrArg Host.Outcome.next ((if_pos hxfer).trans (State.onLane_congr (if_pos hup)))

/-! ### AUDIO frames (R441) -/

/-- An AUDIO frame that is not late waits for its SOURCE frame. -/
theorem receiveAudio_inTime {b : Nat} {ws : List Word} (hcarries : (s.lane l).carries = true) (hrx : 0 < (s.lane l).cfg.rxCh)
    (htime : (s.tb (s.tbOf (s.lane l).cfg.domain)).blk.toNat ≤ b ∨
      (b + 1 = (s.tb (s.tbOf (s.lane l).cfg.domain)).blk.toNat ∧ (s.lane l).published = false)) :
    receiveAudio l b ws s = (laneRx l s).onLane l fun y => { y with rx := (b, ws) :: y.rx.filter fun r => r.1 != b } := by
  have hon : (s.lane l).carries && decide (0 < (s.lane l).cfg.rxCh) := by simp [hcarries, hrx]
  have hnotLate : ¬(b + 1 < (s.tb (s.tbOf (s.lane l).cfg.domain)).blk.toNat ∨
      b + 1 = (s.tb (s.tbOf (s.lane l).cfg.domain)).blk.toNat ∧ (s.lane l).published = true) := by
    rcases htime with hearly | ⟨hlast, hpub⟩
    · omega
    · simp [hlast, hpub]
  exact (if_pos hon).trans (if_neg hnotLate)

/-! ### The samples of a block (R379) -/

/-- The samples of a block where a property of the gap state, kept from sample to sample, decides each of them. -/
theorem formBlock_samples {g : GapSt} {channels base : Nat} {at_ : Nat → Option (List Word)} (P : Nat → GapSt → Prop)
    (out : Nat → List Word) (h0 : P 0 g)
    (hstep : ∀ i g, P i g → (g.step channels (at_ (base + i))).1 = out i ∧ P (i + 1) (g.step channels (at_ (base + i))).2.2) :
    (formBlock g channels base at_).1 = (List.range 8).map out := by
  unfold formBlock
  generalize hF : (fun (acc : List (List Word) × Option Nat × GapSt × Nat) (i : Nat) => _) = F
  have hfold : ∀ n, ((List.range n).foldl F ([], none, g, 0)).1 = (List.range n).map out ∧
      P n ((List.range n).foldl F ([], none, g, 0)).2.2.1 := fun n => by
    induction n with
    | zero => exact ⟨rfl, h0⟩
    | succ n ih =>
      obtain ⟨hsamples, hgap⟩ := ih
      obtain ⟨hout, hnext⟩ := hstep n _ hgap
      rw [List.range_succ, List.foldl_append, List.map_append, ← hsamples]
      subst hF
      exact ⟨congrArg (_ ++ [·]) hout, hnext⟩
  exact (hfold 8).1

/-- A block that has come after eight samples or more without a gap is delivered as it came. -/
theorem formBlock_received {g : GapSt} {channels base : Nat} {at_ : Nat → Option (List Word)} {w : Nat → List Word}
    (hrun : g.run = 0) (hsince : g.since = 8) (hat : ∀ i, at_ (base + i) = some (w i)) :
    (formBlock g channels base at_).1 = (List.range 8).map w :=
  formBlock_samples (fun _ g => g.run = 0 ∧ g.since = 8) w ⟨hrun, hsince⟩ fun i g hg => by
    obtain ⟨hr, hs⟩ := hg
    simp [hat, GapSt.step, hr, hs]

/-- A block that has not come fades from the last samples. -/
theorem formBlock_missing {g : GapSt} (hrun : g.run = 0) (channels base : Nat) :
    (formBlock g channels base fun _ => none).1 = (List.range 8).map fun (i : Nat) => (List.range channels).map fun c =>
      if i < 8 then scale (nth g.last c 0) ((7 : Int) - i) 8 else 0 :=
  formBlock_samples (fun i x => x.run = i ∧ x.last = g.last) _ ⟨hrun, rfl⟩ fun i x hx => by
    obtain ⟨hr, hlast⟩ := hx
    simp [GapSt.step, hr, hlast]

theorem nth_toFrames {channels c : Nat} (h : c < channels) (n : Nat) (out : Nat → List Word) :
    nth (toFrames channels ((List.range n).map out)) c silence = (List.range n).map fun i => nth (out i) c 0 := by
  simp [nth, toFrames, h]

theorem nth_map_range {α : Type} {n c : Nat} (h : c < n) (f : Nat → α) (d : α) : nth ((List.range n).map f) c d = f c := by
  simp [nth, h]

/-! ### The SOURCE frame of a lane (R379, R441) -/

/-- The samples that have come for the block before the boundary. -/
def State.linkGot (s : State) (l : Fin 4) : Option (List Word) :=
  ((s.lane l).rx.find? fun r => r.1 + 1 == (s.tb (s.tbOf (s.lane l).cfg.domain)).blk.toNat).map (·.2)

/-- The block of a lane as it is formed from what has come. -/
def State.linkBlock (s : State) (l : Fin 4) : List (List Word) × Option Nat × GapSt × Nat :=
  formBlock (s.lane l).gap (s.lane l).cfg.rxCh (8 * ((s.tb (s.tbOf (s.lane l).cfg.domain)).blk.toNat - 1)) fun i =>
    (s.linkGot l).map fun ws => (List.range (s.lane l).cfg.rxCh).map fun c => nth ws (8 * c + i % 8) 0

/-- What a channel of a lane gives its SOURCE. -/
def State.linkFrame (s : State) (l : Fin 4) (c : Nat) : Frame :=
  nth (toFrames (s.lane l).cfg.rxCh (s.linkBlock l).1) c silence

/-- The lane after its block is formed, with a block that is late reported once. -/
def linkFormed (l : Fin 4) (s : State) : State :=
  let x := s.lane l
  let late := (s.linkGot l).isNone && x.isUp && !x.lateRaised
  raiseIf late 0x9009 [v8 l.val] (s.onLane l fun y => { y with
    published := true, gap := (s.linkBlock l).2.2.1, formed := some (toFrames x.cfg.rxCh (s.linkBlock l).1)
    lateRaised := y.lateRaised || late
    rx := y.rx.filter fun r => decide ((s.tb (s.tbOf x.cfg.domain)).blk.toNat ≤ r.1) })

theorem linkFormed_rest (l : Fin 4) (s : State) : linkFormed l s =
    { s with red := (linkFormed l s).red, ao := (linkFormed l s).ao, evt := (linkFormed l s).evt } := by
  rw [linkFormed, raiseIf_eq]
  rfl

theorem publishLink_single {n : NodeRec} (hpub : (s.lane l).published = false) (hrx : 0 < (s.lane l).cfg.rxCh)
    (hsrc : s.sourcesOf (isLane l) = [n]) :
    publishLink l s = publish n.id ((s.tb (s.tbOf (s.lane l).cfg.domain)).ivl - 1) [s.linkFrame l n.bodyA] (linkFormed l s) := by
  have hon : ¬((s.lane l).published || (s.lane l).cfg.rxCh == 0) := by simp [hpub]; omega
  have hsrc' : (linkFormed l s).sourcesOf (isLane l) = [n] := by rw [linkFormed_rest]; exact hsrc
  refine (if_neg hon).trans ?_
  exact congrArg (fun ns => each ns _ _) hsrc'

/-- The frame of a block that has come holds its samples. -/
theorem linkFrame_received {ws : List Word} {c : Nat} (hgot : s.linkGot l = some ws) (hrun : (s.lane l).gap.run = 0)
    (hsince : (s.lane l).gap.since = 8) (hc : c < (s.lane l).cfg.rxCh) :
    s.linkFrame l c = (List.range 8).map fun i => nth ws (8 * c + i) 0 := by
  have hblock : (s.linkBlock l).1 = (List.range 8).map fun i =>
      (List.range (s.lane l).cfg.rxCh).map fun c => nth ws (8 * c + i % 8) 0 := by
    rw [State.linkBlock]
    exact formBlock_received hrun hsince fun i => by simp [hgot]
  rw [State.linkFrame, hblock, nth_toFrames hc]
  refine List.map_congr_left fun i hi => ?_
  rw [nth_map_range hc, Nat.mod_eq_of_lt (List.mem_range.1 hi)]

/-- The frame of a block that has not come is the fade of the last samples. -/
theorem linkFrame_missing {c : Nat} (hgot : s.linkGot l = none) (hrun : (s.lane l).gap.run = 0)
    (hc : c < (s.lane l).cfg.rxCh) : s.linkFrame l c =
      (List.range 8).map fun (i : Nat) => BitVec.ofInt 32 (rne ((7 - i) * (nth (s.lane l).gap.last c 0).toInt) 8) := by
  have hblock := formBlock_missing hrun (s.lane l).cfg.rxCh (8 * ((s.tb (s.tbOf (s.lane l).cfg.domain)).blk.toNat - 1))
  simp only [State.linkFrame, State.linkBlock, hgot, Option.map_none, hblock]
  rw [nth_toFrames hc]
  refine List.map_congr_left fun i hi => ?_
  have hi8 : i < 8 := List.mem_range.1 hi
  rw [nth_map_range hc, if_pos hi8, scale_eighths _ (by omega) (by omega)]

theorem linkFormed_lane (l : Fin 4) (s : State) : (linkFormed l s).lane l = { s.lane l with
    published := true, gap := (s.linkBlock l).2.2.1, formed := some (toFrames (s.lane l).cfg.rxCh (s.linkBlock l).1)
    lateRaised := (s.lane l).lateRaised || ((s.linkGot l).isNone && (s.lane l).isUp && !(s.lane l).lateRaised)
    rx := (s.lane l).rx.filter fun r => decide ((s.tb (s.tbOf (s.lane l).cfg.domain)).blk.toNat ≤ r.1) } := by
  rw [linkFormed, raiseIf_eq]
  exact State.onLane_lane_self s l _

theorem linkFormed_lane_other {k : Fin 4} (h : k ≠ l) (s : State) : (linkFormed l s).lane k = s.lane k := by
  rw [linkFormed, raiseIf_eq]
  exact State.onLane_lane_other s l k _ h.symm

end Sys2Proof.Machine

open Sys2Proof Sys2Proof.Machine

/-- Settles O43: a TIME frame acts on the one timebase that takes the lane as its source (`each_timeFor`), an AUDIO frame in time
waits (`receiveAudio_inTime`), and the frame that is published is the one received or a fade (`linkFrame_received`,
`linkFrame_missing`). -/
theorem laneTraffic : Obligations.LaneTraffic := by
  intro s l u t1 t2 t3 t4 b ws n x now kept hup
  have hisUp : (s.lane l).isUp = true := (LaneSt.isUp_iff _).2 hup
  refine ⟨fun hxfer => execTimeTransferTick_up hisUp hxfer, fun hxfer honly => ?_,
    fun hrole hrx htime => congrArg Host.Outcome.next ?_, fun hpub hrx hrun hsince hsrc hc => ?_⟩
  · have honly' : ∀ v, (((s.onLane l kept).tb v).source = 5 ∧ ((s.onLane l kept).tb v).index = l.val) ↔ v = u := honly
    have htime : ∀ locked, receiveTime l t1 t2 t3 t4 locked s = if locked then
        measure u (rne (500 * ((t2 - t1) - (t4 - t3)) + x.cfg.asym) 1000) (s.onLane l kept)
        else sourceLost u (s.onLane l kept) := fun locked => by
      rw [receiveTime_each hisUp hxfer, laneRx_up hisUp]
      exact each_timeFor honly' _ locked
    exact ⟨congrArg Host.Outcome.next ((htime true).trans (if_pos rfl)),
      congrArg Host.Outcome.next ((htime false).trans (if_neg Bool.false_ne_true))⟩
  · have hcarries : (s.lane l).carries = true := by simpa [LaneSt.carries, hisUp, or_assoc] using hrole
    rw [receiveAudio_inTime hcarries hrx htime, laneRx_up hisUp, State.onLane_onLane]
  · intro ivl
    have hpublish := publishLink_single hpub hrx hsrc
    have hrest := publish_rest n.id ivl [s.linkFrame l n.bodyA] (linkFormed l s)
    have hlane : ∀ k, (publishLink l s).lane k = (linkFormed l s).lane k := fun k => by rw [hpublish, hrest]; rfl
    have hframes : (publishLink l s).framesAt n.id ivl = some [s.linkFrame l n.bodyA] := by
      rw [hpublish]; exact framesAt_publish ..
    refine ⟨_, rfl, ?_, fun got hgot => ?_, fun hnone => ⟨?_, ?_⟩, fun k hk => ?_, ?_⟩
    · rw [hlane, linkFormed_lane]
    · rw [hframes, linkFrame_received (congrArg (Option.map Prod.snd) hgot) hrun hsince hc]
    · rw [hframes, linkFrame_missing (congrArg (Option.map Prod.snd) hnone) hrun hc]
    · have hgot : s.linkGot l = none := congrArg (Option.map Prod.snd) hnone
      rw [hlane, linkFormed_lane]
      simp [hgot, hisUp]
    · rw [hlane, linkFormed_lane_other hk]
    · rw [hpublish, hrest, linkFormed_rest]

end

section
/-! The data bits of a frame on the lines of a serial audio port: the word that a slot of a received frame spells, and the bits
that a line shows of a sent one (R325, R326). -/

namespace Sys2Proof.Machine

variable {r : SapRec}

/-! ### Runs of equal length -/

/-- Where each member of a list gives a run of w, run t begins at t × w. -/
theorem getElem?_flatMap_runs {α β : Type} {g : α → List β} {w i : Nat} {l : List α} (hlen : ∀ a ∈ l, (g a).length = w) (hi : i < w)
    (t : Nat) : (l.flatMap g)[w * t + i]? = l[t]?.bind fun a => (g a)[i]? := by
  induction l generalizing t with
  | nil => rfl
  | cons a l ih =>
    have ha : (g a).length = w := hlen a List.mem_cons_self
    cases t with
    | zero => simp [List.getElem?_append_left, ha, hi]
    | succ t =>
      have hskip : w * (t + 1) + i - (g a).length = w * t + i := by rw [ha, Nat.mul_succ]; omega
      have hpast : (g a).length ≤ w * (t + 1) + i := by rw [ha, Nat.mul_succ]; omega
      simp [List.getElem?_append_right hpast, hskip, ih fun b hb => hlen b (List.mem_cons_of_mem _ hb)]

theorem nth_flatMap_range {β : Type} {g : Nat → List β} {n w t i : Nat} (hlen : ∀ a, (g a).length = w) (ht : t < n) (hi : i < w)
    (d : β) : nth ((List.range n).flatMap g) (w * t + i) d = nth (g t) i d := by
  simp [nth, List.getD_eq_getElem?_getD, getElem?_flatMap_runs (fun a _ => hlen a) hi, ht]

/-! ### The number that bits spell -/

/-- Bits read MSB first: bit j of the number is the j-th from the end. -/
theorem testBit_spelled (bs : List Bool) (j : Nat) :
    (bs.foldl (fun v b => 2 * v + b2n b) 0).testBit j = nth bs.reverse j false := by
  induction bs using List.reverseRecOn generalizing j with
  | nil => simp [nth]
  | append_singleton bs b ih =>
    rw [List.foldl_append, List.reverse_append]
    have hbit : ∀ v : Nat, 2 * v + b2n b = Nat.bit b v := fun v => by cases b <;> rfl
    simp only [List.foldl_cons, List.foldl_nil, hbit]
    cases j with
    | zero => simp [nth]
    | succ j => simpa [nth, Nat.testBit_bit_succ] using ih j

theorem spelled_lt (bs : List Bool) : bs.foldl (fun v b => 2 * v + b2n b) 0 < 2 ^ bs.length :=
  Nat.lt_pow_two_of_testBit _ fun j hj => by simp [testBit_spelled, nth, hj]

theorem bitsNat_lt (n : Nat) (bs : List Bool) : bitsNat n bs < 2 ^ n := by
  have hlen : (bs.take n).length ≤ n := List.length_take_le n bs
  calc bitsNat n bs < 2 ^ (bs.take n).length * 2 ^ (n - (bs.take n).length) :=
        Nat.mul_lt_mul_of_pos_right (spelled_lt _) (Nat.two_pow_pos _)
    _ = 2 ^ n := by rw [← Nat.pow_add, Nat.add_sub_cancel' hlen]

/-- Of n bits that have all come, the one i after the first is bit n − 1 − i of the number. -/
theorem testBit_bitsNat {n i : Nat} {bs : List Bool} (hlen : n ≤ bs.length) (hi : i < n) :
    (bitsNat n bs).testBit (n - 1 - i) = nth bs i false := by
  have htake : (bs.take n).length = n := List.length_take_of_le hlen
  have hback : n - 1 - (n - 1 - i) = i := by omega
  have hlast : n - 1 - i < n := by omega
  have hin : i < bs.length := by omega
  rw [bitsNat, htake, Nat.sub_self, Nat.pow_zero, Nat.mul_one, testBit_spelled]
  simp [nth, htake, hlast, hback, hin]

/-! ### Received (R326) -/

theorem captureSlots_length (w d n : Nat) (bs : List Bool) : (captureSlots w d n bs).length = n := by
  induction n generalizing bs with
  | zero => rfl
  | succ n ih => simp [captureSlots, ih]

theorem nth_captureSlots {w d n t : Nat} (ht : t < n) (bs : List Bool) :
    nth (captureSlots w d n bs) t 0 = BitVec.ofNat 32 (bitsNat d (bs.drop (w * t))) := by
  induction t generalizing n bs with
  | zero => cases n with
    | zero => omega
    | succ n => rfl
  | succ t ih => cases n with
    | zero => omega
    | succ n =>
      have hdrop : (bs.drop w).drop (w * t) = bs.drop (w * (t + 1)) := by rw [List.drop_drop, Nat.mul_succ, Nat.add_comm]
      exact (ih (Nat.lt_of_succ_lt_succ ht) _).trans (by rw [hdrop])

/-- The word of slot t on line k. -/
theorem SapRec.nth_capture {lines : List (List Bool)} {k t : Nat} (hk : k < 4) (ht : t < r.slots) (hslots : r.slots ≤ 32) :
    nth (r.capture lines) (32 * k + t) 0 =
      BitVec.ofNat 32 (bitsNat r.dataWidth ((nth lines k []).drop (r.firstBit + r.slotWidth * t))) := by
  have hlen : ∀ k, (captureSlots r.slotWidth r.dataWidth r.slots ((nth lines k []).drop r.firstBit)
      ++ List.replicate (32 - r.slots) (0 : Word)).length = 32 := fun k => by
    simp [captureSlots_length, Nat.add_sub_cancel' hslots]
  have hfirst : ∀ bs : List Bool, nth (captureSlots r.slotWidth r.dataWidth r.slots bs ++ List.replicate (32 - r.slots) 0) t 0
      = nth (captureSlots r.slotWidth r.dataWidth r.slots bs) t 0 := fun bs =>
    List.getD_append _ _ _ _ (by rwa [captureSlots_length])
  rw [SapRec.capture, nth_flatMap_range hlen hk (by omega), hfirst, nth_captureSlots ht, List.drop_drop]

/-- A bit of a slot that came whole. -/
theorem SapRec.capture_bit {lines : List (List Bool)} {k t i : Nat} (hk : k < 4) (ht : t < r.slots) (hslots : r.slots ≤ 32)
    (hdata : r.dataWidth ≤ r.slotWidth) (hword : r.dataWidth ≤ 32) (hi : i < r.dataWidth)
    (hcame : r.firstBit + r.slots * r.slotWidth ≤ (nth lines k []).length) :
    (nth (r.capture lines) (32 * k + t) 0).getLsbD (r.dataWidth - 1 - i) =
      nth (nth lines k []) (r.firstBit + t * r.slotWidth + i) false := by
  have hend : t * r.slotWidth + r.slotWidth ≤ r.slots * r.slotWidth := Nat.succ_mul t _ ▸ Nat.mul_le_mul_right _ ht
  have hlen : r.dataWidth ≤ ((nth lines k []).drop (r.firstBit + t * r.slotWidth)).length := by rw [List.length_drop]; omega
  rw [SapRec.nth_capture hk ht hslots, Nat.mul_comm, BitVec.getLsbD_ofNat, decide_eq_true (by omega), Bool.true_and,
    testBit_bitsNat hlen hi]
  simp [nth, List.getD_eq_getElem?_getD]

theorem SapRec.capture_above {lines : List (List Bool)} {k t b : Nat} (hk : k < 4) (ht : t < r.slots) (hslots : r.slots ≤ 32)
    (hb : r.dataWidth ≤ b) : (nth (r.capture lines) (32 * k + t) 0).getLsbD b = false := by
  rw [SapRec.nth_capture hk ht hslots, BitVec.getLsbD_ofNat,
    Nat.testBit_lt_two_pow (Nat.lt_of_lt_of_le (bitsNat_lt ..) (Nat.pow_le_pow_right Nat.two_pos hb)), Bool.and_false]

/-! ### Sent (R326) -/

theorem SapRec.slotBits_length (r : SapRec) (d : Option Word) : (r.slotBits d).length = r.slotWidth := by
  simp [SapRec.slotBits]

/-- What a line shows of a frame that goes out whole: bit i of slot t. -/
theorem SapRec.lineAt_slot {before f : TxFrame} {k t i : Nat} {d : Option Word} (ht : t < r.slots) (hi : i < r.slotWidth)
    (hwhole : f.bits = none) (hd : f.words.find? (fun w => w.1 == 32 * k + t) = some (32 * k + t, d)) :
    r.lineAt before f k (r.firstBit + t * r.slotWidth + i) =
      d.map fun w => decide (i < r.dataWidth) && w.getLsbD (r.dataWidth - 1 - i) := by
  have hofs : r.firstBit + t * r.slotWidth + i - r.firstBit = r.slotWidth * t + i := by rw [Nat.mul_comm]; omega
  rw [SapRec.lineAt, if_neg (by omega), hofs, SapRec.lineBits, hwhole]
  dsimp only
  rw [nth_flatMap_range (w := r.slotWidth) (fun a => ?_) ht hi, hd]
  · exact nth_map_range hi _ _
  · split <;> exact r.slotBits_length _

/-- The lines of a port (R325, R326): the word of a slot that came (`SapRec.capture_bit`), and the slot that goes out
(`SapRec.lineAt_slot`). -/
theorem sapLines : Claim.SapLines := by
  intro r lines f before k t i hk ht hslots hi hdata hwidth at'
  have hword : r.dataWidth ≤ 32 := hdata.trans hwidth
  refine ⟨fun h => ?_, fun h => ?_, fun h => ?_, fun hcame hid => ?_, fun b hb => ?_, fun d hwhole hd => ?_⟩
  · simp [SapRec.firstBit, h]
  · simp [SapRec.firstBit, h]
  · simp [SapRec.firstBit, h, b2n]
  · exact SapRec.capture_bit hk ht hslots hdata hword hid hcame
  · exact SapRec.capture_above hk ht hslots hb
  · exact SapRec.lineAt_slot ht hi hwhole hd

end Sys2Proof.Machine
end

section
/-! The frame starts of a serial audio port: how a slave judges the frame that ends and assigns the one that begins, what a port
that loses its clock does, and the frames of a master (R329, R331, R332, R343 to R347). -/

namespace Sys2Proof.Machine

variable {s t u : State} {p : Fin 32} {f : SapFrame}

theorem State.onSap_onSap (s : State) (p : Fin 32) (f g : Sap → Sap) : (s.onSap p f).onSap p g = s.onSap p (fun x => g (f x)) := by
  simp [State.onSap, upd_upd]

theorem State.onSap_congr {f g : Sap → Sap} (h : f (s.sap p) = g (s.sap p)) : s.onSap p f = s.onSap p g := by
  simp only [State.onSap, upd_congr h]

@[simp] theorem raise_sap (code : Nat) (vals : Vals) (s : State) (q : Fin 32) : (raise code vals s).sap q = s.sap q := by
  simp [State.sap]

@[simp] theorem raiseIf_sap (b : Bool) (code : Nat) (vals : Vals) (s : State) (q : Fin 32) :
    (raiseIf b code vals s).sap q = s.sap q := by
  cases b <;> simp

/-! ### Changes of one port -/

/-- From s to t a port has changed, and events were raised. -/
def PortStep (p : Fin 32) (s t : State) : Prop :=
  (∀ q, q ≠ p → t.sap q = s.sap q) ∧ t = { s with saps := t.saps, ao := t.ao, evt := t.evt }

/-- From s to t a port and the clock island have changed, and events were raised. -/
def PortClockStep (p : Fin 32) (s t : State) : Prop :=
  (∀ q, q ≠ p → t.sap q = s.sap q) ∧ t = { s with saps := t.saps, clk := t.clk, ao := t.ao, evt := t.evt }

theorem PortStep.refl (p : Fin 32) (s : State) : PortStep p s s := ⟨fun _ _ => rfl, rfl⟩

theorem PortStep.trans (hst : PortStep p s t) (htu : PortStep p t u) : PortStep p s u := by
  obtain ⟨hother, hrest⟩ := hst
  obtain ⟨hother', hrest'⟩ := htu
  exact ⟨fun q hq => (hother' q hq).trans (hother q hq), by rw [hrest', hrest]⟩

theorem PortStep.withClocks (h : PortStep p s t) : PortClockStep p s t := by
  obtain ⟨hother, hrest⟩ := h
  exact ⟨hother, by rw [hrest]⟩

theorem PortClockStep.trans (hst : PortClockStep p s t) (htu : PortClockStep p t u) : PortClockStep p s u := by
  obtain ⟨hother, hrest⟩ := hst
  obtain ⟨hother', hrest'⟩ := htu
  exact ⟨fun q hq => (hother' q hq).trans (hother q hq), by rw [hrest', hrest]⟩

theorem State.onSap_portStep (s : State) (p : Fin 32) (g : Sap → Sap) : PortStep p s (s.onSap p g) :=
  ⟨(State.onSap_frame s p g).1, rfl⟩

theorem raise_portStep (p : Fin 32) (code : Nat) (vals : Vals) (s : State) : PortStep p s (raise code vals s) :=
  ⟨fun q _ => raise_sap code vals s q, by rw [raise_eq code vals s]⟩

theorem raiseIf_portStep (p : Fin 32) (b : Bool) (code : Nat) (vals : Vals) (s : State) : PortStep p s (raiseIf b code vals s) :=
  ⟨fun q _ => raiseIf_sap b code vals s q, by rw [raiseIf_eq b code vals s]⟩

theorem PortStep.fsOf (h : PortStep p s t) (d : Fin 4) : t.fsOf d = s.fsOf d := by
  rw [h.2]; rfl

@[simp] theorem State.onSap_fsOf (s : State) (p : Fin 32) (g : Sap → Sap) (d : Fin 4) : (s.onSap p g).fsOf d = s.fsOf d := rfl

/-! ### The frame that goes out (R328, R332) -/

/-- A frame has gone out of a port, or waits for its boundary: the port takes it, and counts what saturated. Flags stay set. -/
def Sap.Sent (x y : Sap) : Prop :=
  ∃ tx late clips clipNow flags, y = { x with tx := tx, late := late, clips := clips, clipNow := clipNow, flags := flags } ∧
    ∀ i, x.flags.getLsbD i = true → flags.getLsbD i = true

theorem getLsbD_setFlag_of_set {n : Nat} {v : BitVec n} {i : Nat} (h : v.getLsbD i = true) (j : Nat) :
    (setFlag v j).getLsbD i = true := by
  rw [setFlag, BitVec.getLsbD_or, h, Bool.true_or]

theorem sapEmit_portStep (p : Fin 32) (smp : Option Nat) (s : State) : PortStep p s (sapEmit p smp s) := by
  unfold sapEmit
  dsimp only
  split
  · exact State.onSap_portStep ..
  · exact ((State.onSap_portStep ..).trans (State.onSap_portStep ..)).trans (raiseIf_portStep ..)

theorem sapEmit_sent (p : Fin 32) (smp : Option Nat) (s : State) : (s.sap p).Sent ((sapEmit p smp s).sap p) := by
  unfold sapEmit
  dsimp only
  split
  · rw [State.onSap_sap_self]
    exact ⟨_, _, _, _, _, rfl, fun _ h => h⟩
  · rw [raiseIf_sap, State.onSap_sap_self, State.onSap_sap_self]
    exact ⟨_, _, _, _, _, rfl, fun _ h => getLsbD_setFlag_of_set h 5⟩

theorem sapEmitOr_portStep (p : Fin 32) (smp : Nat) (s : State) : PortStep p s (sapEmitOr p smp s) := by
  unfold sapEmitOr
  split
  · exact sapEmit_portStep ..
  · exact State.onSap_portStep ..

theorem sapEmitOr_sent (p : Fin 32) (smp : Nat) (s : State) : (s.sap p).Sent ((sapEmitOr p smp s).sap p) := by
  unfold sapEmitOr
  split
  · exact sapEmit_sent ..
  · rw [State.onSap_sap_self]
    exact ⟨_, _, _, _, _, rfl, fun _ h => h⟩

/-! ### The frame that begins (R332) -/

/-- The port that counts a sample as an underrun. -/
def Sap.countUnderrun (x : Sap) : Sap :=
  { x with underruns := satInc32 x.underruns, flags := setFlag x.flags 2, evUnder := true }

/-- The port whose frame carries sample k. -/
def Sap.assign (x : Sap) (f : SapFrame) (k : Nat) (phase : Word) : Sap :=
  { x with lastSample := some k, cur := some k, words := x.cfg.capture f.lines, phase := phase,
           rx := ((k, x.cfg.capture f.lines) :: x.rx).take 64 }

/-- The port whose frame is an overrun. -/
def Sap.countOverrun (x : Sap) (f : SapFrame) (phase : Word) : Sap :=
  { x with overruns := satInc32 x.overruns, flags := setFlag x.flags 3, evOver := true, cur := none,
           words := x.cfg.capture f.lines, phase := phase }

@[simp] theorem underrun_sap (p : Fin 32) (k : Nat) (s : State) : (underrun p k s).sap p = (s.sap p).countUnderrun := by
  rw [underrun, raiseIf_sap, State.onSap_sap_self]
  rfl

theorem underrun_portStep (p : Fin 32) (k : Nat) (s : State) : PortStep p s (underrun p k s) :=
  (State.onSap_portStep ..).trans (raiseIf_portStep ..)

theorem assignFrame_portStep (p : Fin 32) (f : SapFrame) (k : Nat) (s : State) : PortStep p s (assignFrame p f k s) :=
  (State.onSap_portStep ..).trans (sapEmitOr_portStep ..)

theorem assignFrame_sent (p : Fin 32) (f : SapFrame) (k : Nat) (s : State) :
    ∃ phase, ((s.sap p).assign f k phase).Sent ((assignFrame p f k s).sap p) := by
  have h := fun g => sapEmitOr_sent p k (s.onSap p g)
  simp only [State.onSap_sap_self] at h
  exact ⟨_, h _⟩

/-- A frame within three quarters of a period of the sample after the last takes that sample. -/
theorem nextFrame_inTime {k : Nat} (hearly : -3000000000000 ≤ 4 * phaseOf (s.fsOf (s.sap p).cfg.domain) f.startPs (k + 1))
    (hlate : 4 * phaseOf (s.fsOf (s.sap p).cfg.domain) f.startPs (k + 1) < 3000000000000) :
    nextFrame p f k s = assignFrame p f (k + 1) s :=
  (if_neg (Int.not_le.2 hlate)).trans (if_neg (Int.not_lt.2 hearly))

/-- A later frame skips a sample, which is an underrun. -/
theorem nextFrame_late {k : Nat} (hlate : 3000000000000 ≤ 4 * phaseOf (s.fsOf (s.sap p).cfg.domain) f.startPs (k + 1)) :
    nextFrame p f k s = assignFrame p f (k + 2) (underrun p (k + 1) s) :=
  if_pos hlate

/-- A frame that is an overrun: it is counted, and goes out as zeros. -/
def overrunFrame (p : Fin 32) (f : SapFrame) (k : Nat) (phase : Word) (s : State) : State :=
  sapEmit p none (raiseIf (!(s.sap p).evOver) 0x2008 [v8 p.val, v64 k] (s.onSap p fun y => y.countOverrun f phase))

theorem overrunFrame_portStep (p : Fin 32) (f : SapFrame) (k : Nat) (phase : Word) (s : State) :
    PortStep p s (overrunFrame p f k phase s) :=
  ((State.onSap_portStep ..).trans (raiseIf_portStep ..)).trans (sapEmit_portStep ..)

theorem overrunFrame_sent (p : Fin 32) (f : SapFrame) (k : Nat) (phase : Word) (s : State) :
    ((s.sap p).countOverrun f phase).Sent ((overrunFrame p f k phase s).sap p) := by
  have h := fun t => sapEmit_sent p none (raiseIf (!(s.sap p).evOver) 0x2008 [v8 p.val, v64 k] t)
  simpa [overrunFrame] using h (s.onSap p fun y => y.countOverrun f phase)

/-- An earlier frame is an overrun. -/
theorem nextFrame_early {k : Nat} (hearly : 4 * phaseOf (s.fsOf (s.sap p).cfg.domain) f.startPs (k + 1) < -3000000000000) :
    ∃ phase, nextFrame p f k s = overrunFrame p f (k + 1) phase s :=
  ⟨_, (if_neg (by omega)).trans (if_pos hearly)⟩

/-- Everything that the next frame of a slave can do (R332): it is assigned, or an overrun, and goes out. -/
theorem nextFrame_cases (p : Fin 32) (f : SapFrame) (k : Nat) (s : State) :
    let phase := phaseOf (s.fsOf (s.sap p).cfg.domain) f.startPs (k + 1)
    let y := (nextFrame p f k s).sap p
    PortStep p s (nextFrame p f k s) ∧ ∃ shown,
      (-3000000000000 ≤ 4 * phase ∧ 4 * phase < 3000000000000 ∧ ((s.sap p).assign f (k + 1) shown).Sent y) ∨
      (3000000000000 ≤ 4 * phase ∧ ((s.sap p).countUnderrun.assign f (k + 2) shown).Sent y) ∨
      (4 * phase < -3000000000000 ∧ ((s.sap p).countOverrun f shown).Sent y) := by
  intro phase y
  by_cases hlate : 3000000000000 ≤ 4 * phase
  · have hnext : nextFrame p f k s = assignFrame p f (k + 2) (underrun p (k + 1) s) := nextFrame_late hlate
    obtain ⟨shown, hsent⟩ := assignFrame_sent p f (k + 2) (underrun p (k + 1) s)
    rw [underrun_sap] at hsent
    simp only [y, hnext]
    exact ⟨(underrun_portStep ..).trans (assignFrame_portStep ..), shown, .inr (.inl ⟨hlate, hsent⟩)⟩
  · by_cases hearly : 4 * phase < -3000000000000
    · obtain ⟨shown, hnext⟩ := nextFrame_early hearly
      simp only [y, hnext]
      exact ⟨overrunFrame_portStep .., shown, .inr (.inr ⟨hearly, overrunFrame_sent ..⟩)⟩
    · have hnext : nextFrame p f k s = assignFrame p f (k + 1) s := nextFrame_inTime (Int.not_lt.1 hearly) (Int.not_le.1 hlate)
      obtain ⟨shown, hsent⟩ := assignFrame_sent p f (k + 1) s
      simp only [y, hnext]
      exact ⟨assignFrame_portStep .., shown, .inl ⟨Int.not_lt.1 hearly, Int.not_le.1 hlate, hsent⟩⟩

/-- The sample of a single missing frame sync counts once the next frame comes (R343; the model's choice, 243 of its notes). -/
theorem afterMissing_sap {k : Nat} (hlast : (s.sap p).lastSample = some k) :
    (afterMissing p s).sap p = { s.sap p with lastSample := some (k + 1) }.countUnderrun := by
  simp [afterMissing, hlast]

theorem afterMissing_of_none (hlast : (s.sap p).lastSample = none) : afterMissing p s = s := by
  simp [afterMissing, hlast]

theorem afterMissing_portStep (p : Fin 32) (s : State) : PortStep p s (afterMissing p s) := by
  unfold afterMissing
  split
  · exact (State.onSap_portStep ..).trans (underrun_portStep ..)
  · exact PortStep.refl p s

/-! ### The frame that ends (R331, R347) -/

/-- The port once a frame start has ended a frame that held its bits. -/
def Sap.endGood (x : Sap) (f : SapFrame) (perOk : Bool) : Sap :=
  { x with period := BitVec.ofNat 32 (min 4294967295 f.periodPs), validRun := if perOk then x.validRun + 1 else 0,
           badPeriods := if perOk then 0 else x.badPeriods + 1, badBits := 0,
           lastFrame := if x.cur.isSome then x.words else x.lastFrame }

/-- What the runs of bad frames bring (R347). -/
def judgeRuns (p : Fin 32) (f : SapFrame) (s : State) : State :=
  if (s.sap p).state = .rateMismatch then s
  else if 8 ≤ (s.sap p).badPeriods then rateMismatch p false f.periodPs s
  else if 8 ≤ (s.sap p).badBits then rateMismatch p true f.periodPs s
  else s

/-- At a frame start of a running port the frame before ends, and held its bits. -/
structure EndsGood (p : Fin 32) (f : SapFrame) (s : State) : Prop where
  started : (s.sap p).lastStart.isSome = true
  running : (s.sap p).state = .running
  bits : f.bits = (s.sap p).cfg.frameBits

theorem EndsGood.clearMissing (h : EndsGood p f s) : EndsGood p f (s.onSap p fun y => { y with missing := 0 }) :=
  ⟨by simpa using h.started, by simpa using h.running, by simpa using h.bits⟩

theorem endFrame_good (h : EndsGood p f s) :
    endFrame p f s = judgeRuns p f (s.onSap p fun y => y.endGood f (periodOk (s.fsOf (s.sap p).cfg.domain) f.periodPs)) := by
  have hbits' : (f.bits == (s.sap p).cfg.frameBits) = true := beq_iff_eq.2 h.bits
  refine (if_neg (by simpa [Option.isSome_iff_ne_none] using h.started)).trans ((if_neg (by simp [h.running])).trans ?_)
  refine (congrArg (judgeRuns p f) (if_pos hbits')).trans (congrArg (judgeRuns p f) ?_)
  rw [State.onSap_onSap]
  refine State.onSap_congr ?_
  simp only [hbits', Sap.endGood, Bool.true_and, if_true]
  split <;> rfl

theorem judgeRuns_few (hperiods : (s.sap p).badPeriods < 8) (hbits : (s.sap p).badBits = 0) : judgeRuns p f s = s := by
  simp [judgeRuns, Nat.not_le.2 hperiods, hbits]

/-- The eighth period out of range in a row. -/
theorem judgeRuns_eight (hrun : (s.sap p).state = .running) (hperiods : 8 ≤ (s.sap p).badPeriods) :
    judgeRuns p f s = rateMismatch p false f.periodPs s := by
  rw [judgeRuns, if_neg (by simp [hrun]), if_pos hperiods]

/-! ### Losing the clock (R343, R344, R347) -/

@[simp] theorem sapSourceLost_sap (p : Fin 32) (s : State) (q : Fin 32) : (sapSourceLost p s).sap q = s.sap q := by
  have hsaps : (sapSourceLost p s).saps = s.saps := by rw [sapSourceLost, loseSources_rest]
  rw [State.sap, hsaps, State.sap]

theorem sapSourceLost_clockStep (p : Fin 32) (s : State) : PortClockStep p s (sapSourceLost p s) := by
  refine ⟨fun q _ => sapSourceLost_sap p s q, ?_⟩
  have hrest := loseSources_rest (fun x => x.source == 4 && x.index == p.val) s
  rw [sapSourceLost]
  generalize loseSources _ s = t at hrest ⊢
  rw [hrest]

theorem rateMismatch_sap (p : Fin 32) (cause : Bool) (period : Nat) (s : State) : (rateMismatch p cause period s).sap p =
    { s.sap p with state := .rateMismatch, mismatch := cause, flags := setFlag (s.sap p).flags 4,
                   outFrom := (s.sap p).lastSample, lastSample := none, cur := none } := by
  simp [rateMismatch]

theorem rateMismatch_clockStep (p : Fin 32) (cause : Bool) (period : Nat) (s : State) :
    PortClockStep p s (rateMismatch p cause period s) :=
  ((State.onSap_portStep ..).trans (raise_portStep ..)).withClocks.trans (sapSourceLost_clockStep ..)

theorem clockStop_sap (p : Fin 32) (s : State) : (clockStop p s).sap p =
    { (s.sap p).rampOut with state := .noClock, flags := setFlag (s.sap p).flags 0, validRun := 0, lastStart := none,
                             missing := 2 } := by
  simp [clockStop, Sap.rampOut]

theorem clockStop_clockStep (p : Fin 32) (s : State) : PortClockStep p s (clockStop p s) :=
  ((State.onSap_portStep ..).trans (raise_portStep ..)).withClocks.trans (sapSourceLost_clockStep ..)

/-- The missing frame syncs of a running slave. -/
theorem missingSync_running (hpresent : (s.sap p).present = true) (hslave : (s.sap p).cfg.master = false)
    (hrun : (s.sap p).state = .running) (hstart : (s.sap p).lastStart.isSome = true) :
    missingSync p s = if (s.sap p).missing = 0 then s.onSap p fun y => { y with missing := 1 } else clockStop p s :=
  if_pos (by simp [hpresent, Sap.slave, hslave, hrun, hstart, SapState.data])

/-! ### Frame starts (R329, R332, R343) -/

/-- A port once its frame start has ended the frame before, and has counted the sample of a single missing frame sync. -/
def frameEnded (p : Fin 32) (f : SapFrame) (s : State) : State :=
  let t := endFrame p f (s.onSap p fun y => { y with missing := 0 })
  if (s.sap p).missing = 1 then afterMissing p t else t

/-- A port that is not to recover begins its next frame. -/
theorem slaveFrame_eq (hstate : let t := (endFrame p f (s.onSap p fun y => { y with missing := 0 })).sap p
      t.state ≠ .acquiring ∧ t.state ≠ .noClock) :
    slaveFrame p f s = (beginFrame p f (frameEnded p f s)).onSap p fun y => { y with lastStart := some f.startPs } := by
  obtain ⟨hacq, hclock⟩ := hstate
  unfold slaveFrame frameEnded
  generalize endFrame p f _ = t at hacq hclock ⊢
  cases hstart : (s.sap p).lastStart <;> simp [hstart, hacq, hclock]

theorem frameStart_slave (hpresent : (s.sap p).present = true) (hslave : (s.sap p).cfg.master = false) :
    frameStart p f s = slaveFrame p f s := by
  simp [frameStart, hpresent, Sap.slave, hslave]

theorem frameStart_master (hpresent : (s.sap p).present = true) (hmaster : (s.sap p).cfg.master = true) :
    frameStart p f s = masterFrame p f s := by
  simp [frameStart, hpresent, Sap.slave, hmaster]

theorem beginFrame_running {k : Nat} (hrun : (s.sap p).state = .running) (hlast : (s.sap p).lastSample = some k) :
    beginFrame p f s = nextFrame p f k s := by
  simp [beginFrame, hrun, hlast]

/-- In RATE_MISMATCH frames go out as zeros. -/
theorem beginFrame_mismatch (hstate : (s.sap p).state = .rateMismatch) (hlast : (s.sap p).lastSample = none) :
    PortStep p s (beginFrame p f s) ∧
      { s.sap p with words := (s.sap p).cfg.capture f.lines }.Sent ((beginFrame p f s).sap p) := by
  have hbegin : beginFrame p f s = sapEmit p none (s.onSap p fun y => { y with words := y.cfg.capture f.lines }) := by
    simp [beginFrame, hstate, hlast]
  have hsent := sapEmit_sent p none (s.onSap p fun y => { y with words := y.cfg.capture f.lines })
  rw [State.onSap_sap_self] at hsent
  rw [hbegin]
  exact ⟨(State.onSap_portStep ..).trans (sapEmit_portStep ..), hsent⟩

/-- A good frame ends in a running port whose periods are not eight times out of range in a row. -/
theorem endFrame_few (h : EndsGood p f s)
    (hfew : periodOk (s.fsOf (s.sap p).cfg.domain) f.periodPs = true ∨ (s.sap p).badPeriods < 7) :
    endFrame p f s = s.onSap p fun y => y.endGood f (periodOk (s.fsOf (s.sap p).cfg.domain) f.periodPs) := by
  rw [endFrame_good h]
  refine judgeRuns_few ?_ (by simp [Sap.endGood])
  rw [State.onSap_sap_self]
  rcases hfew with hok | hfew
  · simp [Sap.endGood, hok]
  · simp only [Sap.endGood]
    split <;> omega

/-- Where a good frame ends, the port stands before the sample after its last, which is one further on after a single missing frame
sync, an underrun. -/
theorem frameEnded_few {k : Nat} (h : EndsGood p f s) (hlast : (s.sap p).lastSample = some k)
    (hfew : periodOk (s.fsOf (s.sap p).cfg.domain) f.periodPs = true ∨ (s.sap p).badPeriods < 7) :
    PortStep p s (frameEnded p f s) ∧ ∃ flags evUnder period validRun badPeriods badBits lastFrame,
      (frameEnded p f s).sap p = { s.sap p with
        missing := 0, lastSample := some (if (s.sap p).missing = 1 then k + 1 else k),
        underruns := if (s.sap p).missing = 1 then satInc32 (s.sap p).underruns else (s.sap p).underruns
        flags := flags, evUnder := evUnder, period := period, validRun := validRun, badPeriods := badPeriods,
        badBits := badBits, lastFrame := lastFrame } ∧
      ((s.sap p).missing = 1 → flags.getLsbD 2 = true) := by
  have hend := endFrame_few h.clearMissing (by simpa using hfew)
  rw [State.onSap_onSap] at hend
  unfold frameEnded
  rw [hend]
  by_cases hm : (s.sap p).missing = 1
  · simp only [hm, if_true]
    refine ⟨(State.onSap_portStep ..).trans (afterMissing_portStep ..), ?_⟩
    rw [afterMissing_sap (k := k) (by simpa [Sap.endGood] using hlast), State.onSap_sap_self]
    exact ⟨_, _, _, _, _, _, _, rfl, fun _ => getLsbD_setFlag _ (by decide)⟩
  · simp only [hm, if_false]
    refine ⟨State.onSap_portStep .., ?_⟩
    rw [State.onSap_sap_self, ← hlast]
    exact ⟨_, _, _, _, _, _, _, rfl, False.elim⟩

/-- The frame that ends the eighth period out of range in a row is the last that the port judges. -/
theorem frameEnded_eighth (h : EndsGood p f s) (hperiod : periodOk (s.fsOf (s.sap p).cfg.domain) f.periodPs = false)
    (hbad : (s.sap p).badPeriods = 7) :
    let t := rateMismatch p false f.periodPs (s.onSap p fun y => { y with missing := 0 }.endGood f false)
    endFrame p f (s.onSap p fun y => { y with missing := 0 }) = t ∧ frameEnded p f s = t := by
  intro t
  have hend : endFrame p f (s.onSap p fun y => { y with missing := 0 }) = t := by
    rw [endFrame_good h.clearMissing, State.onSap_onSap]
    simp only [State.onSap_sap_self, State.onSap_fsOf, hperiod]
    exact judgeRuns_eight (by simpa [Sap.endGood] using h.running) (by simp [Sap.endGood, hbad])
  refine ⟨hend, ?_⟩
  rw [frameEnded, hend]
  split
  · exact afterMissing_of_none (by simp [t, rateMismatch_sap])
  · rfl

/-- A slave enters RATE_MISMATCH at the frame start that ends the eighth period out of range in a row (R347). -/
theorem slaveFrame_eighth (h : EndsGood p f s) (hperiod : periodOk (s.fsOf (s.sap p).cfg.domain) f.periodPs = false)
    (hbad : (s.sap p).badPeriods = 7) :
    let y := (slaveFrame p f s).sap p
    y.state = .rateMismatch ∧ y.mismatch = false ∧ y.flags.getLsbD 4 = true ∧
      y.period = BitVec.ofNat 32 (min 4294967295 f.periodPs) ∧ PortClockStep p s (slaveFrame p f s) := by
  obtain ⟨hend, hended⟩ := frameEnded_eighth h hperiod hbad
  have hport := rateMismatch_sap p false f.periodPs (s.onSap p fun y => { y with missing := 0 }.endGood f false)
  have hstep := (State.onSap_portStep s p fun y => { y with missing := 0 }.endGood f false).withClocks.trans
    (rateMismatch_clockStep p false f.periodPs _)
  rw [← hended] at hport hstep
  obtain ⟨hbegin, tx, late, clips, clipNow, flags, hsent, hflags⟩ :=
    beginFrame_mismatch (f := f) (by rw [hport]) (by rw [hport])
  rw [slaveFrame_eq (by rw [hend, ← hended, hport]; simp)]
  simp only [State.onSap_sap_self, hsent, hport]
  refine ⟨trivial, trivial, hflags 4 ?_, rfl, hstep.trans (hbegin.trans (State.onSap_portStep ..)).withClocks⟩
  rw [hport]
  exact getLsbD_setFlag _ (by decide)

/-- The frame of a master whose clocks run carries the sample whose media instant is its start (R329). -/
theorem masterFrame_takes (hclocks : (s.sap p).clocks = true)
    (hfirst : (s.sap p).clkFirst ≤ nearestSample (s.fsOf (s.sap p).cfg.domain) f.startPs) :
    ∃ g : Sap → Sap, masterFrame p f s = s.onSap p g ∧
      (g (s.sap p)).rx = ((nearestSample (s.fsOf (s.sap p).cfg.domain) f.startPs, (s.sap p).cfg.capture f.lines) ::
        (s.sap p).rx).take 64 ∧
      (g (s.sap p)).lastSample = some (nearestSample (s.fsOf (s.sap p).cfg.domain) f.startPs) :=
  ⟨_, if_pos (by simp [hclocks, hfirst]), rfl, rfl⟩

/-- The port of a running slave at a frame start: the frame before has ended (`frameEnded_few`), then the next one is judged against
sample k + 1 (`nextFrame_cases`). -/
theorem slaveFrame_cases {k0 k : Nat} (h : EndsGood p f s) (hlast : (s.sap p).lastSample = some k0)
    (hfew : periodOk (s.fsOf (s.sap p).cfg.domain) f.periodPs = true ∨ (s.sap p).badPeriods < 7)
    (hk : (if (s.sap p).missing = 1 then k0 + 1 else k0) = k) :
    let phase := phaseOf (s.fsOf (s.sap p).cfg.domain) f.startPs (k + 1)
    let x := (frameEnded p f s).sap p
    PortStep p s (slaveFrame p f s) ∧ ∃ y shown,
      (slaveFrame p f s).sap p = { y with lastStart := some f.startPs } ∧
      ((-3000000000000 ≤ 4 * phase ∧ 4 * phase < 3000000000000 ∧ (x.assign f (k + 1) shown).Sent y) ∨
       (3000000000000 ≤ 4 * phase ∧ (x.countUnderrun.assign f (k + 2) shown).Sent y) ∨
       (4 * phase < -3000000000000 ∧ (x.countOverrun f shown).Sent y)) := by
  intro phase x
  obtain ⟨hended, _, _, _, _, _, _, _, hport, -⟩ := frameEnded_few h hlast hfew
  rw [hk] at hport
  obtain ⟨hnext, shown, hcases⟩ := nextFrame_cases p f k (frameEnded p f s)
  have hdomain : ((frameEnded p f s).sap p).cfg.domain = (s.sap p).cfg.domain := by rw [hport]
  rw [hended.fsOf, hdomain] at hcases
  have hstate : ((endFrame p f (s.onSap p fun y => { y with missing := 0 })).sap p).state = .running := by
    rw [endFrame_few h.clearMissing (by simpa using hfew)]
    simpa [Sap.endGood] using h.running
  have hslave : slaveFrame p f s =
      (nextFrame p f k (frameEnded p f s)).onSap p fun y => { y with lastStart := some f.startPs } := by
    rw [slaveFrame_eq (by simp [hstate]), beginFrame_running (k := k) (by rw [hport]; exact h.running) (by rw [hport])]
  rw [hslave, State.onSap_sap_self]
  exact ⟨(hended.trans hnext).trans (State.onSap_portStep ..), _, shown, rfl, hcases⟩

/-- The frame slips of a slave (R332, R343): in each case of `slaveFrame_cases` the port is written out, and the bounds on the phase
exclude the other two. -/
theorem sapFrameSlips : Claim.SapFrameSlips := by
  intro s p f k0 t0 x k under fs phase words takes hpresent hslave hrun hlast hstart hbits hfew
  have h : EndsGood p f s := ⟨Option.isSome_of_mem hstart, hrun, hbits⟩
  obtain ⟨-, flags, evUnder, period, validRun, badPeriods, badBits, lastFrame, hport, hflag⟩ :=
    frameEnded_few h hlast hfew
  have hcases := slaveFrame_cases h hlast hfew rfl
  rw [hport] at hcases
  obtain ⟨⟨hother, hrest⟩, y, shown, hy, hcases⟩ := hcases
  refine ⟨slaveFrame p f s, congrArg Host.Outcome.next (frameStart_slave hpresent hslave), ?_⟩
  simp only [takes, hy]
  rcases hcases with ⟨hearly, hlate, _, _, _, _, flags', rfl, hflags⟩ | ⟨hlate, _, _, _, _, flags', rfl, hflags⟩ |
    ⟨hearly, _, _, _, _, flags', rfl, hflags⟩
  · refine ⟨fun _ _ => ⟨⟨rfl, rfl, rfl⟩, rfl, rfl⟩, fun h => absurd hlate (Int.not_lt.2 h), fun h => absurd hearly (Int.not_le.2 h),
      fun hm => hflags 2 (hflag hm), rfl, hrun, rfl, hother, hrest⟩
  · have hset : flags'.getLsbD 2 = true := hflags 2 (getLsbD_setFlag _ (by decide))
    refine ⟨fun _ h => absurd h (Int.not_lt.2 hlate), fun _ => ⟨⟨rfl, rfl, rfl⟩, rfl, hset, rfl⟩,
      fun h => absurd (hlate.trans_lt h) (by decide), fun _ => hset, rfl, hrun, rfl, hother, hrest⟩
  · refine ⟨fun h => absurd hearly (Int.not_lt.2 h), fun h => absurd (h.trans_lt hearly) (by decide),
      fun _ => ⟨rfl, rfl, rfl, hflags 3 (getLsbD_setFlag _ (by decide)), rfl⟩,
      fun hm => hflags 2 (getLsbD_setFlag_of_set (hflag hm) 3), rfl, hrun, rfl, hother, hrest⟩

/-- The clocks of a port: a missing frame sync (`missingSync_running`; the flag that the second sets is SAP_FLAGS.stop), the eighth
period out of range (`slaveFrame_eighth`) and the frame of a master (`masterFrame_takes`). -/
theorem sapClockTrouble : Claim.SapClockTrouble := by
  intro s p x rest hpresent
  refine ⟨fun hslave hrun hstart => ⟨fun hmissing => ?_, fun hmissing => ?_⟩, fun f hslave hrun hstart _ hperiod hbad hbits => ?_,
    fun f hmaster hclocks hfirst => ?_⟩
  · exact congrArg Host.Outcome.next ((missingSync_running hpresent hslave hrun hstart).trans (if_pos hmissing))
  · refine ⟨clockStop p s, congrArg Host.Outcome.next
      ((missingSync_running hpresent hslave hrun hstart).trans (if_neg (Nat.ne_of_gt hmissing))), ?_⟩
    rw [clockStop_sap]
    exact ⟨rfl, rfl, rfl, rfl, clockStop_clockStep p s⟩
  · exact ⟨slaveFrame p f s, congrArg Host.Outcome.next (frameStart_slave hpresent hslave),
      slaveFrame_eighth ⟨hstart, hrun, hbits⟩ hperiod hbad⟩
  · obtain ⟨g, hframe, hrx, hlast⟩ := masterFrame_takes hclocks hfirst
    refine ⟨s.onSap p g, congrArg Host.Outcome.next ((frameStart_master hpresent hmaster).trans hframe), ?_⟩
    rw [State.onSap_sap_self]
    exact ⟨hrx, hlast, State.onSap_frame s p g⟩

end Sys2Proof.Machine

open Sys2Proof Sys2Proof.Machine

/-- Settles O38, by its three claims: on the lines, on the frame slips, and on clock trouble. -/
theorem sapTrouble : Obligations.SapTrouble := ⟨sapLines, sapFrameSlips, sapClockTrouble⟩

end

section
/-! Ethernet ports and receive streams: what an update of one of them leaves alone, and what a step at one of them may change. -/

namespace Sys2Proof.Machine

variable {n : Fin 4} {s t r : State} {P Q : Fin 256 → Prop}

/-! ### Updates -/

theorem State.onEth_onEth (s : State) (n : Fin 4) (f g : Eth → Eth) :
    (s.onEth n f).onEth n g = s.onEth n fun x => g (f x) := by
  simp [State.onEth, upd_upd]

theorem State.onEth_congr {f g : Eth → Eth} (h : f (s.eth n) = g (s.eth n)) : s.onEth n f = s.onEth n g := by
  simp only [State.onEth, upd_congr h]

@[simp] theorem State.onEth_srx (s : State) (n : Fin 4) (f : Eth → Eth) (u : Fin 256) : (s.onEth n f).srx u = s.srx u := rfl

@[simp] theorem raise_eth (code : Nat) (vals : Vals) (s : State) (n : Fin 4) : (raise code vals s).eth n = s.eth n := by
  rw [State.eth, raise_net, State.eth]

@[simp] theorem raise_srx (code : Nat) (vals : Vals) (s : State) (u : Fin 256) : (raise code vals s).srx u = s.srx u := by
  rw [State.srx, raise_net, State.srx]

@[simp] theorem raiseIf_eth (b : Bool) (code : Nat) (vals : Vals) (s : State) (n : Fin 4) :
    (raiseIf b code vals s).eth n = s.eth n := by
  cases b <;> simp

@[simp] theorem raiseIf_srx (b : Bool) (code : Nat) (vals : Vals) (s : State) (u : Fin 256) :
    (raiseIf b code vals s).srx u = s.srx u := by
  cases b <;> simp

/-! ### Steps at one port, and at receive streams -/

/-- From s to t an Ethernet port and receive streams have changed, and events were raised. -/
def EthStep (n : Fin 4) (s t : State) : Prop :=
  (∀ m, m ≠ n → t.eth m = s.eth m) ∧ t.net.tx = s.net.tx ∧ t = { s with net := t.net, ao := t.ao, evt := t.evt }

/-- From s to t an Ethernet port, receive streams and the clock island have changed, and events were raised. -/
def EthClockStep (n : Fin 4) (s t : State) : Prop :=
  (∀ m, m ≠ n → t.eth m = s.eth m) ∧ t.net.tx = s.net.tx ∧ t = { s with net := t.net, clk := t.clk, ao := t.ao, evt := t.evt }

/-- From s to t receive streams that satisfy P have changed, and events were raised. -/
def StreamStep (P : Fin 256 → Prop) (s t : State) : Prop :=
  (∀ v, ¬ P v → t.srx v = s.srx v) ∧ t = { s with net := { s.net with rx := t.net.rx }, ao := t.ao, evt := t.evt }

theorem EthStep.refl (n : Fin 4) (s : State) : EthStep n s s := ⟨fun _ _ => rfl, rfl, rfl⟩

theorem EthStep.trans (hst : EthStep n s t) (htr : EthStep n t r) : EthStep n s r := by
  obtain ⟨heth, htx, hrest⟩ := hst
  obtain ⟨heth', htx', hrest'⟩ := htr
  exact ⟨fun m hm => (heth' m hm).trans (heth m hm), htx'.trans htx, by rw [hrest', hrest]⟩

theorem EthStep.withClocks (h : EthStep n s t) : EthClockStep n s t := by
  obtain ⟨heth, htx, hrest⟩ := h
  exact ⟨heth, htx, by rw [hrest]⟩

theorem EthClockStep.trans (hst : EthClockStep n s t) (htr : EthClockStep n t r) : EthClockStep n s r := by
  obtain ⟨heth, htx, hrest⟩ := hst
  obtain ⟨heth', htx', hrest'⟩ := htr
  exact ⟨fun m hm => (heth' m hm).trans (heth m hm), htx'.trans htx, by rw [hrest', hrest]⟩

theorem StreamStep.refl (P : Fin 256 → Prop) (s : State) : StreamStep P s s := ⟨fun _ _ => rfl, rfl⟩

theorem StreamStep.trans (hst : StreamStep P s t) (htr : StreamStep P t r) : StreamStep P s r := by
  obtain ⟨hsrx, hrest⟩ := hst
  obtain ⟨hsrx', hrest'⟩ := htr
  exact ⟨fun v hv => (hsrx' v hv).trans (hsrx v hv), by rw [hrest', hrest]⟩

theorem StreamStep.mono (h : StreamStep P s t) (hPQ : ∀ v, P v → Q v) : StreamStep Q s t :=
  ⟨fun v hv => h.1 v (mt (hPQ v) hv), h.2⟩

theorem StreamStep.eth (h : StreamStep P s t) (n : Fin 4) : t.eth n = s.eth n := by
  rw [h.2]; rfl

theorem EthStep.tb (h : EthStep n s t) (v : Fin 4) : t.tb v = s.tb v := by
  rw [h.2.2]; rfl

theorem StreamStep.ethStep (h : StreamStep P s t) (n : Fin 4) : EthStep n s t :=
  ⟨fun m _ => h.eth m, by rw [h.2], by rw [h.2]⟩

theorem State.onEth_ethStep (s : State) (n : Fin 4) (f : Eth → Eth) : EthStep n s (s.onEth n f) :=
  ⟨fun m hm => State.onEth_eth_other s n m f hm.symm, rfl, rfl⟩

theorem State.onSrx_streamStep (s : State) (u : Fin 256) (f : Srx → Srx) : StreamStep (· = u) s (s.onSrx u f) :=
  ⟨fun v hv => State.onSrx_srx_other s u v f (Ne.symm hv), rfl⟩

theorem raise_streamStep (P : Fin 256 → Prop) (code : Nat) (vals : Vals) (s : State) : StreamStep P s (raise code vals s) :=
  ⟨fun v _ => raise_srx code vals s v, by rw [raise_eq code vals s]⟩

theorem raiseIf_streamStep (P : Fin 256 → Prop) (b : Bool) (code : Nat) (vals : Vals) (s : State) :
    StreamStep P s (raiseIf b code vals s) :=
  ⟨fun v _ => raiseIf_srx b code vals s v, by rw [raiseIf_eq b code vals s]⟩

theorem raise_ethStep (n : Fin 4) (code : Nat) (vals : Vals) (s : State) : EthStep n s (raise code vals s) :=
  (raise_streamStep (fun _ => False) code vals s).ethStep n

theorem raiseIf_ethStep (n : Fin 4) (b : Bool) (code : Nat) (vals : Vals) (s : State) : EthStep n s (raiseIf b code vals s) :=
  (raiseIf_streamStep (fun _ => False) b code vals s).ethStep n

end Sys2Proof.Machine
end

section
/-! Ethernet links and the legs of receive streams (R356, R372, R380 to R383, R386). -/

namespace Sys2Proof.Machine

variable {n : Fin 4} {u : Fin 256} {b : Bool} {s t : State}

/-! ### Legs (R380) -/

def Srx.withLeg (x : Srx) (b up : Bool) : Srx := if b then { x with legB := up } else { x with legA := up }

theorem Srx.withLeg_legUp (x : Srx) (b up c : Bool) : (x.withLeg b up).legUp c = if c = b then up else x.legUp c := by
  cases b <;> cases c <;> rfl

/-- A stream with a leg down; LOST where it was the last. -/
def Srx.dropLeg (x : Srx) (b : Bool) : Srx :=
  { x.withLeg b false with state := if x.legUp (!b) then x.state else 3 }

theorem Srx.dropLeg_legUp (x : Srx) (b c : Bool) : (x.dropLeg b).legUp c = if c = b then false else x.legUp c :=
  Srx.withLeg_legUp x b false c

theorem legDown_of_down (h : (s.srx u).legUp b = false) : legDown u b s = s := by
  simp [legDown, h]

/-- After a leg goes down the stream has a leg up if the other one is. -/
theorem Srx.withLeg_any (x : Srx) (b : Bool) : ((x.withLeg b false).legA || (x.withLeg b false).legB) = x.legUp (!b) := by
  cases b
  · exact Bool.false_or _
  · exact Bool.or_false _

theorem legDown_srx (h : (s.srx u).legUp b = true) : (legDown u b s).srx u = (s.srx u).dropLeg b := by
  have hleg : (raise 0x300C [v16 u.val, v8 (b2n b)] (setLeg u b false s)).srx u = (s.srx u).withLeg b false :=
    (raise_srx ..).trans (State.onSrx_srx_self ..)
  refine (congrArg (State.srx · u) (if_neg (by simp [h]))).trans ?_
  dsimp only
  rw [hleg, Srx.withLeg_any, Srx.dropLeg]
  cases (s.srx u).legUp (!b) with
  | true => exact hleg.trans (by cases b <;> rfl)
  | false => rw [if_neg Bool.false_ne_true, if_neg Bool.false_ne_true, raise_srx, State.onSrx_srx_self, hleg]

theorem legDown_streamStep (u : Fin 256) (b : Bool) (s : State) : StreamStep (· = u) s (legDown u b s) := by
  unfold legDown
  dsimp only
  split
  · exact StreamStep.refl ..
  · have hleg := (State.onSrx_streamStep s u _).trans
      (raise_streamStep (· = u) 0x300C [v16 u.val, v8 (b2n b)] (setLeg u b false s))
    split
    · exact hleg
    · exact hleg.trans ((State.onSrx_streamStep ..).trans (raise_streamStep ..))

/-- A leg that goes down is down after it, and every other stays as it is. -/
theorem legDown_legUp (u : Fin 256) (b : Bool) (s : State) (v : Fin 256) (c : Bool) :
    ((legDown u b s).srx v).legUp c = if v = u ∧ c = b then false else (s.srx v).legUp c := by
  by_cases hv : v = u
  · subst hv
    cases h : (s.srx v).legUp b with
    | false =>
      rw [legDown_of_down h]
      split
      · next hc => rw [hc.2, h]
      · rfl
    | true => simp [legDown_srx h, Srx.dropLeg_legUp]
  · rw [(legDown_streamStep u b s).1 v hv, if_neg fun h => hv h.1]

/-- What every step of an `each` keeps, and the step of one member brings, holds after it. -/
theorem each_brings {α σ : Type} (P : σ → Prop) {l : List α} {a : α} (f : α → σ → σ) (ha : a ∈ l)
    (hbring : ∀ s, P (f a s)) (hkeep : ∀ b s, P s → P (f b s)) (s : σ) : P (each l f s) := by
  obtain ⟨xs, ys, rfl⟩ := List.append_of_mem ha
  rw [each, List.foldl_append]
  exact each_keeps P ys f (fun b _ => hkeep b) _ (hbring _)

/-- The legs of a list go down, and nothing else changes but their streams' states. -/
theorem legsDown_spec (l : List (Fin 256 × Bool × RxLeg)) (s : State) :
    let t := each l (fun q s => legDown q.1 q.2.1 s) s
    StreamStep (fun v => ∃ q ∈ l, q.1 = v) s t ∧ ∀ q ∈ l, (t.srx q.1).legUp q.2.1 = false := by
  refine ⟨each_keeps (StreamStep _ s) l _ (fun q hq t ht => ht.trans ?_) s (StreamStep.refl ..), fun q hq => ?_⟩
  · exact (legDown_streamStep q.1 q.2.1 t).mono fun v hv => ⟨q, hq, hv.symm⟩
  · refine each_brings (fun t => (t.srx q.1).legUp q.2.1 = false) _ hq (fun t => ?_) (fun p t ht => ?_) s
    · rw [legDown_legUp, if_pos ⟨rfl, rfl⟩]
    · rw [legDown_legUp, ht, ite_self]

theorem State.legsOn_congr (h : ∀ u, t.srx u = s.srx u) (n : Fin 4) : t.legsOn n = s.legsOn n := by
  rw [State.legsOn, funext h, State.legsOn]

theorem State.port_of_mem_legsOn {q : Fin 256 × Bool × RxLeg} (h : q ∈ s.legsOn n) : q.2.2.port = n := by
  simp only [State.legsOn, List.mem_flatMap] at h
  obtain ⟨u, -, h⟩ := h
  split at h
  · split at h
    · obtain ⟨b, -, hb⟩ := List.mem_filterMap.1 h
      obtain ⟨l, -, hl⟩ := Option.bind_eq_some_iff.1 hb
      split at hl
      · next hport => cases hl; exact hport
      · cases hl
    · cases h
  · cases h

/-! ### Network time at a port (R372, R389) -/

/-- The timebase takes its time from the port. -/
def Timebase.takesPort (n : Fin 4) (x : Timebase) : Bool := x.source == 1 && x.index == n.val && x.sourceValid

theorem Timebase.takesPort_iff {x : Timebase} :
    x.takesPort n = true ↔ x.source = 1 ∧ x.index = n.val ∧ x.sourceValid = true := by
  simp [Timebase.takesPort, and_assoc]

theorem setPtp_eth (n : Fin 4) (new : Fin 7) (s : State) : (setPtp n new s).eth n = { s.eth n with ptpState := new } := by
  unfold setPtp
  dsimp only
  split
  · next h => rw [← h]
  · rw [raise_eth, State.onEth_eth_self]

theorem setPtp_ethStep (n : Fin 4) (new : Fin 7) (s : State) : EthStep n s (setPtp n new s) := by
  unfold setPtp
  dsimp only
  split
  · exact EthStep.refl ..
  · exact (State.onEth_ethStep ..).trans (raise_ethStep ..)

@[simp] theorem setPtp_srx (n : Fin 4) (new : Fin 7) (s : State) (v : Fin 256) : (setPtp n new s).srx v = s.srx v := by
  unfold setPtp
  dsimp only
  split
  · rfl
  · rw [raise_srx, State.onEth_srx]

/-- Everything that the loss of PTP at a port does (R372): the timebases that take it lose it. -/
theorem ptpLost_cases (n : Fin 4) (cause : Nat) (s : State) :
    (∀ v, (ptpLost n cause s).tb v = if (s.tb v).takesPort n then (s.tb v).lose else s.tb v) ∧
      ptpLost n cause s =
        { s with clk := (ptpLost n cause s).clk, ao := (ptpLost n cause s).ao, evt := (ptpLost n cause s).evt } := by
  unfold ptpLost
  dsimp only
  split
  · refine ⟨fun v => (raise_tb ..).trans (loseSources_tb ..), ?_⟩
    rw [raise_eq, loseSources_rest]
  · next h =>
    refine ⟨fun v => (if_neg fun hv => h (List.any_eq_true.2 ⟨s.tb v, ?_, hv⟩)).symm, rfl⟩
    exact Vector.mem_toList_iff.2 (Vector.getElem_mem _)

theorem ptpLost_tb (n : Fin 4) (cause : Nat) (s : State) (v : Fin 4) :
    (ptpLost n cause s).tb v = if (s.tb v).takesPort n then (s.tb v).lose else s.tb v :=
  (ptpLost_cases n cause s).1 v

theorem ptpLost_rest (n : Fin 4) (cause : Nat) (s : State) : ptpLost n cause s =
    { s with clk := (ptpLost n cause s).clk, ao := (ptpLost n cause s).ao, evt := (ptpLost n cause s).evt } :=
  (ptpLost_cases n cause s).2

@[simp] theorem ptpLost_net (n : Fin 4) (cause : Nat) (s : State) : (ptpLost n cause s).net = s.net := by
  rw [ptpLost_rest]

theorem ptpLost_eth (n : Fin 4) (cause : Nat) (s : State) (m : Fin 4) : (ptpLost n cause s).eth m = s.eth m := by
  rw [State.eth, ptpLost_net, State.eth]

theorem ptpLost_srx (n : Fin 4) (cause : Nat) (s : State) (v : Fin 256) : (ptpLost n cause s).srx v = s.srx v := by
  rw [State.srx, ptpLost_net, State.srx]

theorem ptpLost_ethClockStep (n : Fin 4) (cause : Nat) (s : State) : EthClockStep n s (ptpLost n cause s) :=
  ⟨fun m _ => ptpLost_eth n cause s m, by rw [ptpLost_net], by rw [ptpLost_rest]⟩

/-! ### Links (R356) -/

theorem linkUp_spec (hdown : (s.eth n).linkUp = false) (hpresent : (s.eth n).present = true) (hmode : (s.eth n).cfg.mode ≠ 0) :
    (linkUp n s).eth n =
        { s.eth n with linkUp := true, ptpState := if (s.eth n).cfg.ptpEn then 1 else (s.eth n).ptpState } ∧
      EthStep n s (linkUp n s) := by
  have hup := (State.onEth_ethStep s n fun x => { x with linkUp := true }).trans (raise_ethStep n 0x3001 [v8 n.val] _)
  have hlink : linkUp n s = _ := if_neg (by simp [hdown, hpresent, hmode])
  rw [hlink]
  cases (s.eth n).cfg.ptpEn with
  | false => exact ⟨(raise_eth ..).trans (State.onEth_eth_self ..), hup⟩
  | true => exact ⟨by simp [setPtp_eth], hup.trans (setPtp_ethStep ..)⟩

theorem linkDown_spec (hup : (s.eth n).linkUp = true) :
    (linkDown n s).eth n = { s.eth n with linkUp := false, flags := setFlag (s.eth n).flags 0, ptpState := 0 } ∧
      (∀ q ∈ s.legsOn n, ((linkDown n s).srx q.1).legUp q.2.1 = false) ∧
      (∀ v, (∀ q ∈ s.legsOn n, q.1 ≠ v) → (linkDown n s).srx v = s.srx v) ∧ EthClockStep n s (linkDown n s) := by
  let a := raise 0x3002 [v8 n.val] (s.onEth n fun x => { x with linkUp := false, flags := setFlag x.flags 0 })
  let c := each (s.legsOn n) (fun q s => legDown q.1 q.2.1 s) a
  have ha : EthStep n s a := (State.onEth_ethStep ..).trans (raise_ethStep ..)
  have hasrx : ∀ v, a.srx v = s.srx v := fun v => raise_srx ..
  have hlegs : a.legsOn n = s.legsOn n := State.legsOn_congr hasrx n
  obtain ⟨hc, hclegs⟩ := legsDown_spec (s.legsOn n) a
  have hlink : linkDown n s = ptpLost n 0 (setPtp n 0 c) :=
    (if_neg (by simp [hup])).trans (congrArg (fun l => ptpLost n 0 (setPtp n 0 (each l _ a))) hlegs)
  have hsrx : ∀ v, (ptpLost n 0 (setPtp n 0 c)).srx v = c.srx v := fun v => (ptpLost_srx ..).trans (setPtp_srx ..)
  rw [hlink]
  refine ⟨?_, fun q hq => ?_, fun v hv => ?_, ((ha.trans (hc.ethStep n)).trans (setPtp_ethStep n 0 c)).withClocks.trans
    (ptpLost_ethClockStep ..)⟩
  · rw [ptpLost_eth, setPtp_eth, hc.eth n, raise_eth, State.onEth_eth_self]
  · rw [hsrx, hclegs q hq]
  · rw [hsrx, hc.1 v fun ⟨q, hq, hqv⟩ => hv q hq hqv, hasrx]

/-! ### Queries and reports (R382, R383) -/

/-- A report of a multicast leg on a port whose link is up. -/
theorem igmp_sends {l : RxLeg} (f : Word → List Word → Bool → NetOut) (hup : (s.eth l.port).linkUp = true)
    (hmcast : isMcast l.group = true) : igmp l f s =
      s.onEth l.port fun x => { x with sent := (f l.group (if x.igmpV2 then [] else l.sources) x.igmpV2 :: x.sent).take 64 } :=
  (if_pos (by simp [hup, hmcast])).trans (State.onEth_congr rfl)

/-- The port once a query has set its version. -/
def queried (n : Fin 4) (v2 : Bool) (s : State) : State :=
  if v2 then raiseIf (!(s.eth n).igmpV2) 0x300F [v8 n.val] (s.onEth n fun x => { x with igmpV2 := true }) else s

theorem queried_eth (n : Fin 4) (v2 : Bool) (s : State) :
    (queried n v2 s).eth n = { s.eth n with igmpV2 := v2 || (s.eth n).igmpV2 } := by
  cases v2
  · rfl
  · exact (raiseIf_eth ..).trans (State.onEth_eth_self ..)

theorem queried_ethStep (n : Fin 4) (v2 : Bool) (s : State) : EthStep n s (queried n v2 s) := by
  cases v2
  · exact EthStep.refl ..
  · exact (State.onEth_ethStep ..).trans (raiseIf_ethStep ..)

theorem queried_srx (n : Fin 4) (v2 : Bool) (s : State) (v : Fin 256) : (queried n v2 s).srx v = s.srx v := by
  cases v2
  · rfl
  · exact raiseIf_srx ..

theorem igmpQuery_eq (n : Fin 4) (v2 : Bool) (group : Word) (s : State) : igmpQuery n v2 group s =
    each ((s.legsOn n).filter fun q => group == 0 || q.2.2.group == group) (fun q s => igmp q.2.2 NetOut.igmpReport s)
      (queried n v2 s) := by
  rw [← State.legsOn_congr (queried_srx n v2 s)]
  rfl

theorem execIgmpQuery_up {v2 : Bool} {group : Word} (hup : (s.eth n).linkUp = true) :
    exec (.igmpQuery n v2 group) s = .next (igmpQuery n v2 group s) :=
  congrArg Host.Outcome.next (if_pos hup)

/-- A query that concerns one multicast leg is answered once. -/
theorem igmpQuery_one {v2 : Bool} {group : Word} {q : Fin 256 × Bool × RxLeg} (hup : (s.eth n).linkUp = true)
    (hone : (s.legsOn n).filter (fun q => group == 0 || q.2.2.group == group) = [q]) (hmcast : isMcast q.2.2.group = true) :
    igmpQuery n v2 group s = (queried n v2 s).onEth n fun x => { x with
      sent := (NetOut.igmpReport q.2.2.group (if x.igmpV2 then [] else q.2.2.sources) x.igmpV2 :: x.sent).take 64 } := by
  have hport : q.2.2.port = n :=
    State.port_of_mem_legsOn (List.mem_of_mem_filter (hone ▸ List.mem_singleton_self q))
  have hsend := igmp_sends (s := queried n v2 s) NetOut.igmpReport (l := q.2.2) (by rw [hport, queried_eth]; exact hup) hmcast
  rw [igmpQuery_eq, hone, each_cons, each_nil, hsend, hport]

theorem igmpRepeat_sends {r : RxRec} {l : RxLeg} (hcfg : (s.srx u).cfg = some r) (hleg : r.leg b = some l)
    (hen : (s.srx u).enable = true) (hup : (s.eth l.port).linkUp = true) (hmcast : isMcast l.group = true) :
    igmpRepeat u b s = s.onEth l.port fun x =>
      { x with sent := (NetOut.igmpJoin l.group (if x.igmpV2 then [] else l.sources) x.igmpV2 :: x.sent).take 64 } := by
  simp only [igmpRepeat, hcfg, Option.bind_some, hleg, hen, if_true]
  exact igmp_sends NetOut.igmpJoin hup hmcast

/-! ### Requests for an address (R354) -/

theorem arp_own {w : Word} (hup : (s.eth n).linkUp = true) (hip : (s.eth n).cfg.ip = w) : arp n w s = netOut n (.arpReply w) s :=
  (if_neg (by simp [hup])).trans (if_pos hip)

theorem arp_other {w : Word} (hup : (s.eth n).linkUp = true) (hip : (s.eth n).cfg.ip ≠ w) : arp n w s = discard n s :=
  (if_neg (by simp [hup])).trans (if_neg hip)

/-! ### Enables (R382, R386) -/

theorem srxEnable_stages {r : RxRec} (hcfg : (s.srx u).cfg = some r) (en : Bool) : srxEnable u en s =
    (s.onSrx u fun x => { x with enableReg := en }).onTb (s.tbOf r.domain) fun y =>
      { y with staged := y.staged ++ [⟨if y.open_ then 0 else 1, .srxEnable u en⟩] } := by
  rw [srxEnable, hcfg, stage_write]
  rfl

theorem stxEnable_stages {r : TxRec} (hcfg : (s.stx u).cfg = some r) (en : Bool) : stxEnable u en s =
    (s.onStx u fun x => { x with enableReg := en }).onTb (s.tbOf r.domain) fun y =>
      { y with staged := y.staged ++ [⟨if y.open_ then 0 else 1, .stxEnable u en⟩] } := by
  rw [stxEnable, hcfg, stage_write]
  rfl

end Sys2Proof.Machine

open Sys2Proof Sys2Proof.Machine

/-- Settles O39: a link that goes down takes its legs and its network time with it (`linkDown_spec`), a leg that times out leaves
its stream LOST where it was the last (`legDown_srx`), and a query is answered for each leg that it concerns (`igmpQuery_eq`). That
a port with PTP enters LISTENING with its link is the model's choice (79 of its notes). -/
theorem netLinks : Obligations.NetLinks := by
  intro s n u b w e others put
  refine ⟨fun hdown hpresent hmode => ?_, fun hup => ?_, fun hup hip => ?_, fun hup hip => ?_, rfl, rfl, fun hleg => ?_,
    fun v2 hup hnone => ?_, fun v2 q hup hone hmcast => ?_, rfl, fun r l hcfg hleg hen hup hmcast => ?_,
    fun r hcfg => ?_, fun r hcfg => ?_⟩
  · obtain ⟨heth, hstep⟩ := linkUp_spec hdown hpresent hmode
    exact ⟨_, rfl, heth, hstep.withClocks⟩
  · exact ⟨_, rfl, linkDown_spec hup⟩
  · exact congrArg Host.Outcome.next (arp_own hup hip)
  · exact congrArg Host.Outcome.next (arp_other hup hip)
  · have hstream := legDown_srx hleg
    obtain ⟨hother, hrest⟩ := legDown_streamStep u b s
    refine ⟨_, rfl, ?_, ?_, congrArg Srx.state hstream, hother, hrest⟩
    · rw [hstream, Srx.dropLeg_legUp, if_pos rfl]
    · rw [hstream, Srx.dropLeg_legUp, if_neg (by cases b <;> decide)]
  · refine ⟨_, execIgmpQuery_up hup, ?_⟩
    rw [igmpQuery_eq, hnone]
    exact ⟨queried_eth n v2 s, (queried_ethStep n v2 s).withClocks⟩
  · refine ⟨_, execIgmpQuery_up hup, ?_⟩
    rw [igmpQuery_one hup hone hmcast, State.onEth_eth_self, queried_eth]
    exact ⟨rfl, ((queried_ethStep n v2 s).trans (State.onEth_ethStep ..)).withClocks⟩
  · exact congrArg Host.Outcome.next (igmpRepeat_sends hcfg hleg hen hup hmcast)
  · exact congrArg Host.Outcome.next (srxEnable_stages hcfg b)
  · exact congrArg Host.Outcome.next (stxEnable_stages hcfg b)

end

section
/-! PTP messages and timers at a port (R354, R368 to R375). -/

namespace Sys2Proof.Machine

variable {n : Fin 4} {m : PtpMsg} {s : State}

/-! ### A message comes in (R354, R373) -/

/-- A port with its link up and PTP enabled. -/
structure State.HasPtp (s : State) (n : Fin 4) : Prop where
  up : (s.eth n).linkUp = true
  enabled : (s.eth n).cfg.ptpEn = true

theorem ptpIn_otherTransport (h : s.HasPtp n) (hway : m.ethernet ≠ (s.eth n).peerToPeer) (type : BitVec 4) (f : State → State) :
    ptpIn n m type f s = discard n s :=
  (if_neg (by simp [h.up])).trans (if_pos (by simp [hway]))

theorem ptpIn_malformed {type : BitVec 4} (h : s.HasPtp n) (hway : m.ethernet = (s.eth n).peerToPeer)
    (hbad : (s.eth n).malformed m type = true) (f : State → State) : ptpIn n m type f s = ptpBad n m s :=
  (if_neg (by simp [h.up])).trans ((if_neg (by simp [h.enabled, hway])).trans (if_pos hbad))

theorem ptpIn_fits {type : BitVec 4} (h : s.HasPtp n) (hway : m.ethernet = (s.eth n).peerToPeer)
    (hfits : (s.eth n).malformed m type = false) (f : State → State) : ptpIn n m type f s = f s :=
  (if_neg (by simp [h.up])).trans ((if_neg (by simp [h.enabled, hway])).trans (if_neg (by simp [hfits])))

theorem underProfile_own {p2p : Bool} (h : (s.eth n).peerToPeer = p2p) (f : State → State) : underProfile p2p n f s = f s := by
  rw [underProfile, h, beq_self_eq_true, State.when_true]

theorem Eth.listens_iff {e : Eth} : e.listens m = true ↔ (e.ptpState = 2 ∨ e.ptpState = 3) ∧ m.source = e.parentSrc := by
  simp only [Eth.listens, Bool.and_eq_true, Bool.or_eq_true, beq_iff_eq, eq_comm (a := m.source)]

/-- The port that counts a malformed message. -/
def Eth.countBad (e : Eth) (malAt : Option Nat) : Eth :=
  { e with ptpBad := satInc32 e.ptpBad, flags := setFlag e.flags 2, malAt := malAt }

theorem ptpBad_spec (n : Fin 4) (m : PtpMsg) (s : State) :
    (∃ malAt, (ptpBad n m s).eth n = (s.eth n).countBad malAt) ∧ EthStep n s (ptpBad n m s) :=
  ⟨⟨_, (raiseIf_eth ..).trans (State.onEth_eth_self ..)⟩, (State.onEth_ethStep ..).trans (raiseIf_ethStep ..)⟩

/-! ### A message goes out (R374, R375) -/

theorem queueTs_room (t : TxTs) (h : (s.eth n).txts.length < 64) :
    queueTs n t s = (true, s.onEth n fun x => { x with txts := x.txts ++ [t] }) := if_pos h

theorem queueTs_full (t : TxTs) (h : 64 ≤ (s.eth n).txts.length) :
    (queueTs n t s).1 = false ∧ (queueTs n t s).2.eth n = { s.eth n with
      txtsDrops := satInc32 (s.eth n).txtsDrops, txtsRun := true, flags := setFlag (s.eth n).flags 1 } ∧
      EthStep n s (queueTs n t s).2 := by
  have hqueue : queueTs n t s = _ := if_neg (Nat.not_lt.2 h)
  rw [hqueue]
  exact ⟨rfl, (raiseIf_eth ..).trans (State.onEth_eth_self ..), (State.onEth_ethStep ..).trans (raiseIf_ethStep ..)⟩

/-- The frame of a message of a port. -/
def Eth.ptpFrame (e : Eth) (type : BitVec 4) (seq : BitVec 16) (cls : Byte) : NetOut :=
  .ptp e.peerToPeer type seq cls e.prio1 e.prio2

theorem ptpSend_eq (type : BitVec 4) (seq : BitVec 16) (cls : Byte) :
    ptpSend n type seq cls s = netOut n ((s.eth n).ptpFrame type seq cls) s := rfl

def Eth.stamp (e : Eth) (m : PtpMsg) (type : BitVec 4) : TxTs := ⟨type, e.cfg.ptpDomain, m.seqId, ptpTime m.rxOrTx⟩

/-- An event message that the port sends takes a transmit timestamp. -/
theorem sendEvent_room (type : BitVec 4) (h : (s.eth n).txts.length < 64) :
    sendEvent n m type s = (true, s.onEth n fun x => { x with
      sent := ((s.eth n).ptpFrame type m.seqId 0 :: x.sent).take 64, txts := x.txts ++ [(s.eth n).stamp m type] }) := by
  have hroom : ((ptpSend n type m.seqId 0 s).eth n).txts.length < 64 := by
    rwa [ptpSend_eq, netOut, State.onEth_eth_self]
  rw [sendEvent, queueTs_room _ hroom, ptpSend_eq, netOut, State.onEth_onEth]
  rfl

/-! ### What each message does -/

/-- A command that brings the port a received message. -/
def PtpArrives (n : Fin 4) (m : PtpMsg) (type : BitVec 4) (q : Instr) : Prop :=
  ∃ f, ∀ s, exec q s = .next (ptpIn n m type f s)

theorem arrives_sync : PtpArrives n m 0 (.sync n m) := ⟨_, fun _ => rfl⟩
theorem arrives_followUp : PtpArrives n m 8 (.followUp n m) := ⟨_, fun _ => rfl⟩
theorem arrives_delayResp : PtpArrives n m 9 (.delayResp n m) := ⟨_, fun _ => rfl⟩
theorem arrives_pdelayRespFollowUp : PtpArrives n m 0xA (.pdelayRespFollowUp n m) := ⟨_, fun _ => rfl⟩
theorem arrives_announce (st : Fin 7) (b : Bool) : PtpArrives n m 0xB (.announce n m st b) := ⟨_, fun _ => rfl⟩

theorem arrives_delayReq (h : m.sent = false) : PtpArrives n m 1 (.delayReq n m) :=
  ⟨_, fun _ => congrArg Host.Outcome.next (if_neg (by simp [h]))⟩

theorem arrives_pdelayReq (h : m.sent = false) : PtpArrives n m 2 (.pdelayReq n m) :=
  ⟨_, fun _ => congrArg Host.Outcome.next (if_neg (by simp [h]))⟩

theorem arrives_pdelayResp (h : m.sent = false) : PtpArrives n m 3 (.pdelayResp n m) :=
  ⟨_, fun _ => congrArg Host.Outcome.next (if_neg (by simp [h]))⟩

/-! ### Messages that the port sends -/

/-- A request of the port leaves, and its response is awaited. -/
theorem sendRequest_room (type : BitVec 4) (h : (s.eth n).txts.length < 64) :
    (sendEvent n m type s).2.onEth n (fun x => { x with delayWait := some (m.seqId, m.rxOrTx) }) =
      s.onEth n fun x => { x with
        sent := ((s.eth n).ptpFrame type m.seqId 0 :: x.sent).take 64, txts := x.txts ++ [(s.eth n).stamp m type],
        delayWait := some (m.seqId, m.rxOrTx) } := by
  rw [sendEvent_room type h, State.onEth_onEth]

theorem delayReq_sent (h : s.HasPtp n) (hsent : m.sent = true) (hroom : (s.eth n).txts.length < 64)
    (hway : (s.eth n).peerToPeer = false) : exec (.delayReq n m) s = .next (s.onEth n fun x => { x with
      sent := ((s.eth n).ptpFrame 1 m.seqId 0 :: x.sent).take 64, txts := x.txts ++ [(s.eth n).stamp m 1],
      delayWait := some (m.seqId, m.rxOrTx) }) :=
  congrArg Host.Outcome.next ((if_pos hsent).trans
    ((if_pos (by simp [h.up, h.enabled, hway])).trans (sendRequest_room 1 hroom)))

theorem pdelayReq_sent (h : s.HasPtp n) (hsent : m.sent = true) (hroom : (s.eth n).txts.length < 64)
    (hway : (s.eth n).peerToPeer = true) : exec (.pdelayReq n m) s = .next (s.onEth n fun x => { x with
      sent := ((s.eth n).ptpFrame 2 m.seqId 0 :: x.sent).take 64, txts := x.txts ++ [(s.eth n).stamp m 2],
      delayWait := some (m.seqId, m.rxOrTx) }) :=
  congrArg Host.Outcome.next ((if_pos hsent).trans
    ((if_pos (by simp [h.up, h.enabled, hway])).trans (sendRequest_room 2 hroom)))

/-- A response whose timestamp is kept is followed up at once. -/
theorem pdelayResp_sent (h : s.HasPtp n) (hsent : m.sent = true) (hroom : (s.eth n).txts.length < 64)
    (hway : (s.eth n).peerToPeer = true) : exec (.pdelayResp n m) s = .next (s.onEth n fun x => { x with
      sent := ((s.eth n).ptpFrame 0xA m.seqId 0 :: ((s.eth n).ptpFrame 3 m.seqId 0 :: x.sent).take 64).take 64,
      txts := x.txts ++ [(s.eth n).stamp m 3] }) := by
  refine congrArg Host.Outcome.next ((if_pos hsent).trans ((if_pos (by simp [h.up, h.enabled, hway])).trans ?_))
  rw [sendEvent_room 3 hroom]
  refine (ptpSend_eq (s := s.onEth n _) 0xA m.seqId 0).trans ?_
  rw [netOut, State.onEth_onEth, State.onEth_eth_self]
  rfl

/-! ### Measurements (R371) -/

section
variable (h : s.HasPtp n) (hway : m.ethernet = (s.eth n).peerToPeer)
include h hway

theorem sync_oneStep (hfits : (s.eth n).malformed m 0 = false) (hparent : (s.eth n).listens m = true) (hone : m.twoStep = false) :
    exec (.sync n m) s = .next (ptpMeasure n m.origin m.rxOrTx m.corrNs s) :=
  congrArg Host.Outcome.next ((ptpIn_fits h hway hfits _).trans
    ((if_neg (by simp [hparent])).trans (if_neg (by simp [hone]))))

theorem sync_twoStep (hfits : (s.eth n).malformed m 0 = false) (hparent : (s.eth n).listens m = true) (htwo : m.twoStep = true) :
    exec (.sync n m) s = .next (s.onEth n fun x => { x with syncWait := some (m.seqId, m.rxOrTx, m.corrNs) }) :=
  congrArg Host.Outcome.next ((ptpIn_fits h hway hfits _).trans ((if_neg (by simp [hparent])).trans (if_pos htwo)))

theorem followUp_completes {t2 c : Int} (hfits : (s.eth n).malformed m 8 = false) (hparent : (s.eth n).listens m = true)
    (hwait : (s.eth n).syncWait = some (m.seqId, t2, c)) :
    exec (.followUp n m) s = .next (ptpMeasure n m.origin t2 (c + m.corrNs) s) := by
  refine congrArg Host.Outcome.next ((ptpIn_fits h hway hfits _).trans ?_)
  simp only [hwait, if_true, hparent]

/-- A delay response to the port's own request, under a profile that measures end to end. -/
theorem delayResp_measures {t3 t1 t2 : Int} (hfits : (s.eth n).malformed m 9 = false) (he2e : (s.eth n).peerToPeer = false)
    (hwait : (s.eth n).delayWait = some (m.seqId, t3)) (hsync : (s.eth n).lastSync = some (t1, t2)) :
    exec (.delayResp n m) s = .next (s.onEth n fun x => { x with
      delayWait := none, delays := (rne ((t2 - t1) + (m.origin - t3) - m.corrNs) 2 :: x.delays).take 8 }) := by
  refine congrArg Host.Outcome.next ((ptpIn_fits h hway hfits _).trans ((underProfile_own he2e _).trans ?_))
  simp only [hwait, if_true, hsync, addDelay, State.onEth_onEth]

theorem pdelayResp_measures {t1 : Int} (hsent : m.sent = false) (hfits : (s.eth n).malformed m 3 = false)
    (hp2p : (s.eth n).peerToPeer = true) (hwait : (s.eth n).delayWait = some (m.seqId, t1)) :
    exec (.pdelayResp n m) s = .next (s.onEth n fun x =>
      if m.twoStep then { x with pdelayWait := some (m.seqId, m.origin, m.rxOrTx, m.corrNs) }
      else { x with delayWait := none, delays := (rne ((m.rxOrTx - t1) - m.corrNs) 2 :: x.delays).take 8 }) := by
  refine congrArg Host.Outcome.next ((if_neg (by simp [hsent])).trans
    ((ptpIn_fits h hway hfits _).trans ((underProfile_own hp2p _).trans ?_)))
  simp only [hwait, if_true, addDelay, State.onEth_onEth]
  cases m.twoStep <;> rfl

theorem pdelayRespFollowUp_measures {t1 t2 t4 c : Int} (hfits : (s.eth n).malformed m 0xA = false)
    (hp2p : (s.eth n).peerToPeer = true) (hwait : (s.eth n).delayWait = some (m.seqId, t1))
    (hresp : (s.eth n).pdelayWait = some (m.seqId, t2, t4, c)) :
    exec (.pdelayRespFollowUp n m) s = .next (s.onEth n fun x => { x with
      delayWait := none, pdelayWait := none,
      delays := (rne ((t4 - t1) - (m.origin - t2) - c - m.corrNs) 2 :: x.delays).take 8 }) := by
  refine congrArg Host.Outcome.next ((ptpIn_fits h hway hfits _).trans ((underProfile_own hp2p _).trans ?_))
  simp only [hwait, hresp, and_self, if_true, addDelay, State.onEth_onEth]

/-! ### Requests that come in (R368) -/

theorem delayReq_answered (hsent : m.sent = false) (hfits : (s.eth n).malformed m 1 = false)
    (he2e : (s.eth n).peerToPeer = false) (hmaster : s.ptpMaster n = true) :
    exec (.delayReq n m) s = .next (netOut n ((s.eth n).ptpFrame 9 m.seqId 0) s) :=
  congrArg Host.Outcome.next ((if_neg (by simp [hsent])).trans
    ((ptpIn_fits h hway hfits _).trans ((underProfile_own he2e _).trans (if_pos hmaster))))

theorem pdelayReq_noted (hsent : m.sent = false) (hfits : (s.eth n).malformed m 2 = false) : exec (.pdelayReq n m) s = .next s :=
  congrArg Host.Outcome.next ((if_neg (by simp [hsent])).trans (ptpIn_fits h hway hfits _))

end

theorem State.ptpMaster_of (h : s.HasPtp n) (hstate : (s.eth n).ptpState = 4) (hslave : s.slaveOnly n = false) :
    s.ptpMaster n = true := by
  simp [State.ptpMaster, h.up, h.enabled, hstate, hslave]

/-! ### Announces (R368, R369, R372) -/

/-- The state that an Announce leaves a port in: what the algorithm made of it, but no slave-only port becomes master. -/
def State.elected (s : State) (n : Fin 4) (st : Fin 7) : Fin 7 :=
  if s.slaveOnly n ∧ st = 4 then (if (s.eth n).ptpState = 4 then 1 else (s.eth n).ptpState) else st

/-- The port that has taken the sender of an Announce as its parent. -/
def Eth.adopt (e : Eth) (m : PtpMsg) (parent : Bool) : Eth :=
  if parent then { e with parent := m.gmId, parentSrc := m.source } else e

/-- An Announce by which the port does not leave SLAVE. -/
theorem announced_spec {st : Fin 7} {parent : Bool} (hkeep : (s.eth n).ptpState = 3 → s.elected n st = 3) :
    (announced n m st parent s).eth n = { (s.eth n).adopt m parent with ptpState := s.elected n st } ∧
      EthStep n s (announced n m st parent s) := by
  let a := if parent then s.onEth n fun x => { x with parent := m.gmId, parentSrc := m.source } else s
  let c := raiseIf (parent && (s.eth n).parent != m.gmId) 0x3005 [v8 n.val, v64 m.gmId.toNat] a
  have ha : a.eth n = (s.eth n).adopt m parent ∧ EthStep n s a := by
    cases parent
    · exact ⟨rfl, EthStep.refl ..⟩
    · exact ⟨State.onEth_eth_self .., State.onEth_ethStep ..⟩
  have hann : announced n m st parent s = setPtp n (s.elected n st) c :=
    if_neg fun hloses => hloses.2 (hkeep hloses.1)
  rw [hann, setPtp_eth, raiseIf_eth, ha.1]
  exact ⟨rfl, (ha.2.trans (raiseIf_ethStep ..)).trans (setPtp_ethStep ..)⟩

/-! ### Timers (R368, R369, R372, R375) -/

/-- A timebase that takes the port loses it, and the others stay as they are (R372). -/
theorem ptpLost_takers (n : Fin 4) (cause : Nat) (s : State) (u : Fin 4) :
    let t := ptpLost n cause s
    let uses := (s.tb u).source = 1 ∧ (s.tb u).index = n.val ∧ (s.tb u).sourceValid = true
    (uses → (t.tb u).sourceValid = false ∧
      ((s.tb u).state = .locked ∨ (s.tb u).state = .syntonised → (t.tb u).lostDue = some 1)) ∧
    (¬ uses → t.tb u = s.tb u) := by
  intro t uses
  have htb := ptpLost_tb n cause s u
  refine ⟨fun h => ?_, fun h => htb.trans (if_neg (mt Timebase.takesPort_iff.1 h))⟩
  have hlost : t.tb u = (s.tb u).lose := htb.trans (if_pos (Timebase.takesPort_iff.2 h))
  rw [hlost]
  exact ⟨rfl, fun hlocked => (if_pos hlocked).trans (congrArg some h.1)⟩

/-- The loss of PTP leaves a port's part in it as it was (R369). -/
theorem ptpLost_slaveOnly (n : Fin 4) (cause : Nat) (s : State) : (ptpLost n cause s).slaveOnly n = s.slaveOnly n := by
  simp only [State.slaveOnly, ptpLost_eth, ptpLost_tb]
  split <;> rfl

theorem announceTimeout_slave (hstate : (s.eth n).ptpState = 3) (hslave : s.slaveOnly n = true) :
    exec (.announceReceiptTimeout n) s = .next (setPtp n 1 (ptpLost n 3 s)) := by
  have hafter : ((ptpLost n 3 s).eth n).ptpState = 3 := by rw [ptpLost_eth, hstate]
  refine congrArg Host.Outcome.next ((if_pos (.inr (.inl hafter))).trans ?_)
  rw [ptpLost_slaveOnly, hslave, if_pos rfl]

theorem syncInterval_room {time : TbTime} (hmaster : s.ptpMaster n = true) (hroom : (s.eth n).txts.length < 64) :
    exec (.syncInterval n time) s = .next (s.onEth n fun x => { x with
      sent := ((s.eth n).ptpFrame 8 (s.eth n).seqId 0 :: ((s.eth n).ptpFrame 0 (s.eth n).seqId 0 :: x.sent).take 64).take 64,
      seqId := x.seqId + 1, txts := x.txts ++ [⟨0, x.cfg.ptpDomain, x.seqId, time⟩] }) := by
  have hqueue := fun stamp : TxTs => queueTs_room (n := n) (s := ptpSend n 0 (s.eth n).seqId 0 s) stamp
    (by rwa [ptpSend_eq, netOut, State.onEth_eth_self])
  refine congrArg Host.Outcome.next ((if_pos hmaster).trans ?_)
  dsimp only
  rw [hqueue]
  simp only [if_true, ptpSend_eq, netOut, State.onEth_onEth, State.onEth_eth_self]
  exact State.onEth_congr rfl

/-- A Sync whose timestamp finds no place is not followed up (R375). -/
theorem syncInterval_full {time : TbTime} (hmaster : s.ptpMaster n = true) (hfull : 64 ≤ (s.eth n).txts.length) :
    ∃ t, exec (.syncInterval n time) s = .next t ∧ t.eth n = { s.eth n with
      sent := ((s.eth n).ptpFrame 0 (s.eth n).seqId 0 :: (s.eth n).sent).take 64, seqId := (s.eth n).seqId + 1,
      txtsDrops := satInc32 (s.eth n).txtsDrops, txtsRun := true, flags := setFlag (s.eth n).flags 1 } ∧ EthStep n s t := by
  have hqueue := fun stamp : TxTs => queueTs_full (n := n) (s := ptpSend n 0 (s.eth n).seqId 0 s) stamp
    (by rwa [ptpSend_eq, netOut, State.onEth_eth_self])
  refine ⟨_, congrArg Host.Outcome.next (if_pos hmaster), ?_⟩
  dsimp only
  obtain ⟨hkept, heth, hstep⟩ := hqueue ⟨0, (s.eth n).cfg.ptpDomain, (s.eth n).seqId, time⟩
  rw [hkept, if_neg Bool.false_ne_true, State.onEth_eth_self, heth, ptpSend_eq, netOut, State.onEth_eth_self]
  exact ⟨rfl, ((State.onEth_ethStep ..).trans hstep).trans (State.onEth_ethStep ..)⟩

theorem announceInterval_sends (hmaster : s.ptpMaster n = true) :
    exec (.announceInterval n) s = .next (s.onEth n fun x => { x with
      seqId := x.seqId + 1, sent := ((s.eth n).ptpFrame 0xB (s.eth n).seqId (s.clockClassOf n) :: x.sent).take 64 }) :=
  congrArg Host.Outcome.next ((if_pos hmaster).trans (State.onEth_onEth ..))

theorem intervals_of_other (hstate : (s.eth n).ptpState ≠ 4) (time : TbTime) :
    exec (.syncInterval n time) s = .next s ∧ exec (.announceInterval n) s = .next s := by
  have hmaster : ¬ s.ptpMaster n = true := by simp [State.ptpMaster, hstate]
  exact ⟨congrArg Host.Outcome.next (if_neg hmaster), congrArg Host.Outcome.next (if_neg hmaster)⟩

theorem State.clockClassOf_eq (s : State) (n : Fin 4) : s.clockClassOf n =
    if s.tbState (s.eth n).cfg.ptpTb = .holdover ∨ s.tbState (s.eth n).cfg.ptpTb = .refused then (s.eth n).holdClass
    else (s.eth n).clockClass := by
  unfold State.clockClassOf
  dsimp only
  cases s.tbState (s.eth n).cfg.ptpTb <;> rfl

end Sys2Proof.Machine

open Sys2Proof Sys2Proof.Machine

/-- The messages: each is a lemma above, after what every incoming message has in common (`PtpArrives`). The formulas of offset and
delay, and the effect of a message in another transport or of another delay mechanism, are the model's reading of IEEE 1588 (79 and
218 of its notes). -/
theorem ptpMessages : Claim.PtpMessages := by
  intro s n m e u fits parent gain p2p frame stamp delays hup hen
  have h : s.HasPtp n := ⟨hup, hen⟩
  have hp2p : p2p → (s.eth n).peerToPeer = true := fun hp => decide_eq_true hp
  have he2e : ¬p2p → (s.eth n).peerToPeer = false := fun hp => decide_eq_false hp
  refine ⟨fun hway hsent q hq => ?_, fun hway => ⟨fun hfits hparent hone => ?_, fun hfits hparent htwo => ?_,
    fun t2 c hfits hparent hwait => ?_, fun q hq => ?_, fun hsent hroom hp => ?_, fun hsent hroom hp => ⟨?_, ?_⟩,
    fun hsent hfits hp hstate hslave => ?_, fun hsent hfits => ?_, fun t3 t1 t2 hfits hp hwait hsync => ?_,
    fun t1 hsent hfits hp hwait => ?_, fun t1 t2 t4 c hfits hp hwait hresp => ?_, fun st hfits hst hkeep => ?_,
    fun b hfits hslave => ?_⟩⟩
  · have harrives : ∃ type, PtpArrives n m type q := by
      rcases hq with rfl | rfl | rfl | rfl | rfl | rfl | rfl | ⟨st, b, rfl⟩
      exacts [⟨_, arrives_sync⟩, ⟨_, arrives_followUp⟩, ⟨_, arrives_delayReq hsent⟩, ⟨_, arrives_delayResp⟩,
        ⟨_, arrives_pdelayReq hsent⟩, ⟨_, arrives_pdelayResp hsent⟩, ⟨_, arrives_pdelayRespFollowUp⟩, ⟨_, arrives_announce st b⟩]
    obtain ⟨type, f, hf⟩ := harrives
    exact (hf s).trans (congrArg Host.Outcome.next (ptpIn_otherTransport h hway type f))
  · exact sync_oneStep h hway hfits (Eth.listens_iff.2 hparent) hone
  · exact sync_twoStep h hway hfits (Eth.listens_iff.2 hparent) htwo
  · exact followUp_completes h hway hfits (Eth.listens_iff.2 hparent) hwait
  · have harrives : ∃ type, PtpArrives n m type q ∧ ¬ fits type := by
      rcases hq with ⟨rfl, hbad⟩ | ⟨rfl, hbad⟩ | ⟨rfl, hbad⟩ | ⟨rfl, hbad⟩ | ⟨⟨st, b, rfl⟩, hbad⟩ |
        ⟨hsent, ⟨rfl, hbad⟩ | ⟨rfl, hbad⟩ | ⟨rfl, hbad⟩⟩
      exacts [⟨_, arrives_sync, hbad⟩, ⟨_, arrives_followUp, hbad⟩, ⟨_, arrives_delayResp, hbad⟩,
        ⟨_, arrives_pdelayRespFollowUp, hbad⟩, ⟨_, arrives_announce st b, hbad⟩, ⟨_, arrives_delayReq hsent, hbad⟩,
        ⟨_, arrives_pdelayReq hsent, hbad⟩, ⟨_, arrives_pdelayResp hsent, hbad⟩]
    obtain ⟨type, ⟨f, hf⟩, hbad⟩ := harrives
    obtain ⟨⟨malAt, heth⟩, -, -, hrest⟩ := ptpBad_spec n m s
    refine ⟨_, (hf s).trans (congrArg Host.Outcome.next (ptpIn_malformed h hway (Bool.eq_true_of_not_eq_false hbad) f)), ?_⟩
    rw [heth]
    exact ⟨rfl, rfl, rfl, hrest⟩
  · exact delayReq_sent h hsent hroom (he2e hp)
  · exact pdelayReq_sent h hsent hroom (hp2p hp)
  · exact pdelayResp_sent h hsent hroom (hp2p hp)
  · exact delayReq_answered h hway hsent hfits (he2e hp) (State.ptpMaster_of h hstate hslave)
  · exact pdelayReq_noted h hway hsent hfits
  · exact delayResp_measures h hway hfits (he2e hp) hwait hsync
  · exact pdelayResp_measures h hway hsent hfits (hp2p hp) hwait
  · exact pdelayRespFollowUp_measures h hway hfits (hp2p hp) hwait hresp
  · have helected : s.elected n st = st := if_neg fun hmaster => hst hmaster.2
    obtain ⟨heth, hother, -, hrest⟩ := announced_spec (m := m) (parent := true) (helected ▸ hkeep)
    refine ⟨_, congrArg Host.Outcome.next (ptpIn_fits h hway hfits _), ?_, hother, hrest⟩
    rw [heth, helected]
    rfl
  · have helected : s.elected n 4 = if e.ptpState = 4 then 1 else e.ptpState := if_pos ⟨hslave, rfl⟩
    have hkeep : e.ptpState = 3 → s.elected n 4 = 3 := fun hstate => by rw [helected, hstate]; decide
    have hstate : ((announced n m 4 b s).eth n).ptpState = if e.ptpState = 4 then 1 else e.ptpState :=
      (congrArg Eth.ptpState (announced_spec hkeep).1).trans helected
    refine ⟨_, congrArg Host.Outcome.next (ptpIn_fits h hway hfits _), ?_, fun hother => hstate.trans (if_neg hother)⟩
    rw [hstate]
    split
    · decide
    · assumption

/-- The timers: a timebase that takes the port loses it (`ptpLost_takers`), and a master sends at its intervals. That a slave-only
port listens after an announce timeout is the model's reading of IEEE 1588 (79 of its notes). -/
theorem ptpTimers : Claim.PtpTimers := by
  intro s n time e uses lost
  refine ⟨⟨_, rfl, ptpLost_takers n 2 s, ptpLost_rest n 2 s⟩, fun hstate hslave => ?_, fun hup hen hstate hslave => ?_,
    fun hstate => intervals_of_other hstate time⟩
  · have hlisten := setPtp_ethStep n 1 (ptpLost n 3 s)
    obtain ⟨hother, -, hrest⟩ := (ptpLost_ethClockStep n 3 s).trans hlisten.withClocks
    refine ⟨_, announceTimeout_slave hstate hslave, fun u => ?_, ?_, hother, ?_⟩
    · rw [hlisten.tb]
      exact ptpLost_takers n 3 s u
    · rw [setPtp_eth, ptpLost_eth]
    · generalize setPtp n 1 _ = t at hrest ⊢
      rw [hrest]
  · have hmaster := State.ptpMaster_of ⟨hup, hen⟩ hstate hslave
    refine ⟨fun hroom => syncInterval_room hmaster hroom, fun hfull => ?_, ?_⟩
    · obtain ⟨t, hexec, heth, -, -, hrest⟩ := syncInterval_full hmaster hfull
      exact ⟨t, hexec, heth, hrest⟩
    · refine (announceInterval_sends hmaster).trans ?_
      rw [State.clockClassOf_eq]
      rfl

/-- Settles O40, by its two claims: on the messages and on the timers. -/
theorem ptpTimeAtPorts : Obligations.PtpTime := ⟨ptpMessages, ptpTimers⟩

end

section
/-! Datagrams that arrive (R353, R354, R362, R376 to R380, R502). -/

namespace Sys2Proof.Machine

variable {n : Fin 4} {u : Fin 256} {k : RtpPkt} {r : RxRec} {s : State}

/-! ### Which frames a port takes in, and which streams they are for -/

theorem Eth.takesFrame_false (e : Eth) (k : RtpPkt) : e.takesFrame k = false ↔
    (frameBytes k > (if e.cfg.jumbo then 9216 else if k.tagged then 1522 else 1518) ∨ k.fragment = true ∨ k.options ≠ 0 ∨
      k.ipSumOk = false ∨ k.udpSumOk = false) := by
  simp only [Eth.takesFrame, Bool.and_eq_false_iff, decide_eq_false_iff_not, Nat.not_le, Bool.not_eq_false', beq_eq_false_iff_ne,
    or_assoc, gt_iff_lt]

/-- The enabled legs at a port that a datagram is a candidate for (R376). -/
def State.candidates (s : State) (n : Fin 4) (k : RtpPkt) : List (Fin 256 × Bool × RxLeg) :=
  (s.legsOn n).filter fun q => ((s.srx q.1).cfg.map fun r => legTakes r q.2.2 k).getD false

/-- The streams that take a datagram, each on its first leg. -/
def State.takers (s : State) (n : Fin 4) (k : RtpPkt) : List (Fin 256 × Bool × RxRec) :=
  (List.finRange 256).filterMap fun u =>
    ((s.candidates n k).find? fun q => q.1 == u).bind fun q => (s.srx u).cfg.map fun r => (u, q.2.1, r)

theorem rtpArrives_taken (hup : (s.eth n).linkUp = true) (htakes : (s.eth n).takesFrame k = true) : rtpArrives n k s =
    if !s.inRun || (s.takers n k).isEmpty then discard n s
    else each (s.takers n k) (fun q s => streamPacket q.1 q.2.1 q.2.2 k s) s := by
  refine (if_neg (by simp [hup])).trans ((if_neg (by simp [htakes])).trans ?_)
  have htakers : s.takers n k = (List.finRange 256).filterMap fun u =>
      ((s.legsOn n).find? (fun q => q.1 == u && (((s.srx u).cfg.map (fun r => legTakes r q.2.2 k)).getD false))).bind
        (fun q => (s.srx u).cfg.map (fun r => (u, q.2.1, r))) := by
    refine List.filterMap_congr fun u _ => ?_
    rw [State.candidates, List.find?_filter]
    refine congrArg (fun p => Option.bind (List.find? p (s.legsOn n)) _) (funext fun q => ?_)
    by_cases hq : q.1 = u
    · simp [hq]
    · simp [hq]
  rw [htakers]

theorem rtpArrives_discarded (hup : (s.eth n).linkUp = true) (htakes : (s.eth n).takesFrame k = false) :
    rtpArrives n k s = discard n s :=
  (if_neg (by simp [hup])).trans (if_pos (by simp [htakes]))

/-- A datagram that concerns no stream, or comes outside RUN, is discarded. -/
theorem rtpArrives_noStream (hup : (s.eth n).linkUp = true) (hnone : s.candidates n k = [] ∨ s.power.state ≠ 4) :
    rtpArrives n k s = discard n s := by
  cases htakes : (s.eth n).takesFrame k with
  | false => exact rtpArrives_discarded hup htakes
  | true =>
    rw [rtpArrives_taken hup htakes]
    refine if_pos ?_
    rcases hnone with hnone | hrun
    · simp [State.takers, hnone]
    · simp [State.inRun, hrun]

/-- What a list without repetition gives through a function that is defined at one of its members alone. -/
theorem filterMap_of_one {α β : Type} {f : α → Option β} {l : List α} {a : α} {b : β} (hl : l.Nodup) (ha : a ∈ l)
    (hf : f a = some b) (hnone : ∀ c, c ≠ a → f c = none) : l.filterMap f = [b] := by
  obtain ⟨xs, ys, rfl⟩ := List.append_of_mem ha
  obtain ⟨hxs, hys⟩ : a ∉ xs ∧ a ∉ ys := by
    simp only [List.nodup_append, List.nodup_cons] at hl
    exact ⟨fun h => hl.2.2 a h a List.mem_cons_self rfl, hl.2.1.1⟩
  have hnil : ∀ zs : List α, a ∉ zs → zs.filterMap f = [] := fun zs hzs =>
    List.filterMap_eq_nil_iff.2 fun c hc => hnone c fun h => hzs (h ▸ hc)
  rw [List.filterMap_append, hnil xs hxs, List.filterMap_cons_some hf, hnil ys hys, List.nil_append]

theorem takers_one {b : Bool} {l : RxLeg} (hone : s.candidates n k = [(u, b, l)]) (hcfg : (s.srx u).cfg = some r) :
    s.takers n k = [(u, b, r)] := by
  refine filterMap_of_one (List.nodup_finRange 256) (List.mem_finRange u) ?_ fun v hv => ?_
  · simp [hone, hcfg]
  · simp [hone, Ne.symm hv]

/-- A datagram that is a candidate for one stream, in RUN, goes to that stream. -/
theorem rtpPacket_one {b : Bool} {l : RxLeg} (hup : (s.eth n).linkUp = true) (htakes : (s.eth n).takesFrame k = true)
    (hone : s.candidates n k = [(u, b, l)]) (hrun : s.power.state = 4) (hcfg : (s.srx u).cfg = some r) :
    exec (.rtpPacket n k) s = .next (streamPacket u b r k s) := by
  refine congrArg Host.Outcome.next ((rtpArrives_taken hup htakes).trans ?_)
  rw [takers_one hone hcfg]
  exact if_neg (by simp [State.inRun, hrun])

/-! ### A leg comes up (R380) -/

/-- A stream after a datagram at its first leg: it is up. -/
def Srx.firstUp (x : Srx) : Srx := { x with legA := true, state := if x.legA then x.state else 2 }

theorem legUp_srx (u : Fin 256) (s : State) : (legUp u false s).srx u = (s.srx u).firstUp := by
  cases hleg : (s.srx u).legA with
  | true =>
    rw [legUp, if_pos (show (s.srx u).legUp false = true from hleg), Srx.firstUp, if_pos hleg, ← hleg]
  | false =>
    have hset : (raise 0x300B [v16 u.val, v8 (b2n false)] (setLeg u false true s)).srx u = { s.srx u with legA := true } :=
      (raise_srx ..).trans (State.onSrx_srx_self ..)
    rw [legUp, if_neg (show ¬ (s.srx u).legUp false = true by simp [Srx.legUp, hleg]), Srx.firstUp, hleg]
    dsimp only
    rw [hset]
    split
    · next hstate => rw [hset, if_neg Bool.false_ne_true, ← hstate]
    · rw [raise_srx, State.onSrx_srx_self, hset, if_neg Bool.false_ne_true]

theorem legUp_streamStep (u : Fin 256) (b : Bool) (s : State) : StreamStep (· = u) s (legUp u b s) := by
  unfold legUp
  dsimp only
  split
  · exact StreamStep.refl ..
  · have hleg := (State.onSrx_streamStep s u _).trans
      (raise_streamStep (· = u) 0x300B [v16 u.val, v8 (b2n b)] (setLeg u b true s))
    split
    · exact hleg
    · exact hleg.trans ((State.onSrx_streamStep ..).trans (raise_streamStep ..))

/-! ### A datagram at a leg of a stream (R376 to R378) -/

/-- The media index of a packet's first sample (R367). -/
def State.firstIndex (s : State) (r : RxRec) (k : RtpPkt) : Nat :=
  nearestIndex (s.mediaIndex r.domain k.sinceNs) (k.ts - r.tsOffset).toNat

theorem streamPacket_malformed (b : Bool) (h : r.malformed k (s.firstIndex r k) = true) :
    (streamPacket u b r k s).srx u = { s.srx u with malformed := satInc32 (s.srx u).malformed, malRaised := true } ∧
      StreamStep (· = u) s (streamPacket u b r k s) := by
  have hpacket : streamPacket u b r k s = _ := if_pos h
  rw [hpacket]
  exact ⟨(raiseIf_srx ..).trans (State.onSrx_srx_self ..), (State.onSrx_streamStep ..).trans (raiseIf_streamStep ..)⟩

/-- A packet whose sequence number is marked has come before (R377). -/
theorem Srx.sequence_marked {x : Srx} {q : BitVec 16} (hnewest : x.newest = some q) (hmarked : q ∈ x.marked) :
    x.sequence q = none := by
  simp [Srx.sequence, hnewest, hmarked]

theorem Srx.sequence_first {x : Srx} (hnewest : x.newest = none) (q : BitVec 16) :
    x.sequence q = some { x with newest := some q, marked := [q] } := by
  simp [Srx.sequence, hnewest]

theorem streamPacket_copy (hfits : r.malformed k (s.firstIndex r k) = false) (hcopy : (s.srx u).sequence k.seq = none) :
    (streamPacket u false r k s).srx u = { s.srx u with dups := satInc32 (s.srx u).dups }.firstUp ∧
      StreamStep (· = u) s (streamPacket u false r k s) := by
  have hpacket : streamPacket u false r k s = legUp u false (s.onSrx u fun x => { x with dups := satInc32 x.dups }) := by
    refine (if_neg (by rw [← State.firstIndex, hfits]; decide)).trans ?_
    rw [hcopy]
  rw [hpacket, legUp_srx, State.onSrx_srx_self]
  exact ⟨rfl, (State.onSrx_streamStep ..).trans (legUp_streamStep ..)⟩

theorem streamPacket_new {x : Srx} (hfits : r.malformed k (s.firstIndex r k) = false)
    (hnew : (s.srx u).sequence k.seq = some x) : streamPacket u false r k s =
      legUp u false (writeSamples u r (s.firstIndex r k) k.sinceNs (r.samplesOf ((rtpData k).getD []))
        (s.onSrx u fun _ => { x with packets := satInc32 x.packets })) := by
  refine (if_neg (by rw [← State.firstIndex, hfits]; decide)).trans ?_
  rw [hnew]
  rfl

/-! ### The samples of a packet (R378) -/

/-- The samples of a packet with their media indices in the stream's buffer. -/
def RxRec.placed (r : RxRec) (r0 : Nat) (ws : List (List Word)) : List (Nat × List Word) :=
  ws.zipIdx.map fun q => (r0 + r.rxDelay + q.2, q.1)

theorem RxRec.mem_placed {r : RxRec} {r0 : Nat} {ws : List (List Word)} {p : Nat × List Word} :
    p ∈ r.placed r0 ws ↔ ∃ i, ws[i]? = some p.2 ∧ p.1 = r0 + r.rxDelay + i := by
  simp only [RxRec.placed, List.mem_map, List.mem_zipIdx_iff_getElem?]
  constructor
  · rintro ⟨⟨w, i⟩, hw, rfl⟩
    exact ⟨i, hw, rfl⟩
  · rintro ⟨i, hw, hp⟩
    exact ⟨(p.2, i), hw, Prod.ext hp.symm rfl⟩

/-- The last media index that a packet may write: a later one is early. -/
def State.lastIndex (s : State) (r : RxRec) (since : Nat) : Nat :=
  s.mediaIndex r.domain since + r.rxDelay + 2 * r.samples + 16

/-- What the samples of a packet leave in the stream. -/
theorem writeSamples_srx (u : Fin 256) (r : RxRec) (r0 since : Nat) (ws : List (List Word)) (s : State) :
    ∃ margin, (writeSamples u r r0 since ws s).srx u = { s.srx u with
      late := if (r.placed r0 ws).any (fun q => s.sourceClosed r.domain q.1) then satInc32 (s.srx u).late else (s.srx u).late
      early := if (r.placed r0 ws).any (fun q => s.lastIndex r since < q.1) then satInc32 (s.srx u).early else (s.srx u).early
      margin := margin
      buf := (r.placed r0 ws).filter (fun q => !s.sourceClosed r.domain q.1 && decide (q.1 ≤ s.lastIndex r since)) ++
        (s.srx u).buf } :=
  ⟨_, State.onSrx_srx_self ..⟩

theorem RxRec.length_samplesOf (r : RxRec) (payload : List Byte) : (r.samplesOf payload).length = r.samples := by
  simp [RxRec.samplesOf]

/-- No sample of a packet has a property that none of its indices has. -/
theorem RxRec.any_placed_false {r : RxRec} {r0 : Nat} (payload : List Byte) {p : Nat → Bool}
    (h : ∀ i, i < r.samples → p (r0 + r.rxDelay + i) = false) :
    (r.placed r0 (r.samplesOf payload)).any (fun q => p q.1) = false := by
  refine List.any_eq_false.2 fun q hq => ?_
  obtain ⟨i, hi, hq⟩ := RxRec.mem_placed.1 hq
  obtain ⟨hlt, -⟩ := List.getElem?_eq_some_iff.1 hi
  rw [hq, h i (r.length_samplesOf payload ▸ hlt)]
  decide

/-- The first packet of a stream (R377, R378, R380): its samples join the buffer unless late or early. -/
theorem streamPacket_first (hfits : r.malformed k (s.firstIndex r k) = false) (hnewest : (s.srx u).newest = none) :
    let ws := r.placed (s.firstIndex r k) (r.samplesOf ((rtpData k).getD []))
    let last := s.lastIndex r k.sinceNs
    StreamStep (· = u) s (streamPacket u false r k s) ∧ ∃ margin, (streamPacket u false r k s).srx u = { s.srx u with
      packets := satInc32 (s.srx u).packets, newest := some k.seq, marked := [k.seq], legA := true
      state := if (s.srx u).legA then (s.srx u).state else 2
      late := if ws.any (fun q => s.sourceClosed r.domain q.1) then satInc32 (s.srx u).late else (s.srx u).late
      early := if ws.any (fun q => last < q.1) then satInc32 (s.srx u).early else (s.srx u).early
      margin := margin
      buf := ws.filter (fun q => !s.sourceClosed r.domain q.1 && decide (q.1 ≤ last)) ++ (s.srx u).buf } := by
  intro ws last
  have hpacket := streamPacket_new hfits (Srx.sequence_first hnewest k.seq)
  obtain ⟨margin, hwrite⟩ := writeSamples_srx u r (s.firstIndex r k) k.sinceNs (r.samplesOf ((rtpData k).getD []))
    (s.onSrx u fun _ => { s.srx u with newest := some k.seq, marked := [k.seq], packets := satInc32 (s.srx u).packets })
  rw [State.onSrx_srx_self] at hwrite
  rw [hpacket, legUp_srx, hwrite]
  exact ⟨((State.onSrx_streamStep ..).trans (State.onSrx_streamStep ..)).trans (legUp_streamStep ..), margin, rfl⟩

end Sys2Proof.Machine

open Sys2Proof Sys2Proof.Machine

/-- A datagram for one stream: malformed (`streamPacket_malformed`), a second copy (`streamPacket_copy`) or new
(`streamPacket_first`). That a frame's length counts its FCS, and the media index of a packet's arrival, are the model's choices
(222 and 83 of its notes). -/
theorem streamDatagrams : Claim.StreamDatagrams := by
  intro s n k u r l x hits r0 limit others hup
  refine ⟨Eth.takesFrame_false _ k, fun htakes => congrArg Host.Outcome.next (rtpArrives_discarded hup htakes),
    fun hnone => congrArg Host.Outcome.next (rtpArrives_noStream hup hnone), fun htakes hone hrun hcfg =>
      ⟨fun hbad => ?_, fun hfits hnewest hmarked => ?_, fun hfits hnewest => ?_⟩⟩
  all_goals refine ⟨_, rtpPacket_one hup htakes hone hrun hcfg, ?_⟩
  · exact streamPacket_malformed false hbad
  · obtain ⟨hstream, hstep⟩ := streamPacket_copy (u := u) hfits (Srx.sequence_marked hnewest hmarked)
    rw [hstream]
    exact ⟨rfl, rfl, rfl, rfl, fun hdown => if_neg (by simp [show (s.srx u).legA = false from hdown]), hstep⟩
  · obtain ⟨hstep, margin, hstream⟩ := streamPacket_first (u := u) hfits hnewest
    rw [hstream]
    refine ⟨rfl, rfl, rfl, rfl, fun hdown => if_neg (by simp [show (s.srx u).legA = false from hdown]),
      fun data hdata i hi ws hws hopen hlast => List.mem_append_left _ (List.mem_filter.2 ⟨?_, ?_⟩),
      fun hall => ⟨?_, ?_⟩, hstep⟩
    · rw [hdata]
      exact RxRec.mem_placed.2 ⟨i, hws, rfl⟩
    · exact Bool.and_eq_true_iff.2 ⟨congrArg not hopen, decide_eq_true hlast⟩
    · exact if_neg (ne_true_of_eq_false (RxRec.any_placed_false (p := s.sourceClosed r.domain) _ fun i hi => (hall i hi).1))
    · exact if_neg (ne_true_of_eq_false (RxRec.any_placed_false (p := fun j => decide (s.lastIndex r k.sinceNs < j)) _ fun i hi =>
        decide_eq_false (Nat.not_lt.2 (hall i hi).2)))

end

section
/-! The headers of a stream's packets (R355, R362): their lengths, their fields, and the ones' complement sums over them. -/

namespace Sys2Proof.Machine

/-! ### Sums in ones' complement -/

/-- What a byte adds to the sum of 16-bit words at its place. -/
def byteWeight (p : Byte × Nat) : Nat := if p.2 % 2 = 0 then p.1.toNat * 256 else p.1.toNat

/-- The sum of the 16-bit words of a byte string, without carries. -/
def wordSum (bs : List Byte) : Nat := (bs.zipIdx.map byteWeight).sum

/-- Addition with end-around carry. -/
def endAround (a v : Nat) : Nat := (a + v) % 65536 + (a + v) / 65536

theorem onesSum_eq_foldl (bs : List Byte) : onesSum bs = (bs.zipIdx.map byteWeight).foldl endAround 0 := by
  rw [List.foldl_map]
  rfl

theorem byteWeight_lt (p : Byte × Nat) : byteWeight p < 65536 := by
  have := p.1.isLt
  unfold byteWeight
  split <;> omega

/-- End-around carries keep a sum modulo 65535, within 16 bits, and from zero once it is not. -/
theorem foldl_endAround {vs : List Nat} (hvs : ∀ v ∈ vs, v < 65536) {a : Nat} (ha : a < 65536) :
    let t := vs.foldl endAround a
    t < 65536 ∧ t % 65535 = (a + vs.sum) % 65535 ∧ (0 < a + vs.sum → 0 < t) := by
  induction vs generalizing a with
  | nil => exact ⟨ha, rfl, id⟩
  | cons v vs ih =>
    obtain ⟨hv, hvs⟩ := List.forall_mem_cons.1 hvs
    obtain ⟨hlt, hmod, hpos⟩ := ih hvs (a := endAround a v) (by unfold endAround; omega)
    rw [List.foldl_cons, List.sum_cons]
    refine ⟨hlt, hmod.trans ?_, fun h => hpos ?_⟩
    · unfold endAround; omega
    · unfold endAround; omega

theorem onesSum_spec (bs : List Byte) :
    onesSum bs < 65536 ∧ onesSum bs % 65535 = wordSum bs % 65535 ∧ (0 < wordSum bs → 0 < onesSum bs) := by
  have hweights : ∀ v ∈ bs.zipIdx.map byteWeight, v < 65536 := fun v hv => by
    obtain ⟨p, -, rfl⟩ := List.mem_map.1 hv
    exact byteWeight_lt p
  have h := foldl_endAround hweights (a := 0) (by decide)
  simp only [Nat.zero_add] at h
  rwa [onesSum_eq_foldl]

/-- A sum that is a multiple of 65535 and not 0 shows as all ones. -/
theorem onesSum_full {bs : List Byte} (hmod : wordSum bs % 65535 = 0) (hpos : 0 < wordSum bs) : onesSum bs = 65535 := by
  obtain ⟨hlt, hsum, hne⟩ := onesSum_spec bs
  have := hne hpos
  omega

/-- A checksum fills the sum up to a multiple of 65535. -/
theorem checksum_fills (bs : List Byte) : checksum bs < 65536 ∧ (wordSum bs + checksum bs) % 65535 = 0 := by
  obtain ⟨hlt, hsum, -⟩ := onesSum_spec bs
  unfold checksum
  omega

theorem byteWeight_shift (b : Byte) (i : Nat) {k : Nat} (hk : k % 2 = 0) : byteWeight (b, k + i) = byteWeight (b, i) := by
  have hi : (k + i) % 2 = i % 2 := by omega
  simp only [byteWeight, hi]

theorem wordSum_append {xs : List Byte} (h : xs.length % 2 = 0) (ys : List Byte) :
    wordSum (xs ++ ys) = wordSum xs + wordSum ys := by
  have hshift : (ys.zipIdx xs.length).map byteWeight = ys.zipIdx.map byteWeight := by
    rw [List.zipIdx_eq_map_add, List.map_map]
    exact List.map_congr_left fun p _ => byteWeight_shift p.1 p.2 h
  rw [wordSum, List.zipIdx_append, List.map_append, List.sum_append, Nat.zero_add, hshift]
  rfl

theorem wordSum_two (v : Nat) (h : v < 65536) : wordSum (beBytes 2 v) = v := by
  have hbytes : beBytes 2 v = [BitVec.ofNat 8 (v / 256), BitVec.ofNat 8 v] := rfl
  simp [hbytes, wordSum, byteWeight]
  omega

theorem wordSum_pos {bs : List Byte} {b : Byte} (h : b ∈ bs) (hb : b ≠ 0) : 0 < wordSum bs := by
  obtain ⟨i, hi⟩ := List.getElem?_of_mem h
  have hmem : byteWeight (b, i) ∈ bs.zipIdx.map byteWeight :=
    List.mem_map_of_mem (List.mem_zipIdx_iff_getElem?.2 hi)
  have hne : b.toNat ≠ 0 := fun h0 => hb (BitVec.eq_of_toNat_eq h0)
  have hpos : 0 < byteWeight (b, i) := by
    simp only [byteWeight]
    split <;> omega
  exact hpos.trans_le (List.le_sum_of_mem hmem)

theorem length_beBytes (n v : Nat) : (beBytes n v).length = n := by
  rw [beBytes, List.length_reverse, length_leBytes]

/-! ### The parts of the headers -/

/-- The tag of a port's frames. -/
def Eth.tag (e : Eth) : List Byte := if e.cfg.vlan then [0x81, 0x00] ++ beBytes 2 e.cfg.vlanTag.toNat else []

/-- The Ethernet header of a stream's packet. -/
def linkHeader (e : Eth) (l : TxLeg) : List Byte := l.destMac ++ e.cfg.mac ++ e.tag ++ [0x08, 0x00]

/-- The addresses of a packet, which end its IPv4 header and begin the pseudo-header of its UDP checksum. -/
def ipEnds (e : Eth) (l : TxLeg) : List Byte := beBytes 4 e.cfg.ip.toNat ++ beBytes 4 l.dest.toNat

/-- The IPv4 header of a datagram of n bytes, up to its checksum. -/
def ipStart (u : Fin 256) (r : TxRec) (legB : Bool) (p n : Nat) : List Byte :=
  [0x45, BitVec.ofNat 8 (r.dscp.toNat * 4)] ++ beBytes 2 (20 + n) ++ beBytes 2 (Config.ipId u.val p legB).toNat
    ++ [0x40, 0, r.ttl, 17]

/-- The UDP header of a datagram of n bytes, up to its checksum. -/
def udpStart (l : TxLeg) (n : Nat) : List Byte := beBytes 2 l.udpSrc.toNat ++ beBytes 2 l.udpDst.toNat ++ beBytes 2 n

/-- The RTP header of packet p. -/
def rtpHeader (u : Fin 256) (r : TxRec) (p : Nat) : List Byte :=
  [0x80, BitVec.ofNat 8 (r.pt.toNat + 128 * b2n (Config.rtpMarker u.val p))]
    ++ beBytes 2 (BitVec.ofNat 16 p + r.seqOffset).toNat ++ beBytes 4 (BitVec.ofNat 32 (r.firstStamp p) + r.tsOffset).toNat
    ++ beBytes 4 r.ssrc.toNat

/-- What the UDP checksum covers before the UDP header (R355). -/
def pseudoHeader (e : Eth) (l : TxLeg) (n : Nat) : List Byte := ipEnds e l ++ [0, 17] ++ beBytes 2 n

def ipHeader (e : Eth) (u : Fin 256) (r : TxRec) (l : Bool × TxLeg) (p n : Nat) : List Byte :=
  ipStart u r l.1 p n ++ beBytes 2 (checksum (ipStart u r l.1 p n ++ ipEnds e l.2)) ++ ipEnds e l.2

/-- The UDP checksum of a stream's packet: a zero goes out as 65535. -/
def udpSum (e : Eth) (u : Fin 256) (r : TxRec) (l : TxLeg) (p n : Nat) (payload : List Byte) : Nat :=
  let sum := checksum (pseudoHeader e l n ++ udpStart l n ++ [0, 0] ++ rtpHeader u r p ++ payload)
  if sum = 0 then 65535 else sum

/-- The UDP and RTP headers. -/
def segmentHeader (e : Eth) (u : Fin 256) (r : TxRec) (l : TxLeg) (p n : Nat) (payload : List Byte) : List Byte :=
  udpStart l n ++ beBytes 2 (udpSum e u r l p n payload) ++ rtpHeader u r p

theorem length_rtpHeader (u : Fin 256) (r : TxRec) (p : Nat) : (rtpHeader u r p).length = 12 := by
  simp [rtpHeader, length_beBytes]

theorem streamHeaders_eq (e : Eth) (u : Fin 256) (r : TxRec) (l : Bool × TxLeg) (p : Nat) (payload : List Byte) :
    let n := 20 + payload.length
    streamHeaders e u r l p payload =
      linkHeader e l.2 ++ (ipHeader e u r l p n ++ segmentHeader e u r l.2 p n payload) := by
  intro n
  have hn : 8 + (rtpHeader u r p).length + payload.length = n := by rw [length_rtpHeader]
  rw [← hn]
  simp only [streamHeaders, linkHeader, ipHeader, segmentHeader, udpSum, pseudoHeader, ipStart, ipEnds, udpStart, rtpHeader,
    Eth.tag, List.append_assoc]

/-! ### Lengths -/

theorem length_ipEnds (e : Eth) (l : TxLeg) : (ipEnds e l).length = 8 := by
  simp [ipEnds, length_beBytes]

theorem length_ipStart (u : Fin 256) (r : TxRec) (b : Bool) (p n : Nat) : (ipStart u r b p n).length = 10 := by
  simp [ipStart, length_beBytes]

theorem length_udpStart (l : TxLeg) (n : Nat) : (udpStart l n).length = 6 := by
  simp [udpStart, length_beBytes]

theorem length_ipHeader (e : Eth) (u : Fin 256) (r : TxRec) (l : Bool × TxLeg) (p n : Nat) :
    (ipHeader e u r l p n).length = 20 := by
  simp [ipHeader, length_ipStart, length_beBytes, length_ipEnds]

theorem length_segmentHeader (e : Eth) (u : Fin 256) (r : TxRec) (l : TxLeg) (p n : Nat) (payload : List Byte) :
    (segmentHeader e u r l p n payload).length = 20 := by
  simp [segmentHeader, length_udpStart, length_beBytes, length_rtpHeader]

theorem TxLeg.length_destMac {l : TxLeg} (h : l.mac.length = 6) : l.destMac.length = 6 := by
  unfold TxLeg.destMac
  split
  · simp [length_beBytes]
  · exact h

theorem length_linkHeader {e : Eth} {l : TxLeg} (he : e.cfg.mac.length = 6) (hl : l.mac.length = 6) :
    (linkHeader e l).length = if e.cfg.vlan then 18 else 14 := by
  simp only [linkHeader, Eth.tag, List.length_append, TxLeg.length_destMac hl, he]
  cases e.cfg.vlan <;> simp [length_beBytes]

/-- The address of a multicast group under RFC 1112, byte by byte. -/
theorem TxLeg.destMac_eq (l : TxLeg) : l.destMac = if isMcast l.dest then
    [0x01, 0x00, 0x5E, BitVec.ofNat 8 (l.dest.toNat / 65536 % 128), BitVec.ofNat 8 (l.dest.toNat / 256),
      BitVec.ofNat 8 l.dest.toNat]
    else l.mac := by
  have hbytes : ∀ v, beBytes 3 v = [BitVec.ofNat 8 (v / 256 / 256), BitVec.ofNat 8 (v / 256), BitVec.ofNat 8 v] := fun _ => rfl
  unfold TxLeg.destMac
  split
  · simp only [hbytes, List.cons_append, List.nil_append, List.cons.injEq, ← BitVec.toNat_inj, BitVec.toNat_ofNat, true_and,
      and_true]
    omega
  · rfl

/-! ### Checksums (R355) -/

/-- The sum over a byte string in which two bytes are such that its words sum to a multiple of 65535. -/
theorem onesSum_filled {xs ys : List Byte} {c : Nat} (hxs : xs.length % 2 = 0) (hc : c < 65536)
    (hmod : (wordSum xs + c + wordSum ys) % 65535 = 0) (hpos : 0 < wordSum xs) :
    onesSum (xs ++ beBytes 2 c ++ ys) = 65535 := by
  have hsum : wordSum (xs ++ beBytes 2 c ++ ys) = wordSum xs + c + wordSum ys := by
    rw [wordSum_append (by rw [List.length_append, length_beBytes]; omega), wordSum_append hxs, wordSum_two c hc]
  exact onesSum_full (hsum ▸ hmod) (by omega)

theorem onesSum_ipHeader (e : Eth) (u : Fin 256) (r : TxRec) (l : Bool × TxLeg) (p n : Nat) :
    onesSum (ipHeader e u r l p n) = 65535 := by
  have hlen : (ipStart u r l.1 p n).length % 2 = 0 := by rw [length_ipStart]
  obtain ⟨hlt, hfill⟩ := checksum_fills (ipStart u r l.1 p n ++ ipEnds e l.2)
  rw [wordSum_append hlen] at hfill
  exact onesSum_filled hlen hlt (by omega) (wordSum_pos (b := 0x45) List.mem_cons_self (by decide))

theorem udpSum_fills (e : Eth) (u : Fin 256) (r : TxRec) (l : TxLeg) (p n : Nat) (payload : List Byte) :
    udpSum e u r l p n payload < 65536 ∧
      (wordSum (pseudoHeader e l n ++ udpStart l n) + udpSum e u r l p n payload +
        wordSum (rtpHeader u r p ++ payload)) % 65535 = 0 := by
  have heven : (pseudoHeader e l n ++ udpStart l n).length % 2 = 0 := by
    simp [pseudoHeader, length_ipEnds, length_beBytes, length_udpStart]
  obtain ⟨hlt, hfill⟩ := checksum_fills (pseudoHeader e l n ++ udpStart l n ++ [0, 0] ++ rtpHeader u r p ++ payload)
  have hzero : wordSum [0, 0] = 0 := by decide
  rw [List.append_assoc, List.append_assoc, wordSum_append heven, wordSum_append (xs := [0, 0]) rfl, hzero] at hfill
  rw [List.append_assoc, List.append_assoc] at hlt
  unfold udpSum
  dsimp only
  rw [List.append_assoc, List.append_assoc]
  split <;> omega

/-- The UDP checksum covers the pseudo-header, the headers and the payload. -/
theorem onesSum_datagram (e : Eth) (u : Fin 256) (r : TxRec) (l : TxLeg) (p n : Nat) (payload : List Byte) :
    onesSum (pseudoHeader e l n ++ (segmentHeader e u r l p n payload ++ payload)) = 65535 := by
  obtain ⟨hlt, hfill⟩ := udpSum_fills e u r l p n payload
  have heven : (pseudoHeader e l n ++ udpStart l n).length % 2 = 0 := by
    simp [pseudoHeader, length_ipEnds, length_beBytes, length_udpStart]
  have hpos : 0 < wordSum (pseudoHeader e l n ++ udpStart l n) :=
    wordSum_pos (b := 17) (by simp [pseudoHeader]) (by decide)
  simpa only [segmentHeader, List.append_assoc] using onesSum_filled heven hlt hfill hpos

end Sys2Proof.Machine

open Sys2Proof Sys2Proof.Machine

/-- The headers, field by field, from their parts (`streamHeaders_eq`). -/
theorem streamHeadersCarry : Claim.StreamHeaders := by
  intro e u r l p payload he hl h link ip segment
  let n := 20 + payload.length
  have hlink : (linkHeader e l.2).length = link := length_linkHeader he hl
  have hipLen := length_ipHeader e u r l p n
  have hsegLen := length_segmentHeader e u r l.2 p n payload
  have hh : h = linkHeader e l.2 ++ (ipHeader e u r l p n ++ segmentHeader e u r l.2 p n payload) := streamHeaders_eq ..
  have hafterLink : h.drop link = ipHeader e u r l p n ++ segmentHeader e u r l.2 p n payload := by
    rw [hh, List.drop_left' hlink]
  have hafterIp : h.drop (link + 20) = segmentHeader e u r l.2 p n payload := by
    rw [← List.drop_drop, hafterLink, List.drop_left' hipLen]
  have hafterUdp : h.drop (link + 28) = rtpHeader u r p := by
    rw [← List.drop_drop (i := 8) (j := link + 20), hafterIp, segmentHeader]
    exact List.drop_left' (by rw [List.length_append, length_udpStart, length_beBytes])
  have hip : ip = ipHeader e u r l p n := by
    rw [show ip = (h.drop link).take 20 from rfl, hafterLink, List.take_left' hipLen]
  have hsegment : segment = segmentHeader e u r l.2 p n payload ++ payload := congrArg (· ++ payload) hafterIp
  have hdatagram : ip.drop 12 ++ [0, 17] ++ beBytes 2 segment.length ++ segment =
      pseudoHeader e l.2 n ++ (segmentHeader e u r l.2 p n payload ++ payload) := by
    have hends : ip.drop 12 = ipEnds e l.2 := by
      rw [hip, ipHeader]
      exact List.drop_left' (by rw [List.length_append, length_ipStart, length_beBytes])
    rw [hends, hsegment, List.length_append, hsegLen]
    rfl
  have hmacs : h = l.2.destMac ++ (e.cfg.mac ++ (e.tag ++ ([0x08, 0x00] ++
      (ipHeader e u r l p n ++ segmentHeader e u r l.2 p n payload)))) := by
    rw [hh, linkHeader]
    simp only [List.append_assoc]
  refine ⟨?_, ?_, ?_, ?_, ?_, ?_, ?_, ?_, ?_, ?_⟩
  · rw [hh, List.length_append, List.length_append, hlink, hipLen, hsegLen]
  · rw [hmacs, List.take_left' (TxLeg.length_destMac hl), TxLeg.destMac_eq]
  · rw [hmacs, List.drop_left' (TxLeg.length_destMac hl), List.take_left' he]
  · rw [hip]; rfl
  · rw [hip]; rfl
  · rw [hip]; rfl
  · rw [hip]; rfl
  · rw [hip, onesSum_ipHeader]
  · rw [hdatagram, onesSum_datagram]
  · rw [hafterUdp]; rfl

/-- Settles O41, by its two claims: on the datagrams that arrive and on the headers of those that leave. -/
theorem streamPackets : Obligations.StreamPackets := ⟨streamDatagrams, streamHeadersCarry⟩

end
